-- ==== Sys2Proof/Word.lean ====
section
/-! DEFINITION. The word types: bytes, 32-bit and 64-bit words, and the 8-KiB and 8,192-bit registers of the V strand
(R279, R281). -/

namespace Sys2Proof

/-- A byte of memory (R5). -/
abbrev Byte := BitVec 8

/-- A 32-bit word: instruction words, program counters (R276, R330). -/
abbrev W32 := BitVec 32

/-- An x or p register (R279, R280). -/
abbrev Word := BitVec 64

/-- A v register: 8,192 bytes (R281). -/
abbrev VReg := BitVec 65536

/-- A mask register: 8,192 bits (R281). -/
abbrev MReg := BitVec 8192

end Sys2Proof
end

