-- ==== Sys2Proof/Machine/Store.lean ====
section
/-! DEFINITION. Sparse tables in one canonical form: keys strictly rising, and no entry equal to the default, which is
what an unlisted key reads as. Memory is such a table of bytes with default 0 (log 1). -/

namespace Sys2Proof.Machine

/-- A sparse table from numbers to values. -/
abbrev SMap (β : Type) := List (Nat × β)

variable {β : Type}

/-- The value at a key; `d` where the key is not listed. -/
def SMap.get (d : β) : SMap β → Nat → β
  | [], _ => d
  | (k, v) :: m, a => if k = a then v else SMap.get d m a

/-- The entries that `n` consecutive values from key `a` give: those that differ from the default. -/
def SMap.run [DecidableEq β] (d : β) : Nat → List β → SMap β
  | _, [] => []
  | a, v :: vs => if v = d then SMap.run d (a + 1) vs else (a, v) :: SMap.run d (a + 1) vs

/-- The entries below a key. -/
def SMap.below : SMap β → Nat → SMap β
  | [], _ => []
  | (k, v) :: m, a => if k < a then (k, v) :: SMap.below m a else []

/-- The entries at or above a key. -/
def SMap.from : SMap β → Nat → SMap β
  | [], _ => []
  | (k, v) :: m, a => if k < a then SMap.from m a else (k, v) :: m

/-- Writes consecutive values from key `a`. -/
def SMap.write [DecidableEq β] (d : β) (m : SMap β) (a : Nat) (vs : List β) : SMap β :=
  m.below a ++ (SMap.run d a vs ++ (m.from a).from (a + vs.length))

/-- Writes one value. -/
def SMap.put [DecidableEq β] (d : β) (m : SMap β) (a : Nat) (v : β) : SMap β := SMap.write d m a [v]

/-- Reads `n` consecutive values from key `a`. -/
def SMap.read (d : β) (m : SMap β) (a n : Nat) : List β :=
  let part := (m.from a).below (a + n)
  (List.range n).map fun i => SMap.get d part (a + i)

/-- An element put in front of the first that it need not follow. -/
def insertBy {α : Type} (le : α → α → Bool) (a : α) (sorted : List α) : List α :=
  sorted.takeWhile (fun b => !le a b) ++ a :: sorted.dropWhile (fun b => !le a b)

/-- A list in an order; elements that the order does not tell apart stay as they stand. -/
def sortBy {α : Type} (le : α → α → Bool) (unsorted : List α) : List α := unsorted.foldr (insertBy le) []

/-- The canonical form: strictly rising keys. -/
def SMap.rising : SMap β → Bool
  | [] => true
  | [_] => true
  | (k, _) :: (k', v') :: m => decide (k < k') && SMap.rising ((k', v') :: m)

/-- The canonical form: rising, and no entry equal to the default. -/
def SMap.wf [DecidableEq β] (d : β) (m : SMap β) : Bool :=
  SMap.rising m && m.all fun e => !decide (e.2 = d)

/-- The number that a list of bytes gives, least significant first (R5). -/
def leNat : List Byte → Nat
  | [] => 0
  | b :: bs => b.toNat + 256 * leNat bs

/-- The `n` bytes of a number, least significant first (R5). -/
def leBytes : Nat → Nat → List Byte
  | 0, _ => []
  | n + 1, v => BitVec.ofNat 8 v :: leBytes n (v / 256)

/-- A little-endian value of `w` bits from bytes. -/
def leBV (w : Nat) (bs : List Byte) : BitVec w := BitVec.ofNat w (leNat bs)

/-- The bytes of a bit vector. -/
def bvBytes {w : Nat} (n : Nat) (v : BitVec w) : List Byte := leBytes n v.toNat

/-- The first `n` pieces of `k` bytes of a list. -/
def chunks (k : Nat) : Nat → List Byte → List (List Byte)
  | 0, _ => []
  | n + 1, bs => bs.take k :: chunks k n (bs.drop k)

/-- One entry replaced in a list, if it is there. -/
def listSet {α : Type} (entries : List α) (i : Nat) (new : α) : List α := entries.set i new

/-- The numbers `0 … n-1` for which a test holds, first one. -/
def firstBelow (n : Nat) (p : Nat → Bool) : Option Nat := (List.range n).find? p

end Sys2Proof.Machine
end

