-- ==== Sys2Proof/Machine/Num.lean ====
section
/-! DEFINITION. Number formats, rounding, conversion, blocks, the exact window and the memory atomics' arithmetic
(13_numbers.md, R157). Every operation is exact on dyadic numbers and narrows once at the end. -/

namespace Sys2Proof.Machine

/-- A value: a NaN with its sign and the fraction it would have in FP32, an infinity, or ± m × 2^e. -/
inductive Val where
  | nan (neg : Bool) (frac : Nat)
  | inf (neg : Bool)
  | fin (neg : Bool) (m : Nat) (e : Int)
  deriving DecidableEq, Repr, Inhabited

/-- Layout of a floating format (R250, R251): exponent and fraction bits, bias, and the bits of the largest finite
value. -/
structure FFmt where
  ew  : Nat
  mw  : Nat
  bias : Int
  top : Nat
  deriving DecidableEq, Repr

/-- The floating formats by code (R249). -/
def ffmt (f : Nat) : Option FFmt :=
  match f with
  | 0x01 => some ⟨8, 23, 127, 0x7F7FFFFF⟩
  | 0x02 => some ⟨5, 10, 15, 0x7BFF⟩
  | 0x03 => some ⟨8, 7, 127, 0x7F7F⟩
  | 0x04 => some ⟨4, 3, 7, 0x7E⟩
  | 0x05 => some ⟨5, 2, 15, 0x7B⟩
  | 0x06 => some ⟨2, 1, 1, 0x7⟩
  | _ => none

/-- Width and signedness of an integer format (R249, R252). -/
def ifmt (f : Nat) : Option (Nat × Bool) :=
  match f with
  | 0x10 => some (4, true) | 0x11 => some (8, true) | 0x12 => some (16, true) | 0x13 => some (32, true)
  | 0x14 => some (64, true) | 0x18 => some (4, false) | 0x19 => some (8, false) | 0x1A => some (16, false)
  | 0x1B => some (32, false) | 0x1C => some (64, false) | _ => none

/-- FP32, FP16 and BF16 have infinities and NaNs laid out by IEEE 754 (R250). -/
def ieee (f : Nat) : Bool := f == 1 || f == 2 || f == 3

/-- A value from an integer. -/
def Val.ofInt (n : Int) : Val := .fin (decide (n < 0)) n.natAbs 0

/-- Decodes an element of a plain format (R250 to R253). -/
def decodeVal (f : Nat) (bits : Nat) : Val :=
  match ifmt f, ffmt f with
  | some (w, sgn), _ =>
    let b := bits % 2 ^ w
    Val.ofInt (if sgn && decide (2 ^ (w - 1) ≤ b) then (b : Int) - 2 ^ w else b)
  | none, some t =>
    let neg := (bits / 2 ^ (t.ew + t.mw)) % 2 == 1
    let ex := bits / 2 ^ t.mw % 2 ^ t.ew
    let fr := bits % 2 ^ t.mw
    if ieee f && ex == 2 ^ t.ew - 1 then
      if fr = 0 then .inf neg else .nan neg (fr * 2 ^ (23 - t.mw))
    else if f == 4 && bits % 128 == 127 then .nan neg 0x400000
    else if f == 5 && decide (bits % 128 > 0x7C) then .nan neg 0x400000
    else if f == 5 && bits % 128 == 0x7C then .inf neg
    else if ex = 0 then .fin neg fr (1 - t.bias - t.mw)
    else .fin neg (2 ^ t.mw + fr) ((ex : Int) - t.bias - t.mw)
  | none, none => .fin false 0 0

/-- Rounding modes: 0 RNE, 1 RTZ, 2 RUP, 3 RDN, 4 DITHER with its threshold (R258, R259). -/
structure RMode where
  code : Nat
  bayer : Nat := 0
  deriving DecidableEq, Repr

/-- Round to nearest, ties to even. -/
def rne : RMode := ⟨0, 0⟩

/-- The Bayer matrix of R259. -/
def bayer (i j : Nat) : Nat :=
  (List.range 4).foldl (fun a k =>
    let ik := if i.testBit k then 1 else 0
    let x := if i.testBit k != j.testBit k then 1 else 0
    a + (2 * x + ik) * 4 ^ (3 - k)) 0

/-- A mode with the threshold of destination coordinates (R259). -/
def rmode (code i j : Nat) : RMode := ⟨code, bayer (i % 16) (j % 16)⟩

/-- Rounds the magnitude n / 2^sh to an integer (R258, R259). -/
def roundMag (r : RMode) (neg : Bool) (n sh : Nat) : Nat :=
  let q := n / 2 ^ sh
  let rem := n % 2 ^ sh
  if rem = 0 then q
  else match r.code with
    | 0 => if 2 * rem > 2 ^ sh ∨ (2 * rem = 2 ^ sh ∧ q % 2 = 1) then q + 1 else q
    | 1 => q
    | 2 => if neg then q else q + 1
    | 3 => if neg then q + 1 else q
    | _ => if 256 * rem > r.bayer * 2 ^ sh then q + 1 else q

/-- m × 2^e as a multiple of 2^g, rounded. -/
def roundAt (r : RMode) (neg : Bool) (m : Nat) (e g : Int) : Nat :=
  if g ≤ e then m * 2 ^ (e - g).toNat else roundMag r neg m (g - e).toNat

/-- A signed integer from sign and magnitude. -/
def signed (neg : Bool) (m : Nat) : Int := if neg then -(m : Int) else m

/-- Converts to a floating format (R260). -/
def encodeFloat (f : Nat) (t : FFmt) (r : RMode) (sat : Bool) (v : Val) : Nat :=
  let sgn := fun (neg : Bool) (b : Nat) => if neg then b + 2 ^ (t.ew + t.mw) else b
  let infBits := (2 ^ t.ew - 1) * 2 ^ t.mw
  match v with
  | .nan neg frac =>
    if ieee f then sgn neg (infBits + (frac / 2 ^ (23 - t.mw)) % 2 ^ (t.mw - 1) + 2 ^ (t.mw - 1))
    else if f = 4 then sgn neg 0x7F
    else if f = 5 then sgn neg 0x7E
    else 0
  | .inf neg =>
    if sat then sgn neg t.top
    else if ieee f then sgn neg infBits
    else if f = 4 then sgn neg 0x7F
    else if f = 5 then sgn neg 0x7C
    else sgn neg t.top
  | .fin neg m e =>
    if m = 0 then sgn neg 0
    else
      let ex : Int := m.log2 + e
      let emin : Int := 1 - t.bias
      let q := max ex emin
      let b := (q + t.bias - 1).toNat * 2 ^ t.mw + roundAt r neg m e (q - t.mw)
      if b ≤ t.top then sgn neg b
      else if sat ∨ f = 6 then sgn neg t.top
      else
        let toInf := match r.code with
          | 1 => false
          | 2 => !neg
          | 3 => neg
          | _ => true
        if !toInf then sgn neg t.top
        else if ieee f then sgn neg infBits
        else if f = 4 then sgn neg 0x7F
        else sgn neg 0x7C

/-- Clamps an integer to a format's range. -/
def clampInt (w : Nat) (sgn : Bool) (n : Int) : Int :=
  if sgn then max (-(2 ^ (w - 1) : Int)) (min n (2 ^ (w - 1) - 1)) else max 0 (min n (2 ^ w - 1))

/-- The bits of an integer at a width. -/
def intBits (w : Nat) (n : Int) : Nat := (n % (2 ^ w : Int)).toNat

/-- Converts to an integer format (R260, R261); `wrap` for an integer source with SAT off. -/
def encodeInt (w : Nat) (sgn : Bool) (r : RMode) (wrap : Bool) (v : Val) : Nat :=
  match v with
  | .nan _ _ => 0
  | .inf neg => intBits w (clampInt w sgn (if neg then -(2 ^ 80 : Int) else 2 ^ 80))
  | .fin neg m e =>
    let n := signed neg (roundAt r neg m e 0)
    intBits w (if wrap then n else clampInt w sgn n)

/-- Converts a value to a plain format (R260, R261). `srcInt` says that it comes from an integer format. -/
def encodeVal (f : Nat) (r : RMode) (sat srcInt : Bool) (v : Val) : Nat :=
  match ifmt f, ffmt f with
  | some (w, sgn), _ => encodeInt w sgn r (srcInt && !sat) v
  | none, some t => encodeFloat f t r sat v
  | none, none => 0

/-- Converts an element between plain formats; equal formats keep their bits (R250, R319). -/
def convertBits (src dst : Nat) (r : RMode) (sat : Bool) (bits : Nat) : Nat :=
  if src = dst then bits else encodeVal dst r sat (ifmt src).isSome (decodeVal src bits)

/-! ### Arithmetic on values (R262) -/

/-- Zero in value. -/
def Val.isZero : Val → Bool
  | .fin _ 0 _ => true
  | _ => false

/-- A NaN. -/
def Val.isNan : Val → Bool
  | .nan _ _ => true
  | _ => false

/-- An infinity. -/
def Val.isInf : Val → Bool
  | .inf _ => true
  | _ => false

/-- The sign. -/
def Val.neg : Val → Bool
  | .nan n _ => n
  | .inf n => n
  | .fin n _ _ => n

/-- The value with a given sign. -/
def Val.withSign (n : Bool) : Val → Val
  | .nan _ f => .nan n f
  | .inf _ => .inf n
  | .fin _ m e => .fin n m e

/-- The positive default NaN. -/
def defNan : Val := .nan false 0x400000

/-- The exact sum; an exact zero of operands of opposite sign is +0, or −0 under RDN. -/
def Val.add (r : RMode) (a b : Val) : Val :=
  match a, b with
  | .nan n f, _ => .nan n f
  | _, .nan n f => .nan n f
  | .inf n, .inf k => if n = k then .inf n else defNan
  | .inf n, _ => .inf n
  | _, .inf n => .inf n
  | .fin n m e, .fin k p g =>
    let q := min e g
    let x := signed n (m * 2 ^ (e - q).toNat) + signed k (p * 2 ^ (g - q).toNat)
    if x = 0 then .fin (if n = k then n else r.code == 3) 0 q else .fin (decide (x < 0)) x.natAbs q

/-- The exact product. -/
def Val.mul (a b : Val) : Val :=
  match a, b with
  | .nan n f, _ => .nan n f
  | _, .nan n f => .nan n f
  | .inf n, y => if y.isZero then defNan else .inf (n != y.neg)
  | x, .inf n => if x.isZero then defNan else .inf (n != x.neg)
  | .fin n m e, .fin k p g => .fin (n != k) (m * p) (e + g)

/-- The negated value. -/
def Val.negate (v : Val) : Val := v.withSign !v.neg

/-- The quotient, with enough bits and a sticky bit for one rounding. -/
def Val.div (a b : Val) : Val :=
  match a, b with
  | .nan n f, _ => .nan n f
  | _, .nan n f => .nan n f
  | .inf n, .inf k => let _ := (n, k); defNan
  | .inf n, y => .inf (n != y.neg)
  | x, .inf n => .fin (n != x.neg) 0 0
  | .fin n m e, .fin k p g =>
    if p = 0 then (if m = 0 then defNan else .inf (n != k))
    else
      let q := m * 2 ^ 160 / p
      .fin (n != k) (2 * q + if m * 2 ^ 160 % p = 0 then 0 else 1) (e - g - 161)

/-- Integer square root by bisection on bits. -/
def isqrt (n : Nat) : Nat :=
  (List.range (n.log2 / 2 + 1)).reverse.foldl (fun r i => if (r + 2 ^ i) * (r + 2 ^ i) ≤ n then r + 2 ^ i else r) 0

/-- The square root, with a sticky bit for one rounding. -/
def Val.sqrt (a : Val) : Val :=
  match a with
  | .nan n f => .nan n f
  | .inf true => defNan
  | .inf false => .inf false
  | .fin n m e =>
    if m = 0 then .fin n 0 0
    else if n then defNan
    else
      let (m, e) := if e % 2 = 0 then (m, e) else (2 * m, e - 1)
      let x := m * 2 ^ 160
      let s := isqrt x
      .fin false (2 * s + if s * s = x then 0 else 1) (e / 2 - 81)

/-- Compares finite or infinite values: their order as -1, 0 or 1; zeros are equal. -/
def Val.cmp (a b : Val) : Int :=
  match a, b with
  | .inf n, .inf k => if n = k then 0 else if n then -1 else 1
  | .inf n, _ => if n then -1 else 1
  | _, .inf n => if n then 1 else -1
  | .fin n m e, .fin k p g =>
    let q := min e g
    let x := signed n (m * 2 ^ (e - q).toNat)
    let y := signed k (p * 2 ^ (g - q).toNat)
    if x < y then -1 else if x = y then 0 else 1
  | _, _ => 0

/-- Is a below b, with −0 below +0 (R157, R438)? -/
def Val.below (a b : Val) : Bool :=
  a.cmp b == -1 || (a.cmp b == 0 && a.isZero && a.neg && !b.neg)

/-- FP32 sum rounded by RNE (R157, R269, R273). -/
def add32 (a b : Nat) : Nat := encodeVal 1 rne false false (Val.add rne (decodeVal 1 a) (decodeVal 1 b))

/-- The sum of R157 in a floating format. -/
def faddBits (f a b : Nat) : Nat := encodeVal f rne false false (Val.add rne (decodeVal f a) (decodeVal f b))

/-- The minimum or maximum of R157. -/
def fminmax (f : Nat) (mx : Bool) (a b : Nat) : Nat :=
  let x := decodeVal f a
  let y := decodeVal f b
  if x.isNan then encodeVal f rne false false x
  else if y.isNan then encodeVal f rne false false y
  else if mx then (if x.below y then b else a) else (if y.below x then b else a)

/-! ### Blocks (R254 to R257) -/

/-- Elements of a block code (R254). -/
def blockCount (code : Nat) : Option Nat :=
  match code with
  | 0x81 => some 112 | 0x82 => some 80 | 0x83 => some 48 | 0x84 => some 48 | 0x85 => some 48 | 0x86 => some 112
  | 0x87 => some 48 | 0x88 => some 112 | 0x89 => some 128 | _ => none

/-- The plain format of the elements of a block code; none for KX and CB3. -/
def blockPlain (code : Nat) : Option Nat :=
  match code with
  | 0x84 => some 4 | 0x85 => some 5 | 0x86 => some 6 | 0x87 => some 0x11 | 0x88 => some 0x10 | _ => none

/-- Magnitude bits m of a KX block (R255). -/
def kxM (code : Nat) : Nat := if code = 0x81 then 2 else if code = 0x82 then 4 else 7

/-- A byte as a signed number. -/
def sbyte (b : Nat) : Int := if b < 128 then b else (b : Int) - 256

/-- The value scaled by a power of two. -/
def Val.scale (v : Val) (k : Int) : Val :=
  match v with
  | .fin n m e => .fin n m (e + k)
  | v => v

/-- Element j of a block (R255 to R257); `tab` the CB3 table. A scale of `0xFF` makes every element NaN. -/
def blockElem (b : List Byte) (tab : List Byte) (j : Nat) : Val :=
  let at_ := fun i => (b.getD i 0).toNat
  let code := at_ 0
  let s : Int := (at_ 1 : Int) - 127
  if at_ 1 = 0xFF then defNan
  else if code = 0x89 then
    let ix := leNat ((b.drop 2).take 48) / 2 ^ (3 * j) % 8
    (decodeVal 3 (leNat ((tab.drop (2 * ix)).take 2))).scale s
  else match blockPlain code with
    | some f =>
      let v := if f = 6 ∨ f = 0x10 then at_ (2 + j / 2) / 16 ^ (j % 2) % 16 else at_ (2 + j)
      (decodeVal f v).scale s
    | none =>
      let m := kxM code
      let strip := 2 + (2 + 2 * (m + 1)) * (j / 16)
      let e := j % 16
      let str := leNat ((b.drop (strip + 2)).take (2 * (m + 1)))
      let x := str / 2 ^ ((m + 1) * e) % 2 ^ (m + 1)
      let mu : Int := at_ (strip + 1) / 2 ^ (e / 2) % 2
      if x % 2 ^ m = 0 then .fin false 0 0
      else .fin (decide (2 ^ m ≤ x)) (x % 2 ^ m) (s + sbyte (at_ strip) + mu - m)

/-- floor(log2 |x|) of a finite nonzero value (R263). -/
def Val.expo : Val → Option Int
  | .fin _ 0 _ => none
  | .fin _ m e => some (m.log2 + e)
  | _ => none

/-- The greatest of a list of exponents. -/
def maxExpo (l : List (Option Int)) : Option Int :=
  l.foldl (fun a x => match a, x with
    | none, x => x
    | a, none => a
    | some a, some x => some (max a x)) none

/-- Clamps an integer. -/
def clampI (lo hi n : Int) : Int := max lo (min n hi)

/-- Encodes a block by the canonical rule of R263. `modes j` is the rounding of element j. -/
def encodeBlock (code : Nat) (modes : Nat → RMode) (sat : Bool) (xs : List Val) : List Byte :=
  let n := (blockCount code).getD 0
  let xs := (List.range n).map fun j => xs.getD j (.fin false 0 0)
  let fin := fun bs => (bs ++ List.replicate 64 (0 : Byte)).take 64
  let byte := fun (v : Int) => BitVec.ofInt 8 v
  if xs.any (·.isNan) || (!sat && code != 0x85 && xs.any (·.isInf)) then fin [BitVec.ofNat 8 code, 0xFF]
  else
    let eb0 := maxExpo (xs.map Val.expo)
    let eb := eb0.getD 0
    let ex := fun (v : Val) => if v.isInf then some eb else v.expo
    match blockPlain code with
    | some f =>
      let emax : Int := match f with | 4 => 8 | 5 => 15 | 6 => 2 | 0x11 => 6 | _ => 2
      let s := if eb0.isNone then 127 else clampI 0 254 (eb - emax + 127)
      let enc := fun (j : Nat) (v : Val) =>
        if v.isInf && !sat then (if v.neg then 0xFC else 0x7C)
        else encodeVal f (modes j) true false (v.scale (127 - s))
      let vs := xs.mapIdx enc
      let body := if f = 6 ∨ f = 0x10 then
          (List.range (n / 2)).map fun i => BitVec.ofNat 8 (vs.getD (2 * i) 0 + 16 * vs.getD (2 * i + 1) 0)
        else vs.map (BitVec.ofNat 8)
      fin (BitVec.ofNat 8 code :: byte s :: body)
    | none =>
      let m := kxM code
      let s := if eb0.isNone then 127 else clampI 0 254 (eb + 127)
      let strip := fun (k : Nat) =>
        let ys := (xs.drop (16 * k)).take 16
        match maxExpo (ys.map ex) with
        | none => (0 : Byte) :: 0 :: List.replicate (2 * (m + 1)) 0
        | some es =>
          let se := clampI (-128) 127 (es - (s - 127))
          let mu := fun p => maxExpo [ex (ys.getD (2 * p) default), ex (ys.getD (2 * p + 1) default)] == some es
          let mus := (List.range 8).foldl (fun a p => if mu p then a + 2 ^ p else a) 0
          let one := fun (j : Nat) (v : Val) =>
            let u : Int := if mu (j / 2) then 1 else 0
            let mag := match v with
              | .fin neg x e => min (roundAt (modes (16 * k + j)) neg x e (s - 127 + se + u - m)) (2 ^ m - 1)
              | _ => 2 ^ m - 1
            mag + (if v.neg && decide (mag ≠ 0) then 2 ^ m else 0)
          let str := (ys.mapIdx one).reverse.foldl (fun a x => a * 2 ^ (m + 1) + x) 0
          byte se :: BitVec.ofNat 8 mus :: leBytes (2 * (m + 1)) str
      fin (BitVec.ofNat 8 code :: byte s :: (List.range (n / 16)).flatMap strip)

/-! ### The exact window (R264 to R267) -/

/-- NaN, +∞ and −∞ states of a window, and the finite bound. -/
def wNan : Int := -(2 ^ 127)
def wPosInf : Int := 2 ^ 127 - 1
def wNegInf : Int := -(2 ^ 127) + 1
def wBound : Int := 2 ^ 127 - 2

/-- Is a window in one of its states? -/
def wState (w : Int) : Bool := w == wNan || w == wPosInf || w == wNegInf

/-- One contribution to a window with anchor A (R264): the value is rounded by RNE to a multiple of 2^(A − 111) and added
by WindowAdd; the new window, and whether OVF is set. -/
def windowAdd (anchor w : Int) (v : Val) : Int × Bool :=
  match v with
  | .nan _ _ => (wNan, false)
  | .inf neg =>
    let c := if neg then wNegInf else wPosInf
    (if wState w && w != c then wNan else c, false)
  | .fin neg m e =>
    if wState w then (w, false)
    else
      let x := w + signed neg (roundAt rne neg m e (anchor - 111))
      if x > wBound then (wBound, true) else if x < -wBound then (-wBound, true) else (x, false)

/-- The value a window stands for (R267). -/
def windowVal (anchor : Int) (w : Int) : Val :=
  if w = wNan then defNan
  else if w = wPosInf then .inf false
  else if w = wNegInf then .inf true
  else .fin (decide (w < 0)) w.natAbs (anchor - 111)

/-- The three BF16 slices of a finite FP32 value (R271). -/
def slices (v : Val) : Val × Val × Val :=
  let rtz := fun (x : Val) => decodeVal 3 (encodeVal 3 ⟨1, 0⟩ false false x)
  let h := rtz v
  let r := Val.add rne v h.negate
  let m := rtz r
  (h, m, rtz (Val.add rne r m.negate))

end Sys2Proof.Machine
end

