-- ==== Sys2Proof/Syntax.lean ====
section
/-! DEFINITION. The instructions and device events of the Kenix architecture: one constructor of `Instr` per row of the
opcode table, with the operand fields of R331 to R336 and R417. Rows without words (device events) take as arguments
what reaches the device from outside, or the unit they concern. -/

namespace Sys2Proof

/-- The four strands of a core (R275). -/
inductive Strand where
  | s | v | m | x
  deriving DecidableEq, Repr

/-- The wait and post fields of V, M and X words (R286, R333, R334). -/
structure Tok where
  wait : BitVec 2
  post : BitVec 2
  deriving DecidableEq, Repr

/-- Scopes, numbered as R339 numbers them (R191). -/
inductive Scope where
  | core | gang | die | pkg | fab | sys
  deriving DecidableEq, Repr

/-- Orderings of an atomic (R192, R340). -/
inductive MemOrd where
  | rlx | acq | rel | acqrel
  deriving DecidableEq, Repr

/-- Conditions of `cmp` and `cmpi` (R332, R349). -/
inductive Cond where
  | eq | ne | lt | ge | ltu | geu
  deriving DecidableEq, Repr

/-- Conditions of `vcmp` (R376). -/
inductive VCond where
  | eq | ne | lt | le | gt | ge
  deriving DecidableEq, Repr

/-- Widths of `cas` (R340). -/
inductive CasWidth where
  | w32 | w64 | w128
  deriving DecidableEq, Repr

/-- A TREF without a box (R335): slot and coordinate base register. -/
structure TRef where
  slot : BitVec 5
  pcrd : BitVec 5
  deriving DecidableEq, Repr

/-- A TREF with a box (R335). -/
structure TBox where
  slot : BitVec 5
  pcrd : BitVec 5
  pbox : BitVec 5
  deriving DecidableEq, Repr

/-- A tensor slot with one p register: a lock word, an index tensor, a table or a status location (R416, R417). -/
structure LockRef where
  slot : BitVec 5
  pc   : BitVec 5
  deriving DecidableEq, Repr

/-- The stamp operand of `copy.st` (R417). -/
structure StampRef where
  slot : BitVec 5
  pc   : BitVec 5
  pv   : BitVec 5
  deriving DecidableEq, Repr

/-- The ORDER word (R336, R315). -/
structure Order where
  d1 : BitVec 6
  d2 : BitVec 6
  deriving DecidableEq, Repr

/-- Common fields of the four copies (R417). -/
structure CopyArgs where
  lk  : Option LockRef
  rm  : BitVec 3
  sat : Bool
  s   : TBox
  d   : TBox
  deriving DecidableEq, Repr

/-- `gather` and `scatter` (R417): the boxed side, the indexed tensor's slot and the index tensor. -/
structure GatherArgs where
  lk   : Option LockRef
  box  : TBox
  slot : BitVec 5
  idx  : LockRef
  deriving DecidableEq, Repr

/-- `walk` (R417, R430). -/
structure WalkArgs where
  store : Bool
  wn    : BitVec 3
  nbm1  : BitVec 3
  lk    : Option (BitVec 5)
  tiles : TBox
  buf   : TRef
  cores : Option (BitVec 5)
  deriving DecidableEq, Repr

/-- `coll` (R417, R436, R437). -/
structure CollArgs where
  proot : BitVec 5
  group : BitVec 8
  red   : BitVec 2
  op    : BitVec 2
  s     : TBox
  d     : TBox
  pspan : BitVec 5
  deriving DecidableEq, Repr

/-- Common fields of the multiply commands (R334, R396, R403, R406). -/
structure MulArgs where
  prof : BitVec 6
  tile : Bool
  g    : BitVec 5
  a    : TRef
  b    : TRef
  deriving DecidableEq, Repr

/-- `mrd` (R409). -/
structure MrdArgs where
  prof : BitVec 6
  tile : Bool
  clr  : Bool
  sat  : Bool
  rm   : BitVec 3
  d    : TBox
  row0 : BitVec 7
  col0 : BitVec 6
  ovf  : Option TRef
  deriving DecidableEq, Repr

/-- What the SEC-DED code of an accessed word finds (R18): an input from the array. -/
inductive Ecc where
  | clean | single | uncorrectable
  deriving DecidableEq, Repr

/-- The operations of R156 that a home performs. -/
inductive AtomOp where
  | add | and | or | xor | swap | smin | smax | umin | umax | cas
  | faddF32 | faddBF16 | fminF32 | fmaxF32
  deriving DecidableEq, Repr

/-- One access at a bank or controller (R155): a read of `n` bytes, or a write of bytes, at a physical address. -/
structure BankReq where
  pa    : Nat
  n     : Nat
  write : Option (List Byte)
  ecc   : Ecc
  deriving DecidableEq, Repr

/-- One atomic at its home (R156); `w` is the width in bytes. -/
structure AtomReq where
  op  : AtomOp
  pa  : Nat
  w   : Nat
  cmp : BitVec 128
  v   : BitVec 128
  deriving DecidableEq, Repr

/-- Element formats of the element-wise update (R156). -/
inductive UpdKind where
  | s32 | fp32 | bf16
  deriving DecidableEq, Repr

/-- One element-wise update (R156): lane operands by byte address. -/
structure UpdReq where
  kind  : UpdKind
  lanes : List (Nat × BitVec 32)
  deriving DecidableEq, Repr

/-- What a packet asks or answers (R26): bytes 16 to 63 of the header and the payload. `tag` is the requester's; 0 asks
for no answer. A `posted` write is answered only when it is refused (R215, R223); what comes from `outside` the domain carries its
source's coordinates (R26). -/
inductive PktBody where
  | empty
  | read (pa n tag : Nat)
  | write (blocks : List (Nat × List Byte)) (tag : Nat)
  | atomic (r : AtomReq) (tag : Nat)
  | update (r : UpdReq)
  | count (pa n tag : Nat)
  | lockSet (pa target tag : Nat)
  | swapIf (pa : Nat) (old new : BitVec 64) (blocks : List (Nat × List Byte)) (tag : Nat)
  | linWrite (part : BitVec 5) (addr : Nat) (bytes : List Byte) (lock : Option Nat) (tag : Nat)
  | linRead (part : BitVec 5) (addr n tag : Nat)
  | data (tag : Nat) (value : List Byte)
  | ack (tag : Nat)
  | refusal (tag hint : Nat)
  | badTarget (tag kind sub : Nat)
  | lockFault (tag kind sub : Nat)
  | notify (queue : BitVec 10) (value : BitVec 64)
  | steal (sdom : BitVec 16) (pkg : BitVec 9) (core : BitVec 7)
  | grant (core : BitVec 7) (start count : BitVec 48)
  | advert (window pkg : BitVec 32) (entries : List (BitVec 16 × BitVec 48))
  | sync (time : Nat)
  | invalidate (part : BitVec 5) (tensor : BitVec 12) (tile : Nat) (frame : BitVec 32)
  | invalidateAck (pkg : BitVec 9) (frame : BitVec 32)
  | renewRow (pa tag : Nat)
  | frame (pa bytes act : Nat) (pkg : BitVec 9) (part : BitVec 5) (tensor : BitVec 12) (tile tag : Nat)
  | posted (tag : Nat) (body : PktBody)
  | outside (x y z : Nat) (body : PktBody)
  deriving DecidableEq, Repr

/-- A packet: the 128 routing bits of R26 and what it carries. -/
structure Packet where
  hdr  : BitVec 128
  body : PktBody
  deriving DecidableEq, Repr

/-- What firmware assigns at fabric bring-up (R41, R45, R47, R49): coordinates, torus size, domain origin and size,
the ports in use, whether this package is grandmaster, and the one step to the grandmaster's time. -/
structure BringUp where
  x : Nat
  y : Nat
  z : Nat
  nx : Nat
  ny : Nat
  nz : Nat
  ox : Nat
  oy : Nat
  oz : Nat
  dx : Nat
  dy : Nat
  dz : Nat
  ports : BitVec 6
  master : Bool
  timeStep : Option Nat
  deriving DecidableEq, Repr

/-- Registers without a row of their own (R7, R60, R85, R89, R114, R172, R244, R461 are among them). -/
inductive RegWrite where
  | bar0 (func : BitVec 6) (offset : BitVec 26) (value : BitVec 64)
  | bootWindow (func : BitVec 6) (offset : BitVec 24) (bytes : List Byte)
  | mailboxData (func : BitVec 6) (offset : BitVec 12) (bytes : List Byte)
  | pfaultq (part : BitVec 5) (value : BitVec 64)
  | pstop (part : BitVec 5) (value : BitVec 64)
  | ptcost (part : BitVec 5) (value : BitVec 64)
  | scrsave (part : BitVec 5) (ctx : BitVec 3) (value : BitVec 64)
  | ctxsave (part : BitVec 5) (ctx : BitVec 3) (value : BitVec 64)
  | ctxEntry (part : BitVec 5) (ctx : BitVec 3) (value : BitVec 256)
  | powerLimit (value : Nat)
  | barSize (func : BitVec 6) (log : Nat)
  deriving DecidableEq, Repr

/-- One constructor per row of the opcode table: the device events first, then the S, V, M and X instructions. The order
keeps every event and S instruction below index 245, where Lean's runtime can build a constructor with fields; the
definitions that build V, M and X instructions are noncomputable for that reason alone (log 6). -/
inductive Instr where
  | coldReset
  | warmReset
  | thermalHoldEnd
  | bootLenWrite (len : BitVec 32) (memOk : Bool)
  | powerSample (watts : Nat)
  | ps2Entry
  | ps2Exit
  | ps3Entry
  | sensorReading (die : BitVec 2) (memory : Bool) (idx : BitVec 3) (celsius : Nat)
  | classToCool (die : BitVec 2)
  | thermalThrottleStep (die : BitVec 2)
  | hbmPatrolScrub (ecc : Ecc)
  | ringFlitTransfer (ring : BitVec 4)
  | packetReceive (p : Packet)
  | dieSwitchTransfer (die : BitVec 2)
  | torusFlitTransfer (port : BitVec 3)
  | replayRequest (port : BitVec 3) (back : Nat)
  | linkRetrainEnd (port : BitVec 3) (ok : Bool)
  | fabricBringUp (b : BringUp)
  | syncSend
  | ptpSync (offset : Int)
  | holdoverSet
  | fctlWrite (func : BitVec 6) (ring : BitVec 4) (value : BitVec 64)
  | fdirWrite (func : BitVec 6) (ring : BitVec 4) (value : BitVec 64)
  | wincfgWrite (func : BitVec 6) (value : BitVec 64)
  | wincfgTakeEffect
  | windowBoundary
  | advertisementReceive (port : BitVec 3) (window : BitVec 32) (entries : List (BitVec 16 × BitVec 48))
  | hostRead (func : BitVec 6) (addr : Nat) (size : Nat)
  | hostWrite (func : BitVec 6) (addr : Nat) (bytes : List Byte)
  | hostFetchadd (func : BitVec 6) (addr : Nat) (wide : Bool) (operand : BitVec 64)
  | hostSwap (func : BitVec 6) (addr : Nat) (wide : Bool) (operand : BitVec 64)
  | hostCas (func : BitVec 6) (addr : Nat) (wide : Bool) (comparand operand : BitVec 128)
  | notifyRegisterWrite (func : BitVec 6) (queue : BitVec 10) (value : BitVec 64)
  | notifyMessage (queue : BitVec 10) (value : BitVec 64)
  | attest (func : BitVec 6)
  | queueCreate (func : BitVec 6)
  | queueDestroy (func : BitVec 6)
  | queueReset (func : BitVec 6)
  | mailboxResume (func : BitVec 6)
  | abandon (func : BitVec 6)
  | unlistedMailboxCode (func : BitVec 6) (cmd : BitVec 32)
  | queuePoll (queue : BitVec 10)
  | launchPacket (queue : BitVec 10)
  | regionsPacket (queue : BitVec 10)
  | copyPacket (queue : BitVec 10)
  | signalPacket (queue : BitVec 10)
  | waitPacket (queue : BitVec 10)
  | waitRecheck (queue : BitVec 10)
  | stagesPacket (queue : BitVec 10)
  | launchPlacement (part : BitVec 5) (acc : Nat)
  | pipelinePlacement (part : BitVec 5) (acc : Nat)
  | completionSignalDecrement (part : BitVec 5) (acc : Nat)
  | tokenRefill
  | placementReservation (part : BitVec 5)
  | contextSelect (part : BitVec 5)
  | preemptDecision (part : BitVec 5)
  | yieldDeadline (part : BitVec 5)
  | routerAdmit (part : BitVec 5) (acc : Nat)
  | routerDecision (part : BitVec 5) (acc : Nat)
  | derailleurEvaluate (part : BitVec 5) (acc : Nat)
  | derailleurMove (part : BitVec 5) (acc : Nat)
  | bankAccess (req : BankReq)
  | homeAtomic (req : AtomReq)
  | elementWiseUpdate (req : UpdReq)
  | tileWalk (core : BitVec 7) (port : BitVec 3) (tensor : BitVec 12) (tile : Nat)
  | tileMissRecordWrite (part : BitVec 5)
  | retryResend (core : BitVec 7)
  | retentionTick
  | sweep (die : BitVec 2)
  | lockKeeperRenewal (core : BitVec 7)
  | shmLockKeeperRenewal (die : BitVec 2)
  | genHomeUpdate (part : BitVec 5)
  | genCopyApply (core : BitVec 7)
  | ntStorePerform (core : BitVec 7)
  | fabricReleaseComplete (core : BitVec 7)
  | migration (part : BitVec 5)
  | invalidate (part : BitVec 5) (tensor : BitVec 12) (tile : Nat)
  | invalidateAck (pkg : BitVec 9) (frame : BitVec 32)
  | deferReplay (core : BitVec 7)
  | iodieFault (sub : BitVec 3)
  | haltArrive (core : BitVec 7)
  | haltComplete (part : BitVec 5)
  | contextSwap (part : BitVec 5)
  | coreClear (core : BitVec 7)
  | instructionFinish (core : BitVec 7) (strand : Strand)
  | phaseAdvance (part : BitVec 5) (group : BitVec 8)
  | mwaitWake (core : BitVec 7)
  | stealRequest (sdom : BitVec 16) (thiefPkg : BitVec 9) (thiefCore : BitVec 7)
  | stealGrant (core : BitVec 7) (start count : BitVec 48)
  | xCommandStart (core : BitVec 7)
  | pieceHand (core : BitVec 7)
  | pieceAck (core : BitVec 7)
  | lockWordCount (core : BitVec 7)
  | walkTileStart (core : BitVec 7) (walk : BitVec 3)
  | matrixCycle (core : BitVec 7)
  | bRowLoadDone (core : BitVec 7)
  | tableArrival (core : BitVec 7)
  | snapshotDone (core : BitVec 7)
  | collInstanceComplete (part : BitVec 5) (group : BitVec 8) (remote : List (Nat × List Byte))
  | contextBind (part : BitVec 5) (ctx : BitVec 3)
  | contextUnbind (part : BitVec 5) (ctx : BitVec 3)
  | pquadsWrite (part : BitVec 5) (value : BitVec 64)
  | pshmWrite (part : BitVec 5) (value : BitVec 64)
  | pframesWrite (part : BitVec 5) (value : BitVec 64)
  | pqueuesWrite (part : BitVec 5) (value : BitVec 64)
  | pwalksWrite (part : BitVec 5) (value : BitVec 64)
  | pxwalksWrite (part : BitVec 5) (value : BitVec 64)
  | ppolicyWrite (part : BitVec 5) (value : BitVec 64)
  | pstripeWrite (part : BitVec 5) (die : BitVec 2) (stripe : BitVec 8) (own : Bool) (ctx : BitVec 3)
  | registerWrite (w : RegWrite)
  | decodeTableCopyApply (core : BitVec 7)
  | add (d a b : BitVec 6) (w : Bool)
  | sub (d a b : BitVec 6) (w : Bool)
  | mul (d a b : BitVec 6) (w : Bool)
  | mulh (d a b : BitVec 6) (w : Bool)
  | mulhu (d a b : BitVec 6) (w : Bool)
  | div (d a b : BitVec 6) (w : Bool)
  | divu (d a b : BitVec 6) (w : Bool)
  | rem (d a b : BitVec 6) (w : Bool)
  | remu (d a b : BitVec 6) (w : Bool)
  | and (d a b : BitVec 6) (w : Bool)
  | or (d a b : BitVec 6) (w : Bool)
  | xor (d a b : BitVec 6) (w : Bool)
  | andn (d a b : BitVec 6) (w : Bool)
  | shl (d a b : BitVec 6) (w : Bool)
  | shr (d a b : BitVec 6) (w : Bool)
  | sra (d a b : BitVec 6) (w : Bool)
  | rotr (d a b : BitVec 6) (w : Bool)
  | min (d a b : BitVec 6) (w : Bool)
  | max (d a b : BitVec 6) (w : Bool)
  | minu (d a b : BitVec 6) (w : Bool)
  | maxu (d a b : BitVec 6) (w : Bool)
  | cmp (cond : Cond) (d a b : BitVec 6)
  | sel (d a b : BitVec 6)
  | clz (d a : BitVec 6) (w : Bool)
  | ctz (d a : BitVec 6) (w : Bool)
  | popc (d a : BitVec 6) (w : Bool)
  | brev (d a : BitVec 6) (w : Bool)
  | bext (d a b : BitVec 6) (w : Bool)
  | bins (d a b : BitVec 6) (w : Bool)
  | addi (d a : BitVec 6) (imm : BitVec 10)
  | andi (d a : BitVec 6) (imm : BitVec 10)
  | ori (d a : BitVec 6) (imm : BitVec 10)
  | xori (d a : BitVec 6) (imm : BitVec 10)
  | shli (d a : BitVec 6) (sh : BitVec 6)
  | shri (d a : BitVec 6) (sh : BitVec 6)
  | srai (d a : BitVec 6) (sh : BitVec 6)
  | muli (d a : BitVec 6) (imm : BitVec 10)
  | cmpi (cond : Cond) (d a : BitVec 6) (imm : BitVec 10)
  | li (d : BitVec 6) (imm : BitVec 16)
  | lsi (d : BitVec 6) (imm : BitVec 16)
  | pmovToP (p : BitVec 5) (a : BitVec 6)
  | pmovFromP (d : BitVec 6) (p : BitVec 5)
  | beq (a b : BitVec 6) (off : BitVec 10)
  | bne (a b : BitVec 6) (off : BitVec 10)
  | blt (a b : BitVec 6) (off : BitVec 10)
  | bge (a b : BitVec 6) (off : BitVec 10)
  | bltu (a b : BitVec 6) (off : BitVec 10)
  | bgeu (a b : BitVec 6) (off : BitVec 10)
  | j (off : BitVec 22)
  | call (off : BitVec 22)
  | jr (a : BitVec 6)
  | callr (a : BitVec 6)
  | sLoop (a : BitVec 6) (len : BitVec 10)
  | ldS8 (d r : BitVec 6) (slot imm : BitVec 5)
  | ldN8 (d r : BitVec 6) (slot imm : BitVec 5)
  | ldS16 (d r : BitVec 6) (slot imm : BitVec 5)
  | ldN16 (d r : BitVec 6) (slot imm : BitVec 5)
  | ldS32 (d r : BitVec 6) (slot imm : BitVec 5)
  | ldN32 (d r : BitVec 6) (slot imm : BitVec 5)
  | ld64 (d r : BitVec 6) (slot imm : BitVec 5)
  | st8 (d r : BitVec 6) (slot imm : BitVec 5)
  | st16 (d r : BitVec 6) (slot imm : BitVec 5)
  | st32 (d r : BitVec 6) (slot imm : BitVec 5)
  | st64 (d r : BitVec 6) (slot imm : BitVec 5)
  | stNt8 (d r : BitVec 6) (slot imm : BitVec 5)
  | stNt16 (d r : BitVec 6) (slot imm : BitVec 5)
  | stNt32 (d r : BitVec 6) (slot imm : BitVec 5)
  | stNt64 (d r : BitVec 6) (slot imm : BitVec 5)
  | ldAcqN32 (scope : Scope) (d r : BitVec 6) (slot imm : BitVec 5)
  | ldAcq64 (scope : Scope) (d r : BitVec 6) (slot imm : BitVec 5)
  | stRel32 (scope : Scope) (d r : BitVec 6) (slot imm : BitVec 5)
  | stRel64 (scope : Scope) (d r : BitVec 6) (slot imm : BitVec 5)
  | fenceRel (scope : Scope)
  | fenceAcq (scope : Scope)
  | fenceFull (scope : Scope)
  | fenceAlias
  | phase (d : BitVec 6) (group : BitVec 8)
  | phaseArrive (d : BitVec 6) (group : BitVec 8)
  | phaseWait (d : BitVec 6) (group : BitVec 8)
  | grpInit (d a : BitVec 6)
  | grpFree (group : BitVec 8)
  | tokWait (strand : BitVec 2) (count : BitVec 6)
  | tokPost (strand : BitVec 2) (count : BitVec 6)
  | mwait (scope : Scope) (d r : BitVec 6) (slot imm : BitVec 5)
  | chunkInit (a b : BitVec 6)
  | chunkFetch (d a : BitVec 6)
  | spawn (d a b : BitVec 6)
  | notify (a b : BitVec 6)
  | yield
  | sExit
  | sNop
  | sRegionEnter (imm : BitVec 16)
  | sRegionLeave
  | genSet (g : BitVec 4) (r : BitVec 6) (slot imm : BitVec 5)
  | genSkip (g : BitVec 4) (a b : BitVec 6)
  | amoAdd (wide : Bool) (scope : Scope) (ord : MemOrd) (d r : BitVec 6) (slot imm : BitVec 5)
  | amoAnd (wide : Bool) (scope : Scope) (ord : MemOrd) (d r : BitVec 6) (slot imm : BitVec 5)
  | amoOr (wide : Bool) (scope : Scope) (ord : MemOrd) (d r : BitVec 6) (slot imm : BitVec 5)
  | amoXor (wide : Bool) (scope : Scope) (ord : MemOrd) (d r : BitVec 6) (slot imm : BitVec 5)
  | amoSwap (wide : Bool) (scope : Scope) (ord : MemOrd) (d r : BitVec 6) (slot imm : BitVec 5)
  | amoSmin (wide : Bool) (scope : Scope) (ord : MemOrd) (d r : BitVec 6) (slot imm : BitVec 5)
  | amoSmax (wide : Bool) (scope : Scope) (ord : MemOrd) (d r : BitVec 6) (slot imm : BitVec 5)
  | amoUmin (wide : Bool) (scope : Scope) (ord : MemOrd) (d r : BitVec 6) (slot imm : BitVec 5)
  | amoUmax (wide : Bool) (scope : Scope) (ord : MemOrd) (d r : BitVec 6) (slot imm : BitVec 5)
  | amoCas (w : CasWidth) (scope : Scope) (ord : MemOrd) (d r : BitVec 6) (slot imm : BitVec 5)
  | amoFaddF32 (scope : Scope) (ord : MemOrd) (d r : BitVec 6) (slot imm : BitVec 5)
  | amoFaddBf16 (scope : Scope) (ord : MemOrd) (d r : BitVec 6) (slot imm : BitVec 5)
  | amoFminF32 (scope : Scope) (ord : MemOrd) (d r : BitVec 6) (slot imm : BitVec 5)
  | amoFmaxF32 (scope : Scope) (ord : MemOrd) (d r : BitVec 6) (slot imm : BitVec 5)
  | trap (imm : BitVec 16)
  | resume (a : BitVec 6)
  | ctxSave (a : BitVec 6)
  | ctxLoad (a : BitVec 6)
  | dtabLoad (a b : BitVec 6)
  | capDeleg (d a b : BitVec 6)
  | capRevoke (a : BitVec 6)
  | capCheck (d a : BitVec 6)
  | evSel (a b : BitVec 6)
  | evRead (d a : BitVec 6)
  | snapRead (d a : BitVec 6)
  | ttInval (a b : BitVec 6)
  | slogReplay (a b : BitVec 6)
  | migrate (a b : BitVec 6)
  | stop (a b : BitVec 6)
  | xmode (det : Bool)
  | halt
  | wfi
  | sysr (d : BitVec 6) (num : BitVec 16)
  | sysw (d : BitVec 6) (num : BitVec 16)
  | vNop (tk : Tok)
  | vExit (tk : Tok)
  | vLoop (tk : Tok) (len : BitVec 12) (n : BitVec 5)
  | vRegionEnter (tk : Tok) (imm : BitVec 16)
  | vRegionLeave (tk : Tok)
  | vshape (tk : Tok) (n : BitVec 5)
  | vsetlen (tk : Tok) (n : BitVec 5)
  | mand (tk : Tok) (d a b : BitVec 3)
  | mor (tk : Tok) (d a b : BitVec 3)
  | mxor (tk : Tok) (d a b : BitVec 3)
  | mandn (tk : Tok) (d a b : BitVec 3)
  | mnot (tk : Tok) (d a : BitVec 3)
  | mfromv (tk : Tok) (d : BitVec 3) (a : BitVec 6)
  | vadd (tk : Tok) (d a b : BitVec 6)
  | vsub (tk : Tok) (d a b : BitVec 6)
  | vmul (tk : Tok) (d a b : BitVec 6)
  | vfma (tk : Tok) (d a b : BitVec 6)
  | vfms (tk : Tok) (d a b : BitVec 6)
  | vmin (tk : Tok) (d a b : BitVec 6)
  | vmax (tk : Tok) (d a b : BitVec 6)
  | vdiv (tk : Tok) (d a b : BitVec 6)
  | vand (tk : Tok) (d a b : BitVec 6)
  | vor (tk : Tok) (d a b : BitVec 6)
  | vxor (tk : Tok) (d a b : BitVec 6)
  | vshl (tk : Tok) (d a b : BitVec 6)
  | vshr (tk : Tok) (d a b : BitVec 6)
  | vsra (tk : Tok) (d a b : BitVec 6)
  | vaddS (tk : Tok) (d a : BitVec 6) (n : BitVec 5)
  | vsubS (tk : Tok) (d a : BitVec 6) (n : BitVec 5)
  | vmulS (tk : Tok) (d a : BitVec 6) (n : BitVec 5)
  | vfmaS (tk : Tok) (d a : BitVec 6) (n : BitVec 5)
  | vfmsS (tk : Tok) (d a : BitVec 6) (n : BitVec 5)
  | vminS (tk : Tok) (d a : BitVec 6) (n : BitVec 5)
  | vmaxS (tk : Tok) (d a : BitVec 6) (n : BitVec 5)
  | vdivS (tk : Tok) (d a : BitVec 6) (n : BitVec 5)
  | vandS (tk : Tok) (d a : BitVec 6) (n : BitVec 5)
  | vorS (tk : Tok) (d a : BitVec 6) (n : BitVec 5)
  | vxorS (tk : Tok) (d a : BitVec 6) (n : BitVec 5)
  | vshlS (tk : Tok) (d a : BitVec 6) (n : BitVec 5)
  | vshrS (tk : Tok) (d a : BitVec 6) (n : BitVec 5)
  | vsraS (tk : Tok) (d a : BitVec 6) (n : BitVec 5)
  | vabs (tk : Tok) (d a : BitVec 6)
  | vneg (tk : Tok) (d a : BitVec 6)
  | vrcp (tk : Tok) (d a : BitVec 6)
  | vsqrt (tk : Tok) (d a : BitVec 6)
  | vrsqrt (tk : Tok) (d a : BitVec 6)
  | vexp2 (tk : Tok) (d a : BitVec 6)
  | vlog2 (tk : Tok) (d a : BitVec 6)
  | vsin (tk : Tok) (d a : BitVec 6)
  | vcos (tk : Tok) (d a : BitVec 6)
  | vmov (tk : Tok) (d a : BitVec 6)
  | vcmp (tk : Tok) (cond : VCond) (d : BitVec 3) (a b : BitVec 6)
  | vsel (tk : Tok) (d a b : BitVec 6)
  | vcvt (tk : Tok) (d a : BitVec 6) (n : BitVec 5)
  | vpack (tk : Tok) (d a : BitVec 6) (n : BitVec 5)
  | vunpack (tk : Tok) (d a : BitVec 6) (n : BitVec 5)
  | vrsum (tk : Tok) (d a : BitVec 6)
  | vrmax (tk : Tok) (d a : BitVec 6)
  | vrmin (tk : Tok) (d a : BitVec 6)
  | vperm (tk : Tok) (d a b : BitVec 6)
  | vslup (tk : Tok) (d a : BitVec 6) (n : BitVec 5)
  | vsldn (tk : Tok) (d a : BitVec 6) (n : BitVec 5)
  | vbcast (tk : Tok) (d : BitVec 6) (n : BitVec 5)
  | vlut (tk : Tok) (d a b : BitVec 6)
  | vld (tk : Tok) (d : BitVec 6) (slot n : BitVec 5)
  | vst (tk : Tok) (d : BitVec 6) (slot n : BitVec 5)
  | vstNt (tk : Tok) (d : BitVec 6) (slot n : BitVec 5)
  | vgather (tk : Tok) (d : BitVec 6) (slot : BitVec 5) (i : BitVec 6)
  | vscatter (tk : Tok) (d : BitVec 6) (slot : BitVec 5) (i : BitVec 6)
  | vupd (tk : Tok) (d : BitVec 6) (slot n : BitVec 5)
  | mNop (tk : Tok)
  | mExit (tk : Tok)
  | mLoop (tk : Tok) (n : BitVec 5) (len : BitVec 13)
  | mRegionEnter (tk : Tok) (imm : BitVec 16)
  | mRegionLeave (tk : Tok)
  | mcfg (tk : Tok) (n : BitVec 5)
  | manchor (tk : Tok) (tile : Bool) (n : BitVec 5)
  | manchorAuto (tk : Tok) (tile : Bool)
  | mzero (tk : Tok) (tile : Bool)
  | mstat (tk : Tok) (slot c : BitVec 5) (clr : Bool)
  | msamp (tk : Tok) (bnd : Bool) (slot c : BitVec 5) (clr : Bool)
  | mmd (tk : Tok) (m : MulArgs)
  | mms (tk : Tok) (m : MulArgs) (aslot : BitVec 4) (bslot : Option (BitVec 4))
  | mmn (tk : Tok) (m : MulArgs) (aslot : BitVec 4) (bslot : Option (BitVec 4))
  | mmc (tk : Tok) (m : MulArgs) (tab : TRef)
  | mtab (tk : Tok) (two : Bool) (t : TRef)
  | mrd (tk : Tok) (r : MrdArgs)
  | mst (tk : Tok) (tile : Bool) (t : TRef)
  | mld (tk : Tok) (tile : Bool) (t : TRef)
  | mmerge (tk : Tok) (prof : BitVec 6) (tile : Bool) (t : TRef) (row0 : BitVec 7) (rows : BitVec 8)
  | xNop (tk : Tok)
  | xExit (tk : Tok)
  | xLoop (tk : Tok) (n : BitVec 5) (len : BitVec 13)
  | xRegionEnter (tk : Tok) (imm : BitVec 16)
  | xRegionLeave (tk : Tok)
  | copy (tk : Tok) (c : CopyArgs)
  | copyOrder (tk : Tok) (c : CopyArgs) (o : Order)
  | copyEnc (tk : Tok) (c : CopyArgs) (code : BitVec 8)
  | copyEncOrder (tk : Tok) (c : CopyArgs) (code : BitVec 8) (o : Order)
  | copyDec (tk : Tok) (c : CopyArgs) (tab : Option LockRef)
  | copyDecOrder (tk : Tok) (c : CopyArgs) (tab : Option LockRef) (o : Order)
  | copySt (tk : Tok) (c : CopyArgs) (st : StampRef)
  | copyStOrder (tk : Tok) (c : CopyArgs) (st : StampRef) (o : Order)
  | metaLoad (tk : Tok) (nslot : BitVec 5) (islot : BitVec 4) (t : TRef)
  | metaLoadOrder (tk : Tok) (nslot : BitVec 5) (islot : BitVec 4) (t : TRef) (o : Order)
  | gather (tk : Tok) (g : GatherArgs)
  | gatherOrder (tk : Tok) (g : GatherArgs) (o : Order)
  | scatter (tk : Tok) (g : GatherArgs)
  | scatterOrder (tk : Tok) (g : GatherArgs) (o : Order)
  | scatterBin (tk : Tok) (v : TBox) (idx : LockRef) (bins : TRef)
  | scatterBinOrder (tk : Tok) (v : TBox) (idx : LockRef) (bins : TRef) (o : Order)
  | binApply (tk : Tok) (pb : BitVec 5) (arr : Bool) (bins : TRef)
  | binApplyOrder (tk : Tok) (pb : BitVec 5) (arr : Bool) (bins : TRef) (o : Order)
  | put (tk : Tok) (lk : Option (BitVec 5)) (st : Option (BitVec 5)) (s : TBox) (ppkg paddr : BitVec 5)
  | putOrder (tk : Tok) (lk : Option (BitVec 5)) (st : Option (BitVec 5)) (s : TBox) (ppkg paddr : BitVec 5) (o : Order)
  | get (tk : Tok) (lk : Option LockRef) (d : TBox) (ppkg paddr : BitVec 5)
  | getOrder (tk : Tok) (lk : Option LockRef) (d : TBox) (ppkg paddr : BitVec 5) (o : Order)
  | mcast (tk : Tok) (lk : Option LockRef) (s d : TBox) (cores : Option (BitVec 5))
  | mcastOrder (tk : Tok) (lk : Option LockRef) (s d : TBox) (cores : Option (BitVec 5)) (o : Order)
  | walk (tk : Tok) (w : WalkArgs)
  | walkOrder (tk : Tok) (w : WalkArgs) (o : Order)
  | permit (tk : Tok) (n : BitVec 8) (wn : BitVec 3)
  | permitOrder (tk : Tok) (n : BitVec 8) (wn : BitVec 3) (o : Order)
  | lockSet (tk : Tok) (pt : BitVec 5) (l : TRef)
  | lockSetOrder (tk : Tok) (pt : BitVec 5) (l : TRef) (o : Order)
  | alloc (tk : Tok) (status : LockRef) (zero : Bool) (cls : BitVec 2) (t : TBox)
  | allocOrder (tk : Tok) (status : LockRef) (zero : Bool) (cls : BitVec 2) (t : TBox) (o : Order)
  | free (tk : Tok) (t : TBox)
  | freeOrder (tk : Tok) (t : TBox) (o : Order)
  | renew (tk : Tok) (t : TBox)
  | renewOrder (tk : Tok) (t : TBox) (o : Order)
  | ringPut (tk : Tok) (verd : BitVec 2) (s : TRef) (ring : BitVec 5)
  | ringPutOrder (tk : Tok) (verd : BitVec 2) (s : TRef) (ring : BitVec 5) (o : Order)
  | ringTake (tk : Tok) (cur : BitVec 3) (ring : BitVec 5) (d : TRef) (status : LockRef)
  | ringTakeOrder (tk : Tok) (cur : BitVec 3) (ring : BitVec 5) (d : TRef) (status : LockRef) (o : Order)
  | ringClose (tk : Tok) (ring : BitVec 5)
  | ringCloseOrder (tk : Tok) (ring : BitVec 5) (o : Order)
  | coll (tk : Tok) (c : CollArgs)
  | collOrder (tk : Tok) (c : CollArgs) (o : Order)
  deriving DecidableEq, Repr

end Sys2Proof
end

