-- ==== Sys2Proof/Machine/CoreTypes.lean ====
section
/-! DEFINITION. The state of one core (14_core.md): its crew, its four strands, registers, tokens, the X command queue,
the matrix engine, the side log, translation caches and counters. The default value of each field is its value at
reset. -/

namespace Sys2Proof.Machine

/-- One loop stack entry (R472). -/
structure LoopEnt where
  start  : W32 := 0
  stop   : W32 := 0
  remain : Word := 0
  deriving DecidableEq, Repr, Inhabited

/-- PROGRESS of a scoreboard entry (R241). -/
inductive Progress where
  | none | part | all | fault
  deriving DecidableEq, Repr, Inhabited

/-- The one instruction of an S, V or M strand that has issued and not finished: its scoreboard entry (R241, R293; one at a time on S and V, DESIGN CHOICE,
log 133; the second entry of M is `MState.second`).
`words` are the words it was decoded from and `next` a pc that a
saved image gave the strand instead of the one it would go on at, `entry` the decode table entry of its head, `ps` the p registers it read at issue (R280), `results` values held for
destination registers, `post` the token counter it posts to and by how much, `arrival` the PHASE value a held `phase`
arrived at (R370), `seq` the number of an M command (R464), `notBefore` the fabric time before which a
refused access is not sent again (R223), `performed` that a † form has been performed and waits (R463), `sent` how many of its pieces have gone
(R28; log 116), `mem` the MEM rights that were in force when it issued
(R92), `probe` that it stands in for the first entry of M while it tries for the second. -/
structure Held where
  pc        : W32 := 0
  next      : Option W32 := none
  words     : List W32 := []
  entry     : BitVec 16 := 0
  ps        : List Word := []
  progress  : Progress := .none
  point     : Nat := 0
  results   : List (BitVec 6 × Word) := []
  discard   : Bool := false
  post      : Option (Nat × Nat) := none
  arrival   : Option W32 := none
  seq       : Option W32 := none
  notBefore : Nat := 0
  performed : Bool := false
  sent      : Nat := 0
  mem       : BitVec 16 := 0
  probe     : Bool := false
  deriving DecidableEq, Repr, Inhabited

/-- One strand (R276, R291, R292, R472): `live` from its start until it exits; `headOk` once its check of the
code object's header has passed (R275); region and loop stacks with the top
entry first; `fault` the kind and subcode of the first fault of a stop (R232). -/
structure StrandSt where
  pc      : W32 := 0
  live    : Bool := false
  headOk  : Bool := false
  held    : Option Held := none
  region  : List (BitVec 16) := []
  lost    : Bool := false
  loops   : List LoopEnt := []
  armed   : Bool := false
  fault   : Option (Nat × Nat) := none
  relNext : Option Scope := none
  deriving DecidableEq, Repr, Inhabited

/-- The crew resident on a core (R97, R143, R275): whose it is, where its code is, its slot map and the descriptors it
has read (R141). `stage` is the stage number of a stage crew, `holdRec` the set
record it has not finished (R127), `ended` the rings at which it has taken END (R126), `header` the header as it stood at placement (R275). -/
structure Crew where
  part    : BitVec 5 := 0
  ctx     : BitVec 3 := 0
  acc     : Nat := 0
  rank    : Nat := 0
  size    : Nat := 1
  code    : Nat := 0
  secOff  : List W32 := []
  secLen  : List W32 := []
  slots   : List (BitVec 16) := []
  descs   : List (Nat × BitVec 512) := []
  groups  : List (BitVec 8) := []
  chunkq  : Option (BitVec 6) := none
  stage   : Option Nat := none
  holdRec : Option Nat := none
  ended   : List Nat := []
  header  : Option (List Byte) := none
  coop    : Bool := false
  deriving DecidableEq, Repr, Inhabited

/-- What a side log entry does when it is replayed (R221). -/
inductive SlogOp where
  | store (bytes : List Byte)
  | update (r : UpdReq)
  | atomic (op : AtomOp) (w : Nat) (cmp v : BitVec 128)
  deriving DecidableEq, Repr

/-- One side log entry (R221): its number, the key, the offset, the operation, the strand and pc it came from, its scope
and ordering, whether it waits for an invalidation rather than for a mapping (R229), the slot and head word that a record
of it names, and the MEM rights in force when its instruction issued (R92). -/
structure SlogEnt where
  id     : Nat
  ctx    : BitVec 3
  tensor : BitVec 12
  tile   : Nat
  offset : Nat
  op     : SlogOp
  strand : Strand
  pc     : W32
  scope  : Scope := .core
  ord    : MemOrd := .rlx
  defer  : Bool := false
  slot   : Nat := 0
  word   : W32 := 0
  mem    : BitVec 16 := 0
  deriving DecidableEq, Repr

/-- A non-temporal store in the write-combining buffer (R212), with what a record of it names. -/
structure NtStore where
  ctx    : BitVec 3
  tensor : BitVec 12
  tile   : Nat
  offset : Nat
  bytes  : List Byte
  strand : Strand
  slot   : Nat
  pc     : W32
  word   : W32
  mem    : BitVec 16 := 0
  deriving DecidableEq, Repr

/-- One translation cache entry (R216). -/
structure TcEnt where
  ctx    : BitVec 3
  tensor : BitVec 12
  tile   : Nat
  entry  : BitVec 64
  deriving DecidableEq, Repr, Inhabited

/-- A decode table: its edition and the entries that differ from the published table (R288, R330). -/
structure DTab where
  edition : BitVec 8 := 1
  changed : List (Nat × BitVec 16) := []
  deriving DecidableEq, Repr, Inhabited

/-- A generator descriptor: the 64 bytes of R176 and the frequency table. -/
structure GenDesc where
  d : BitVec 512 := 0
  f : BitVec 2048 := 0
  deriving DecidableEq, Repr, Inhabited

/-- The X commands (R417), without their tokens and ORDER words. -/
inductive XKind where
  | copy (c : CopyArgs)
  | copyEnc (c : CopyArgs) (code : BitVec 8)
  | copyDec (c : CopyArgs) (tab : Option LockRef)
  | copySt (c : CopyArgs) (st : StampRef)
  | metaLoad (nslot : BitVec 5) (islot : BitVec 4) (t : TRef)
  | gather (g : GatherArgs)
  | scatter (g : GatherArgs)
  | scatterBin (v : TBox) (idx : LockRef) (bins : TRef)
  | binApply (pb : BitVec 5) (arr : Bool) (bins : TRef)
  | put (lk st : Option (BitVec 5)) (s : TBox) (ppkg paddr : BitVec 5)
  | get (lk : Option LockRef) (d : TBox) (ppkg paddr : BitVec 5)
  | mcast (lk : Option LockRef) (s d : TBox) (cores : Option (BitVec 5))
  | walk (w : WalkArgs)
  | permit (n : BitVec 8) (wn : BitVec 3)
  | lockSet (pt : BitVec 5) (l : TRef)
  | alloc (status : LockRef) (zero : Bool) (cls : BitVec 2) (t : TBox)
  | free (t : TBox)
  | renew (t : TBox)
  | ringPut (verd : BitVec 2) (s : TRef) (ring : BitVec 5)
  | ringTake (cur : BitVec 3) (ring : BitVec 5) (d : TRef) (status : LockRef)
  | ringClose (ring : BitVec 5)
  | coll (c : CollArgs)
  deriving DecidableEq, Repr

/-- A piece handed to the network interface and not yet acknowledged (R317): its command, its payload bytes, and where it
lands: at a number of this package, written by PIECE_ACK, or in the packet with a tag. `lock` when a lock word counts it
(R325): that of core `dest` for a multicast (R424). -/
structure Piece where
  seq  : W32
  n    : Nat
  mem  : Option (Nat × List Byte) := none
  tag  : Nat := 0
  lock : Bool := false
  dest : Option Nat := none
  deriving DecidableEq, Repr

/-- A performed piece that a lock word has yet to count (R325). -/
structure LockCount where
  seq  : W32
  n    : Nat
  dest : Option Nat := none
  deriving DecidableEq, Repr

/-- One entry of the X command queue (R285, R314, R241). `started` while in execution, `ready` once its operands have passed
the checks made at start (R416), `fin` once nothing of it is left to hand. `point` is POINT of R241 (pieces, pairs, records,
tiles or rows), `total` its end, `inner` the pieces handed of the tile that a walk moves and `moving` while it moves one.
`reads` and `writes` are the footprint of R316 by unit, `cuts` the first elements of the pieces, `vals` numbers read at the
start (indices, a bin set's header, a contribution), `stamped` when the stamp has been written; `mem` the MEM rights in force at issue (R92). -/
structure XCmd where
  seq      : W32
  pc       : W32
  word     : W32
  kind     : XKind
  order    : Option Order
  ps       : List Word
  det      : Bool
  post     : Option (Nat × Nat)
  started  : Bool := false
  ready    : Bool := false
  fin      : Bool := false
  progress : Progress := .none
  point    : Nat := 0
  total    : Nat := 0
  inner    : Nat := 0
  moving   : Bool := false
  reads    : List Nat := []
  writes   : List Nat := []
  cuts     : List Nat := []
  vals     : List Nat := []
  stamped  : Bool := false
  discard  : Bool := false
  notBefore : Nat := 0
  mem      : BitVec 16 := 0
  deriving DecidableEq, Repr

/-- A walk number in use (R430, R431): its command and the permits it holds (R329). -/
structure WalkSt where
  wn      : BitVec 3
  seq     : W32
  permits : Nat := 0
  deriving DecidableEq, Repr

/-- X strand state (R285, R314, R323): XSEQ, the mode, SEQ of `scatter.bin`, the command queue in issue order, pieces at the
network interface, counts due, and walk numbers in use. -/
structure XState where
  xseq    : W32 := 0
  det     : Bool := false
  binSeq  : W32 := 0
  queue   : List XCmd := []
  net     : List Piece := []
  counts  : List LockCount := []
  walks   : List WalkSt := []
  deriving DecidableEq, Repr, Inhabited

/-- One accumulator tile (R284, R402): the elements that are not zero, the OVF bits and the anchor. -/
structure Tile where
  el     : SMap (BitVec 128) := []
  ovf    : BitVec 8192 := 0
  anchor : BitVec 16 := 0
  auto   : Bool := false
  taken  : Bool := false
  deriving DecidableEq, Repr, Inhabited

/-- An entry pushed to the array (R302): its array row, its k-step and its A value. -/
structure MEntry where
  arr  : Nat
  q    : Nat
  a    : Val
  deriving DecidableEq, Repr

/-- A slot of the B-window (R301): k-step, k, the cycle from which it is loaded, whether its load has finished, and the
elements of B row k: none where the column mask leaves one out. -/
structure MSlot where
  q    : Nat
  k    : Nat
  loaded : Nat
  ready : Bool := false
  row  : List (Option Val) := []
  deriving DecidableEq, Repr

/-- A metadata stream's header as the front end has checked it (R297, R298): KIND, first slot, slots, NITEMS, NVALS. -/
structure MHdr where
  kind   : Nat
  slot   : Nat
  nslots : Nat
  items  : Nat
  vals   : Nat
  deriving DecidableEq, Repr

/-- A sparse command under way (R300 to R306). `geo` is ROWS, COLS and K, `aCode` and `bCode` the operands' formats, `split`
the helper rows of each split output row; `cycle` counts core cycles, `item` is the next item; `staged` holds the entries
(k, row, value) of an item that has passed ITEM and `rows` the B rows fetched for it, `slotsOn` when its k-steps have slots. `walk` is 0 while items remain, 1
in DRAIN, 2 in FAULT with the fault in `bad`; `merge` counts merge cycles, `fin` says that the command has completed. -/
structure MRun where
  a       : MulArgs
  ah      : MHdr
  bh      : Option MHdr
  seq     : W32
  lag     : Nat
  geo     : Nat × Nat × Nat
  aCode   : Nat
  bCode   : Nat
  split   : List (Nat × List Nat)
  cycle   : Nat := 0
  item    : Nat := 0
  apop    : Nat := 0
  bchk    : Nat := 0
  staged  : Option (List (Nat × Nat × Val)) := none
  rows    : List (Nat × List (Option Val)) := []
  slotsOn : Bool := false
  group   : Option Nat := none
  q       : Nat := 0
  loadAt  : Nat := 0
  slots   : List MSlot := []
  loads   : List Nat := []
  queues  : List MEntry := []
  overq   : List MEntry := []
  last    : List (Nat × Nat) := []
  pushed  : List (Nat × Nat) := []
  carry   : List (Nat × List (Val × List (Option Val))) := []
  walk    : Nat := 0
  merge   : Nat := 0
  bad     : Option (Nat × Nat × BitVec 320) := none
  fin     : Bool := false
  deriving DecidableEq, Repr

/-- A weight-path table slot (R313): tag, the table once it has arrived, and for a load under way the tensor slot and the
instruction that asked. The slot used last comes first. -/
structure TabSlot where
  tensor : BitVec 12
  block  : Nat
  table  : Option (List Byte)
  slot   : BitVec 5 := 0
  pc     : W32 := 0
  word   : W32 := 0
  deriving DecidableEq, Repr

/-- M strand state (R284, R296, R311, R313, R402, R414, R464). `second` is the command that waits in the strand's second scoreboard entry while
the first is in progress (R294). -/
structure MState where
  cfg      : Word := 15
  seq      : W32 := 0
  a0       : Tile := {}
  a1       : Tile := {}
  index    : SMap Byte := []
  stats    : List Word := [0, 0, 0, 0, 0, 0, 0, 0]
  sampled  : W32 := 0
  mismatch : W32 := 0
  sampOff  : BitVec 6 := 0
  bnd      : BitVec 16 := 0
  tabs     : List TabSlot := []
  run      : Option MRun := none
  second   : Option Held := none
  deriving DecidableEq, Repr, Inhabited

/-- Counters and the snapshot buffer (R93 to R95). `busy` while a snapshot copy runs, which takes until `doneAt`. -/
structure EvState where
  ev     : List Word := [0, 0, 0, 0, 0, 0, 0, 0]
  sel    : List (BitVec 6) := [0, 0, 0, 0, 0, 0, 0, 0]
  ovf    : BitVec 8 := 0
  matrix : SMap (BitVec 32) := []
  snap   : SMap Byte := []
  busy   : Bool := false
  doneAt : Nat := 0
  deriving DecidableEq, Repr, Inhabited

/-- Yield state (R117, R367, R445). -/
structure YieldSt where
  deadline : Option Nat := none
  wake     : Bool := false
  draining : Bool := false
  coop     : Bool := false
  deriving DecidableEq, Repr, Inhabited

/-- A trace stream set up by the crew (R461, R462). -/
structure TraceSt where
  target : Word := 0
  buf    : Word := 0
  count  : Word := 0
  gen    : W32 := 0
  deriving DecidableEq, Repr, Inhabited

/-- One stop record (R235). -/
structure StopRec where
  state  : Nat := 0
  why    : Nat := 0
  sb     : Nat := 0
  pc     : W32 := 0
  word   : W32 := 0
  kind   : Nat := 0
  sub    : Nat := 0
  rdepth : Nat := 0
  lost   : Bool := false
  region : W32 := 0
  xseq   : W32 := 0
  arrive : Nat := 0
  deriving DecidableEq, Repr, Inhabited

/-- A chunk fetch or set-up that waits at its queue (R108, R109, R363): when it came, the register that takes what a fetch returns or the state that a set-up
makes, whether a fetch has become a steal, the neighbours that the steal has still to try, the one asked first, and whether the fetch itself is gone. -/
structure Steal where
  part   : BitVec 5
  ctx    : BitVec 3
  q      : BitVec 6
  came   : Nat
  d      : BitVec 6 := 0
  init   : Option (BitVec 256) := none
  asked  : Bool := false
  left   : List Nat := []
  orphan : Bool := false
  deriving DecidableEq, Repr

/-- One core. -/
structure Core where
  crew     : Option Crew := none
  clearing : Bool := false
  strands  : Vector StrandSt 4 := Vector.replicate 4 {}
  x        : Vector Word 64 := Vector.replicate 64 0
  /-- x registers that wait for the value of a logged atomic: register, number of the entry (R221). -/
  pend     : List (BitVec 6 × Nat × Nat) := []
  p        : Vector Word 32 := Vector.replicate 32 0
  v        : Vector VReg 64 := Vector.replicate 64 0
  masks    : Vector MReg 8 := Vector.replicate 8 0
  shape    : Word := 0x0000000800080001
  tok      : Vector (BitVec 6) 12 := Vector.replicate 12 0
  xs       : XState := {}
  ms       : MState := {}
  ev       : EvState := {}
  yld      : YieldSt := {}
  trace    : TraceSt := {}
  slog     : List SlogEnt := []
  wcb      : List NtStore := []
  posted   : List Nat := []
  tcs      : Vector (List TcEnt) 5 := Vector.replicate 5 []
  dtabs    : Vector DTab 4 := Vector.replicate 4 {}
  gens     : SMap GenDesc := []
  genUpd   : List (Nat × GenDesc) := []
  dtabUpd  : List (Nat × DTab) := []
  units    : Vector (BitVec 8) 256 := Vector.replicate 256 0
  stops    : List StopRec := []
  stopped  : Bool := false
  steal    : Option Steal := none
  monitor  : Option (Nat × Nat) := none
  deriving DecidableEq, Repr, Inhabited

/-- The strand record of a core. -/
def strandFin : Strand → Fin 4
  | .s => 0
  | .v => 1
  | .m => 2
  | .x => 3

/-- A strand of a core. -/
def Core.str (c : Core) (k : Strand) : StrandSt := c.strands[strandFin k]

/-- A core with one strand changed. -/
def Core.setStr (c : Core) (k : Strand) (t : StrandSt) : Core := { c with strands := c.strands.set (strandFin k) t }

end Sys2Proof.Machine
end

