-- ==== Sys2Proof/Machine/Accum.lean ====
section
/-! DEFINITION. Accumulator tiles and the arithmetic of the profiles (R264 to R274, R306, R307). -/

namespace Sys2Proof.Machine

/-- Window profiles (R268). -/
def windowProf (p : Nat) : Bool := p == 0 || p == 1 || p == 4 || p == 48

/-- The number of element (i, j). -/
def tileIdx (i j : Nat) : Nat := 64 * i + j

/-- An element as a signed 128-bit number. -/
def Tile.wAt (t : Tile) (x : Nat) : Int := (SMap.get 0 t.el x).toInt

/-- Bits [31:0] of an element. -/
def Tile.lowAt (t : Tile) (x : Nat) : W32 := (SMap.get 0 t.el x).setWidth 32

/-- The OVF bit of an element. -/
def Tile.ovfAt (t : Tile) (x : Nat) : Bool := t.ovf.getLsbD x

/-- Writes an element and may set its OVF bit. -/
def Tile.putEl (t : Tile) (x : Nat) (v : BitVec 128) (ovf : Bool) : Tile :=
  { t with el := SMap.put 0 t.el x v, ovf := if ovf then t.ovf ||| ((1 : BitVec 8192) <<< x) else t.ovf }

/-- A tile with every element and OVF bit 0 (R402). -/
def Tile.cleared (t : Tile) : Tile := { t with el := [], ovf := 0 }

/-- A tile with row i zero. -/
def Tile.zeroRow (t : Tile) (i : Nat) : Tile :=
  { t with el := SMap.write 0 t.el (64 * i) (List.replicate 64 0)
           ovf := t.ovf &&& ~~~(((1 : BitVec 8192) <<< 64 - 1) <<< (64 * i)) }

/-- The anchor as a number. -/
def Tile.anchorI (t : Tile) : Int := t.anchor.toInt

/-- A product under NP5 and NP6: rounded by RNE to an integer; a NaN operand contributes 0 and sets OVF (R272). -/
def intTerm (a b : Val) : Int × Bool :=
  match Val.mul a b with
  | .fin neg m e => (signed neg (roundAt rne neg m e 0), false)
  | _ => (0, true)

/-- An s32 sum: wrapped under NP5, clamped with OVF under NP6 (R272). -/
def sumS32 (clamp : Bool) (acc : W32) (n : Int) : BitVec 128 × Bool :=
  let x := acc.toInt + n
  let y := if clamp then clampInt 32 true x else x
  ((BitVec.ofInt 32 y).signExtend 128, clamp && decide (x ≠ y))

/-- A contribution to a window element. -/
def Tile.windowPut (t : Tile) (x : Nat) (v : Val) : Tile :=
  let (w, o) := windowAdd t.anchorI (t.wAt x) v
  t.putEl x (BitVec.ofInt 128 w) o

/-- An FP32 addition to an element, the element's value first (R269). -/
def Tile.fpPut (t : Tile) (x : Nat) (v : Nat) : Tile :=
  t.putEl x (BitVec.ofNat 128 (add32 (t.lowAt x).toNat v)) false

/-- A product as FP32 (R269). -/
def prod32 (a b : Val) : Nat := encodeVal 1 rne false false (Val.mul a b)

/-- The six products of NP4 (R271). -/
def slicesOf (a b : Val) : List Val :=
  match a, b with
  | .fin .., .fin .. =>
    let (ah, am, al) := slices a
    let (bh, bm, bl) := slices b
    [Val.mul ah bh, Val.mul ah bm, Val.mul am bh, Val.mul ah bl, Val.mul am bm, Val.mul al bh]
  | _, _ => [Val.mul a b]

/-- One contribution a × b to element x (R264, R269, R271, R272). -/
def contribute (p : Nat) (t : Tile) (x : Nat) (a b : Val) : Tile :=
  match p with
  | 2 => t.fpPut x (prod32 a b)
  | 3 => t.fpPut x (prod32 a b)
  | 4 => (slicesOf a b).foldl (fun t v => t.windowPut x v) t
  | 5 =>
    let (n, bad) := intTerm a b
    let (v, _) := sumS32 false (t.lowAt x) n
    t.putEl x v bad
  | 6 =>
    let (n, bad) := intTerm a b
    let (v, o) := sumS32 true (t.lowAt x) n
    t.putEl x v (o || bad)
  | _ => t.windowPut x (Val.mul a b)

/-- One group of NP3 (R270): the products are summed exactly, the sum is rounded once to FP32 and added. -/
def contributeGroup (t : Tile) (x : Nat) (ps : List (Val × Val)) : Tile :=
  let vs := ps.map fun p => Val.mul p.1 p.2
  match vs with
  | [] => t
  | v :: r =>
    let s := match vs.find? Val.isNan with
      | some n => n
      | none => r.foldl (Val.add rne) v
    t.fpPut x (encodeVal 1 rne false false s)

/-- Adds an element of another tile or row to element x (R306, R307): its bits, its anchor, its OVF bit. -/
def mergeEl (p : Nat) (t : Tile) (x : Nat) (w : BitVec 128) (anchor : Int) (ovf : Bool) : Tile :=
  if p = 2 ∨ p = 3 then
    let t := t.fpPut x (w.setWidth 32).toNat
    t.putEl x (SMap.get 0 t.el x) ovf
  else if p = 5 ∨ p = 6 then
    let (v, o) := sumS32 (p == 6) (t.lowAt x) (w.setWidth 32).toInt
    t.putEl x v (o || ovf)
  else
    let t := t.windowPut x (windowVal anchor w.toInt)
    t.putEl x (SMap.get 0 t.el x) ovf

/-- The value of an element under a profile (R267, R410). -/
def Tile.value (t : Tile) (p x : Nat) : Val :=
  if p = 2 ∨ p = 3 then decodeVal 1 (t.lowAt x).toNat
  else if p = 5 ∨ p = 6 then Val.ofInt (t.lowAt x).toInt
  else windowVal t.anchorI (t.wAt x)

/-- AUTO anchoring by a window-profile command (R266, R402). -/
def Tile.anchorAuto (t : Tile) (p : Nat) (a : Int) : Tile :=
  if windowProf p && t.auto && !t.taken then
    { t with anchor := BitVec.ofInt 16 (clampI (-32768) 32767 a), taken := true }
  else t

/-- Tile a0 or a1. -/
def MState.tile (m : MState) (one : Bool) : Tile := if one then m.a1 else m.a0

/-- Changes a tile. -/
def MState.setTile (m : MState) (one : Bool) (t : Tile) : MState := if one then { m with a1 := t } else { m with a0 := t }

/-- The image of a tile (R411): 135,168 bytes. -/
def Tile.image (t : Tile) : List Byte :=
  bvBytes 2 t.anchor ++ [BitVec.ofNat 8 ((if t.auto then 1 else 0) + if t.taken then 2 else 0)] ++ List.replicate 61 0 ++
    ((List.range 128).flatMap fun i => bvBytes 8 (t.ovf.extractLsb' (64 * i) 64)) ++ List.replicate 3008 0 ++
    (List.range 8192).flatMap fun x => bvBytes 16 (SMap.get 0 t.el x)

/-- A tile from its image. -/
def Tile.ofImage (b : List Byte) : Tile :=
  let flags := (b.getD 2 0)
  { el := SMap.write 0 [] 0 ((chunks 16 8192 (b.drop 4096)).map (leBV 128))
    ovf := leBV 8192 ((b.drop 64).take 1024)
    anchor := leBV 16 (b.take 2), auto := flags.getLsbD 0, taken := flags.getLsbD 1 }

end Sys2Proof.Machine
end

