-- ==== Sys2Proof/WellFormed.lean ====
section
/-! DEFINITION. Which instructions an encoding can name (R332, R334, R337, R340, R361, R392, R400, R402, R409, R416, R417,
R425, R431, R433, R437): the checks that the types of the operand fields do not already make. A device event is
always well formed. -/

namespace Sys2Proof

/-- Profiles published for M (R268). -/
def profM (p : BitVec 6) : Bool :=
  p == 0 || p == 1 || p == 2 || p == 3 || p == 4 || p == 5 || p == 6 || p == 48

/-- Profiles with an exact window (R264). -/
def profWindow (p : BitVec 6) : Bool := p == 0 || p == 1 || p == 4 || p == 48

/-- Profiles of `mmd` (R398). -/
def profDense (p : BitVec 6) : Bool := profM p

/-- Profiles of `mms` and `mmn` (R398): FP32 operands are dense only. -/
def profSparse (p : BitVec 6) : Bool := profM p && p != 4

/-- Profiles of `mmc` (R398). -/
def profCodebook (p : BitVec 6) : Bool := p == 0 || p == 1 || p == 2 || p == 3 || p == 48

/-- The RM field of `mrd` (R409): reserved under window profiles, a code of R258 otherwise. -/
def mrdMode (p : BitVec 6) (rm : BitVec 3) : Bool :=
  if profWindow p then rm == 0 else decide (rm.toNat ≤ 4)

/-- Block codes that a copy may encode (R420). -/
def encCode (c : BitVec 8) : Bool := decide (0x81 ≤ c.toNat ∧ c.toNat ≤ 0x88)

/-- The rounding field of a copy (R417). -/
def copyMode (c : CopyArgs) : Bool := decide (c.rm.toNat ≤ 4)

/-- The slots of `meta.load` (R425). -/
def metaSlots (nslot : BitVec 5) (islot : BitVec 4) : Bool :=
  decide (nslot ≠ 0 ∧ nslot.toNat + islot.toNat ≤ 16)

/-- LIST is 0 for a STORE walk (R430). -/
def walkList (w : WalkArgs) : Bool := !w.store || w.cores.isNone

/-- RED 3 raises ILLOP and PROOT is reserved but for a broadcast (R416, R437). -/
def collFields (c : CollArgs) : Bool := c.red != 3 && (c.op == 3 || c.proot == 0)

/-- The registers of a `cas` (R332, R340). -/
def casRegs (w : CasWidth) (d : BitVec 6) : Bool :=
  match w with
  | .w128 => !d.getLsbD 0 && decide (d.toNat ≤ 60)
  | _ => d != 63

/-- Whether some word of the published encodings is this instruction. -/
def Instr.wf : Instr → Bool
  | .sLoop _ len => len != 0
  | .vLoop _ len _ => len != 0
  | .mLoop _ _ len => len != 0
  | .xLoop _ _ len => len != 0
  | .tokWait st n => st != 0 && n != 0
  | .tokPost st n => st != 0 && n != 0
  | .chunkFetch d _ => d != 63
  | .ctxSave a => a != 63
  | .ctxLoad a => a != 63
  | .amoAdd _ _ _ d _ _ _ => d != 63
  | .amoAnd _ _ _ d _ _ _ => d != 63
  | .amoOr _ _ _ d _ _ _ => d != 63
  | .amoXor _ _ _ d _ _ _ => d != 63
  | .amoSwap _ _ _ d _ _ _ => d != 63
  | .amoSmin _ _ _ d _ _ _ => d != 63
  | .amoSmax _ _ _ d _ _ _ => d != 63
  | .amoUmin _ _ _ d _ _ _ => d != 63
  | .amoUmax _ _ _ d _ _ _ => d != 63
  | .amoCas w _ _ d _ _ _ => casRegs w d
  | .amoFaddF32 _ _ d _ _ _ => d != 63
  | .amoFaddBf16 _ _ d _ _ _ => d != 63
  | .amoFminF32 _ _ d _ _ _ => d != 63
  | .amoFmaxF32 _ _ d _ _ _ => d != 63
  | .mmd _ m => profDense m.prof
  | .mms _ m _ _ => profSparse m.prof
  | .mmn _ m _ _ => profSparse m.prof
  | .mmc _ m _ => profCodebook m.prof
  | .mrd _ r => profM r.prof && mrdMode r.prof r.rm
  | .mmerge _ p _ _ _ _ => profM p
  | .copy _ c => copyMode c
  | .copyOrder _ c _ => copyMode c
  | .copyEnc _ c code => copyMode c && encCode code
  | .copyEncOrder _ c code _ => copyMode c && encCode code
  | .copyDec _ c _ => copyMode c
  | .copyDecOrder _ c _ _ => copyMode c
  | .copySt _ c _ => copyMode c
  | .copyStOrder _ c _ _ => copyMode c
  | .metaLoad _ n i _ => metaSlots n i
  | .metaLoadOrder _ n i _ _ => metaSlots n i
  | .walk _ w => walkList w
  | .walkOrder _ w _ => walkList w
  | .permit _ n _ => n != 0
  | .permitOrder _ n _ _ => n != 0
  | .ringPut _ v _ _ => v != 3
  | .ringPutOrder _ v _ _ _ => v != 3
  | .coll _ c => collFields c
  | .collOrder _ c _ => collFields c
  | _ => true

end Sys2Proof
end

