-- ==== Sys2Proof/Decode.lean ====
section
/-! DEFINITION. Decoding and encoding (chapter 17): the opcode maps and lengths of R330 and R339 to R343, the default
decode tables, the decode of R289, the fields of each strand's words with the rejections of R337, and an encoder
written from the same encodings. -/

namespace Sys2Proof

/-- Bit `k` of a word. -/
def flag (h : W32) (k : Nat) : Bool := h.getLsbD k

/-- One bit from a Bool. -/
def bit (b : Bool) : BitVec 1 := if b then 1 else 0

/-- Answers `i` only when the reserved fields and lists of R337 allow the word. -/
def gate (c : Bool) (i : Instr) : Option Instr := if c then some i else none

/-- Continuation word `k`, 0 for the word after the head. -/
def cw (ws : List W32) (k : Nat) : W32 := ws.getD k 0

/-- The wait and post fields (R333, R334). -/
def tokOf (h : W32) : Tok := ⟨h.extractLsb' 20 2, h.extractLsb' 18 2⟩

/-- SLOT and PCRD of a TREF (R335). -/
def trefOf (w : W32) : TRef := ⟨w.extractLsb' 27 5, w.extractLsb' 22 5⟩

/-- SLOT, PCRD and PBOX of a TREF (R335). -/
def tboxOf (w : W32) : TBox := ⟨w.extractLsb' 27 5, w.extractLsb' 22 5, w.extractLsb' 17 5⟩

/-- A TREF whose PBOX and low bits are reserved. -/
def trefPlain (w : W32) : Bool := w.extractLsb' 0 22 == 0

/-- An indexed TREF (R417): PCRD, PBOX and [6:0] reserved. -/
def idxPlain (w : W32) : Bool := w.extractLsb' 17 10 == 0 && w.extractLsb' 0 7 == 0

/-- LK with LSLOT and LPC, reserved when LK is 0 (R417). -/
def lkOk (h : W32) : Bool := flag h 17 || h.extractLsb' 7 10 == 0

/-- The lock word that the head names. -/
def lkOf (h : W32) : Option LockRef :=
  if flag h 17 then some ⟨h.extractLsb' 12 5, h.extractLsb' 7 5⟩ else none

/-- LIST with PCORES, reserved when LIST is 0 (R417). -/
def listOk (w : W32) : Bool := w.extractLsb' 0 11 == 0 && (flag w 16 || w.extractLsb' 11 5 == 0)

/-- The p register that lists the cores. -/
def listOf (w : W32) : Option (BitVec 5) := if flag w 16 then some (w.extractLsb' 11 5) else none

/-- The ORDER word's reserved bits (R336). -/
def orderOk (w : W32) : Bool := w.extractLsb' 12 20 == 0

/-- The ORDER word's deltas (R336). -/
def orderOf (w : W32) : Order := ⟨w.extractLsb' 0 6, w.extractLsb' 6 6⟩

/-- Word 3 of `mrd` (R409): when EN is 0 the whole word except [16] is reserved. -/
def mrdOvf (w : W32) : Bool :=
  if flag w 16 then w.extractLsb' 0 16 == 0 && w.extractLsb' 17 5 == 0
  else w.extractLsb' 0 16 == 0 && w.extractLsb' 17 15 == 0

/-- The condition field of `cmp` (R332). -/
def condOf (m : BitVec 4) : Option Cond :=
  match m.toNat with
  | 0 => some .eq
  | 1 => some .ne
  | 2 => some .lt
  | 3 => some .ge
  | 4 => some .ltu
  | 5 => some .geu
  | _ => none

/-- The condition's number (R332). -/
def Cond.code : Cond → BitVec 4
  | .eq => 0
  | .ne => 1
  | .lt => 2
  | .ge => 3
  | .ltu => 4
  | .geu => 5

/-- The condition's place among opcodes 0x050 to 0x055 (R376). -/
def VCond.code : VCond → BitVec 10
  | .eq => 0
  | .ne => 1
  | .lt => 2
  | .le => 3
  | .gt => 4
  | .ge => 5

/-- The scope's number (R339). -/
def Scope.code : Scope → BitVec 10
  | .core => 0
  | .gang => 1
  | .die => 2
  | .pkg => 3
  | .fab => 4
  | .sys => 5

/-- The scope that a number names. -/
def scopeOf (n : Nat) : Scope :=
  match n with
  | 0 => .core
  | 1 => .gang
  | 2 => .die
  | 3 => .pkg
  | 4 => .fab
  | _ => .sys

/-- The ordering's number (R340). -/
def MemOrd.code : MemOrd → BitVec 10
  | .rlx => 0
  | .acq => 1
  | .rel => 2
  | .acqrel => 3

/-- The ordering that a number names. -/
def ordOf (n : Nat) : MemOrd :=
  match n with
  | 0 => .rlx
  | 1 => .acq
  | 2 => .rel
  | _ => .acqrel

/-- The width's place after k = 18 (R340). -/
def CasWidth.code : CasWidth → BitVec 10
  | .w32 => 0
  | .w64 => 1
  | .w128 => 2

/-- The opcode of an atomic (R340). -/
def amoOp (k : BitVec 10) (sc : Scope) (o : MemOrd) : BitVec 10 := 0x100 + 24 * k + 4 * sc.code + o.code

/-! ### Lengths and default tables (R330, R339 to R343) -/

/-- S opcodes of the map of R339. -/
def sListed (n : Nat) : Bool :=
  (1 ≤ n && n ≤ 0x1D) || (0x20 ≤ n && n ≤ 0x2D) || (0x30 ≤ n && n ≤ 0x33) || (0x40 ≤ n && n ≤ 0x4A) ||
  (0x50 ≤ n && n ≤ 0x56) || (0x58 ≤ n && n ≤ 0x6B) || (0x70 ≤ n && n ≤ 0x7B) || (0x80 ≤ n && n ≤ 0x85) ||
  (0x88 ≤ n && n ≤ 0x8D) || (0x90 ≤ n && n ≤ 0x95) || n == 0x98 || (0xA0 ≤ n && n ≤ 0xA6) ||
  (0xA8 ≤ n && n ≤ 0xAD) || (0xB0 ≤ n && n ≤ 0xBA) || (0x100 ≤ n && n ≤ 0x357) || (0x380 ≤ n && n ≤ 0x393)

/-- V opcodes of the map of R341. -/
def vListed (n : Nat) : Bool :=
  (1 ≤ n && n ≤ 5) || n == 8 || n == 9 || (0x10 ≤ n && n ≤ 0x15) || (0x20 ≤ n && n ≤ 0x2D) ||
  (0x30 ≤ n && n ≤ 0x3D) || (0x40 ≤ n && n ≤ 0x49) || (0x50 ≤ n && n ≤ 0x56) || (0x58 ≤ n && n ≤ 0x5A) ||
  (0x60 ≤ n && n ≤ 0x62) || (0x68 ≤ n && n ≤ 0x6C) || (0x70 ≤ n && n ≤ 0x75)

/-- M lengths of the map of R342. -/
def mLen (n : Nat) : Option Nat :=
  if (1 ≤ n && n ≤ 5) || (0x10 ≤ n && n ≤ 0x14) then some 1
  else if n == 0x28 || n == 0x31 || n == 0x32 then some 2
  else if n == 0x20 || n == 0x30 || n == 0x38 then some 3
  else if 0x21 ≤ n && n ≤ 0x23 then some 4
  else none

/-- X lengths without ORDER of the map of R343. -/
def xEvenLen (n : Nat) : Option Nat :=
  if n == 0x2A then some 1
  else if n == 0x18 || n == 0x20 || (n % 2 == 0 && 0x2C ≤ n && n ≤ 0x32) || n == 0x38 then some 2
  else if n % 2 == 0 && 0x10 ≤ n && n ≤ 0x3A then some 3
  else none

/-- X lengths: the odd opcode is one word longer (R336). -/
def xLen (n : Nat) : Option Nat :=
  if 1 ≤ n && n ≤ 5 then some 1
  else if n % 2 == 0 then xEvenLen n
  else (xEvenLen (n - 1)).map (· + 1)

/-- IopLength with IopOfStrand (R330): the length of internal operation `n` of a strand, none where it is not listed. -/
def iopLen (st : Strand) (n : Nat) : Option Nat :=
  match st with
  | .s => if sListed n then some 1 else none
  | .v => if vListed n then some 1 else none
  | .m => mLen n
  | .x => xLen n

/-- The strand's number (R330). -/
def Strand.num : Strand → Nat
  | .s => 0
  | .v => 1
  | .m => 2
  | .x => 3

/-- The published table of edition 1 (R288, R330). -/
def defaultEntry (st : Strand) (n : Nat) : BitVec 16 :=
  match iopLen st n with
  | some l => BitVec.ofNat 16 (0x4000 + 0x1000 * (l - 1) + 1024 * st.num + n)
  | none => 0

/-- R289: the operation number and the length that an entry gives, or none for ILLOP. -/
def entryOp (st : Strand) (e : BitVec 16) : Option (Nat × Nat) :=
  if e.getLsbD 15 || !e.getLsbD 14 then none
  else if (e.extractLsb' 10 2).toNat ≠ st.num then none
  else
    match iopLen st (e.extractLsb' 0 10).toNat with
    | some l => if (e.extractLsb' 12 2).toNat + 1 = l then some ((e.extractLsb' 0 10).toNat, l) else none
    | none => none

/-! ### The fields of each strand (R331 to R337) -/

/-- Atomics (R340): `k` with scope and ordering. -/
def decodeAmo (k : Nat) (sc : Scope) (o : MemOrd) (h : W32) : Option Instr :=
  match k with
  | 0 => gate (h.extractLsb' 16 6 != 63) (.amoAdd false sc o (h.extractLsb' 16 6) (h.extractLsb' 10 6) (h.extractLsb' 5 5) (h.extractLsb' 0 5))
  | 1 => gate (h.extractLsb' 16 6 != 63) (.amoAdd true sc o (h.extractLsb' 16 6) (h.extractLsb' 10 6) (h.extractLsb' 5 5) (h.extractLsb' 0 5))
  | 2 => gate (h.extractLsb' 16 6 != 63) (.amoAnd false sc o (h.extractLsb' 16 6) (h.extractLsb' 10 6) (h.extractLsb' 5 5) (h.extractLsb' 0 5))
  | 3 => gate (h.extractLsb' 16 6 != 63) (.amoAnd true sc o (h.extractLsb' 16 6) (h.extractLsb' 10 6) (h.extractLsb' 5 5) (h.extractLsb' 0 5))
  | 4 => gate (h.extractLsb' 16 6 != 63) (.amoOr false sc o (h.extractLsb' 16 6) (h.extractLsb' 10 6) (h.extractLsb' 5 5) (h.extractLsb' 0 5))
  | 5 => gate (h.extractLsb' 16 6 != 63) (.amoOr true sc o (h.extractLsb' 16 6) (h.extractLsb' 10 6) (h.extractLsb' 5 5) (h.extractLsb' 0 5))
  | 6 => gate (h.extractLsb' 16 6 != 63) (.amoXor false sc o (h.extractLsb' 16 6) (h.extractLsb' 10 6) (h.extractLsb' 5 5) (h.extractLsb' 0 5))
  | 7 => gate (h.extractLsb' 16 6 != 63) (.amoXor true sc o (h.extractLsb' 16 6) (h.extractLsb' 10 6) (h.extractLsb' 5 5) (h.extractLsb' 0 5))
  | 8 => gate (h.extractLsb' 16 6 != 63) (.amoSwap false sc o (h.extractLsb' 16 6) (h.extractLsb' 10 6) (h.extractLsb' 5 5) (h.extractLsb' 0 5))
  | 9 => gate (h.extractLsb' 16 6 != 63) (.amoSwap true sc o (h.extractLsb' 16 6) (h.extractLsb' 10 6) (h.extractLsb' 5 5) (h.extractLsb' 0 5))
  | 10 => gate (h.extractLsb' 16 6 != 63) (.amoSmin false sc o (h.extractLsb' 16 6) (h.extractLsb' 10 6) (h.extractLsb' 5 5) (h.extractLsb' 0 5))
  | 11 => gate (h.extractLsb' 16 6 != 63) (.amoSmin true sc o (h.extractLsb' 16 6) (h.extractLsb' 10 6) (h.extractLsb' 5 5) (h.extractLsb' 0 5))
  | 12 => gate (h.extractLsb' 16 6 != 63) (.amoSmax false sc o (h.extractLsb' 16 6) (h.extractLsb' 10 6) (h.extractLsb' 5 5) (h.extractLsb' 0 5))
  | 13 => gate (h.extractLsb' 16 6 != 63) (.amoSmax true sc o (h.extractLsb' 16 6) (h.extractLsb' 10 6) (h.extractLsb' 5 5) (h.extractLsb' 0 5))
  | 14 => gate (h.extractLsb' 16 6 != 63) (.amoUmin false sc o (h.extractLsb' 16 6) (h.extractLsb' 10 6) (h.extractLsb' 5 5) (h.extractLsb' 0 5))
  | 15 => gate (h.extractLsb' 16 6 != 63) (.amoUmin true sc o (h.extractLsb' 16 6) (h.extractLsb' 10 6) (h.extractLsb' 5 5) (h.extractLsb' 0 5))
  | 16 => gate (h.extractLsb' 16 6 != 63) (.amoUmax false sc o (h.extractLsb' 16 6) (h.extractLsb' 10 6) (h.extractLsb' 5 5) (h.extractLsb' 0 5))
  | 17 => gate (h.extractLsb' 16 6 != 63) (.amoUmax true sc o (h.extractLsb' 16 6) (h.extractLsb' 10 6) (h.extractLsb' 5 5) (h.extractLsb' 0 5))
  | 18 => gate (h.extractLsb' 16 6 != 63) (.amoCas .w32 sc o (h.extractLsb' 16 6) (h.extractLsb' 10 6) (h.extractLsb' 5 5) (h.extractLsb' 0 5))
  | 19 => gate (h.extractLsb' 16 6 != 63) (.amoCas .w64 sc o (h.extractLsb' 16 6) (h.extractLsb' 10 6) (h.extractLsb' 5 5) (h.extractLsb' 0 5))
  | 20 => gate (h.extractLsb' 16 1 == 0 && decide ((h.extractLsb' 16 6).toNat ≤ 60)) (.amoCas .w128 sc o (h.extractLsb' 16 6) (h.extractLsb' 10 6) (h.extractLsb' 5 5) (h.extractLsb' 0 5))
  | 21 => gate (h.extractLsb' 16 6 != 63) (.amoFaddF32 sc o (h.extractLsb' 16 6) (h.extractLsb' 10 6) (h.extractLsb' 5 5) (h.extractLsb' 0 5))
  | 22 => gate (h.extractLsb' 16 6 != 63) (.amoFaddBf16 sc o (h.extractLsb' 16 6) (h.extractLsb' 10 6) (h.extractLsb' 5 5) (h.extractLsb' 0 5))
  | 23 => gate (h.extractLsb' 16 6 != 63) (.amoFminF32 sc o (h.extractLsb' 16 6) (h.extractLsb' 10 6) (h.extractLsb' 5 5) (h.extractLsb' 0 5))
  | 24 => gate (h.extractLsb' 16 6 != 63) (.amoFmaxF32 sc o (h.extractLsb' 16 6) (h.extractLsb' 10 6) (h.extractLsb' 5 5) (h.extractLsb' 0 5))
  | _ => none

/-- The S words (R331, R332, R339). -/
def decodeS (n : Nat) (h : W32) : Option Instr :=
  match n with
  | 0x001 => gate (h.extractLsb' 1 3 == 0) (.add (h.extractLsb' 16 6) (h.extractLsb' 10 6) (h.extractLsb' 4 6) (flag h 0))
  | 0x002 => gate (h.extractLsb' 1 3 == 0) (.sub (h.extractLsb' 16 6) (h.extractLsb' 10 6) (h.extractLsb' 4 6) (flag h 0))
  | 0x003 => gate (h.extractLsb' 1 3 == 0) (.mul (h.extractLsb' 16 6) (h.extractLsb' 10 6) (h.extractLsb' 4 6) (flag h 0))
  | 0x004 => gate (h.extractLsb' 1 3 == 0) (.mulh (h.extractLsb' 16 6) (h.extractLsb' 10 6) (h.extractLsb' 4 6) (flag h 0))
  | 0x005 => gate (h.extractLsb' 1 3 == 0) (.mulhu (h.extractLsb' 16 6) (h.extractLsb' 10 6) (h.extractLsb' 4 6) (flag h 0))
  | 0x006 => gate (h.extractLsb' 1 3 == 0) (.div (h.extractLsb' 16 6) (h.extractLsb' 10 6) (h.extractLsb' 4 6) (flag h 0))
  | 0x007 => gate (h.extractLsb' 1 3 == 0) (.divu (h.extractLsb' 16 6) (h.extractLsb' 10 6) (h.extractLsb' 4 6) (flag h 0))
  | 0x008 => gate (h.extractLsb' 1 3 == 0) (.rem (h.extractLsb' 16 6) (h.extractLsb' 10 6) (h.extractLsb' 4 6) (flag h 0))
  | 0x009 => gate (h.extractLsb' 1 3 == 0) (.remu (h.extractLsb' 16 6) (h.extractLsb' 10 6) (h.extractLsb' 4 6) (flag h 0))
  | 0x00a => gate (h.extractLsb' 1 3 == 0) (.and (h.extractLsb' 16 6) (h.extractLsb' 10 6) (h.extractLsb' 4 6) (flag h 0))
  | 0x00b => gate (h.extractLsb' 1 3 == 0) (.or (h.extractLsb' 16 6) (h.extractLsb' 10 6) (h.extractLsb' 4 6) (flag h 0))
  | 0x00c => gate (h.extractLsb' 1 3 == 0) (.xor (h.extractLsb' 16 6) (h.extractLsb' 10 6) (h.extractLsb' 4 6) (flag h 0))
  | 0x00d => gate (h.extractLsb' 1 3 == 0) (.andn (h.extractLsb' 16 6) (h.extractLsb' 10 6) (h.extractLsb' 4 6) (flag h 0))
  | 0x00e => gate (h.extractLsb' 1 3 == 0) (.shl (h.extractLsb' 16 6) (h.extractLsb' 10 6) (h.extractLsb' 4 6) (flag h 0))
  | 0x00f => gate (h.extractLsb' 1 3 == 0) (.shr (h.extractLsb' 16 6) (h.extractLsb' 10 6) (h.extractLsb' 4 6) (flag h 0))
  | 0x010 => gate (h.extractLsb' 1 3 == 0) (.sra (h.extractLsb' 16 6) (h.extractLsb' 10 6) (h.extractLsb' 4 6) (flag h 0))
  | 0x011 => gate (h.extractLsb' 1 3 == 0) (.rotr (h.extractLsb' 16 6) (h.extractLsb' 10 6) (h.extractLsb' 4 6) (flag h 0))
  | 0x012 => gate (h.extractLsb' 1 3 == 0) (.min (h.extractLsb' 16 6) (h.extractLsb' 10 6) (h.extractLsb' 4 6) (flag h 0))
  | 0x013 => gate (h.extractLsb' 1 3 == 0) (.max (h.extractLsb' 16 6) (h.extractLsb' 10 6) (h.extractLsb' 4 6) (flag h 0))
  | 0x014 => gate (h.extractLsb' 1 3 == 0) (.minu (h.extractLsb' 16 6) (h.extractLsb' 10 6) (h.extractLsb' 4 6) (flag h 0))
  | 0x015 => gate (h.extractLsb' 1 3 == 0) (.maxu (h.extractLsb' 16 6) (h.extractLsb' 10 6) (h.extractLsb' 4 6) (flag h 0))
  | 0x016 => (condOf (h.extractLsb' 0 4)).map fun c => .cmp c (h.extractLsb' 16 6) (h.extractLsb' 10 6) (h.extractLsb' 4 6)
  | 0x017 => gate (h.extractLsb' 0 4 == 0) (.sel (h.extractLsb' 16 6) (h.extractLsb' 10 6) (h.extractLsb' 4 6))
  | 0x018 => gate (h.extractLsb' 1 9 == 0) (.clz (h.extractLsb' 16 6) (h.extractLsb' 10 6) (flag h 0))
  | 0x019 => gate (h.extractLsb' 1 9 == 0) (.ctz (h.extractLsb' 16 6) (h.extractLsb' 10 6) (flag h 0))
  | 0x01a => gate (h.extractLsb' 1 9 == 0) (.popc (h.extractLsb' 16 6) (h.extractLsb' 10 6) (flag h 0))
  | 0x01b => gate (h.extractLsb' 1 9 == 0) (.brev (h.extractLsb' 16 6) (h.extractLsb' 10 6) (flag h 0))
  | 0x01c => gate (h.extractLsb' 1 3 == 0) (.bext (h.extractLsb' 16 6) (h.extractLsb' 10 6) (h.extractLsb' 4 6) (flag h 0))
  | 0x01d => gate (h.extractLsb' 1 3 == 0) (.bins (h.extractLsb' 16 6) (h.extractLsb' 10 6) (h.extractLsb' 4 6) (flag h 0))
  | 0x020 => some (.addi (h.extractLsb' 16 6) (h.extractLsb' 10 6) (h.extractLsb' 0 10))
  | 0x021 => some (.andi (h.extractLsb' 16 6) (h.extractLsb' 10 6) (h.extractLsb' 0 10))
  | 0x022 => some (.ori (h.extractLsb' 16 6) (h.extractLsb' 10 6) (h.extractLsb' 0 10))
  | 0x023 => some (.xori (h.extractLsb' 16 6) (h.extractLsb' 10 6) (h.extractLsb' 0 10))
  | 0x024 => gate (h.extractLsb' 6 4 == 0) (.shli (h.extractLsb' 16 6) (h.extractLsb' 10 6) (h.extractLsb' 0 6))
  | 0x025 => gate (h.extractLsb' 6 4 == 0) (.shri (h.extractLsb' 16 6) (h.extractLsb' 10 6) (h.extractLsb' 0 6))
  | 0x026 => gate (h.extractLsb' 6 4 == 0) (.srai (h.extractLsb' 16 6) (h.extractLsb' 10 6) (h.extractLsb' 0 6))
  | 0x027 => some (.muli (h.extractLsb' 16 6) (h.extractLsb' 10 6) (h.extractLsb' 0 10))
  | 0x028 => some (.cmpi .eq (h.extractLsb' 16 6) (h.extractLsb' 10 6) (h.extractLsb' 0 10))
  | 0x029 => some (.cmpi .ne (h.extractLsb' 16 6) (h.extractLsb' 10 6) (h.extractLsb' 0 10))
  | 0x02a => some (.cmpi .lt (h.extractLsb' 16 6) (h.extractLsb' 10 6) (h.extractLsb' 0 10))
  | 0x02b => some (.cmpi .ge (h.extractLsb' 16 6) (h.extractLsb' 10 6) (h.extractLsb' 0 10))
  | 0x02c => some (.cmpi .ltu (h.extractLsb' 16 6) (h.extractLsb' 10 6) (h.extractLsb' 0 10))
  | 0x02d => some (.cmpi .geu (h.extractLsb' 16 6) (h.extractLsb' 10 6) (h.extractLsb' 0 10))
  | 0x030 => some (.li (h.extractLsb' 16 6) (h.extractLsb' 0 16))
  | 0x031 => some (.lsi (h.extractLsb' 16 6) (h.extractLsb' 0 16))
  | 0x032 => gate (h.extractLsb' 0 10 == 0 && h.extractLsb' 21 1 == 0) (.pmovToP (h.extractLsb' 16 5) (h.extractLsb' 10 6))
  | 0x033 => gate (h.extractLsb' 0 10 == 0 && h.extractLsb' 15 1 == 0) (.pmovFromP (h.extractLsb' 16 6) (h.extractLsb' 10 5))
  | 0x040 => some (.beq (h.extractLsb' 16 6) (h.extractLsb' 10 6) (h.extractLsb' 0 10))
  | 0x041 => some (.bne (h.extractLsb' 16 6) (h.extractLsb' 10 6) (h.extractLsb' 0 10))
  | 0x042 => some (.blt (h.extractLsb' 16 6) (h.extractLsb' 10 6) (h.extractLsb' 0 10))
  | 0x043 => some (.bge (h.extractLsb' 16 6) (h.extractLsb' 10 6) (h.extractLsb' 0 10))
  | 0x044 => some (.bltu (h.extractLsb' 16 6) (h.extractLsb' 10 6) (h.extractLsb' 0 10))
  | 0x045 => some (.bgeu (h.extractLsb' 16 6) (h.extractLsb' 10 6) (h.extractLsb' 0 10))
  | 0x046 => some (.j (h.extractLsb' 0 22))
  | 0x047 => some (.call (h.extractLsb' 0 22))
  | 0x048 => gate (h.extractLsb' 16 6 == 0 && h.extractLsb' 0 10 == 0) (.jr (h.extractLsb' 10 6))
  | 0x049 => gate (h.extractLsb' 16 6 == 0 && h.extractLsb' 0 10 == 0) (.callr (h.extractLsb' 10 6))
  | 0x04a => gate (h.extractLsb' 16 6 == 0 && h.extractLsb' 0 10 != 0) (.sLoop (h.extractLsb' 10 6) (h.extractLsb' 0 10))
  | 0x050 => some (.ldS8 (h.extractLsb' 16 6) (h.extractLsb' 10 6) (h.extractLsb' 5 5) (h.extractLsb' 0 5))
  | 0x051 => some (.ldN8 (h.extractLsb' 16 6) (h.extractLsb' 10 6) (h.extractLsb' 5 5) (h.extractLsb' 0 5))
  | 0x052 => some (.ldS16 (h.extractLsb' 16 6) (h.extractLsb' 10 6) (h.extractLsb' 5 5) (h.extractLsb' 0 5))
  | 0x053 => some (.ldN16 (h.extractLsb' 16 6) (h.extractLsb' 10 6) (h.extractLsb' 5 5) (h.extractLsb' 0 5))
  | 0x054 => some (.ldS32 (h.extractLsb' 16 6) (h.extractLsb' 10 6) (h.extractLsb' 5 5) (h.extractLsb' 0 5))
  | 0x055 => some (.ldN32 (h.extractLsb' 16 6) (h.extractLsb' 10 6) (h.extractLsb' 5 5) (h.extractLsb' 0 5))
  | 0x056 => some (.ld64 (h.extractLsb' 16 6) (h.extractLsb' 10 6) (h.extractLsb' 5 5) (h.extractLsb' 0 5))
  | 0x058 => some (.st8 (h.extractLsb' 16 6) (h.extractLsb' 10 6) (h.extractLsb' 5 5) (h.extractLsb' 0 5))
  | 0x059 => some (.st16 (h.extractLsb' 16 6) (h.extractLsb' 10 6) (h.extractLsb' 5 5) (h.extractLsb' 0 5))
  | 0x05a => some (.st32 (h.extractLsb' 16 6) (h.extractLsb' 10 6) (h.extractLsb' 5 5) (h.extractLsb' 0 5))
  | 0x05b => some (.st64 (h.extractLsb' 16 6) (h.extractLsb' 10 6) (h.extractLsb' 5 5) (h.extractLsb' 0 5))
  | 0x05c => some (.stNt8 (h.extractLsb' 16 6) (h.extractLsb' 10 6) (h.extractLsb' 5 5) (h.extractLsb' 0 5))
  | 0x05d => some (.stNt16 (h.extractLsb' 16 6) (h.extractLsb' 10 6) (h.extractLsb' 5 5) (h.extractLsb' 0 5))
  | 0x05e => some (.stNt32 (h.extractLsb' 16 6) (h.extractLsb' 10 6) (h.extractLsb' 5 5) (h.extractLsb' 0 5))
  | 0x05f => some (.stNt64 (h.extractLsb' 16 6) (h.extractLsb' 10 6) (h.extractLsb' 5 5) (h.extractLsb' 0 5))
  | 0x060 => some (.ldAcqN32 .core (h.extractLsb' 16 6) (h.extractLsb' 10 6) (h.extractLsb' 5 5) (h.extractLsb' 0 5))
  | 0x061 => some (.ldAcq64 .core (h.extractLsb' 16 6) (h.extractLsb' 10 6) (h.extractLsb' 5 5) (h.extractLsb' 0 5))
  | 0x062 => some (.ldAcqN32 .gang (h.extractLsb' 16 6) (h.extractLsb' 10 6) (h.extractLsb' 5 5) (h.extractLsb' 0 5))
  | 0x063 => some (.ldAcq64 .gang (h.extractLsb' 16 6) (h.extractLsb' 10 6) (h.extractLsb' 5 5) (h.extractLsb' 0 5))
  | 0x064 => some (.ldAcqN32 .die (h.extractLsb' 16 6) (h.extractLsb' 10 6) (h.extractLsb' 5 5) (h.extractLsb' 0 5))
  | 0x065 => some (.ldAcq64 .die (h.extractLsb' 16 6) (h.extractLsb' 10 6) (h.extractLsb' 5 5) (h.extractLsb' 0 5))
  | 0x066 => some (.ldAcqN32 .pkg (h.extractLsb' 16 6) (h.extractLsb' 10 6) (h.extractLsb' 5 5) (h.extractLsb' 0 5))
  | 0x067 => some (.ldAcq64 .pkg (h.extractLsb' 16 6) (h.extractLsb' 10 6) (h.extractLsb' 5 5) (h.extractLsb' 0 5))
  | 0x068 => some (.ldAcqN32 .fab (h.extractLsb' 16 6) (h.extractLsb' 10 6) (h.extractLsb' 5 5) (h.extractLsb' 0 5))
  | 0x069 => some (.ldAcq64 .fab (h.extractLsb' 16 6) (h.extractLsb' 10 6) (h.extractLsb' 5 5) (h.extractLsb' 0 5))
  | 0x06a => some (.ldAcqN32 .sys (h.extractLsb' 16 6) (h.extractLsb' 10 6) (h.extractLsb' 5 5) (h.extractLsb' 0 5))
  | 0x06b => some (.ldAcq64 .sys (h.extractLsb' 16 6) (h.extractLsb' 10 6) (h.extractLsb' 5 5) (h.extractLsb' 0 5))
  | 0x070 => some (.stRel32 .core (h.extractLsb' 16 6) (h.extractLsb' 10 6) (h.extractLsb' 5 5) (h.extractLsb' 0 5))
  | 0x071 => some (.stRel64 .core (h.extractLsb' 16 6) (h.extractLsb' 10 6) (h.extractLsb' 5 5) (h.extractLsb' 0 5))
  | 0x072 => some (.stRel32 .gang (h.extractLsb' 16 6) (h.extractLsb' 10 6) (h.extractLsb' 5 5) (h.extractLsb' 0 5))
  | 0x073 => some (.stRel64 .gang (h.extractLsb' 16 6) (h.extractLsb' 10 6) (h.extractLsb' 5 5) (h.extractLsb' 0 5))
  | 0x074 => some (.stRel32 .die (h.extractLsb' 16 6) (h.extractLsb' 10 6) (h.extractLsb' 5 5) (h.extractLsb' 0 5))
  | 0x075 => some (.stRel64 .die (h.extractLsb' 16 6) (h.extractLsb' 10 6) (h.extractLsb' 5 5) (h.extractLsb' 0 5))
  | 0x076 => some (.stRel32 .pkg (h.extractLsb' 16 6) (h.extractLsb' 10 6) (h.extractLsb' 5 5) (h.extractLsb' 0 5))
  | 0x077 => some (.stRel64 .pkg (h.extractLsb' 16 6) (h.extractLsb' 10 6) (h.extractLsb' 5 5) (h.extractLsb' 0 5))
  | 0x078 => some (.stRel32 .fab (h.extractLsb' 16 6) (h.extractLsb' 10 6) (h.extractLsb' 5 5) (h.extractLsb' 0 5))
  | 0x079 => some (.stRel64 .fab (h.extractLsb' 16 6) (h.extractLsb' 10 6) (h.extractLsb' 5 5) (h.extractLsb' 0 5))
  | 0x07a => some (.stRel32 .sys (h.extractLsb' 16 6) (h.extractLsb' 10 6) (h.extractLsb' 5 5) (h.extractLsb' 0 5))
  | 0x07b => some (.stRel64 .sys (h.extractLsb' 16 6) (h.extractLsb' 10 6) (h.extractLsb' 5 5) (h.extractLsb' 0 5))
  | 0x080 => gate (h.extractLsb' 0 22 == 0) (.fenceRel .core)
  | 0x081 => gate (h.extractLsb' 0 22 == 0) (.fenceRel .gang)
  | 0x082 => gate (h.extractLsb' 0 22 == 0) (.fenceRel .die)
  | 0x083 => gate (h.extractLsb' 0 22 == 0) (.fenceRel .pkg)
  | 0x084 => gate (h.extractLsb' 0 22 == 0) (.fenceRel .fab)
  | 0x085 => gate (h.extractLsb' 0 22 == 0) (.fenceRel .sys)
  | 0x088 => gate (h.extractLsb' 0 22 == 0) (.fenceAcq .core)
  | 0x089 => gate (h.extractLsb' 0 22 == 0) (.fenceAcq .gang)
  | 0x08a => gate (h.extractLsb' 0 22 == 0) (.fenceAcq .die)
  | 0x08b => gate (h.extractLsb' 0 22 == 0) (.fenceAcq .pkg)
  | 0x08c => gate (h.extractLsb' 0 22 == 0) (.fenceAcq .fab)
  | 0x08d => gate (h.extractLsb' 0 22 == 0) (.fenceAcq .sys)
  | 0x090 => gate (h.extractLsb' 0 22 == 0) (.fenceFull .core)
  | 0x091 => gate (h.extractLsb' 0 22 == 0) (.fenceFull .gang)
  | 0x092 => gate (h.extractLsb' 0 22 == 0) (.fenceFull .die)
  | 0x093 => gate (h.extractLsb' 0 22 == 0) (.fenceFull .pkg)
  | 0x094 => gate (h.extractLsb' 0 22 == 0) (.fenceFull .fab)
  | 0x095 => gate (h.extractLsb' 0 22 == 0) (.fenceFull .sys)
  | 0x098 => gate (h.extractLsb' 0 22 == 0) .fenceAlias
  | 0x0a0 => gate (h.extractLsb' 8 8 == 0) (.phase (h.extractLsb' 16 6) (h.extractLsb' 0 8))
  | 0x0a1 => gate (h.extractLsb' 8 8 == 0) (.phaseArrive (h.extractLsb' 16 6) (h.extractLsb' 0 8))
  | 0x0a2 => gate (h.extractLsb' 8 8 == 0) (.phaseWait (h.extractLsb' 16 6) (h.extractLsb' 0 8))
  | 0x0a3 => gate (h.extractLsb' 0 10 == 0) (.grpInit (h.extractLsb' 16 6) (h.extractLsb' 10 6))
  | 0x0a4 => gate (h.extractLsb' 8 14 == 0) (.grpFree (h.extractLsb' 0 8))
  | 0x0a5 => gate (h.extractLsb' 8 14 == 0 && h.extractLsb' 0 2 != 0 && h.extractLsb' 2 6 != 0) (.tokWait (h.extractLsb' 0 2) (h.extractLsb' 2 6))
  | 0x0a6 => gate (h.extractLsb' 8 14 == 0 && h.extractLsb' 0 2 != 0 && h.extractLsb' 2 6 != 0) (.tokPost (h.extractLsb' 0 2) (h.extractLsb' 2 6))
  | 0x0a8 => some (.mwait .core (h.extractLsb' 16 6) (h.extractLsb' 10 6) (h.extractLsb' 5 5) (h.extractLsb' 0 5))
  | 0x0a9 => some (.mwait .gang (h.extractLsb' 16 6) (h.extractLsb' 10 6) (h.extractLsb' 5 5) (h.extractLsb' 0 5))
  | 0x0aa => some (.mwait .die (h.extractLsb' 16 6) (h.extractLsb' 10 6) (h.extractLsb' 5 5) (h.extractLsb' 0 5))
  | 0x0ab => some (.mwait .pkg (h.extractLsb' 16 6) (h.extractLsb' 10 6) (h.extractLsb' 5 5) (h.extractLsb' 0 5))
  | 0x0ac => some (.mwait .fab (h.extractLsb' 16 6) (h.extractLsb' 10 6) (h.extractLsb' 5 5) (h.extractLsb' 0 5))
  | 0x0ad => some (.mwait .sys (h.extractLsb' 16 6) (h.extractLsb' 10 6) (h.extractLsb' 5 5) (h.extractLsb' 0 5))
  | 0x0b0 => gate (h.extractLsb' 16 6 == 0 && h.extractLsb' 0 4 == 0) (.chunkInit (h.extractLsb' 10 6) (h.extractLsb' 4 6))
  | 0x0b1 => gate (h.extractLsb' 0 10 == 0 && h.extractLsb' 16 6 != 63) (.chunkFetch (h.extractLsb' 16 6) (h.extractLsb' 10 6))
  | 0x0b2 => gate (h.extractLsb' 0 4 == 0) (.spawn (h.extractLsb' 16 6) (h.extractLsb' 10 6) (h.extractLsb' 4 6))
  | 0x0b3 => gate (h.extractLsb' 16 6 == 0 && h.extractLsb' 0 4 == 0) (.notify (h.extractLsb' 10 6) (h.extractLsb' 4 6))
  | 0x0b4 => gate (h.extractLsb' 0 22 == 0) .yield
  | 0x0b5 => gate (h.extractLsb' 0 22 == 0) .sExit
  | 0x0b6 => gate (h.extractLsb' 0 22 == 0) .sNop
  | 0x0b7 => gate (h.extractLsb' 16 6 == 0) (.sRegionEnter (h.extractLsb' 0 16))
  | 0x0b8 => gate (h.extractLsb' 0 22 == 0) .sRegionLeave
  | 0x0b9 => gate (h.extractLsb' 20 2 == 0) (.genSet (h.extractLsb' 16 4) (h.extractLsb' 10 6) (h.extractLsb' 5 5) (h.extractLsb' 0 5))
  | 0x0ba => gate (h.extractLsb' 20 2 == 0 && h.extractLsb' 0 4 == 0) (.genSkip (h.extractLsb' 16 4) (h.extractLsb' 10 6) (h.extractLsb' 4 6))
  | 0x380 => gate (h.extractLsb' 16 6 == 0) (.trap (h.extractLsb' 0 16))
  | 0x381 => gate (h.extractLsb' 16 6 == 0 && h.extractLsb' 0 10 == 0) (.resume (h.extractLsb' 10 6))
  | 0x382 => gate (h.extractLsb' 16 6 == 0 && h.extractLsb' 0 10 == 0 && h.extractLsb' 10 6 != 63) (.ctxSave (h.extractLsb' 10 6))
  | 0x383 => gate (h.extractLsb' 16 6 == 0 && h.extractLsb' 0 10 == 0 && h.extractLsb' 10 6 != 63) (.ctxLoad (h.extractLsb' 10 6))
  | 0x384 => gate (h.extractLsb' 16 6 == 0 && h.extractLsb' 0 4 == 0) (.dtabLoad (h.extractLsb' 10 6) (h.extractLsb' 4 6))
  | 0x385 => gate (h.extractLsb' 0 4 == 0) (.capDeleg (h.extractLsb' 16 6) (h.extractLsb' 10 6) (h.extractLsb' 4 6))
  | 0x386 => gate (h.extractLsb' 16 6 == 0 && h.extractLsb' 0 10 == 0) (.capRevoke (h.extractLsb' 10 6))
  | 0x387 => gate (h.extractLsb' 0 10 == 0) (.capCheck (h.extractLsb' 16 6) (h.extractLsb' 10 6))
  | 0x388 => gate (h.extractLsb' 16 6 == 0 && h.extractLsb' 0 4 == 0) (.evSel (h.extractLsb' 10 6) (h.extractLsb' 4 6))
  | 0x389 => gate (h.extractLsb' 0 10 == 0) (.evRead (h.extractLsb' 16 6) (h.extractLsb' 10 6))
  | 0x38a => gate (h.extractLsb' 0 10 == 0) (.snapRead (h.extractLsb' 16 6) (h.extractLsb' 10 6))
  | 0x38b => gate (h.extractLsb' 16 6 == 0 && h.extractLsb' 0 4 == 0) (.ttInval (h.extractLsb' 10 6) (h.extractLsb' 4 6))
  | 0x38c => gate (h.extractLsb' 16 6 == 0 && h.extractLsb' 0 4 == 0) (.slogReplay (h.extractLsb' 10 6) (h.extractLsb' 4 6))
  | 0x38d => gate (h.extractLsb' 16 6 == 0 && h.extractLsb' 0 4 == 0) (.migrate (h.extractLsb' 10 6) (h.extractLsb' 4 6))
  | 0x38e => gate (h.extractLsb' 16 6 == 0 && h.extractLsb' 0 4 == 0) (.stop (h.extractLsb' 10 6) (h.extractLsb' 4 6))
  | 0x38f => gate (h.extractLsb' 1 21 == 0) (.xmode (flag h 0))
  | 0x390 => gate (h.extractLsb' 0 22 == 0) .halt
  | 0x391 => gate (h.extractLsb' 0 22 == 0) .wfi
  | 0x392 => some (.sysr (h.extractLsb' 16 6) (h.extractLsb' 0 16))
  | 0x393 => some (.sysw (h.extractLsb' 16 6) (h.extractLsb' 0 16))
  | _ =>
    if 0x100 ≤ n ∧ n ≤ 0x357 then
      decodeAmo ((n - 0x100) / 24) (scopeOf ((n - 0x100) % 24 / 4)) (ordOf ((n - 0x100) % 4)) h
    else none

/-- The V words (R333, R341). -/
noncomputable def decodeV (n : Nat) (h : W32) : Option Instr :=
  match n with
  | 0x001 => gate (h.extractLsb' 0 18 == 0) (.vNop (tokOf h) )
  | 0x002 => gate (h.extractLsb' 0 18 == 0) (.vExit (tokOf h) )
  | 0x003 => gate (h.extractLsb' 6 12 != 0 && h.extractLsb' 5 1 == 0) (.vLoop (tokOf h) (h.extractLsb' 6 12) (h.extractLsb' 0 5))
  | 0x004 => gate (h.extractLsb' 16 2 == 0) (.vRegionEnter (tokOf h) (h.extractLsb' 0 16))
  | 0x005 => gate (h.extractLsb' 0 18 == 0) (.vRegionLeave (tokOf h) )
  | 0x008 => gate (h.extractLsb' 5 13 == 0) (.vshape (tokOf h) (h.extractLsb' 0 5))
  | 0x009 => gate (h.extractLsb' 5 13 == 0) (.vsetlen (tokOf h) (h.extractLsb' 0 5))
  | 0x010 => gate (h.extractLsb' 15 3 == 0 && h.extractLsb' 9 3 == 0 && h.extractLsb' 3 3 == 0) (.mand (tokOf h) (h.extractLsb' 12 3) (h.extractLsb' 6 3) (h.extractLsb' 0 3))
  | 0x011 => gate (h.extractLsb' 15 3 == 0 && h.extractLsb' 9 3 == 0 && h.extractLsb' 3 3 == 0) (.mor (tokOf h) (h.extractLsb' 12 3) (h.extractLsb' 6 3) (h.extractLsb' 0 3))
  | 0x012 => gate (h.extractLsb' 15 3 == 0 && h.extractLsb' 9 3 == 0 && h.extractLsb' 3 3 == 0) (.mxor (tokOf h) (h.extractLsb' 12 3) (h.extractLsb' 6 3) (h.extractLsb' 0 3))
  | 0x013 => gate (h.extractLsb' 15 3 == 0 && h.extractLsb' 9 3 == 0 && h.extractLsb' 3 3 == 0) (.mandn (tokOf h) (h.extractLsb' 12 3) (h.extractLsb' 6 3) (h.extractLsb' 0 3))
  | 0x014 => gate (h.extractLsb' 15 3 == 0 && h.extractLsb' 9 3 == 0 && h.extractLsb' 0 6 == 0) (.mnot (tokOf h) (h.extractLsb' 12 3) (h.extractLsb' 6 3))
  | 0x015 => gate (h.extractLsb' 15 3 == 0 && h.extractLsb' 0 6 == 0) (.mfromv (tokOf h) (h.extractLsb' 12 3) (h.extractLsb' 6 6))
  | 0x020 => some (.vadd (tokOf h) (h.extractLsb' 12 6) (h.extractLsb' 6 6) (h.extractLsb' 0 6))
  | 0x021 => some (.vsub (tokOf h) (h.extractLsb' 12 6) (h.extractLsb' 6 6) (h.extractLsb' 0 6))
  | 0x022 => some (.vmul (tokOf h) (h.extractLsb' 12 6) (h.extractLsb' 6 6) (h.extractLsb' 0 6))
  | 0x023 => some (.vfma (tokOf h) (h.extractLsb' 12 6) (h.extractLsb' 6 6) (h.extractLsb' 0 6))
  | 0x024 => some (.vfms (tokOf h) (h.extractLsb' 12 6) (h.extractLsb' 6 6) (h.extractLsb' 0 6))
  | 0x025 => some (.vmin (tokOf h) (h.extractLsb' 12 6) (h.extractLsb' 6 6) (h.extractLsb' 0 6))
  | 0x026 => some (.vmax (tokOf h) (h.extractLsb' 12 6) (h.extractLsb' 6 6) (h.extractLsb' 0 6))
  | 0x027 => some (.vdiv (tokOf h) (h.extractLsb' 12 6) (h.extractLsb' 6 6) (h.extractLsb' 0 6))
  | 0x028 => some (.vand (tokOf h) (h.extractLsb' 12 6) (h.extractLsb' 6 6) (h.extractLsb' 0 6))
  | 0x029 => some (.vor (tokOf h) (h.extractLsb' 12 6) (h.extractLsb' 6 6) (h.extractLsb' 0 6))
  | 0x02a => some (.vxor (tokOf h) (h.extractLsb' 12 6) (h.extractLsb' 6 6) (h.extractLsb' 0 6))
  | 0x02b => some (.vshl (tokOf h) (h.extractLsb' 12 6) (h.extractLsb' 6 6) (h.extractLsb' 0 6))
  | 0x02c => some (.vshr (tokOf h) (h.extractLsb' 12 6) (h.extractLsb' 6 6) (h.extractLsb' 0 6))
  | 0x02d => some (.vsra (tokOf h) (h.extractLsb' 12 6) (h.extractLsb' 6 6) (h.extractLsb' 0 6))
  | 0x030 => gate (h.extractLsb' 5 1 == 0) (.vaddS (tokOf h) (h.extractLsb' 12 6) (h.extractLsb' 6 6) (h.extractLsb' 0 5))
  | 0x031 => gate (h.extractLsb' 5 1 == 0) (.vsubS (tokOf h) (h.extractLsb' 12 6) (h.extractLsb' 6 6) (h.extractLsb' 0 5))
  | 0x032 => gate (h.extractLsb' 5 1 == 0) (.vmulS (tokOf h) (h.extractLsb' 12 6) (h.extractLsb' 6 6) (h.extractLsb' 0 5))
  | 0x033 => gate (h.extractLsb' 5 1 == 0) (.vfmaS (tokOf h) (h.extractLsb' 12 6) (h.extractLsb' 6 6) (h.extractLsb' 0 5))
  | 0x034 => gate (h.extractLsb' 5 1 == 0) (.vfmsS (tokOf h) (h.extractLsb' 12 6) (h.extractLsb' 6 6) (h.extractLsb' 0 5))
  | 0x035 => gate (h.extractLsb' 5 1 == 0) (.vminS (tokOf h) (h.extractLsb' 12 6) (h.extractLsb' 6 6) (h.extractLsb' 0 5))
  | 0x036 => gate (h.extractLsb' 5 1 == 0) (.vmaxS (tokOf h) (h.extractLsb' 12 6) (h.extractLsb' 6 6) (h.extractLsb' 0 5))
  | 0x037 => gate (h.extractLsb' 5 1 == 0) (.vdivS (tokOf h) (h.extractLsb' 12 6) (h.extractLsb' 6 6) (h.extractLsb' 0 5))
  | 0x038 => gate (h.extractLsb' 5 1 == 0) (.vandS (tokOf h) (h.extractLsb' 12 6) (h.extractLsb' 6 6) (h.extractLsb' 0 5))
  | 0x039 => gate (h.extractLsb' 5 1 == 0) (.vorS (tokOf h) (h.extractLsb' 12 6) (h.extractLsb' 6 6) (h.extractLsb' 0 5))
  | 0x03a => gate (h.extractLsb' 5 1 == 0) (.vxorS (tokOf h) (h.extractLsb' 12 6) (h.extractLsb' 6 6) (h.extractLsb' 0 5))
  | 0x03b => gate (h.extractLsb' 5 1 == 0) (.vshlS (tokOf h) (h.extractLsb' 12 6) (h.extractLsb' 6 6) (h.extractLsb' 0 5))
  | 0x03c => gate (h.extractLsb' 5 1 == 0) (.vshrS (tokOf h) (h.extractLsb' 12 6) (h.extractLsb' 6 6) (h.extractLsb' 0 5))
  | 0x03d => gate (h.extractLsb' 5 1 == 0) (.vsraS (tokOf h) (h.extractLsb' 12 6) (h.extractLsb' 6 6) (h.extractLsb' 0 5))
  | 0x040 => gate (h.extractLsb' 0 6 == 0) (.vabs (tokOf h) (h.extractLsb' 12 6) (h.extractLsb' 6 6))
  | 0x041 => gate (h.extractLsb' 0 6 == 0) (.vneg (tokOf h) (h.extractLsb' 12 6) (h.extractLsb' 6 6))
  | 0x042 => gate (h.extractLsb' 0 6 == 0) (.vrcp (tokOf h) (h.extractLsb' 12 6) (h.extractLsb' 6 6))
  | 0x043 => gate (h.extractLsb' 0 6 == 0) (.vsqrt (tokOf h) (h.extractLsb' 12 6) (h.extractLsb' 6 6))
  | 0x044 => gate (h.extractLsb' 0 6 == 0) (.vrsqrt (tokOf h) (h.extractLsb' 12 6) (h.extractLsb' 6 6))
  | 0x045 => gate (h.extractLsb' 0 6 == 0) (.vexp2 (tokOf h) (h.extractLsb' 12 6) (h.extractLsb' 6 6))
  | 0x046 => gate (h.extractLsb' 0 6 == 0) (.vlog2 (tokOf h) (h.extractLsb' 12 6) (h.extractLsb' 6 6))
  | 0x047 => gate (h.extractLsb' 0 6 == 0) (.vsin (tokOf h) (h.extractLsb' 12 6) (h.extractLsb' 6 6))
  | 0x048 => gate (h.extractLsb' 0 6 == 0) (.vcos (tokOf h) (h.extractLsb' 12 6) (h.extractLsb' 6 6))
  | 0x049 => gate (h.extractLsb' 0 6 == 0) (.vmov (tokOf h) (h.extractLsb' 12 6) (h.extractLsb' 6 6))
  | 0x050 => gate (h.extractLsb' 15 3 == 0) (.vcmp (tokOf h) .eq (h.extractLsb' 12 3) (h.extractLsb' 6 6) (h.extractLsb' 0 6))
  | 0x051 => gate (h.extractLsb' 15 3 == 0) (.vcmp (tokOf h) .ne (h.extractLsb' 12 3) (h.extractLsb' 6 6) (h.extractLsb' 0 6))
  | 0x052 => gate (h.extractLsb' 15 3 == 0) (.vcmp (tokOf h) .lt (h.extractLsb' 12 3) (h.extractLsb' 6 6) (h.extractLsb' 0 6))
  | 0x053 => gate (h.extractLsb' 15 3 == 0) (.vcmp (tokOf h) .le (h.extractLsb' 12 3) (h.extractLsb' 6 6) (h.extractLsb' 0 6))
  | 0x054 => gate (h.extractLsb' 15 3 == 0) (.vcmp (tokOf h) .gt (h.extractLsb' 12 3) (h.extractLsb' 6 6) (h.extractLsb' 0 6))
  | 0x055 => gate (h.extractLsb' 15 3 == 0) (.vcmp (tokOf h) .ge (h.extractLsb' 12 3) (h.extractLsb' 6 6) (h.extractLsb' 0 6))
  | 0x056 => some (.vsel (tokOf h) (h.extractLsb' 12 6) (h.extractLsb' 6 6) (h.extractLsb' 0 6))
  | 0x058 => gate (h.extractLsb' 5 1 == 0) (.vcvt (tokOf h) (h.extractLsb' 12 6) (h.extractLsb' 6 6) (h.extractLsb' 0 5))
  | 0x059 => gate (h.extractLsb' 5 1 == 0) (.vpack (tokOf h) (h.extractLsb' 12 6) (h.extractLsb' 6 6) (h.extractLsb' 0 5))
  | 0x05a => gate (h.extractLsb' 5 1 == 0) (.vunpack (tokOf h) (h.extractLsb' 12 6) (h.extractLsb' 6 6) (h.extractLsb' 0 5))
  | 0x060 => gate (h.extractLsb' 0 6 == 0) (.vrsum (tokOf h) (h.extractLsb' 12 6) (h.extractLsb' 6 6))
  | 0x061 => gate (h.extractLsb' 0 6 == 0) (.vrmax (tokOf h) (h.extractLsb' 12 6) (h.extractLsb' 6 6))
  | 0x062 => gate (h.extractLsb' 0 6 == 0) (.vrmin (tokOf h) (h.extractLsb' 12 6) (h.extractLsb' 6 6))
  | 0x068 => some (.vperm (tokOf h) (h.extractLsb' 12 6) (h.extractLsb' 6 6) (h.extractLsb' 0 6))
  | 0x069 => gate (h.extractLsb' 5 1 == 0) (.vslup (tokOf h) (h.extractLsb' 12 6) (h.extractLsb' 6 6) (h.extractLsb' 0 5))
  | 0x06a => gate (h.extractLsb' 5 1 == 0) (.vsldn (tokOf h) (h.extractLsb' 12 6) (h.extractLsb' 6 6) (h.extractLsb' 0 5))
  | 0x06b => gate (h.extractLsb' 5 7 == 0) (.vbcast (tokOf h) (h.extractLsb' 12 6) (h.extractLsb' 0 5))
  | 0x06c => some (.vlut (tokOf h) (h.extractLsb' 12 6) (h.extractLsb' 6 6) (h.extractLsb' 0 6))
  | 0x070 => gate (h.extractLsb' 11 1 == 0 && h.extractLsb' 5 1 == 0) (.vld (tokOf h) (h.extractLsb' 12 6) (h.extractLsb' 6 5) (h.extractLsb' 0 5))
  | 0x071 => gate (h.extractLsb' 11 1 == 0 && h.extractLsb' 5 1 == 0) (.vst (tokOf h) (h.extractLsb' 12 6) (h.extractLsb' 6 5) (h.extractLsb' 0 5))
  | 0x072 => gate (h.extractLsb' 11 1 == 0 && h.extractLsb' 5 1 == 0) (.vstNt (tokOf h) (h.extractLsb' 12 6) (h.extractLsb' 6 5) (h.extractLsb' 0 5))
  | 0x073 => gate (h.extractLsb' 11 1 == 0) (.vgather (tokOf h) (h.extractLsb' 12 6) (h.extractLsb' 6 5) (h.extractLsb' 0 6))
  | 0x074 => gate (h.extractLsb' 11 1 == 0) (.vscatter (tokOf h) (h.extractLsb' 12 6) (h.extractLsb' 6 5) (h.extractLsb' 0 6))
  | 0x075 => gate (h.extractLsb' 11 1 == 0 && h.extractLsb' 5 1 == 0) (.vupd (tokOf h) (h.extractLsb' 12 6) (h.extractLsb' 6 5) (h.extractLsb' 0 5))
  | _ => none

/-- The M words (R334, R335, R342 and chapter 20); `ws` are the continuation words. -/
noncomputable def decodeM (n : Nat) (h : W32) (ws : List W32) : Option Instr :=
  match n with
  | 0x001 => gate (h.extractLsb' 0 18 == 0) (.mNop (tokOf h))
  | 0x002 => gate (h.extractLsb' 0 18 == 0) (.mExit (tokOf h))
  | 0x003 => gate (h.extractLsb' 0 13 != 0) (.mLoop (tokOf h) (h.extractLsb' 13 5) (h.extractLsb' 0 13))
  | 0x004 => gate (h.extractLsb' 16 2 == 0) (.mRegionEnter (tokOf h) (h.extractLsb' 0 16))
  | 0x005 => gate (h.extractLsb' 0 18 == 0) (.mRegionLeave (tokOf h))
  | 0x010 => gate (h.extractLsb' 5 13 == 0) (.mcfg (tokOf h) (h.extractLsb' 0 5))
  | 0x011 => if flag h 10 then gate (h.extractLsb' 12 6 == 0 && h.extractLsb' 0 10 == 0) (.manchorAuto (tokOf h) (flag h 11)) else gate (h.extractLsb' 12 6 == 0 && h.extractLsb' 5 5 == 0) (.manchor (tokOf h) (flag h 11) (h.extractLsb' 0 5))
  | 0x012 => gate (h.extractLsb' 12 6 == 0 && h.extractLsb' 0 11 == 0) (.mzero (tokOf h) (flag h 11))
  | 0x013 => gate (h.extractLsb' 11 7 == 0) (.mstat (tokOf h) (h.extractLsb' 6 5) (h.extractLsb' 1 5) (flag h 0))
  | 0x014 => gate (h.extractLsb' 12 6 == 0) (.msamp (tokOf h) (flag h 11) (h.extractLsb' 6 5) (h.extractLsb' 1 5) (flag h 0))
  | 0x020 => gate (h.extractLsb' 5 6 == 0 && trefPlain (cw ws 0) && trefPlain (cw ws 1) && profDense ((h.extractLsb' 12 6))) (.mmd (tokOf h) ⟨(h.extractLsb' 12 6), flag h 11, (h.extractLsb' 0 5), trefOf (cw ws 0), trefOf (cw ws 1)⟩)
  | 0x021 => gate (h.extractLsb' 5 6 == 0 && trefPlain (cw ws 0) && trefPlain (cw ws 1) && profSparse ((h.extractLsb' 12 6)) && (cw ws 2).extractLsb' 9 23 == 0 && (flag (cw ws 2) 4 || (cw ws 2).extractLsb' 5 4 == 0)) (.mms (tokOf h) ⟨(h.extractLsb' 12 6), flag h 11, (h.extractLsb' 0 5), trefOf (cw ws 0), trefOf (cw ws 1)⟩ (cw ws 2 |>.extractLsb' 0 4) (if flag (cw ws 2) 4 then some (cw ws 2 |>.extractLsb' 5 4) else none))
  | 0x022 => gate (h.extractLsb' 5 6 == 0 && trefPlain (cw ws 0) && trefPlain (cw ws 1) && profSparse ((h.extractLsb' 12 6)) && (cw ws 2).extractLsb' 9 23 == 0 && (flag (cw ws 2) 4 || (cw ws 2).extractLsb' 5 4 == 0)) (.mmn (tokOf h) ⟨(h.extractLsb' 12 6), flag h 11, (h.extractLsb' 0 5), trefOf (cw ws 0), trefOf (cw ws 1)⟩ (cw ws 2 |>.extractLsb' 0 4) (if flag (cw ws 2) 4 then some (cw ws 2 |>.extractLsb' 5 4) else none))
  | 0x023 => gate (h.extractLsb' 5 6 == 0 && trefPlain (cw ws 0) && trefPlain (cw ws 1) && profCodebook ((h.extractLsb' 12 6)) && trefPlain (cw ws 2)) (.mmc (tokOf h) ⟨(h.extractLsb' 12 6), flag h 11, (h.extractLsb' 0 5), trefOf (cw ws 0), trefOf (cw ws 1)⟩ (trefOf (cw ws 2)))
  | 0x028 => gate (h.extractLsb' 1 17 == 0 && trefPlain (cw ws 0)) (.mtab (tokOf h) (flag h 0) (trefOf (cw ws 0)))
  | 0x030 => gate (h.extractLsb' 5 6 == 0 && profM (h.extractLsb' 12 6) && mrdMode (h.extractLsb' 12 6) (h.extractLsb' 0 3) && (cw ws 0).extractLsb' 13 4 == 0 && mrdOvf (cw ws 1)) (.mrd (tokOf h) ⟨(h.extractLsb' 12 6), flag h 11, flag h 4, flag h 3, (h.extractLsb' 0 3), tboxOf (cw ws 0), (cw ws 0 |>.extractLsb' 0 7), (cw ws 0 |>.extractLsb' 7 6), if flag (cw ws 1) 16 then some (trefOf (cw ws 1)) else none⟩)
  | 0x031 => gate (h.extractLsb' 12 6 == 0 && h.extractLsb' 0 11 == 0 && trefPlain (cw ws 0)) (.mst (tokOf h) (flag h 11) (trefOf (cw ws 0)))
  | 0x032 => gate (h.extractLsb' 12 6 == 0 && h.extractLsb' 0 11 == 0 && trefPlain (cw ws 0)) (.mld (tokOf h) (flag h 11) (trefOf (cw ws 0)))
  | 0x038 => gate (h.extractLsb' 0 11 == 0 && profM (h.extractLsb' 12 6) && trefPlain (cw ws 0) && (cw ws 1).extractLsb' 15 17 == 0) (.mmerge (tokOf h) (h.extractLsb' 12 6) (flag h 11) (trefOf (cw ws 0)) (cw ws 1 |>.extractLsb' 0 7) (cw ws 1 |>.extractLsb' 7 8))
  | _ => none

/-- The X words (R334 to R336, R343, R417). -/
noncomputable def decodeX (n : Nat) (h : W32) (ws : List W32) : Option Instr :=
  match n with
  | 0x001 => gate (h.extractLsb' 0 18 == 0) (.xNop (tokOf h))
  | 0x002 => gate (h.extractLsb' 0 18 == 0) (.xExit (tokOf h))
  | 0x003 => gate (h.extractLsb' 0 13 != 0) (.xLoop (tokOf h) (h.extractLsb' 13 5) (h.extractLsb' 0 13))
  | 0x004 => gate (h.extractLsb' 16 2 == 0) (.xRegionEnter (tokOf h) (h.extractLsb' 0 16))
  | 0x005 => gate (h.extractLsb' 0 18 == 0) (.xRegionLeave (tokOf h))
  | 0x010 => gate (lkOk h && h.extractLsb' 0 3 == 0 && decide ((h.extractLsb' 4 3).toNat ≤ 4) && (cw ws 0).extractLsb' 0 17 == 0 && (cw ws 1).extractLsb' 0 17 == 0) (.copy (tokOf h) ⟨lkOf h, (h.extractLsb' 4 3), flag h 3, tboxOf (cw ws 0), tboxOf (cw ws 1)⟩)
  | 0x011 => gate (lkOk h && h.extractLsb' 0 3 == 0 && decide ((h.extractLsb' 4 3).toNat ≤ 4) && (cw ws 0).extractLsb' 0 17 == 0 && (cw ws 1).extractLsb' 0 17 == 0 && orderOk (cw ws 2)) (.copyOrder (tokOf h) ⟨lkOf h, (h.extractLsb' 4 3), flag h 3, tboxOf (cw ws 0), tboxOf (cw ws 1)⟩ (orderOf (cw ws 2)))
  | 0x012 => gate (lkOk h && h.extractLsb' 0 3 == 0 && decide ((h.extractLsb' 4 3).toNat ≤ 4) && (cw ws 0).extractLsb' 0 17 == 0 && (cw ws 1).extractLsb' 8 9 == 0 && encCode (cw ws 1 |>.extractLsb' 0 8)) (.copyEnc (tokOf h) ⟨lkOf h, (h.extractLsb' 4 3), flag h 3, tboxOf (cw ws 0), tboxOf (cw ws 1)⟩ (cw ws 1 |>.extractLsb' 0 8))
  | 0x013 => gate (lkOk h && h.extractLsb' 0 3 == 0 && decide ((h.extractLsb' 4 3).toNat ≤ 4) && (cw ws 0).extractLsb' 0 17 == 0 && (cw ws 1).extractLsb' 8 9 == 0 && encCode (cw ws 1 |>.extractLsb' 0 8) && orderOk (cw ws 2)) (.copyEncOrder (tokOf h) ⟨lkOf h, (h.extractLsb' 4 3), flag h 3, tboxOf (cw ws 0), tboxOf (cw ws 1)⟩ (cw ws 1 |>.extractLsb' 0 8) (orderOf (cw ws 2)))
  | 0x014 => gate (lkOk h && h.extractLsb' 0 3 == 0 && decide ((h.extractLsb' 4 3).toNat ≤ 4) && (cw ws 1).extractLsb' 0 17 == 0 && (cw ws 0).extractLsb' 0 6 == 0 && (flag (cw ws 0) 16 || (cw ws 0).extractLsb' 0 17 == 0)) (.copyDec (tokOf h) ⟨lkOf h, (h.extractLsb' 4 3), flag h 3, tboxOf (cw ws 0), tboxOf (cw ws 1)⟩ (if flag (cw ws 0) 16 then some ⟨(cw ws 0 |>.extractLsb' 11 5), (cw ws 0 |>.extractLsb' 6 5)⟩ else none))
  | 0x015 => gate (lkOk h && h.extractLsb' 0 3 == 0 && decide ((h.extractLsb' 4 3).toNat ≤ 4) && (cw ws 1).extractLsb' 0 17 == 0 && (cw ws 0).extractLsb' 0 6 == 0 && (flag (cw ws 0) 16 || (cw ws 0).extractLsb' 0 17 == 0) && orderOk (cw ws 2)) (.copyDecOrder (tokOf h) ⟨lkOf h, (h.extractLsb' 4 3), flag h 3, tboxOf (cw ws 0), tboxOf (cw ws 1)⟩ (if flag (cw ws 0) 16 then some ⟨(cw ws 0 |>.extractLsb' 11 5), (cw ws 0 |>.extractLsb' 6 5)⟩ else none) (orderOf (cw ws 2)))
  | 0x016 => gate (lkOk h && h.extractLsb' 0 3 == 0 && decide ((h.extractLsb' 4 3).toNat ≤ 4) && (cw ws 0).extractLsb' 0 17 == 0 && (cw ws 1).extractLsb' 0 2 == 0) (.copySt (tokOf h) ⟨lkOf h, (h.extractLsb' 4 3), flag h 3, tboxOf (cw ws 0), tboxOf (cw ws 1)⟩ ⟨(cw ws 1 |>.extractLsb' 12 5), (cw ws 1 |>.extractLsb' 7 5), (cw ws 1 |>.extractLsb' 2 5)⟩)
  | 0x017 => gate (lkOk h && h.extractLsb' 0 3 == 0 && decide ((h.extractLsb' 4 3).toNat ≤ 4) && (cw ws 0).extractLsb' 0 17 == 0 && (cw ws 1).extractLsb' 0 2 == 0 && orderOk (cw ws 2)) (.copyStOrder (tokOf h) ⟨lkOf h, (h.extractLsb' 4 3), flag h 3, tboxOf (cw ws 0), tboxOf (cw ws 1)⟩ ⟨(cw ws 1 |>.extractLsb' 12 5), (cw ws 1 |>.extractLsb' 7 5), (cw ws 1 |>.extractLsb' 2 5)⟩ (orderOf (cw ws 2)))
  | 0x018 => gate (h.extractLsb' 9 9 == 0 && trefPlain (cw ws 0) && decide ((h.extractLsb' 4 5) ≠ 0 ∧ (h.extractLsb' 4 5).toNat + (h.extractLsb' 0 4).toNat ≤ 16)) (.metaLoad (tokOf h) (h.extractLsb' 4 5) (h.extractLsb' 0 4) (trefOf (cw ws 0)))
  | 0x019 => gate (h.extractLsb' 9 9 == 0 && trefPlain (cw ws 0) && decide ((h.extractLsb' 4 5) ≠ 0 ∧ (h.extractLsb' 4 5).toNat + (h.extractLsb' 0 4).toNat ≤ 16) && orderOk (cw ws 1)) (.metaLoadOrder (tokOf h) (h.extractLsb' 4 5) (h.extractLsb' 0 4) (trefOf (cw ws 0)) (orderOf (cw ws 1)))
  | 0x01a => gate (lkOk h && h.extractLsb' 0 7 == 0 && idxPlain (cw ws 0) && (cw ws 1).extractLsb' 0 17 == 0) (.gather (tokOf h) ⟨lkOf h, tboxOf (cw ws 1), (cw ws 0 |>.extractLsb' 27 5), ⟨(cw ws 0 |>.extractLsb' 12 5), (cw ws 0 |>.extractLsb' 7 5)⟩⟩)
  | 0x01b => gate (lkOk h && h.extractLsb' 0 7 == 0 && idxPlain (cw ws 0) && (cw ws 1).extractLsb' 0 17 == 0 && orderOk (cw ws 2)) (.gatherOrder (tokOf h) ⟨lkOf h, tboxOf (cw ws 1), (cw ws 0 |>.extractLsb' 27 5), ⟨(cw ws 0 |>.extractLsb' 12 5), (cw ws 0 |>.extractLsb' 7 5)⟩⟩ (orderOf (cw ws 2)))
  | 0x01c => gate (lkOk h && h.extractLsb' 0 7 == 0 && idxPlain (cw ws 1) && (cw ws 0).extractLsb' 0 17 == 0) (.scatter (tokOf h) ⟨lkOf h, tboxOf (cw ws 0), (cw ws 1 |>.extractLsb' 27 5), ⟨(cw ws 1 |>.extractLsb' 12 5), (cw ws 1 |>.extractLsb' 7 5)⟩⟩)
  | 0x01d => gate (lkOk h && h.extractLsb' 0 7 == 0 && idxPlain (cw ws 1) && (cw ws 0).extractLsb' 0 17 == 0 && orderOk (cw ws 2)) (.scatterOrder (tokOf h) ⟨lkOf h, tboxOf (cw ws 0), (cw ws 1 |>.extractLsb' 27 5), ⟨(cw ws 1 |>.extractLsb' 12 5), (cw ws 1 |>.extractLsb' 7 5)⟩⟩ (orderOf (cw ws 2)))
  | 0x01e => gate (h.extractLsb' 0 18 == 0 && (cw ws 0).extractLsb' 0 7 == 0 && trefPlain (cw ws 1)) (.scatterBin (tokOf h) (tboxOf (cw ws 0)) ⟨(cw ws 0 |>.extractLsb' 12 5), (cw ws 0 |>.extractLsb' 7 5)⟩ (trefOf (cw ws 1)))
  | 0x01f => gate (h.extractLsb' 0 18 == 0 && (cw ws 0).extractLsb' 0 7 == 0 && trefPlain (cw ws 1) && orderOk (cw ws 2)) (.scatterBinOrder (tokOf h) (tboxOf (cw ws 0)) ⟨(cw ws 0 |>.extractLsb' 12 5), (cw ws 0 |>.extractLsb' 7 5)⟩ (trefOf (cw ws 1)) (orderOf (cw ws 2)))
  | 0x020 => gate (h.extractLsb' 6 12 == 0 && trefPlain (cw ws 0)) (.binApply (tokOf h) (h.extractLsb' 1 5) (flag h 0) (trefOf (cw ws 0)))
  | 0x021 => gate (h.extractLsb' 6 12 == 0 && trefPlain (cw ws 0) && orderOk (cw ws 1)) (.binApplyOrder (tokOf h) (h.extractLsb' 1 5) (flag h 0) (trefOf (cw ws 0)) (orderOf (cw ws 1)))
  | 0x022 => gate (h.extractLsb' 12 5 == 0 && h.extractLsb' 3 4 == 0 && h.extractLsb' 0 2 == 0 && (flag h 17 || h.extractLsb' 7 5 == 0) && (cw ws 0).extractLsb' 0 17 == 0 && (cw ws 1).extractLsb' 0 17 == 0 && (flag h 2 || (cw ws 1).extractLsb' 17 5 == 0)) (.put (tokOf h) (if flag h 17 then some (h.extractLsb' 7 5) else none) (if flag h 2 then some (cw ws 1 |>.extractLsb' 17 5) else none) (tboxOf (cw ws 0)) (cw ws 1 |>.extractLsb' 27 5) (cw ws 1 |>.extractLsb' 22 5))
  | 0x023 => gate (h.extractLsb' 12 5 == 0 && h.extractLsb' 3 4 == 0 && h.extractLsb' 0 2 == 0 && (flag h 17 || h.extractLsb' 7 5 == 0) && (cw ws 0).extractLsb' 0 17 == 0 && (cw ws 1).extractLsb' 0 17 == 0 && (flag h 2 || (cw ws 1).extractLsb' 17 5 == 0) && orderOk (cw ws 2)) (.putOrder (tokOf h) (if flag h 17 then some (h.extractLsb' 7 5) else none) (if flag h 2 then some (cw ws 1 |>.extractLsb' 17 5) else none) (tboxOf (cw ws 0)) (cw ws 1 |>.extractLsb' 27 5) (cw ws 1 |>.extractLsb' 22 5) (orderOf (cw ws 2)))
  | 0x024 => gate (lkOk h && h.extractLsb' 0 7 == 0 && (cw ws 0).extractLsb' 0 17 == 0 && (cw ws 1).extractLsb' 0 22 == 0) (.get (tokOf h) (lkOf h) (tboxOf (cw ws 0)) (cw ws 1 |>.extractLsb' 27 5) (cw ws 1 |>.extractLsb' 22 5))
  | 0x025 => gate (lkOk h && h.extractLsb' 0 7 == 0 && (cw ws 0).extractLsb' 0 17 == 0 && (cw ws 1).extractLsb' 0 22 == 0 && orderOk (cw ws 2)) (.getOrder (tokOf h) (lkOf h) (tboxOf (cw ws 0)) (cw ws 1 |>.extractLsb' 27 5) (cw ws 1 |>.extractLsb' 22 5) (orderOf (cw ws 2)))
  | 0x026 => gate (lkOk h && h.extractLsb' 0 7 == 0 && (cw ws 0).extractLsb' 0 17 == 0 && listOk (cw ws 1)) (.mcast (tokOf h) (lkOf h) (tboxOf (cw ws 0)) (tboxOf (cw ws 1)) (listOf (cw ws 1)))
  | 0x027 => gate (lkOk h && h.extractLsb' 0 7 == 0 && (cw ws 0).extractLsb' 0 17 == 0 && listOk (cw ws 1) && orderOk (cw ws 2)) (.mcastOrder (tokOf h) (lkOf h) (tboxOf (cw ws 0)) (tboxOf (cw ws 1)) (listOf (cw ws 1)) (orderOf (cw ws 2)))
  | 0x028 => gate (h.extractLsb' 0 5 == 0 && (flag h 10 || h.extractLsb' 5 5 == 0) && (cw ws 0).extractLsb' 0 17 == 0 && (cw ws 1).extractLsb' 17 5 == 0 && listOk (cw ws 1) && (!flag h 17 || !flag (cw ws 1) 16)) (.walk (tokOf h) ⟨flag h 17, (h.extractLsb' 14 3), (h.extractLsb' 11 3), if flag h 10 then some (h.extractLsb' 5 5) else none, tboxOf (cw ws 0), trefOf (cw ws 1), listOf (cw ws 1)⟩)
  | 0x029 => gate (h.extractLsb' 0 5 == 0 && (flag h 10 || h.extractLsb' 5 5 == 0) && (cw ws 0).extractLsb' 0 17 == 0 && (cw ws 1).extractLsb' 17 5 == 0 && listOk (cw ws 1) && (!flag h 17 || !flag (cw ws 1) 16) && orderOk (cw ws 2)) (.walkOrder (tokOf h) ⟨flag h 17, (h.extractLsb' 14 3), (h.extractLsb' 11 3), if flag h 10 then some (h.extractLsb' 5 5) else none, tboxOf (cw ws 0), trefOf (cw ws 1), listOf (cw ws 1)⟩ (orderOf (cw ws 2)))
  | 0x02a => gate (h.extractLsb' 11 7 == 0 && h.extractLsb' 3 8 != 0) (.permit (tokOf h) (h.extractLsb' 3 8) (h.extractLsb' 0 3))
  | 0x02b => gate (h.extractLsb' 11 7 == 0 && h.extractLsb' 3 8 != 0 && orderOk (cw ws 0)) (.permitOrder (tokOf h) (h.extractLsb' 3 8) (h.extractLsb' 0 3) (orderOf (cw ws 0)))
  | 0x02c => gate (h.extractLsb' 5 13 == 0 && trefPlain (cw ws 0)) (.lockSet (tokOf h) (h.extractLsb' 0 5) (trefOf (cw ws 0)))
  | 0x02d => gate (h.extractLsb' 5 13 == 0 && trefPlain (cw ws 0) && orderOk (cw ws 1)) (.lockSetOrder (tokOf h) (h.extractLsb' 0 5) (trefOf (cw ws 0)) (orderOf (cw ws 1)))
  | 0x02e => gate (h.extractLsb' 13 5 == 0 && (cw ws 0).extractLsb' 0 17 == 0) (.alloc (tokOf h) ⟨(h.extractLsb' 8 5), (h.extractLsb' 3 5)⟩ (flag h 2) (h.extractLsb' 0 2) (tboxOf (cw ws 0)))
  | 0x02f => gate (h.extractLsb' 13 5 == 0 && (cw ws 0).extractLsb' 0 17 == 0 && orderOk (cw ws 1)) (.allocOrder (tokOf h) ⟨(h.extractLsb' 8 5), (h.extractLsb' 3 5)⟩ (flag h 2) (h.extractLsb' 0 2) (tboxOf (cw ws 0)) (orderOf (cw ws 1)))
  | 0x030 => gate (h.extractLsb' 0 18 == 0 && (cw ws 0).extractLsb' 0 17 == 0) (.free (tokOf h) (tboxOf (cw ws 0)))
  | 0x031 => gate (h.extractLsb' 0 18 == 0 && (cw ws 0).extractLsb' 0 17 == 0 && orderOk (cw ws 1)) (.freeOrder (tokOf h) (tboxOf (cw ws 0)) (orderOf (cw ws 1)))
  | 0x032 => gate (h.extractLsb' 0 18 == 0 && (cw ws 0).extractLsb' 0 17 == 0) (.renew (tokOf h) (tboxOf (cw ws 0)))
  | 0x033 => gate (h.extractLsb' 0 18 == 0 && (cw ws 0).extractLsb' 0 17 == 0 && orderOk (cw ws 1)) (.renewOrder (tokOf h) (tboxOf (cw ws 0)) (orderOf (cw ws 1)))
  | 0x034 => gate (h.extractLsb' 2 16 == 0 && h.extractLsb' 0 2 != 3 && trefPlain (cw ws 0) && (cw ws 1).extractLsb' 0 27 == 0) (.ringPut (tokOf h) (h.extractLsb' 0 2) (trefOf (cw ws 0)) (cw ws 1 |>.extractLsb' 27 5))
  | 0x035 => gate (h.extractLsb' 2 16 == 0 && h.extractLsb' 0 2 != 3 && trefPlain (cw ws 0) && (cw ws 1).extractLsb' 0 27 == 0 && orderOk (cw ws 2)) (.ringPutOrder (tokOf h) (h.extractLsb' 0 2) (trefOf (cw ws 0)) (cw ws 1 |>.extractLsb' 27 5) (orderOf (cw ws 2)))
  | 0x036 => gate (h.extractLsb' 3 15 == 0 && (cw ws 0).extractLsb' 0 27 == 0 && (cw ws 1).extractLsb' 17 5 == 0 && (cw ws 1).extractLsb' 0 7 == 0) (.ringTake (tokOf h) (h.extractLsb' 0 3) (cw ws 0 |>.extractLsb' 27 5) (trefOf (cw ws 1)) ⟨(cw ws 1 |>.extractLsb' 12 5), (cw ws 1 |>.extractLsb' 7 5)⟩)
  | 0x037 => gate (h.extractLsb' 3 15 == 0 && (cw ws 0).extractLsb' 0 27 == 0 && (cw ws 1).extractLsb' 17 5 == 0 && (cw ws 1).extractLsb' 0 7 == 0 && orderOk (cw ws 2)) (.ringTakeOrder (tokOf h) (h.extractLsb' 0 3) (cw ws 0 |>.extractLsb' 27 5) (trefOf (cw ws 1)) ⟨(cw ws 1 |>.extractLsb' 12 5), (cw ws 1 |>.extractLsb' 7 5)⟩ (orderOf (cw ws 2)))
  | 0x038 => gate (h.extractLsb' 0 18 == 0 && (cw ws 0).extractLsb' 0 27 == 0) (.ringClose (tokOf h) (cw ws 0 |>.extractLsb' 27 5))
  | 0x039 => gate (h.extractLsb' 0 18 == 0 && (cw ws 0).extractLsb' 0 27 == 0 && orderOk (cw ws 1)) (.ringCloseOrder (tokOf h) (cw ws 0 |>.extractLsb' 27 5) (orderOf (cw ws 1)))
  | 0x03a => gate (h.extractLsb' 17 1 == 0 && h.extractLsb' 2 2 != 3 && (h.extractLsb' 0 2 == 3 || h.extractLsb' 12 5 == 0) && (cw ws 0).extractLsb' 0 17 == 0 && (cw ws 1).extractLsb' 0 12 == 0) (.coll (tokOf h) ⟨(h.extractLsb' 12 5), (h.extractLsb' 4 8), (h.extractLsb' 2 2), (h.extractLsb' 0 2), tboxOf (cw ws 0), tboxOf (cw ws 1), (cw ws 1 |>.extractLsb' 12 5)⟩)
  | 0x03b => gate (h.extractLsb' 17 1 == 0 && h.extractLsb' 2 2 != 3 && (h.extractLsb' 0 2 == 3 || h.extractLsb' 12 5 == 0) && (cw ws 0).extractLsb' 0 17 == 0 && (cw ws 1).extractLsb' 0 12 == 0 && orderOk (cw ws 2)) (.collOrder (tokOf h) ⟨(h.extractLsb' 12 5), (h.extractLsb' 4 8), (h.extractLsb' 2 2), (h.extractLsb' 0 2), tboxOf (cw ws 0), tboxOf (cw ws 1), (cw ws 1 |>.extractLsb' 12 5)⟩ (orderOf (cw ws 2)))
  | _ => none

/-- The instruction of internal operation `n`. -/
noncomputable def decodeOp (st : Strand) (n : Nat) (h : W32) (ws : List W32) : Option Instr :=
  match st with
  | .s => decodeS n h
  | .v => decodeV n h
  | .m => decodeM n h ws
  | .x => decodeX n h ws

/-- R289 on whole words: the table entry of the head's opcode, its length, then the fields. Answers the instruction and
its length in words; none is ILLOP. `words` holds the head and whatever follows it in the section. -/
noncomputable def decodeWords (st : Strand) (entry : Nat → BitVec 16) (words : List W32) : Option (Instr × Nat) :=
  match words with
  | [] => none
  | h :: rest =>
    match entryOp st (entry (h.extractLsb' 22 10).toNat) with
    | none => none
    | some (n, len) =>
      if rest.length + 1 < len then none
      else (decodeOp st n h (rest.take (len - 1))).map fun i => (i, len)

/-- Bytes of memory as words, each little-endian (R5). Trailing bytes short of a word are dropped. -/
def wordsOfBytes : List Byte → List W32
  | a :: b :: c :: d :: r => (d ++ c ++ b ++ a : BitVec 32) :: wordsOfBytes r
  | _ => []

/-- Decoding of bytes with the published tables. -/
noncomputable def decodeBytes (st : Strand) (bs : List Byte) : Option (Instr × Nat) :=
  decodeWords st (defaultEntry st) (wordsOfBytes bs)

/-- The four words of a table number, first word lowest. -/
def tableWords (nbits w : Nat) : List W32 :=
  [BitVec.ofNat 32 (w % 2 ^ nbits), BitVec.ofNat 32 (w % 2 ^ nbits / 2 ^ 32),
   BitVec.ofNat 32 (w % 2 ^ nbits / 2 ^ 64), BitVec.ofNat 32 (w % 2 ^ nbits / 2 ^ 96)]

/-- One word can be an instruction of more than one strand, since each strand has its own map. A table number names no
strand: the first strand in the order S, V, M, X that decodes it is taken (log 5). -/
noncomputable def tableStrand (nbits w : Nat) : Option (Strand × Instr) :=
  let ws := tableWords nbits w
  match decodeWords .s (defaultEntry .s) ws with
  | some (i, _) => some (.s, i)
  | none =>
    match decodeWords .v (defaultEntry .v) ws with
    | some (i, _) => some (.v, i)
    | none =>
      match decodeWords .m (defaultEntry .m) ws with
      | some (i, _) => some (.m, i)
      | none =>
        match decodeWords .x (defaultEntry .x) ws with
        | some (i, _) => some (.x, i)
        | none => none

/-- The instruction that the decoder reads from a table number. -/
noncomputable def decodeTableWord (nbits w : Nat) : Option Instr := (tableStrand nbits w).map (·.2)

/-! ### The encoder -/

/-- RRR format (R331). -/
def wRRR (op : BitVec 10) (d a b : BitVec 6) (m : BitVec 4) : W32 := op ++ d ++ a ++ b ++ m

/-- RRI and B formats (R331). -/
def wRRI (op : BitVec 10) (d a : BitVec 6) (imm : BitVec 10) : W32 := op ++ d ++ a ++ imm

/-- RI format (R331). -/
def wRI (op : BitVec 10) (d : BitVec 6) (imm : BitVec 16) : W32 := op ++ d ++ imm

/-- J format (R331). -/
def wJ (op : BitVec 10) (off : BitVec 22) : W32 := op ++ off

/-- M format (R331). -/
def wM (op : BitVec 10) (d r : BitVec 6) (slot imm : BitVec 5) : W32 := op ++ d ++ r ++ slot ++ imm

/-- mod with the `.w` bit (R332). -/
def modW (w : Bool) : BitVec 4 := if w then 1 else 0

/-- A V word (R333). -/
def wV (op : BitVec 10) (tk : Tok) (d a b : BitVec 6) : W32 := op ++ tk.wait ++ tk.post ++ d ++ a ++ b

/-- An M or X head word (R334). -/
def wH (op : BitVec 10) (tk : Tok) (o : BitVec 18) : W32 := op ++ tk.wait ++ tk.post ++ o

/-- A TREF word without a box; `low` are bits [16:0]. -/
def wTref (t : TRef) (low : BitVec 17) : W32 := t.slot ++ t.pcrd ++ (0 : BitVec 5) ++ low

/-- A TREF word with a box. -/
def wTbox (t : TBox) (low : BitVec 17) : W32 := t.slot ++ t.pcrd ++ t.pbox ++ low

/-- An indexed TREF word (R417). -/
def wIdx (slot : BitVec 5) (r : LockRef) : W32 := slot ++ (0 : BitVec 10) ++ r.slot ++ r.pc ++ (0 : BitVec 7)

/-- The ORDER word (R336). -/
def wOrder (o : Order) : W32 := (0 : BitVec 20) ++ o.d2 ++ o.d1

/-- A field group present or all zero. -/
def wOpt {α : Type} {n : Nat} (o : Option α) (f : α → BitVec n) : BitVec n :=
  match o with
  | some a => f a
  | none => 0

/-- LK, LSLOT, LPC (R417). -/
def wLk (o : Option LockRef) : BitVec 11 := wOpt o fun r => (1 : BitVec 1) ++ r.slot ++ r.pc

/-- LIST, PCORES and the reserved bits below (R417). -/
def wList (o : Option (BitVec 5)) : BitVec 17 := wOpt o fun q => (1 : BitVec 1) ++ q ++ (0 : BitVec 11)

/-- Word 4 of `mms` and `mmn` (R406). -/
def wSlots (a : BitVec 4) (b : Option (BitVec 4)) : W32 :=
  (0 : BitVec 23) ++ wOpt b (fun s => s ++ (1 : BitVec 1)) ++ a

/-- The words of an instruction with the published opcode; a device event has none. -/
def encode : Instr → List W32
  | .add d a b w => [wRRR 0x1 d a b (modW w)]
  | .sub d a b w => [wRRR 0x2 d a b (modW w)]
  | .mul d a b w => [wRRR 0x3 d a b (modW w)]
  | .mulh d a b w => [wRRR 0x4 d a b (modW w)]
  | .mulhu d a b w => [wRRR 0x5 d a b (modW w)]
  | .div d a b w => [wRRR 0x6 d a b (modW w)]
  | .divu d a b w => [wRRR 0x7 d a b (modW w)]
  | .rem d a b w => [wRRR 0x8 d a b (modW w)]
  | .remu d a b w => [wRRR 0x9 d a b (modW w)]
  | .and d a b w => [wRRR 0xa d a b (modW w)]
  | .or d a b w => [wRRR 0xb d a b (modW w)]
  | .xor d a b w => [wRRR 0xc d a b (modW w)]
  | .andn d a b w => [wRRR 0xd d a b (modW w)]
  | .shl d a b w => [wRRR 0xe d a b (modW w)]
  | .shr d a b w => [wRRR 0xf d a b (modW w)]
  | .sra d a b w => [wRRR 0x10 d a b (modW w)]
  | .rotr d a b w => [wRRR 0x11 d a b (modW w)]
  | .min d a b w => [wRRR 0x12 d a b (modW w)]
  | .max d a b w => [wRRR 0x13 d a b (modW w)]
  | .minu d a b w => [wRRR 0x14 d a b (modW w)]
  | .maxu d a b w => [wRRR 0x15 d a b (modW w)]
  | .cmp c d a b => [wRRR 0x16 d a b c.code]
  | .sel d a b => [wRRR 0x17 d a b 0]
  | .clz d a w => [wRRR 0x18 d a 0 (modW w)]
  | .ctz d a w => [wRRR 0x19 d a 0 (modW w)]
  | .popc d a w => [wRRR 0x1a d a 0 (modW w)]
  | .brev d a w => [wRRR 0x1b d a 0 (modW w)]
  | .bext d a b w => [wRRR 0x1c d a b (modW w)]
  | .bins d a b w => [wRRR 0x1d d a b (modW w)]
  | .addi d a imm => [wRRI 0x20 d a imm]
  | .andi d a imm => [wRRI 0x21 d a imm]
  | .ori d a imm => [wRRI 0x22 d a imm]
  | .xori d a imm => [wRRI 0x23 d a imm]
  | .shli d a sh => [wRRR 0x24 d a (sh.extractLsb' 4 2 |>.zeroExtend 6) (sh.extractLsb' 0 4)]
  | .shri d a sh => [wRRR 0x25 d a (sh.extractLsb' 4 2 |>.zeroExtend 6) (sh.extractLsb' 0 4)]
  | .srai d a sh => [wRRR 0x26 d a (sh.extractLsb' 4 2 |>.zeroExtend 6) (sh.extractLsb' 0 4)]
  | .muli d a imm => [wRRI 0x27 d a imm]
  | .cmpi c d a imm => [wRRI (0x28 + c.code.zeroExtend 10) d a imm]
  | .li d imm => [wRI 0x30 d imm]
  | .lsi d imm => [wRI 0x31 d imm]
  | .pmovToP p a => [wRRR 0x32 (p.zeroExtend 6) a 0 0]
  | .pmovFromP d p => [wRRR 0x33 d (p.zeroExtend 6) 0 0]
  | .beq a b off => [wRRI 0x40 a b off]
  | .bne a b off => [wRRI 0x41 a b off]
  | .blt a b off => [wRRI 0x42 a b off]
  | .bge a b off => [wRRI 0x43 a b off]
  | .bltu a b off => [wRRI 0x44 a b off]
  | .bgeu a b off => [wRRI 0x45 a b off]
  | .j off => [wJ 0x46 off]
  | .call off => [wJ 0x47 off]
  | .jr a => [wRRI 0x48 0 a 0]
  | .callr a => [wRRI 0x49 0 a 0]
  | .sLoop a len => [wRRI 0x4a 0 a len]
  | .ldS8 d r slot imm => [wM 0x50 d r slot imm]
  | .ldN8 d r slot imm => [wM 0x51 d r slot imm]
  | .ldS16 d r slot imm => [wM 0x52 d r slot imm]
  | .ldN16 d r slot imm => [wM 0x53 d r slot imm]
  | .ldS32 d r slot imm => [wM 0x54 d r slot imm]
  | .ldN32 d r slot imm => [wM 0x55 d r slot imm]
  | .ld64 d r slot imm => [wM 0x56 d r slot imm]
  | .st8 d r slot imm => [wM 0x58 d r slot imm]
  | .st16 d r slot imm => [wM 0x59 d r slot imm]
  | .st32 d r slot imm => [wM 0x5a d r slot imm]
  | .st64 d r slot imm => [wM 0x5b d r slot imm]
  | .stNt8 d r slot imm => [wM 0x5c d r slot imm]
  | .stNt16 d r slot imm => [wM 0x5d d r slot imm]
  | .stNt32 d r slot imm => [wM 0x5e d r slot imm]
  | .stNt64 d r slot imm => [wM 0x5f d r slot imm]
  | .ldAcqN32 sc d r slot imm => [wM (0x60 + 2 * sc.code) d r slot imm]
  | .ldAcq64 sc d r slot imm => [wM (0x61 + 2 * sc.code) d r slot imm]
  | .stRel32 sc d r slot imm => [wM (0x70 + 2 * sc.code) d r slot imm]
  | .stRel64 sc d r slot imm => [wM (0x71 + 2 * sc.code) d r slot imm]
  | .fenceRel sc => [wJ (0x80 + sc.code) 0]
  | .fenceAcq sc => [wJ (0x88 + sc.code) 0]
  | .fenceFull sc => [wJ (0x90 + sc.code) 0]
  | .fenceAlias => [wJ 0x98 0]
  | .phase d g => [wRI 0xa0 d (g.zeroExtend 16)]
  | .phaseArrive d g => [wRI 0xa1 d (g.zeroExtend 16)]
  | .phaseWait d g => [wRI 0xa2 d (g.zeroExtend 16)]
  | .grpInit d a => [wRRI 0xa3 d a 0]
  | .grpFree g => [wRI 0xa4 0 (g.zeroExtend 16)]
  | .tokWait st n => [wRI 0xa5 0 ((0 : BitVec 8) ++ n ++ st)]
  | .tokPost st n => [wRI 0xa6 0 ((0 : BitVec 8) ++ n ++ st)]
  | .mwait sc d r slot imm => [wM (0xa8 + 1 * sc.code) d r slot imm]
  | .chunkInit a b => [wRRR 0xb0 0 a b 0]
  | .chunkFetch d a => [wRRI 0xb1 d a 0]
  | .spawn d a b => [wRRR 0xb2 d a b 0]
  | .notify a b => [wRRR 0xb3 0 a b 0]
  | .yield => [wJ 0xb4 0]
  | .sExit => [wJ 0xb5 0]
  | .sNop => [wJ 0xb6 0]
  | .sRegionEnter imm => [wRI 0xb7 0 imm]
  | .sRegionLeave => [wJ 0xb8 0]
  | .genSet g r slot imm => [wM 0xb9 (g.zeroExtend 6) r slot imm]
  | .genSkip g a b => [wRRR 0xba (g.zeroExtend 6) a b 0]
  | .amoAdd wide sc o d r slot imm => [wM (amoOp (if wide then 1 else 0) sc o) d r slot imm]
  | .amoAnd wide sc o d r slot imm => [wM (amoOp (if wide then 3 else 2) sc o) d r slot imm]
  | .amoOr wide sc o d r slot imm => [wM (amoOp (if wide then 5 else 4) sc o) d r slot imm]
  | .amoXor wide sc o d r slot imm => [wM (amoOp (if wide then 7 else 6) sc o) d r slot imm]
  | .amoSwap wide sc o d r slot imm => [wM (amoOp (if wide then 9 else 8) sc o) d r slot imm]
  | .amoSmin wide sc o d r slot imm => [wM (amoOp (if wide then 11 else 10) sc o) d r slot imm]
  | .amoSmax wide sc o d r slot imm => [wM (amoOp (if wide then 13 else 12) sc o) d r slot imm]
  | .amoUmin wide sc o d r slot imm => [wM (amoOp (if wide then 15 else 14) sc o) d r slot imm]
  | .amoUmax wide sc o d r slot imm => [wM (amoOp (if wide then 17 else 16) sc o) d r slot imm]
  | .amoCas w sc o d r slot imm => [wM (amoOp (w.code + 18) sc o) d r slot imm]
  | .amoFaddF32 sc o d r slot imm => [wM (amoOp 21 sc o) d r slot imm]
  | .amoFaddBf16 sc o d r slot imm => [wM (amoOp 22 sc o) d r slot imm]
  | .amoFminF32 sc o d r slot imm => [wM (amoOp 23 sc o) d r slot imm]
  | .amoFmaxF32 sc o d r slot imm => [wM (amoOp 24 sc o) d r slot imm]
  | .trap imm => [wRI 0x380 0 imm]
  | .resume a => [wRRI 0x381 0 a 0]
  | .ctxSave a => [wRRI 0x382 0 a 0]
  | .ctxLoad a => [wRRI 0x383 0 a 0]
  | .dtabLoad a b => [wRRR 0x384 0 a b 0]
  | .capDeleg d a b => [wRRR 0x385 d a b 0]
  | .capRevoke a => [wRRI 0x386 0 a 0]
  | .capCheck d a => [wRRI 0x387 d a 0]
  | .evSel a b => [wRRR 0x388 0 a b 0]
  | .evRead d a => [wRRI 0x389 d a 0]
  | .snapRead d a => [wRRI 0x38a d a 0]
  | .ttInval a b => [wRRR 0x38b 0 a b 0]
  | .slogReplay a b => [wRRR 0x38c 0 a b 0]
  | .migrate a b => [wRRR 0x38d 0 a b 0]
  | .stop a b => [wRRR 0x38e 0 a b 0]
  | .xmode det => [wJ 0x38f (if det then 1 else 0)]
  | .halt => [wJ 0x390 0]
  | .wfi => [wJ 0x391 0]
  | .sysr d num => [wRI 0x392 d num]
  | .sysw d num => [wRI 0x393 d num]
  | .vNop tk => [wV 0x1 tk 0 0 0]
  | .vExit tk => [wV 0x2 tk 0 0 0]
  | .vLoop tk len n => [wV 0x3 tk (len.extractLsb' 6 6) (len.extractLsb' 0 6) (n.zeroExtend 6)]
  | .vRegionEnter tk imm => [wH 0x4 tk (imm.zeroExtend 18)]
  | .vRegionLeave tk => [wV 0x5 tk 0 0 0]
  | .vshape tk n => [wV 0x8 tk 0 0 (n.zeroExtend 6)]
  | .vsetlen tk n => [wV 0x9 tk 0 0 (n.zeroExtend 6)]
  | .mand tk d a b => [wV 0x10 tk (d.zeroExtend 6) (a.zeroExtend 6) (b.zeroExtend 6)]
  | .mor tk d a b => [wV 0x11 tk (d.zeroExtend 6) (a.zeroExtend 6) (b.zeroExtend 6)]
  | .mxor tk d a b => [wV 0x12 tk (d.zeroExtend 6) (a.zeroExtend 6) (b.zeroExtend 6)]
  | .mandn tk d a b => [wV 0x13 tk (d.zeroExtend 6) (a.zeroExtend 6) (b.zeroExtend 6)]
  | .mnot tk d a => [wV 0x14 tk (d.zeroExtend 6) (a.zeroExtend 6) 0]
  | .mfromv tk d a => [wV 0x15 tk (d.zeroExtend 6) a 0]
  | .vadd tk d a b => [wV 0x20 tk d a b]
  | .vsub tk d a b => [wV 0x21 tk d a b]
  | .vmul tk d a b => [wV 0x22 tk d a b]
  | .vfma tk d a b => [wV 0x23 tk d a b]
  | .vfms tk d a b => [wV 0x24 tk d a b]
  | .vmin tk d a b => [wV 0x25 tk d a b]
  | .vmax tk d a b => [wV 0x26 tk d a b]
  | .vdiv tk d a b => [wV 0x27 tk d a b]
  | .vand tk d a b => [wV 0x28 tk d a b]
  | .vor tk d a b => [wV 0x29 tk d a b]
  | .vxor tk d a b => [wV 0x2a tk d a b]
  | .vshl tk d a b => [wV 0x2b tk d a b]
  | .vshr tk d a b => [wV 0x2c tk d a b]
  | .vsra tk d a b => [wV 0x2d tk d a b]
  | .vaddS tk d a n => [wV 0x30 tk d a (n.zeroExtend 6)]
  | .vsubS tk d a n => [wV 0x31 tk d a (n.zeroExtend 6)]
  | .vmulS tk d a n => [wV 0x32 tk d a (n.zeroExtend 6)]
  | .vfmaS tk d a n => [wV 0x33 tk d a (n.zeroExtend 6)]
  | .vfmsS tk d a n => [wV 0x34 tk d a (n.zeroExtend 6)]
  | .vminS tk d a n => [wV 0x35 tk d a (n.zeroExtend 6)]
  | .vmaxS tk d a n => [wV 0x36 tk d a (n.zeroExtend 6)]
  | .vdivS tk d a n => [wV 0x37 tk d a (n.zeroExtend 6)]
  | .vandS tk d a n => [wV 0x38 tk d a (n.zeroExtend 6)]
  | .vorS tk d a n => [wV 0x39 tk d a (n.zeroExtend 6)]
  | .vxorS tk d a n => [wV 0x3a tk d a (n.zeroExtend 6)]
  | .vshlS tk d a n => [wV 0x3b tk d a (n.zeroExtend 6)]
  | .vshrS tk d a n => [wV 0x3c tk d a (n.zeroExtend 6)]
  | .vsraS tk d a n => [wV 0x3d tk d a (n.zeroExtend 6)]
  | .vabs tk d a => [wV 0x40 tk d a 0]
  | .vneg tk d a => [wV 0x41 tk d a 0]
  | .vrcp tk d a => [wV 0x42 tk d a 0]
  | .vsqrt tk d a => [wV 0x43 tk d a 0]
  | .vrsqrt tk d a => [wV 0x44 tk d a 0]
  | .vexp2 tk d a => [wV 0x45 tk d a 0]
  | .vlog2 tk d a => [wV 0x46 tk d a 0]
  | .vsin tk d a => [wV 0x47 tk d a 0]
  | .vcos tk d a => [wV 0x48 tk d a 0]
  | .vmov tk d a => [wV 0x49 tk d a 0]
  | .vcmp tk c d a b => [wV (0x50 + c.code) tk (d.zeroExtend 6) a b]
  | .vsel tk d a b => [wV 0x56 tk d a b]
  | .vcvt tk d a n => [wV 0x58 tk d a (n.zeroExtend 6)]
  | .vpack tk d a n => [wV 0x59 tk d a (n.zeroExtend 6)]
  | .vunpack tk d a n => [wV 0x5a tk d a (n.zeroExtend 6)]
  | .vrsum tk d a => [wV 0x60 tk d a 0]
  | .vrmax tk d a => [wV 0x61 tk d a 0]
  | .vrmin tk d a => [wV 0x62 tk d a 0]
  | .vperm tk d a b => [wV 0x68 tk d a b]
  | .vslup tk d a n => [wV 0x69 tk d a (n.zeroExtend 6)]
  | .vsldn tk d a n => [wV 0x6a tk d a (n.zeroExtend 6)]
  | .vbcast tk d n => [wV 0x6b tk d 0 (n.zeroExtend 6)]
  | .vlut tk d a b => [wV 0x6c tk d a b]
  | .vld tk d slot n => [wV 0x70 tk d (slot.zeroExtend 6) (n.zeroExtend 6)]
  | .vst tk d slot n => [wV 0x71 tk d (slot.zeroExtend 6) (n.zeroExtend 6)]
  | .vstNt tk d slot n => [wV 0x72 tk d (slot.zeroExtend 6) (n.zeroExtend 6)]
  | .vgather tk d slot i => [wV 0x73 tk d (slot.zeroExtend 6) i]
  | .vscatter tk d slot i => [wV 0x74 tk d (slot.zeroExtend 6) i]
  | .vupd tk d slot n => [wV 0x75 tk d (slot.zeroExtend 6) (n.zeroExtend 6)]
  | .mNop tk => [wH 0x1 tk 0]
  | .mExit tk => [wH 0x2 tk 0]
  | .mLoop tk n len => [wH 0x3 tk (n ++ len)]
  | .mRegionEnter tk imm => [wH 0x4 tk (imm.zeroExtend 18)]
  | .mRegionLeave tk => [wH 0x5 tk 0]
  | .mcfg tk n => [wH 0x10 tk (n.zeroExtend 18)]
  | .manchor tk t n => [wH 0x11 tk ((0 : BitVec 6) ++ bit t ++ (0 : BitVec 6) ++ n)]
  | .manchorAuto tk t => [wH 0x11 tk ((0 : BitVec 6) ++ bit t ++ (1 : BitVec 1) ++ (0 : BitVec 10))]
  | .mzero tk t => [wH 0x12 tk ((0 : BitVec 6) ++ bit t ++ (0 : BitVec 11))]
  | .mstat tk slot c clr => [wH 0x13 tk ((0 : BitVec 7) ++ slot ++ c ++ bit clr)]
  | .msamp tk bnd slot c clr => [wH 0x14 tk ((0 : BitVec 6) ++ bit bnd ++ slot ++ c ++ bit clr)]
  | .mmd tk m => [wH 0x20 tk ((m.prof ++ bit m.tile ++ (0 : BitVec 6) ++ m.g)), wTref m.a 0, wTref m.b 0]
  | .mms tk m asl bsl => [wH 0x21 tk ((m.prof ++ bit m.tile ++ (0 : BitVec 6) ++ m.g)), wTref m.a 0, wTref m.b 0, wSlots asl bsl]
  | .mmn tk m asl bsl => [wH 0x22 tk ((m.prof ++ bit m.tile ++ (0 : BitVec 6) ++ m.g)), wTref m.a 0, wTref m.b 0, wSlots asl bsl]
  | .mmc tk m tab => [wH 0x23 tk ((m.prof ++ bit m.tile ++ (0 : BitVec 6) ++ m.g)), wTref m.a 0, wTref m.b 0, wTref tab 0]
  | .mtab tk two t => [wH 0x28 tk ((0 : BitVec 17) ++ bit two), wTref t 0]
  | .mrd tk r => [wH 0x30 tk (r.prof ++ bit r.tile ++ (0 : BitVec 6) ++ bit r.clr ++ bit r.sat ++ r.rm), wTbox r.d ((0 : BitVec 4) ++ r.col0 ++ r.row0), (match r.ovf with | some t => wTref t ((1 : BitVec 1) ++ (0 : BitVec 16)) | none => 0)]
  | .mst tk t a => [wH 0x31 tk ((0 : BitVec 6) ++ bit t ++ (0 : BitVec 11)), wTref a 0]
  | .mld tk t a => [wH 0x32 tk ((0 : BitVec 6) ++ bit t ++ (0 : BitVec 11)), wTref a 0]
  | .mmerge tk pr t a row0 rows => [wH 0x38 tk (pr ++ bit t ++ (0 : BitVec 11)), wTref a 0, ((0 : BitVec 17) ++ rows ++ row0)]
  | .xNop tk => [wH 0x1 tk 0]
  | .xExit tk => [wH 0x2 tk 0]
  | .xLoop tk n len => [wH 0x3 tk (n ++ len)]
  | .xRegionEnter tk imm => [wH 0x4 tk (imm.zeroExtend 18)]
  | .xRegionLeave tk => [wH 0x5 tk 0]
  | .copy tk c => [wH 0x10 tk (wLk c.lk ++ c.rm ++ bit c.sat ++ (0 : BitVec 3)), wTbox c.s 0, wTbox c.d 0]
  | .copyOrder tk c o => [wH 0x11 tk (wLk c.lk ++ c.rm ++ bit c.sat ++ (0 : BitVec 3)), wTbox c.s 0, wTbox c.d 0, wOrder o]
  | .copyEnc tk c code => [wH 0x12 tk (wLk c.lk ++ c.rm ++ bit c.sat ++ (0 : BitVec 3)), wTbox c.s 0, wTbox c.d (code.zeroExtend 17)]
  | .copyEncOrder tk c code o => [wH 0x13 tk (wLk c.lk ++ c.rm ++ bit c.sat ++ (0 : BitVec 3)), wTbox c.s 0, wTbox c.d (code.zeroExtend 17), wOrder o]
  | .copyDec tk c tab => [wH 0x14 tk (wLk c.lk ++ c.rm ++ bit c.sat ++ (0 : BitVec 3)), wTbox c.s (match tab with | some r => (1 : BitVec 1) ++ r.slot ++ r.pc ++ (0 : BitVec 6) | none => 0), wTbox c.d 0]
  | .copyDecOrder tk c tab o => [wH 0x15 tk (wLk c.lk ++ c.rm ++ bit c.sat ++ (0 : BitVec 3)), wTbox c.s (match tab with | some r => (1 : BitVec 1) ++ r.slot ++ r.pc ++ (0 : BitVec 6) | none => 0), wTbox c.d 0, wOrder o]
  | .copySt tk c st => [wH 0x16 tk (wLk c.lk ++ c.rm ++ bit c.sat ++ (0 : BitVec 3)), wTbox c.s 0, wTbox c.d (st.slot ++ st.pc ++ st.pv ++ (0 : BitVec 2))]
  | .copyStOrder tk c st o => [wH 0x17 tk (wLk c.lk ++ c.rm ++ bit c.sat ++ (0 : BitVec 3)), wTbox c.s 0, wTbox c.d (st.slot ++ st.pc ++ st.pv ++ (0 : BitVec 2)), wOrder o]
  | .metaLoad tk nslot islot t => [wH 0x18 tk ((0 : BitVec 9) ++ nslot ++ islot), wTref t 0]
  | .metaLoadOrder tk nslot islot t o => [wH 0x19 tk ((0 : BitVec 9) ++ nslot ++ islot), wTref t 0, wOrder o]
  | .gather tk g => [wH 0x1a tk (wLk g.lk ++ (0 : BitVec 7)), wIdx g.slot g.idx, wTbox g.box 0]
  | .gatherOrder tk g o => [wH 0x1b tk (wLk g.lk ++ (0 : BitVec 7)), wIdx g.slot g.idx, wTbox g.box 0, wOrder o]
  | .scatter tk g => [wH 0x1c tk (wLk g.lk ++ (0 : BitVec 7)), wTbox g.box 0, wIdx g.slot g.idx]
  | .scatterOrder tk g o => [wH 0x1d tk (wLk g.lk ++ (0 : BitVec 7)), wTbox g.box 0, wIdx g.slot g.idx, wOrder o]
  | .scatterBin tk v idx bins => [wH 0x1e tk (0 : BitVec 18), wTbox v (idx.slot ++ idx.pc ++ (0 : BitVec 7)), wTref bins 0]
  | .scatterBinOrder tk v idx bins o => [wH 0x1f tk (0 : BitVec 18), wTbox v (idx.slot ++ idx.pc ++ (0 : BitVec 7)), wTref bins 0, wOrder o]
  | .binApply tk pb arr bins => [wH 0x20 tk ((0 : BitVec 12) ++ pb ++ bit arr), wTref bins 0]
  | .binApplyOrder tk pb arr bins o => [wH 0x21 tk ((0 : BitVec 12) ++ pb ++ bit arr), wTref bins 0, wOrder o]
  | .put tk lk st s pk pa => [wH 0x22 tk (wOpt lk (fun q => (1 : BitVec 1) ++ (0 : BitVec 5) ++ q) ++ (0 : BitVec 4) ++ bit st.isSome ++ (0 : BitVec 2)), wTbox s 0, (pk ++ pa ++ st.getD 0 ++ (0 : BitVec 17))]
  | .putOrder tk lk st s pk pa o => [wH 0x23 tk (wOpt lk (fun q => (1 : BitVec 1) ++ (0 : BitVec 5) ++ q) ++ (0 : BitVec 4) ++ bit st.isSome ++ (0 : BitVec 2)), wTbox s 0, (pk ++ pa ++ st.getD 0 ++ (0 : BitVec 17)), wOrder o]
  | .get tk lk d pk pa => [wH 0x24 tk (wLk lk ++ (0 : BitVec 7)), wTbox d 0, (pk ++ pa ++ (0 : BitVec 22))]
  | .getOrder tk lk d pk pa o => [wH 0x25 tk (wLk lk ++ (0 : BitVec 7)), wTbox d 0, (pk ++ pa ++ (0 : BitVec 22)), wOrder o]
  | .mcast tk lk s d cores => [wH 0x26 tk (wLk lk ++ (0 : BitVec 7)), wTbox s 0, wTbox d (wList cores)]
  | .mcastOrder tk lk s d cores o => [wH 0x27 tk (wLk lk ++ (0 : BitVec 7)), wTbox s 0, wTbox d (wList cores), wOrder o]
  | .walk tk w => [wH 0x28 tk (bit w.store ++ w.wn ++ w.nbm1 ++ wOpt w.lk (fun q => (1 : BitVec 1) ++ q) ++ (0 : BitVec 5)), wTbox w.tiles 0, wTref w.buf (wList w.cores)]
  | .walkOrder tk w o => [wH 0x29 tk (bit w.store ++ w.wn ++ w.nbm1 ++ wOpt w.lk (fun q => (1 : BitVec 1) ++ q) ++ (0 : BitVec 5)), wTbox w.tiles 0, wTref w.buf (wList w.cores), wOrder o]
  | .permit tk n wn => [wH 0x2a tk ((0 : BitVec 7) ++ n ++ wn)]
  | .permitOrder tk n wn o => [wH 0x2b tk ((0 : BitVec 7) ++ n ++ wn), wOrder o]
  | .lockSet tk pt l => [wH 0x2c tk ((0 : BitVec 13) ++ pt), wTref l 0]
  | .lockSetOrder tk pt l o => [wH 0x2d tk ((0 : BitVec 13) ++ pt), wTref l 0, wOrder o]
  | .alloc tk st zr cl t => [wH 0x2e tk ((0 : BitVec 5) ++ st.slot ++ st.pc ++ bit zr ++ cl), wTbox t 0]
  | .allocOrder tk st zr cl t o => [wH 0x2f tk ((0 : BitVec 5) ++ st.slot ++ st.pc ++ bit zr ++ cl), wTbox t 0, wOrder o]
  | .free tk t => [wH 0x30 tk (0 : BitVec 18), wTbox t 0]
  | .freeOrder tk t o => [wH 0x31 tk (0 : BitVec 18), wTbox t 0, wOrder o]
  | .renew tk t => [wH 0x32 tk (0 : BitVec 18), wTbox t 0]
  | .renewOrder tk t o => [wH 0x33 tk (0 : BitVec 18), wTbox t 0, wOrder o]
  | .ringPut tk vd s r => [wH 0x34 tk ((0 : BitVec 16) ++ vd), wTref s 0, (r ++ (0 : BitVec 27))]
  | .ringPutOrder tk vd s r o => [wH 0x35 tk ((0 : BitVec 16) ++ vd), wTref s 0, (r ++ (0 : BitVec 27)), wOrder o]
  | .ringTake tk cur r d st => [wH 0x36 tk ((0 : BitVec 15) ++ cur), (r ++ (0 : BitVec 27)), wTref d (st.slot ++ st.pc ++ (0 : BitVec 7))]
  | .ringTakeOrder tk cur r d st o => [wH 0x37 tk ((0 : BitVec 15) ++ cur), (r ++ (0 : BitVec 27)), wTref d (st.slot ++ st.pc ++ (0 : BitVec 7)), wOrder o]
  | .ringClose tk r => [wH 0x38 tk (0 : BitVec 18), (r ++ (0 : BitVec 27))]
  | .ringCloseOrder tk r o => [wH 0x39 tk (0 : BitVec 18), (r ++ (0 : BitVec 27)), wOrder o]
  | .coll tk c => [wH 0x3a tk ((0 : BitVec 1) ++ c.proot ++ c.group ++ c.red ++ c.op), wTbox c.s 0, wTbox c.d (c.pspan ++ (0 : BitVec 12))]
  | .collOrder tk c o => [wH 0x3b tk ((0 : BitVec 1) ++ c.proot ++ c.group ++ c.red ++ c.op), wTbox c.s 0, wTbox c.d (c.pspan ++ (0 : BitVec 12)), wOrder o]
  | .coldReset => []
  | .warmReset => []
  | .thermalHoldEnd => []
  | .bootLenWrite _ _ => []
  | .powerSample _ => []
  | .ps2Entry => []
  | .ps2Exit => []
  | .ps3Entry => []
  | .sensorReading _ _ _ _ => []
  | .classToCool _ => []
  | .thermalThrottleStep _ => []
  | .hbmPatrolScrub _ => []
  | .ringFlitTransfer _ => []
  | .packetReceive _ => []
  | .dieSwitchTransfer _ => []
  | .torusFlitTransfer _ => []
  | .replayRequest _ _ => []
  | .linkRetrainEnd _ _ => []
  | .fabricBringUp _ => []
  | .syncSend => []
  | .ptpSync _ => []
  | .holdoverSet => []
  | .fctlWrite _ _ _ => []
  | .fdirWrite _ _ _ => []
  | .wincfgWrite _ _ => []
  | .wincfgTakeEffect => []
  | .windowBoundary => []
  | .advertisementReceive _ _ _ => []
  | .hostRead _ _ _ => []
  | .hostWrite _ _ _ => []
  | .hostFetchadd _ _ _ _ => []
  | .hostSwap _ _ _ _ => []
  | .hostCas _ _ _ _ _ => []
  | .notifyRegisterWrite _ _ _ => []
  | .notifyMessage _ _ => []
  | .attest _ => []
  | .queueCreate _ => []
  | .queueDestroy _ => []
  | .queueReset _ => []
  | .mailboxResume _ => []
  | .abandon _ => []
  | .unlistedMailboxCode _ _ => []
  | .queuePoll _ => []
  | .launchPacket _ => []
  | .regionsPacket _ => []
  | .copyPacket _ => []
  | .signalPacket _ => []
  | .waitPacket _ => []
  | .waitRecheck _ => []
  | .stagesPacket _ => []
  | .launchPlacement _ _ => []
  | .pipelinePlacement _ _ => []
  | .completionSignalDecrement _ _ => []
  | .tokenRefill => []
  | .placementReservation _ => []
  | .contextSelect _ => []
  | .preemptDecision _ => []
  | .yieldDeadline _ => []
  | .routerAdmit _ _ => []
  | .routerDecision _ _ => []
  | .derailleurEvaluate _ _ => []
  | .derailleurMove _ _ => []
  | .bankAccess _ => []
  | .homeAtomic _ => []
  | .elementWiseUpdate _ => []
  | .tileWalk _ _ _ _ => []
  | .tileMissRecordWrite _ => []
  | .retryResend _ => []
  | .retentionTick => []
  | .sweep _ => []
  | .lockKeeperRenewal _ => []
  | .shmLockKeeperRenewal _ => []
  | .genHomeUpdate _ => []
  | .genCopyApply _ => []
  | .ntStorePerform _ => []
  | .fabricReleaseComplete _ => []
  | .migration _ => []
  | .invalidate _ _ _ => []
  | .invalidateAck _ _ => []
  | .deferReplay _ => []
  | .iodieFault _ => []
  | .haltArrive _ => []
  | .haltComplete _ => []
  | .contextSwap _ => []
  | .coreClear _ => []
  | .instructionFinish _ _ => []
  | .phaseAdvance _ _ => []
  | .mwaitWake _ => []
  | .stealRequest _ _ _ => []
  | .stealGrant _ _ _ => []
  | .xCommandStart _ => []
  | .pieceHand _ => []
  | .pieceAck _ => []
  | .lockWordCount _ => []
  | .walkTileStart _ _ => []
  | .matrixCycle _ => []
  | .bRowLoadDone _ => []
  | .tableArrival _ => []
  | .snapshotDone _ => []
  | .collInstanceComplete _ _ _ => []
  | .contextBind _ _ => []
  | .contextUnbind _ _ => []
  | .pquadsWrite _ _ => []
  | .pshmWrite _ _ => []
  | .pframesWrite _ _ => []
  | .pqueuesWrite _ _ => []
  | .pwalksWrite _ _ => []
  | .pxwalksWrite _ _ => []
  | .ppolicyWrite _ _ => []
  | .pstripeWrite _ _ _ _ _ => []
  | .registerWrite _ => []
  | .decodeTableCopyApply _ => []

/-- The strand that an instruction is one of; a device event is of none (R330). -/
def strandIs : Instr → Option Strand
  | .add .. | .sub .. | .mul .. | .mulh .. | .mulhu .. | .div .. | .divu .. | .rem .. | .remu .. | .and .. | .or .. | .xor .. | .andn .. | .shl ..
  | .shr .. | .sra .. | .rotr .. | .min .. | .max .. | .minu .. | .maxu .. | .cmp .. | .sel .. | .clz .. | .ctz .. | .popc .. | .brev .. | .bext ..
  | .bins .. | .addi .. | .andi .. | .ori .. | .xori .. | .shli .. | .shri .. | .srai .. | .muli .. | .cmpi .. | .li .. | .lsi .. | .pmovToP ..
  | .pmovFromP .. | .beq .. | .bne .. | .blt .. | .bge .. | .bltu .. | .bgeu .. | .j .. | .call .. | .jr .. | .callr .. | .sLoop .. | .ldS8 ..
  | .ldN8 .. | .ldS16 .. | .ldN16 .. | .ldS32 .. | .ldN32 .. | .ld64 .. | .st8 .. | .st16 .. | .st32 .. | .st64 .. | .stNt8 .. | .stNt16 ..
  | .stNt32 .. | .stNt64 .. | .ldAcqN32 .. | .ldAcq64 .. | .stRel32 .. | .stRel64 .. | .fenceRel .. | .fenceAcq .. | .fenceFull .. | .fenceAlias ..
  | .phase .. | .phaseArrive .. | .phaseWait .. | .grpInit .. | .grpFree .. | .tokWait .. | .tokPost .. | .mwait .. | .chunkInit .. | .chunkFetch ..
  | .spawn .. | .notify .. | .yield .. | .sExit .. | .sNop .. | .sRegionEnter .. | .sRegionLeave .. | .genSet .. | .genSkip .. | .amoAdd ..
  | .amoAnd .. | .amoOr .. | .amoXor .. | .amoSwap .. | .amoSmin .. | .amoSmax .. | .amoUmin .. | .amoUmax .. | .amoCas .. | .amoFaddF32 ..
  | .amoFaddBf16 .. | .amoFminF32 .. | .amoFmaxF32 .. | .trap .. | .resume .. | .ctxSave .. | .ctxLoad .. | .dtabLoad .. | .capDeleg ..
  | .capRevoke .. | .capCheck .. | .evSel .. | .evRead .. | .snapRead .. | .ttInval .. | .slogReplay .. | .migrate .. | .stop .. | .xmode ..
  | .halt .. | .wfi .. | .sysr .. | .sysw .. => some .s
  | .vNop .. | .vExit .. | .vLoop .. | .vRegionEnter .. | .vRegionLeave .. | .vshape .. | .vsetlen .. | .mand .. | .mor .. | .mxor .. | .mandn ..
  | .mnot .. | .mfromv .. | .vadd .. | .vsub .. | .vmul .. | .vfma .. | .vfms .. | .vmin .. | .vmax .. | .vdiv .. | .vand .. | .vor .. | .vxor ..
  | .vshl .. | .vshr .. | .vsra .. | .vaddS .. | .vsubS .. | .vmulS .. | .vfmaS .. | .vfmsS .. | .vminS .. | .vmaxS .. | .vdivS .. | .vandS ..
  | .vorS .. | .vxorS .. | .vshlS .. | .vshrS .. | .vsraS .. | .vabs .. | .vneg .. | .vrcp .. | .vsqrt .. | .vrsqrt .. | .vexp2 .. | .vlog2 ..
  | .vsin .. | .vcos .. | .vmov .. | .vcmp .. | .vsel .. | .vcvt .. | .vpack .. | .vunpack .. | .vrsum .. | .vrmax .. | .vrmin .. | .vperm ..
  | .vslup .. | .vsldn .. | .vbcast .. | .vlut .. | .vld .. | .vst .. | .vstNt .. | .vgather .. | .vscatter .. | .vupd .. => some .v
  | .mNop .. | .mExit .. | .mLoop .. | .mRegionEnter .. | .mRegionLeave .. | .mcfg .. | .manchor .. | .manchorAuto .. | .mzero .. | .mstat ..
  | .msamp .. | .mmd .. | .mms .. | .mmn .. | .mmc .. | .mtab .. | .mrd .. | .mst .. | .mld .. | .mmerge .. => some .m
  | .xNop .. | .xExit .. | .xLoop .. | .xRegionEnter .. | .xRegionLeave .. | .copy .. | .copyOrder .. | .copyEnc .. | .copyEncOrder .. | .copyDec ..
  | .copyDecOrder .. | .copySt .. | .copyStOrder .. | .metaLoad .. | .metaLoadOrder .. | .gather .. | .gatherOrder .. | .scatter ..
  | .scatterOrder .. | .scatterBin .. | .scatterBinOrder .. | .binApply .. | .binApplyOrder .. | .put .. | .putOrder .. | .get .. | .getOrder ..
  | .mcast .. | .mcastOrder .. | .walk .. | .walkOrder .. | .permit .. | .permitOrder .. | .lockSet .. | .lockSetOrder .. | .alloc ..
  | .allocOrder .. | .free .. | .freeOrder .. | .renew .. | .renewOrder .. | .ringPut .. | .ringPutOrder .. | .ringTake .. | .ringTakeOrder ..
  | .ringClose .. | .ringCloseOrder .. | .coll .. | .collOrder .. => some .x
  | _ => none

end Sys2Proof
end

