-- ==== Sys2Proof/Config.lean ====
section
/-! DEFINITION. What the spec leaves open or names without defining: free values, and the functions and layouts of boot
and attestation that R20 to R25 name. Each constant is opaque: nothing in Lean can prove a value of it, so a statement
about it holds whatever it is. -/

namespace Sys2Proof.Config

/-- A value that the spec leaves open, by the machine's counter of such values (log 7). -/
opaque free (w : Nat) (n : Nat) : BitVec w

/-- The SHAKE256 digest of R20, R24 and R25, 64 bytes. The spec names the function and does not define it (log 8). -/
opaque shake256 (msg : List Byte) : Vector Byte 64

/-- The Falcon-1024 verification of R20: public key, message, signature (log 8). -/
opaque falconVerify (key msg sig : List Byte) : Bool

/-- The Falcon-1024 signature of R25 by a private key, at most 1,280 bytes (log 8). -/
opaque falconSign (key msg : List Byte) : List Byte

/-- The digest of the firmware's public key in the mask ROM (R12, R20; log 8). -/
opaque romDigest : Vector Byte 64

/-- What the SRAM physical unclonable function of this device gives (R19, R24; log 8). -/
opaque sramPuf : List Byte

/-- The private key of the pair that R24 derives, which stays in the key store of the I/O die (R24; log 8). -/
opaque deriveSecret (puf helper : List Byte) : List Byte

/-- The Falcon-1024 public key, in its encoding, that R24 derives from the unclonable function and the helper data of R23 (R63; log 8). -/
opaque deriveKey (puf helper : List Byte) : Vector Byte 1793

/-- An image's parts (R20), whose layout the spec does not give: the public key, the signature, the body and the configuration
record, and its security version (log 8). -/
opaque imageKey (img : List Byte) : List Byte
opaque imageSig (img : List Byte) : List Byte
opaque imageBody (img : List Byte) : List Byte
opaque imageRecord (img : List Byte) : List Byte
opaque imageSecver (img : List Byte) : BitVec 32

/-- The fields of a configuration record (R23), whose layout the spec does not give (log 8): the power limit in watts, the
class pin, the number of virtual functions, the mask of disabled quads, the helper data of the identity source; and whether that is in range. -/
opaque recordLimit (rec : List Byte) : Nat
opaque recordPin (rec : List Byte) : Bool
opaque recordFuncs (rec : List Byte) : Nat
opaque recordQuads (rec : List Byte) : BitVec 32
opaque recordHelper (rec : List Byte) : List Byte
opaque helperOk (helper : List Byte) : Bool

/-- The replacement rule of a full translation cache (R216): which of the 256 entries leaves (log 9). -/
opaque cacheVictim (n : Nat) : Fin 256

/-- What an NP48 command leaves in an element, by a count (R274; log 10): its low 8 bits while the array is within its
tolerance, all of it otherwise. -/
opaque np48Low (n : Nat) : BitVec 128

/-- Is the array within its tolerance for an NP48 command, by a count (R274; log 10)? -/
opaque np48Within (n : Nat) : Bool

end Sys2Proof.Config
end

