-- ==== Sys2Proof/Machine/PartTypes.lean ====
section
/-! DEFINITION. The state of a partition (04_partitions.md, 05_scheduler.md, 06_stages.md, 12_traps.md): registers,
contexts, groups, chunk queues, launches, pipelines, halts, pre-emption and swaps; and the state of a queue
(03_host.md). -/

namespace Sys2Proof.Machine

/-- States of a launch (R105). -/
inductive Life where
  | depwait | placewait | resident | saved | requeued
  /-- Its crews have exited and its completion release is under way (R80, R210). -/
  | finished
  deriving DecidableEq, Repr, Inhabited

/-- Pre-emption policies (R116). -/
inductive Policy where
  | drain | kill | checkpoint
  deriving DecidableEq, Repr, Inhabited

/-- A region declaration after clamping (R74, R106). -/
structure Region where
  tensor : BitVec 12
  w      : Bool
  loA    : Nat
  hiA    : Nat
  loB    : Nat
  hiB    : Nat
  deriving DecidableEq, Repr

/-- One stage of a pipeline (R120); `params` is the block at `param` once it has been read. -/
structure Stage where
  code    : Nat
  entries : List (BitVec 16)
  param   : Nat
  params  : List Word := []
  inring  : BitVec 12
  outring : BitVec 12
  min     : Nat
  max     : Nat
  inorder : Bool
  noout   : Bool
  cursor  : BitVec 3
  deriving DecidableEq, Repr

/-- A record in a commuting set (R127, R128): input sequence number, DONE bits, the stage it is routed to and not yet
finished at, whether a crew has taken it, and `gone` once it has left the set; one with no stage that is not gone waits to be
routed or, with all DONE bits, to exit. -/
structure SetRec where
  seq    : Nat
  done   : BitVec 8 := 0
  stage  : Option Nat := none
  taken  : Bool := false
  gone   : Bool := false
  deriving DecidableEq, Repr

/-- A record that a stage's crew has taken outside a set and whose boundary it has not reached (R125). -/
structure Take where
  stage  : Nat
  seq    : Nat
  core   : BitVec 7
  ring   : BitVec 12
  cursor : BitVec 3
  deriving DecidableEq, Repr

/-- A pipeline (R119 to R138): crews per stage; the records of the set in input order and the next to admit; for each set
stage its dispatch queue and its last 256 verdicts, oldest first; records that wait to exit, in the order of R133; the lottery
register; the stages whose put waited in the period; a pending move (donor core, receiver stage); `takes` the records held
outside a set until their crews' record boundary (R125); `closed` the stages whose output ring is closed or, in `toClose`, has still to be (R126). -/
structure Pipeline where
  stages  : List Stage
  cfirst  : Nat := 0
  clen    : Nat := 0
  dweight : Nat := 0
  det     : Bool := false
  fixed   : Bool := false
  pool    : Nat := 1
  counts  : List Nat := []
  recs    : List SetRec := []
  admitted : Nat := 0
  queues  : List (List Nat) := []
  windows : List (List Bool) := []
  exitQ   : List Nat := []
  lottery : BitVec 16 := 1
  bp      : List Nat := []
  move    : Option (BitVec 7 × Nat) := none
  takes   : List Take := []
  closed  : List Nat := []
  toClose : List Nat := []
  nextEval : Nat := 0
  deriving DecidableEq, Repr

/-- An update of a completion signal that the command processor owes (R71, R77, R80, R471): `add` the addend, none for the
error value; `intr` the function and vector of R81; queue, index and field name the packet; it waits for the I/O die's writes with numbers below `after`; `stamp` is the stamp that a COPY still owes, with
its address. -/
structure SigJob where
  id    : Nat
  ctx   : BitVec 3
  addr  : Nat
  add   : Option Word
  intr  : Option (Nat × Nat) := none
  queue : BitVec 10 := 0
  index : Word := 0
  off   : Nat := 24
  notBefore : Nat := 0
  after : Nat := 0
  stamp : Option (Nat × List Byte) := none
  deriving DecidableEq, Repr

/-- The key, offset and place of a request to another package or core: what it is translated from again when it meets a retired frame (R226); `dest` the
listed core at whose same unit it lands (R424), `slot` the slot that a record names (R240). -/
structure FarKey where
  ctx    : BitVec 3
  tensor : BitVec 12
  tile   : Nat
  off    : Nat
  pa     : Nat
  dest   : Option Nat := none
  slot   : Nat := 0
  deriving DecidableEq, Repr

/-- A request this package has sent to another and awaits an answer to: who waits (core, strand), and the tag. A posted write is kept so until its
visibility time `off`, which its admission gives it (`admitted`, R54); `key` is what it was translated from, `det` the DETAIL of a record
about one that has no key. -/
structure FarReq where
  tag    : Nat
  core   : BitVec 7
  strand : Strand
  seq    : W32 := 0
  off    : Nat := 0
  body   : Packet
  answer : Option PktBody := none
  notBefore : Nat := 0
  admitted : Bool := true
  key    : Option FarKey := none
  det    : BitVec 320 := 0
  deriving DecidableEq, Repr

/-- What the I/O die asks of a place on another package: a read, a write, an atomic of some bytes, or a lock word's count. -/
inductive DevAct where
  | read (n : Nat)
  | write (bs : List Byte)
  | atomic (op : AtomOp) (w : Nat) (cmp v : BitVec 128)
  | count (n : Nat)
  deriving DecidableEq, Repr

/-- An access of the I/O die to linear space, or to the byte space of a `ring`, that it cannot make at once (R57, R61, R68, R471): the operation it belongs
to, its number, the address, what it does, whether the copies of its tile have been asked for, the packet that carries it once it is sent, and the answer. -/
structure DevReq where
  op    : Nat
  tag   : Nat
  part  : BitVec 5
  ctx   : BitVec 3
  addr  : Nat
  act   : DevAct
  ring  : Option (BitVec 12) := none
  asked : Bool := false
  sent  : Option Packet := none
  answer : Option PktBody := none
  notBefore : Nat := 0
  deriving DecidableEq, Repr

/-- A crew of a saved gang: its image's number (R244), the core it left and the core it will take, and what the image's layout leaves to the
implementation (R245): the core's state, and what it had asked of other packages, with the answers. -/
structure SavedCrew where
  image : Nat
  old   : BitVec 7
  core  : BitVec 7
  state : Core
  reqs  : List FarReq := []
  deriving DecidableEq, Repr

/-- A launch or pipeline that the command processor has accepted (R72, R105). `intr` is the function and vector of R81, `params` the inline
parameters until `loaded` says that all 32 have been read from the block at `param` (R73), `slots` the queue slots that it takes. `cores` lists the cores by rank,
`exited` the ranks that have exited, `since` when it began to wait, `ranFor` its resident time so far, `saved` the
cores of its crews at a swap-out, as far as the image's layout leaves them to the implementation (R245). -/
structure Launch where
  acc     : Nat
  queue   : BitVec 10
  index   : Word
  ctx     : BitVec 3
  life    : Life
  gang    : Nat
  place   : Nat := 0
  prio    : Nat := 0
  tokens  : Nat := 0
  chunkq  : Option (BitVec 6) := none
  est     : Nat := 0
  code    : Nat := 0
  entries : List (BitVec 16) := []
  signal  : Nat := 0
  intr    : Option (Nat × Nat) := none
  groups  : List (BitVec 8) := []
  restart : Bool := false
  /-- BARRIER of its packet (R82). -/
  barrier : Bool := false
  params  : List Word := []
  param   : Nat := 0
  area    : Bool := false
  loaded  : Bool := false
  slots   : Nat := 1
  regions : List Region := []
  deps    : List Nat := []
  dieHint : Option Nat := none
  cores   : List (BitVec 7) := []
  reserved : List (BitVec 7) := []
  exited  : List Nat := []
  since   : Nat := 0
  placed  : Nat := 0
  ranFor  : Nat := 0
  policy  : Option Policy := none
  pipe    : Option Pipeline := none
  saved   : List SavedCrew := []
  deriving DecidableEq, Repr

/-- A context of a partition: the entry of R89 (KEY, TTABLE, NDESC, GEN; `resv` its reserved bits as written) and the partition-level items of R245; `savedImg`
says that a context block has been kept, `capsNew` the capability entries that have changed since then, `savedCores` the cores that its scratchpads were saved from, with what belongs to the context in each of
them, `savedRows` the rows saved as live, by number within those scratchpads (R173). -/
structure Ctx where
  key     : Word := 0
  ttable  : BitVec 48 := 0
  ndesc   : BitVec 12 := 0
  gen     : W32 := 0
  resv    : BitVec 100 := 0
  caps    : SMap (BitVec 128) := []
  gens    : SMap GenDesc := []
  dtabs   : Vector DTab 4 := Vector.replicate 4 {}
  chunks  : SMap (BitVec 256) := []
  savedImg : Bool := false
  capsNew : List Nat := []
  savedCores : List (BitVec 7 × Core) := []
  savedRows : List Nat := []
  deriving DecidableEq, Repr, Inhabited

/-- A halt of a partition (R230 to R234): its cause, the time the line rose, the cores that have not yet stopped and
whether HSEQ has been written. -/
structure Halt where
  cause : Nat
  time  : Nat
  left  : List (BitVec 7) := []
  done  : Bool := false
  deriving DecidableEq, Repr, Inhabited

/-- A pre-emption in progress (R115 to R117): the launch it makes room for and the deadline. -/
structure Preempt where
  newCtx   : BitVec 3
  newAcc   : Nat
  deadline : Nat
  deriving DecidableEq, Repr, Inhabited

/-- A swap in progress (R246): the outgoing and incoming context and the next step. -/
structure Swap where
  outCtx : BitVec 3
  inCtx  : BitVec 3
  step : Nat := 1
  deriving DecidableEq, Repr, Inhabited

/-- A key with an outstanding TILE_MISS record (R219). -/
structure MissKey where
  ctx    : BitVec 3
  tensor : BitVec 12
  tile   : Nat
  deriving DecidableEq, Repr

/-- A migration in progress (R225 to R229); `op` 0 MOVE, 1 DUP, 2 UNDUP. Of a source on another package, `got` holds what has been read of it and `bad`
counts the blocks that could not be; `shar` are the packages that had copies of it. -/
structure Migr where
  ctx    : BitVec 3
  tensor : BitVec 12
  tile   : Nat
  op     : Nat
  loc    : BitVec 2
  pkg    : BitVec 9
  frame  : BitVec 32
  core   : Option (BitVec 7)
  step   : Nat := 0
  got    : List Byte := []
  bad    : Nat := 0
  shar   : List Nat := []
  deriving DecidableEq, Repr

/-- A fault record (R239) before it is written: 64 bytes with VALID clear. -/
abbrev FaultRec := BitVec 512

/-- One partition (R84, R85). -/
structure Part where
  bound    : BitVec 8 := 0
  runctx   : BitVec 3 := 0
  fatal    : Bool := false
  halted   : Bool := false
  pquads   : BitVec 32 := 0
  pshm     : Word := 0
  pframes  : BitVec 24 := 0
  pqueues  : BitVec 11 := 0
  pwalks   : Word := 0
  pxwalks  : Word := 0
  pfaultq  : BitVec 48 := 0
  pstop    : BitVec 48 := 0
  ppolicy  : Word := 0x0000006400000000
  ptcost   : Word := 0xFFFFFFFFFFFFFFFF
  pstripe  : SMap (BitVec 4) := []
  scrsave  : SMap Word := []
  ctxsave  : SMap Word := []
  ctxs     : Vector Ctx 8 := Vector.replicate 8 {}
  groups   : SMap (BitVec 128) := []
  /-- Crews that have arrived at the current phase of a group: acceptance number, rank, group (R104). -/
  arrivals : List (Nat × Nat × BitVec 8) := []
  /-- Groups whose ARRIVED + DONE has reached SIZE and whose phase has not yet risen (R104, R201). -/
  due      : List (BitVec 8) := []
  launches : List Launch := []
  jobs     : List SigJob := []
  nextAcc  : Nat := 1
  reserve  : Option Nat := none
  halt     : Option Halt := none
  preempt  : Option Preempt := none
  swap     : Option Swap := none
  misses   : List MissKey := []
  missWait : List FaultRec := []
  migrs    : List Migr := []
  genQ     : List (BitVec 7 × Nat × Option GenDesc × BitVec 128) := []
  deriving DecidableEq, Repr, Inhabited

/-- A packet a queue has dispatched or has at its head (R68, R78, R82): index and what it still waits for. -/
structure Outst where
  index : Word
  acc   : Nat := 0
  deriving DecidableEq, Repr

/-- One queue (R64, R67, R113). `met` holds, for a WAIT at the head, which conditions have been met and whether any met
condition read the error value; `headAcc` the accepted LAUNCH or STAGES at the head; `spawned`, for slots that a crew's spawn has written, the
crew's die and whether the packet's kind does not fit its place (R98, R365). -/
structure Queue where
  header   : BitVec 48 := 0
  notified : Word := 0
  budget   : BitVec 10 := 0
  func     : BitVec 6 := 0
  prio     : BitVec 3 := 0
  logslots : BitVec 5 := 4
  enable   : Bool := false
  part     : BitVec 5 := 0
  local_   : Nat := 0
  balance  : Nat := 0
  busy     : List Outst := []
  met      : Option (List Bool × Bool) := none
  headAcc  : Option Nat := none
  spawned  : List (Nat × BitVec 2 × Bool) := []
  deriving DecidableEq, Repr, Inhabited

end Sys2Proof.Machine
end

