-- ==== Sys2Proof/Machine/PackageTypes.lean ====
section
/-! DEFINITION. The state of the package outside cores and partitions: boot, power, thermal response (01_package.md), the
rings, the die switch, the torus ports, fabric time and windows (02_fabric.md), the mailbox and functions (03_host.md).
The default value of each field is its value at reset. -/

namespace Sys2Proof.Machine

/-- The configuration record (R23); `helper` is the identity source's helper data. -/
structure ConfigRec where
  limit   : Nat := 2400
  pinHot  : Bool := false
  nvf     : Nat := 32
  quadsOff : BitVec 32 := 0
  helper  : List Byte := []
  deriving DecidableEq, Repr, Inhabited

/-- What steps 5 to 7 come to for an image (R19 to R23): REASON, and what READY would put in force. -/
structure BootTrial where
  reason  : Nat
  secver  : W32
  meas    : List Byte
  cfgMeas : List Byte
  record  : ConfigRec
  deriving DecidableEq, Repr, Inhabited

/-- Boot state (R19 to R25). `image` is the boot window, `trial` the outcome that VERIFYING and TRAINING lead to, `meas` and `cfgMeas` the measurements of the
accepted image and record; `memFail` that the memory test has failed since the last cold reset, `hold` that a reset waits for the dies to cool, `helper` the
helper data from which the device key has been derived since the last cold reset (R24). -/
structure Boot where
  state   : Nat := 0
  reason  : Nat := 0
  secver  : W32 := 0
  len     : W32 := 0
  image   : SMap Byte := []
  meas    : List Byte := []
  cfgMeas : List Byte := []
  memFail : Bool := false
  hold    : Bool := false
  trial   : Option BootTrial := none
  helper  : Option (List Byte) := none
  deriving DecidableEq, Repr, Inhabited

/-- Power and thermal state (R14 to R17). `level` and `thermLevel` count clock steps down per die; `hot` is the class;
`coolSince` the time since which a die's memory sensors have all read below 80 °C; `sensors` the readings, die by die,
four memory sensors then eight compute sensors; `limit` is the power limit in force, `samples` the last ten samples, `stepped` and
`thermStepped` when a clock last stepped down, `lowSince` since when the mean has been below 90 % of the limit, `below90` since when
every sensor has read below 90 °C, `tripped` that a thermal trip awaits its reset; `correctable` the counters of R18, `scrubAt` the
patrol's next block. -/
structure Power where
  ps      : Nat := 0
  limit   : Nat := 2400
  level   : Nat := 0
  therm   : List Nat := [0, 0, 0, 0]
  samples : List Nat := []
  stepped : Option Nat := none
  lowSince : Option Nat := none
  thermStepped : List (Option Nat) := [none, none, none, none]
  hot     : List Bool := [false, false, false, false]
  coolSince : List (Option Nat) := [none, none, none, none]
  sensors : List Nat := List.replicate 48 25
  below90 : Option Nat := some 0
  tripped : Bool := false
  correctable : SMap Nat := []
  scrubAt : Nat := 0
  deriving DecidableEq, Repr, Inhabited

/-- A packet on a ring (R31 to R34): identity, direction, the stops where it entered and where it leaves; for each flit
the hops it has crossed and the cycle in which it arrived at its port; for each hop whose head has passed, whether it took an
escape channel. -/
structure RingPkt where
  id   : Nat
  cw   : Bool
  src  : Nat
  dst  : Nat
  hops : List Nat
  came : List Nat
  chan : List Bool := []
  body : Packet
  deriving DecidableEq, Repr

/-- One ring: FCTL (R37), FDIR (R468), the packets on it, oldest first, for each hop (from stop s clockwise at 2s,
anticlockwise at 2s + 1) whether local injection took the last head (R470), ESCHEADS of each input port (R39), its cycle
count and the next packet number. -/
structure Ring where
  test   : Bool := false
  limit  : BitVec 5 := 16
  sdir   : BitVec 16 := 0
  pkts   : List RingPkt := []
  last   : BitVec 16 := 0
  esc    : Vector W32 16 := Vector.replicate 16 0
  cycle  : Nat := 0
  nextId : Nat := 0
  deriving DecidableEq, Repr, Inhabited

/-- The die switch of one die (R40): packets waiting per output, by input, and each output's round-robin pointer. -/
structure DieSwitch where
  waiting : List (Nat × Nat × Packet) := []
  turn    : SMap Nat := []
  deriving DecidableEq, Repr, Inhabited

/-- What a neighbour advertised for a steal domain (R56): the count, the flit's window number, and the exponent of the window and the
time at which it came. -/
structure Advert where
  dom    : BitVec 16
  count  : BitVec 48
  window : BitVec 32
  wexp   : BitVec 3
  came   : Nat
  deriving DecidableEq, Repr

/-- One torus port (R41, R43, R44). Packets that wait for the line: of this package (`queue`), in transit (`through`), and control flits;
`turn` says that local injection took the line last, `onLine` the packet on the line with its flits left. `sent` counts flits
sent, `replay` holds the packets of the last 512 with the number of their last flit, `failAt` and `replays` the flit last replayed and how
often. `used` is the window budget used, `waiting` fabric-scope writes that wait for it (R52), `adverts` the
advertisements received (R56). `slots` are the transit packets in its input port's slots, with whether the packet travels in VC1 and whether it has an escape
channel, and `heads` those that wait at the neighbour for admission (R43). -/
structure TorusPort where
  up        : Bool := false
  down      : Bool := false
  training  : Bool := false
  queue     : List Packet := []
  through   : List Packet := []
  ctl       : List Packet := []
  turn      : Bool := false
  onLine    : Option (Packet × Nat) := none
  sent      : Nat := 0
  replay    : List (Nat × Packet) := []
  failAt    : Nat := 0
  replays   : Nat := 0
  used      : Nat := 0
  waiting   : List (BitVec 7 × Packet) := []
  adverts   : List Advert := []
  slots     : List (Packet × Bool × Bool) := []
  heads     : List (Packet × Bool) := []
  deriving DecidableEq, Repr, Inhabited

/-- Fabric set-up and time (R41, R45, R47 to R51, R55): coordinates, torus and domain; whether this package is grandmaster, whether
its time has been stepped, the last sync and the offset still to be slewed; the window register with a change that waits
for `pendAt`; the window whose budget is in use; the next steal domain to advertise and the window last advertised in. -/
structure Fabric where
  pos      : Nat × Nat × Nat := (0, 0, 0)
  size     : Nat × Nat × Nat := (1, 1, 1)
  domOrg   : Nat × Nat × Nat := (0, 0, 0)
  domSize  : Nat × Nat × Nat := (1, 1, 1)
  master   : Bool := true
  stepped  : Bool := false
  lastSync : Nat := 0
  offset   : Int := 0
  holdover : Bool := false
  budget   : BitVec 4 := 4
  wexp     : BitVec 3 := 2
  pending  : Option (BitVec 4 × BitVec 3) := none
  pendAt   : Nat := 0
  window   : Nat := 0
  advNext  : Nat := 0
  advAt    : Nat := 0
  deriving DecidableEq, Repr, Inhabited

/-- A function's mailbox (R63): the data buffer, MBSTAT, and the buffer and MBCMD as they stood when the command in progress was written. -/
structure Mailbox where
  buf    : SMap Byte := []
  stat   : W32 := 0
  inp    : SMap Byte := []
  code   : W32 := 0
  deriving DecidableEq, Repr, Inhabited

/-- A function: mailbox, BAR 2 window and the logarithm of its size, MSI-X table and pending bits (R59, R62). -/
structure Func where
  mbox    : Mailbox := {}
  wbase   : Word := 0
  logsize : Nat := 30
  msix    : SMap Byte := []
  pba     : Word := 0
  deriving DecidableEq, Repr, Inhabited

/-- What the host has received: read completions (data, or all ones, or poisoned) and MSI-X messages. -/
inductive HostEv where
  | data (bytes : List Byte)
  | ep
  | msix (func vector : Nat)
  deriving DecidableEq, Repr

/-- An entry of the I/O die error log (R27, R87). -/
structure ErrLog where
  kind : Nat
  info : Nat
  deriving DecidableEq, Repr

end Sys2Proof.Machine
end

