-- ==== Sys2Proof/Machine/State.lean ====
section
/-! DEFINITION. The machine's state: everything the spec gives one package, as plain data, and its value at reset. Every
component's reset value is its field's default in CoreTypes, PartTypes, PackageTypes or here; the values that the spec
does not give are those of logs 1 to 4. -/

namespace Sys2Proof.Machine

/-- Why a step stops with a fault. The spec takes every fault of R240 as a next state; no step of this model stops so. -/
inductive Fault where
  /-- Raised by no definition. Safe: it would only stop a run. -/
  | none
  deriving DecidableEq, Repr

/-- Why a step is refused. -/
inductive Refusal where
  /-- Raised by an arm of exec for a row that has no meaning yet. Safe: it only stops a run. -/
  | notModelled (mnemonic : String)
  deriving DecidableEq, Repr

/-- One Kenix package.

`mem` holds every byte of storage by a number of the model's own (log 11): HBM from 0, shared memory from 2^39, the
scratchpads from 2^40. `rowTick` and `rowLive` are the row tags of R159 by row number: TICK, and 1 for EXP clear.
`poison` lists 64-byte blocks by number (R18). `flaws` lists the 64-bit words by number in whose cells an error stands that a read of them will find
(R18); what puts one there is outside the machine (log 46).

The fields from `agenda` on are the model's own (log 4): the events that stand next, the words of the
instruction that acts, the core whose strand acts, the
position of the round-robin among strands, what the last home access returned, the counter of free values, what the host
has received, packets sent to other packages, requests that await an answer from them, posted writes until their visibility time (`off`),
the tile of each frame that has sharers, accesses of the I/O die that wait (oldest first), and host accesses that wait in order of arrival, each with whether
it has been called up again. -/
structure State where
  mem      : SMap Byte := []
  rowTick  : SMap (BitVec 16) := []
  rowLive  : SMap Bool := []
  poison   : SMap Bool := []
  flaws    : SMap Ecc := []
  time     : Nat := 0
  tickSeen : Nat := 0
  cores    : Vector Core 128 := Vector.replicate 128 {}
  parts    : Vector Part 32 := Vector.replicate 32 {}
  queues   : SMap Queue := []
  boot     : Boot := {}
  cfgrec   : ConfigRec := {}
  power    : Power := {}
  rings    : Vector Ring 16 := Vector.replicate 16 {}
  switches : Vector DieSwitch 4 := Vector.replicate 4 {}
  ports    : Vector TorusPort 6 := Vector.replicate 6 {}
  fabric   : Fabric := {}
  funcs    : Vector Func 33 := Vector.replicate 33 {}
  errlog   : List ErrLog := []
  frames   : List (Nat × Nat × List Nat) := []
  nextQ    : List Nat := List.replicate 8 0
  agenda   : List Instr := []
  ir       : List W32 := []
  cur      : BitVec 7 := 0
  turn     : Nat := 0
  reply    : List Byte := []
  freeN    : Nat := 0
  hostLog  : List HostEv := []
  outbox   : List Packet := []
  waits    : List FarReq := []
  posts    : List FarReq := []
  dups     : List (Nat × BitVec 5 × BitVec 12 × Nat) := []
  nextTag  : Nat := 1
  dev      : List DevReq := []
  hostQ    : List (Instr × Bool) := []
  deriving DecidableEq, Repr, Inhabited

/-- The machine right after reset, once the boot sequence of R19 waits for an image (log 3). -/
def State.reset : State := {}

end Sys2Proof.Machine
end

