-- ==== Sys2Proof/Machine/Mem.lean ====
section
/-! DEFINITION. Storage: bytes by number, row tags and expiry (08_retention.md), poison (R18), the bank hash (R151 to
R153) and the arithmetic that homes perform without floating point. One bank operation lies within one 2 KiB row. -/

namespace Sys2Proof.Machine

/-- First number of shared memory (log 11). -/
def shmBase : Nat := 2 ^ 39

/-- First number of the scratchpads (log 11). -/
def scrBase : Nat := 2 ^ 40

/-- A byte of shared memory of a die (R149). -/
def shmPa (die off : Nat) : Nat := shmBase + die * 2 ^ 27 + off

/-- A byte of a core's scratchpad (R149). -/
def scrPa (core off : Nat) : Nat := scrBase + core * 2 ^ 22 + off

/-- Gain-cell storage has row tags (R159). -/
def isGain (pa : Nat) : Bool := decide (shmBase ≤ pa)

/-- The core whose scratchpad holds a number. -/
def scrCore (pa : Nat) : Nat := (pa - scrBase) / 2 ^ 22

/-- The memory die that holds a gain-cell number (R11). -/
def dieOf (pa : Nat) : Nat := if pa < scrBase then (pa - shmBase) / 2 ^ 27 else scrCore pa / 32

/-- The row number (R149). -/
def rowOf (pa : Nat) : Nat := pa / 2048

/-- The current retention tick (R159). -/
def State.tick (s : State) : BitVec 16 := BitVec.ofNat 16 (s.time / 1000)

/-- The class of a memory die (R17): HOT where pinned. -/
def State.dieHot (s : State) (die : Nat) : Bool := s.cfgrec.pinHot || s.power.hot.getD die false

/-- The age of a row in ticks (R160). -/
def State.rowAge (s : State) (row : Nat) : Nat := (s.tick - SMap.get 0 s.rowTick row).toNat

/-- The expiry test (R160). -/
def State.expired (s : State) (pa : Nat) : Bool :=
  isGain pa && (!SMap.get false s.rowLive (rowOf pa) ||
    decide (s.rowAge (rowOf pa) > (if s.dieHot (dieOf pa) then 250 else 500) - 8))

/-- Sets EXP on a row. -/
def State.expireRow (s : State) (row : Nat) : State := { s with rowLive := SMap.put false s.rowLive row false }

/-- Sets EXP on `n` rows. -/
def State.expireRows (s : State) (row n : Nat) : State :=
  { s with rowLive := SMap.write false s.rowLive row (List.replicate n false) }

/-- A write marks its row fresh (R159). -/
def State.freshen (s : State) (row : Nat) : State :=
  { s with rowLive := SMap.put false s.rowLive row true, rowTick := SMap.put 0 s.rowTick row s.tick }

/-- The bytes stored at a number, without any check. -/
def State.peek (s : State) (pa n : Nat) : List Byte := SMap.read 0 s.mem pa n

/-- Changes stored bytes and nothing else. -/
def State.poke (s : State) (pa : Nat) (bs : List Byte) : State := { s with mem := SMap.write 0 s.mem pa bs }

/-- Is the 64-byte block of a number poisoned (R18)? -/
def State.poisoned (s : State) (pa : Nat) : Bool := SMap.get false s.poison (pa / 64)

/-- Is any block of `n` bytes from a number poisoned? -/
def State.anyPoison (s : State) (pa n : Nat) : Bool :=
  (List.range (n / 64 + 2)).any fun i => decide (64 * (pa / 64 + i) < pa + n) && SMap.get false s.poison (pa / 64 + i)

/-- Marks a block poisoned (R18). -/
def State.poisonBlock (s : State) (pa : Nat) : State := { s with poison := SMap.put false s.poison (pa / 64) true }

/-- Does a word of 64 bits, by number, meet `n` bytes from a number? -/
def wordMeets (pa n word : Nat) : Bool := decide (8 * word < pa + n ∧ pa < 8 * word + 8)

/-- The errors that stand in `n` bytes (R18). -/
def State.flawsIn (s : State) (pa n : Nat) : List (Nat × Ecc) := s.flaws.filter fun e => wordMeets pa n e.1

/-- No error stands in these bytes any more. -/
def State.mended (s : State) (pa n : Nat) : State := { s with flaws := s.flaws.filter fun e => !wordMeets pa n e.1 }

/-- A store of whole blocks clears their poison, and gives their words new codes (R18). -/
def State.unpoison (s : State) (pa n : Nat) : State :=
  if pa % 64 = 0 ∧ n % 64 = 0 ∧ 0 < n then
    { s.mended pa n with poison := SMap.write false s.poison (pa / 64) (List.replicate (n / 64) false) }
  else s

/-- The structure that holds a number: an HBM stack, the shared memory of a die, a scratchpad (R11, R148). -/
def structureOf (pa : Nat) : Nat :=
  if pa < shmBase then pa / 2 ^ 36 else if pa < scrBase then 8 + (pa - shmBase) / 2 ^ 27 else 12 + scrCore pa

/-- What the SEC-DED code of a word finds on a read (R18): a single error is corrected, written back and counted; one that
cannot be corrected poisons its block. -/
def State.eccFound (s : State) (pa : Nat) : Ecc → State
  | .clean => s
  | .single =>
    let k := structureOf pa
    let p := { s.power with correctable := SMap.put 0 s.power.correctable k (SMap.get 0 s.power.correctable k + 1) }
    { s with power := p }
  | .uncorrectable => s.poisonBlock pa

/-- A read of `n` bytes meets the errors that stand in them (R18). -/
def State.meet (s : State) (pa n : Nat) : State := (s.flawsIn pa n).foldl (fun s e => s.eccFound (8 * e.1) e.2) (s.mended pa n)

/-- One write at its bank: in an expired row R161 clears every other byte, and its codes become valid, so no block stays poisoned; R159 marks the row
fresh, R18 clears poison. -/
def State.bankWrite (s : State) (pa : Nat) (bs : List Byte) : State :=
  let s := if s.expired pa then (s.poke (2048 * rowOf pa) (List.replicate 2048 0)).unpoison (2048 * rowOf pa) 2048 else s
  let s := if isGain pa then s.freshen (rowOf pa) else s
  (s.poke pa bs).unpoison pa bs.length

/-- What a read at its bank finds (R18, R164). -/
inductive Found where
  | data (bytes : List Byte)
  | poison
  | stale (sub : Nat)
  deriving DecidableEq, Repr

/-- The lifetime class of a scratchpad number (R163): 0 TAGGED, 1 RENEWED, 2 DISCARD-ZERO, 3 DISCARD-STALE. -/
def State.unitClass (s : State) (pa : Nat) : Nat :=
  if pa < scrBase then 0
  else
    let u := (s.cores[(BitVec.ofNat 7 (scrCore pa)).toFin].units[(BitVec.ofNat 8 (pa % 2 ^ 22 / 16384)).toFin] : BitVec 8)
    if u.getLsbD 0 then (u.extractLsb' 1 2).toNat else 0

/-- What a read of an expired row returns (R164). -/
def State.expiredRead (s : State) (pa n : Nat) : Found :=
  match s.unitClass pa with
  | 2 => .data (List.replicate n 0)
  | 3 => .stale 2
  | _ => .stale 1

/-- A core of the package. -/
def State.core (s : State) (c : BitVec 7) : Core := s.cores[c.toFin]

/-- A package with one core replaced. -/
def State.setCore (s : State) (c : BitVec 7) (k : Core) : State := { s with cores := s.cores.set c.toFin k }

/-- A package with one core changed. -/
def State.modCore (s : State) (c : BitVec 7) (f : Core → Core) : State := s.setCore c (f (s.core c))

/-- A partition of the package. -/
def State.part (s : State) (p : BitVec 5) : Part := s.parts[p.toFin]

/-- A package with one partition replaced. -/
def State.setPart (s : State) (p : BitVec 5) (k : Part) : State := { s with parts := s.parts.set p.toFin k }

/-- A package with one partition changed. -/
def State.modPart (s : State) (p : BitVec 5) (f : Part → Part) : State := s.setPart p (f (s.part p))

/-- A context of a partition. -/
def Part.ctx (p : Part) (c : BitVec 3) : Ctx := p.ctxs[c.toFin]

/-- A partition with one context changed. -/
def Part.modCtx (p : Part) (c : BitVec 3) (f : Ctx → Ctx) : Part := { p with ctxs := p.ctxs.set c.toFin (f (p.ctx c)) }

/-- A queue by its global number (R64). -/
def State.queue (s : State) (q : BitVec 10) : Queue := SMap.get {} s.queues q.toNat

/-- A package with one queue changed. -/
def State.modQueue (s : State) (q : BitVec 10) (f : Queue → Queue) : State :=
  { s with queues := SMap.put {} s.queues q.toNat (f (s.queue q)) }

/-- A function of the device (R58). -/
def State.func (s : State) (f : Nat) : Func := s.funcs.toList.getD f {}

/-- A package with one function changed. -/
def State.modFunc (s : State) (f : Nat) (g : Func → Func) : State :=
  if h : f < 33 then { s with funcs := s.funcs.set f (g (s.func f)) h } else s

/-- A free value of the spec (log 7): the next one, and the state with the counter advanced. -/
def State.takeFree (s : State) (w : Nat) : BitVec w × State := (Config.free w s.freeN, { s with freeN := s.freeN + 1 })

/-- Does the partition own the core (R84, R10)? -/
def Part.ownsCore (p : Part) (c : Nat) : Bool := p.pquads.getLsbD (c / 4)

/-- The cores a partition owns, ascending. -/
def Part.cores (p : Part) : List (BitVec 7) :=
  ((List.range 128).filter fun c => p.ownsCore c).map fun c => BitVec.ofNat 7 c

/-- The partition that owns a core, if any. -/
def State.ownerOf (s : State) (c : BitVec 7) : Option (BitVec 5) :=
  ((List.range 32).find? fun p => (s.part (BitVec.ofNat 5 p)).ownsCore c.toNat).map fun p => BitVec.ofNat 5 p

/-- The stripe key of PSTRIPE (R154). -/
def stripeIdx (die stripe : Nat) : Nat := die * 256 + stripe

/-- Does a context own a stripe of a die (R153, R154)? -/
def Part.ownsStripe (p : Part) (ctx : BitVec 3) (die stripe : Nat) : Bool :=
  SMap.get 0 p.pstripe (stripeIdx die stripe) == (1 : BitVec 1) ++ ctx

/-! ### The keyed bank hash (R151 to R153) -/

/-- The n-th mixing value of a key. -/
def hashZ (key : Word) (n : Nat) : Word :=
  let z := key + 0x9E3779B97F4A7C15 * BitVec.ofNat 64 (n + 1)
  let z := (z ^^^ (z >>> 30)) * 0xBF58476D1CE4E5B9
  let z := (z ^^^ (z >>> 27)) * 0x94D049BB133111EB
  z ^^^ (z >>> 31)

/-- Scratchpad mask K[i], 21 bits. -/
def maskK (key : Word) (i : Nat) : Nat :=
  let z := (hashZ key i).toNat
  (z / 32 % 2 ^ 16) * 32 ||| (z % 32 &&& (2 ^ i - 1)) ||| 2 ^ i

/-- Shared-memory mask L[i], 21 bits. -/
def maskL (key : Word) (i : Nat) : Nat :=
  let z := (hashZ key (i + 5)).toNat
  (z / 256 % 2 ^ 13) * 256 ||| (z % 256 &&& (2 ^ i - 1)) ||| 2 ^ i

/-- Parity of a number. -/
def parity (n : Nat) : Bool := (List.range 24).foldl (fun b i => b ^^ n.testBit i) false

/-- The bank of a scratchpad row address (R152). -/
def scrBank (key : Word) (r : Nat) : Nat :=
  (List.range 5).foldl (fun b i => if parity (r &&& maskK key i) then b + 2 ^ i else b) 0

/-- The bank of a shared-memory row address (R153). -/
def shmBank (key : Word) (r : Nat) : Nat :=
  (List.range 8).foldl (fun b i => if parity (r &&& maskL key i) then b + 2 ^ i else b) 0

/-- The key of a gain-cell number (R152, R153): of the context that runs on the scratchpad's partition; of the owner of a stripe; in a shadow stripe, of
the context whose state the slot of a core holds, which runs there too. -/
def State.bankKey (s : State) (pa : Nat) : Word :=
  let keyOf := fun (p : BitVec 5) (c : BitVec 3) => ((s.part p).ctx c).key
  let atCore := fun (core : Nat) => match s.ownerOf (BitVec.ofNat 7 core) with
    | some p => keyOf p (s.part p).runctx
    | none => 0
  let die := (pa - shmBase) / 2 ^ 27
  let k := (pa - shmBase) % 2 ^ 27 / 2 ^ 19
  let nibble := fun (p : Nat) => SMap.get 0 (s.part (BitVec.ofNat 5 p)).pstripe (stripeIdx die k)
  if scrBase ≤ pa then atCore (scrCore pa)
  else if 192 ≤ k then atCore (32 * die + (k - 192) / 2)
  else match (List.range 32).find? fun p => (nibble p).getLsbD 3 with
    | some p => keyOf (BitVec.ofNat 5 p) ((nibble p).extractLsb' 0 3)
    | none => 0

/-- The bank of a gain-cell number: of its scratchpad, or of its die's shared memory (R152, R153). -/
def State.bankOf (s : State) (pa : Nat) : Nat :=
  if scrBase ≤ pa then scrBank (s.bankKey pa) ((pa - scrBase) / 2048) else shmBank (s.bankKey pa) ((pa - shmBase) / 2048)

/-! ### Counters (R93, R94) -/

/-- Adds to every counter of a core that selects a source; a wrap sets its overflow bit. -/
def Core.count (c : Core) (src n : Nat) : Core :=
  let hit := fun k => (c.ev.sel.getD k 0).toNat == src
  let ev := c.ev.ev.mapIdx fun k v => if hit k then v + BitVec.ofNat 64 n else v
  let ovf := (List.range 8).foldl (fun o k =>
    if hit k && decide ((c.ev.ev.getD k 0).toNat + n ≥ 2 ^ 64) then o ||| (1#8 <<< k) else o) c.ev.ovf
  { c with ev := { c.ev with ev := ev, ovf := ovf } }

/-- A handed piece is acknowledged (R194, R317): it leaves the network interface, and the lock word it names will count it (R325). -/
def Core.acked (c : Core) (p : Piece) : Core :=
  { c with xs := { c.xs with net := c.xs.net.erase p, counts := if p.lock then c.xs.counts ++ [⟨p.seq, p.n, p.dest⟩] else c.xs.counts } }

/-- Adds fabric cycles to the bank-conflict matrix: requester class, bank; saturating (R94). -/
def Core.conflict (c : Core) (cls bank n : Nat) : Core :=
  let k := 32 * cls + bank
  let v := (SMap.get 0 c.ev.matrix k).toNat + n
  { c with ev := { c.ev with matrix := SMap.put 0 c.ev.matrix k (BitVec.ofNat 32 (min v (2 ^ 32 - 1))) } }

/-- One read at its bank: an expired row sets EXP and has its class's outcome; otherwise the codes of its words are checked (R18), and it finds poison
or the bytes. A discard counts at the core of the
scratchpad (R164, log 113). -/
def State.bankRead (s : State) (pa n : Nat) : State × Found :=
  if s.expired pa then
    let t := s.expireRow (rowOf pa)
    (if s.unitClass pa = 2 then t.modCore (BitVec.ofNat 7 (scrCore pa)) (·.count 56 1) else t, s.expiredRead pa n)
  else
    let t := s.meet pa n
    (t, if t.anyPoison pa n then .poison else .data (s.peek pa n))

/-! ### Package index and distance (R42, R147) -/

/-- The index of torus coordinates within the load-store domain; none outside it (R45). -/
def Fabric.indexOf (f : Fabric) (p : Nat × Nat × Nat) : Option Nat :=
  let rel := fun (v o n d : Nat) => if (v + n - o) % n < d then some ((v + n - o) % n) else none
  match rel p.1 f.domOrg.1 f.size.1 f.domSize.1, rel p.2.1 f.domOrg.2.1 f.size.2.1 f.domSize.2.1,
      rel p.2.2 f.domOrg.2.2 f.size.2.2 f.domSize.2.2 with
  | some x, some y, some z => some (x + f.domSize.1 * (y + f.domSize.2.1 * z))
  | _, _, _ => none

/-- This package's index. -/
def Fabric.index (f : Fabric) : Nat := (f.indexOf f.pos).getD 0

/-- The torus coordinates of a package index of the domain. -/
def Fabric.posOf (f : Fabric) (i : Nat) : Nat × Nat × Nat :=
  let dx := f.domSize.1
  let dy := f.domSize.2.1
  ((f.domOrg.1 + i % dx) % f.size.1, (f.domOrg.2.1 + i / dx % dy) % f.size.2.1,
    (f.domOrg.2.2 + i / (dx * dy)) % f.size.2.2)

/-- Hops in one dimension and whether the positive direction is taken (R42). -/
def hops (a b n : Nat) : Nat × Bool :=
  let d := (b + n - a) % n
  if 2 * d ≤ n then (d, true) else (n - d, false)

/-- The egress port of the first hop towards coordinates: +x, -x, +y, -y, +z, -z; none for this package (R42). -/
def Fabric.egress (f : Fabric) (p : Nat × Nat × Nat) : Option Nat :=
  let hx := hops f.pos.1 p.1 f.size.1
  let hy := hops f.pos.2.1 p.2.1 f.size.2.1
  let hz := hops f.pos.2.2 p.2.2 f.size.2.2
  if hx.1 ≠ 0 then some (if hx.2 then 0 else 1)
  else if hy.1 ≠ 0 then some (if hy.2 then 2 else 3)
  else if hz.1 ≠ 0 then some (if hz.2 then 4 else 5)
  else none

/-- The window register in force at a time (R51, R54). -/
def Fabric.at_ (f : Fabric) (now : Nat) : Fabric :=
  match f.pending with
  | some (b, w) => if f.pendAt ≤ now then { f with budget := b, wexp := w, pending := none } else f
  | none => f

/-- The window length in nanoseconds (R51). -/
def Fabric.windowLen (f : Fabric) : Nat := 250 * 2 ^ f.wexp.toNat

/-- The budget of a port per window in bytes (R52): sixteenths of 400 bytes per nanosecond. -/
def Fabric.budgetBytes (f : Fabric) : Nat := f.budget.toNat * 400 * f.windowLen / 16

/-- The window at the present time (R50, R54). -/
def State.windowNow (s : State) : Nat := s.time / (s.fabric.at_ s.time).windowLen

end Sys2Proof.Machine
end

