-- ==== Sys2Proof/Machine/Desc.lean ====
section
/-! DEFINITION. Tensor descriptors, the layout function, tile table entries and where they lead (07_tensors.md). -/

namespace Sys2Proof.Machine

/-- A field of a wide value as a number. -/
def fld {w : Nat} (v : BitVec w) (lo n : Nat) : Nat := v.toNat / 2 ^ lo % 2 ^ n

/-- Bits of an element of a plain format (R249); none for block codes and codes not listed. -/
def formatBits (f : Nat) : Option Nat :=
  match f with
  | 0x01 => some 32 | 0x02 => some 16 | 0x03 => some 16 | 0x04 => some 8 | 0x05 => some 8 | 0x06 => some 4
  | 0x10 => some 4 | 0x11 => some 8 | 0x12 => some 16 | 0x13 => some 32 | 0x14 => some 64
  | 0x18 => some 4 | 0x19 => some 8 | 0x1A => some 16 | 0x1B => some 32 | 0x1C => some 64
  | _ => none

/-- A descriptor's fields (R140). KIND: 1 MEMORY, 2 GENERATOR, 3 RING. -/
structure Desc where
  kind : Nat
  rank : Nat
  format : Nat
  nt : Bool
  dupok : Bool
  pinned : Bool
  gen : Nat
  sceil : BitVec 16
  homekind : Nat
  die : Nat
  core : Nat
  elog : Nat
  logslots : Nat
  cursors : Nat
  tlog : List Nat
  ext : List Nat
  ttptr : Nat
  deriving DecidableEq, Repr, Inhabited

/-- Reads the fields of a descriptor (R140). -/
def Desc.ofBits (d : BitVec 512) : Desc where
  kind := fld d 0 2
  rank := fld d 2 3
  format := fld d 8 8
  nt := d.getLsbD 16
  dupok := d.getLsbD 17
  pinned := d.getLsbD 18
  gen := fld d 24 4
  sceil := d.extractLsb' 32 16
  homekind := fld d 48 2
  die := fld d 50 2
  core := fld d 52 7
  elog := fld d 64 4
  logslots := fld d 72 5
  cursors := fld d 80 8
  tlog := (List.range 5).map fun i => fld d (96 + 4 * i) 4
  ext := fld d 128 48 :: (List.range 4).map fun i => fld d (192 + 32 * i) 32
  ttptr := fld d 320 48

/-- The reserved bits of R140 are zero (R4). -/
def descPlain (d : BitVec 512) : Bool :=
  fld d 5 3 == 0 && fld d 19 5 == 0 && fld d 28 4 == 0 && fld d 59 5 == 0 && fld d 68 4 == 0 && fld d 77 3 == 0 &&
  fld d 88 8 == 0 && fld d 116 12 == 0 && fld d 176 16 == 0 && fld d 368 144 == 0

/-- Sum of a list. -/
def sumL (l : List Nat) : Nat := l.foldl (· + ·) 0

/-- Product of a list. -/
def prodL (l : List Nat) : Nat := l.foldl (· * ·) 1

/-- The tile size in bytes (R140, R146). -/
def Desc.tileBytes (d : Desc) : Nat :=
  if d.kind = 3 then (if d.homekind = 0 then 65536 else 16384) else 2 ^ (sumL d.tlog + d.elog - 3)

/-- FORMAT agrees with ELOG (R140). -/
def Desc.formatOk (d : Desc) : Bool :=
  if d.format = 0 then true
  else if d.format = 0xFF then d.elog == 9
  else formatBits d.format == some (2 ^ d.elog)

/-- Well formed under R140. -/
def Desc.wf (d : Desc) : Bool :=
  decide (1 ≤ d.rank ∧ d.rank ≤ 5) && decide (d.homekind ≠ 3) && decide (2 ≤ d.elog ∧ d.elog ≤ 9) &&
  (d.ext.take d.rank).all (fun e => decide (1 ≤ e)) && (d.ext.drop d.rank).all (· == 0) &&
  (d.tlog.drop d.rank).all (· == 0) && decide (d.ttptr % 8 = 0) && d.formatOk &&
  (d.kind == 2 || d.gen == 0) && (d.kind == 3 || (d.logslots == 0 && d.cursors == 0)) &&
  match d.kind with
  | 1 => decide (d.tileBytes = 16384 ∨ d.tileBytes = 65536)
  | 2 => d.ttptr == 0 && d.homekind == 0 && d.die == 0 && d.core == 0 &&
      (d.format == 0x01 || d.format == 0x03 || d.format == 0x11 || d.format == 0x19 || d.format == 0x13 ||
        d.format == 0x1B)
  | 3 => d.rank == 1 && d.tlog.all (· == 0) && d.elog == 9 && decide (1 ≤ d.logslots ∧ d.logslots ≤ 24) &&
      d.ext.getD 0 0 == 2 ^ d.logslots && d.cursors != 0
  | _ => false

/-- A linear tensor (R145): MEMORY, rank 1, byte elements. -/
def Desc.linear (d : Desc) : Bool := d.kind == 1 && d.rank == 1 && d.elog == 3

/-- Are coordinates within the extents, and zero beyond the rank (R141, R144)? -/
def Desc.inBounds (d : Desc) (c : List Nat) : Bool :=
  ((c.zip d.ext).take d.rank).all (fun p => decide (p.1 < p.2)) && (c.drop d.rank).all (· == 0)

/-- Tiles along each dimension (R144). -/
def Desc.tileCounts (d : Desc) : List Nat :=
  (d.ext.zip d.tlog).take d.rank |>.map fun p => (p.1 + 2 ^ p.2 - 1) / 2 ^ p.2

/-- Number of tiles (R144); for a ring, of its byte space (R146). -/
def Desc.tiles (d : Desc) : Nat :=
  if d.kind = 3 then (128 + 64 * 2 ^ d.logslots + d.tileBytes - 1) / d.tileBytes else prodL d.tileCounts

/-- The layout function of R144: tile number and position in the tile in bits. -/
def Desc.place (d : Desc) (c : List Nat) : Nat × Nat :=
  let rec go : List (Nat × Nat × Nat) → Nat → Nat → Nat → Nat → Nat × Nat
    | [], tile, _, e, _ => (tile, e)
    | (x, t, n) :: r, tile, tspan, e, espan =>
      go r (tile + x / 2 ^ t * tspan) (tspan * n) (e + x % 2 ^ t * espan) (espan * 2 ^ t)
  let (t, e) := go (c.zip (d.tlog.zip d.tileCounts)) 0 1 0 1
  (t, e * 2 ^ d.elog)

/-- The linear element index of R178. -/
def Desc.linearIndex (d : Desc) (c : List Nat) : Nat :=
  ((c.zip d.ext).take d.rank).foldl (fun (a : Nat × Nat) p => (a.1 + p.1 * a.2, a.2 * p.2)) (0, 1) |>.1

/-- Coordinates from a linear element index (R178, R321). -/
def Desc.coordsOf (d : Desc) (l : Nat) : List Nat :=
  (d.ext.take d.rank).foldl (fun (a : List Nat × Nat) e => (a.1 ++ [a.2 % e], a.2 / e)) ([], l) |>.1

/-- Number of elements. -/
def Desc.count (d : Desc) : Nat := prodL (d.ext.take d.rank)

/-- The tile and the byte offset of a byte of a ring's byte space (R146). -/
def Desc.ringPlace (d : Desc) (b : Nat) : Nat × Nat := (b / d.tileBytes, b % d.tileBytes)

/-- Tile, position in the tile in bits, and whether it is in bounds, of an element of a MEMORY tensor or of a record of a ring
(R144, R146). -/
def Desc.spot (d : Desc) (c : List Nat) : Nat × Nat × Bool :=
  if d.kind = 3 then
    let (tile, off) := d.ringPlace (128 + 64 * c.getD 0 0)
    (tile, 8 * off, d.inBounds c)
  else ((d.place c).1, (d.place c).2, d.inBounds c)

/-- A capability table entry (R91, R245). -/
structure Cap where
  inuse : Bool
  ctx   : BitVec 3
  part  : BitVec 5
  mask  : BitVec 5
  gen   : W32
  deriving DecidableEq, Repr

/-- The fields of an entry. -/
def Cap.ofBits (b : BitVec 128) : Cap :=
  ⟨b.getLsbD 7, b.extractLsb' 0 3, b.extractLsb' 8 5, b.extractLsb' 16 5, b.extractLsb' 32 32⟩

/-- The entry that fields make. -/
def Cap.bits (c : Cap) : BitVec 128 :=
  (0 : BitVec 64) ++ c.gen ++ (0 : BitVec 11) ++ c.mask ++ (0 : BitVec 3) ++ c.part ++
    (if c.inuse then (1 : BitVec 1) else 0) ++ (0 : BitVec 4) ++ c.ctx

/-- An entry of a context's capability table. -/
def Ctx.cap (c : Ctx) (e : Nat) : Cap := Cap.ofBits (SMap.get 0 c.caps e)

/-- The current GEN of a context. -/
def State.genOf (s : State) (p : BitVec 5) (c : BitVec 3) : W32 := ((s.part p).ctx c).gen

/-- Where a tile table entry leads (R147, R148); `revoked` to a place that only MEM rights of older generations cover (R92): their entries, the GEN
of the first one's subject, and the place. -/
inductive Place where
  | here (pa : Nat)
  | far (pkg pa : Nat)
  | unmapped
  | revoked (entries : List Nat) (gen : W32) (pa : Nat)
  | bad
  deriving DecidableEq, Repr

/-- The MEM right (R90, R446). -/
def rMem : Nat := 4

/-- A place that a context's own partition does not own: it is reached under a MEM right over a context that owns it (R88, R148), whose generation is
compared at the access (R92). No form names the entry, so any entry that fits covers the access (DESIGN CHOICE, log 112). -/
def State.underMem (s : State) (part : BitVec 5) (ctx : BitVec 3) (pa : Nat) (owns : Part → BitVec 3 → Bool) : Place :=
  let es := (List.range 16).filter fun i =>
    let e := ((s.part part).ctx ctx).cap i
    e.inuse && e.mask.getLsbD rMem && owns (s.part e.part) e.ctx
  let gen := fun (i : Nat) => s.genOf (((s.part part).ctx ctx).cap i).part (((s.part part).ctx ctx).cap i).ctx
  if es.any fun i => (((s.part part).ctx ctx).cap i).gen == gen i then .here pa
  else match es with
    | i :: _ => .revoked es (gen i) pa
    | [] => .unmapped

/-- The capability entries of a context that give a MEM right now: what an instruction that issues is checked against, once (R92). -/
def State.memRights (s : State) (part : BitVec 5) (ctx : BitVec 3) : BitVec 16 :=
  let x := (s.part part).ctx ctx
  if x.caps.isEmpty then 0
  else BitVec.ofNat 16 (((List.range 16).filter fun i =>
    let e := x.cap i
    e.inuse && e.mask.getLsbD rMem && e.gen == s.genOf e.part e.ctx).foldl (fun n i => n + 2 ^ i) 0)

/-- A place as an access finds it whose instruction issued under some MEM rights: it completes though they have been revoked since (R92). -/
def Place.under (p : Place) (mem : BitVec 16) : Place := match p with
  | .revoked es g pa => if es.any fun i => mem.getLsbD i then .here pa else .revoked es g pa
  | x => x

/-- Resolves an entry with PRESENT 1 for a context of a partition; `big` when a tile has 65,536 bytes. What another
package's partitions own is not this package's to check. Which HBM frames a partition owns no register holds (log 111). -/
def State.locate (s : State) (part : BitVec 5) (ctx : BitVec 3) (e : BitVec 64) (big : Bool) (off : Nat) : Place :=
  let pkg := fld e 16 9
  let at_ := fun (owns : Part → BitVec 3 → Bool) (pa : Nat) =>
    if pkg ≠ s.fabric.index then Place.far pkg pa else if owns (s.part part) ctx then .here pa else s.underMem part ctx pa owns
  if fld e 6 10 ≠ 0 ∨ fld e 25 7 ≠ 0 ∨ fld e 4 2 = 3 then .bad
  else match fld e 4 2 with
    | 0 =>
      let u := fld e 32 25
      if fld e 57 7 ≠ 0 ∨ (big ∧ u % 4 ≠ 0) then .bad else at_ (fun _ _ => true) (u * 16384 + off)
    | 1 =>
      let u := fld e 32 13
      let die := fld e 45 2
      if fld e 47 17 ≠ 0 ∨ u ≥ 6144 ∨ (big ∧ u % 4 ≠ 0) then .bad
      else at_ (fun p c => p.ownsStripe c die (u / 32)) (shmPa die (u * 16384 + off))
    | _ =>
      let u := fld e 32 8
      let core := fld e 40 7
      if fld e 47 17 ≠ 0 ∨ (big ∧ u % 4 ≠ 0) then .bad
      else at_ (fun p _ => p.ownsCore core) (scrPa core (u * 16384 + off))

/-- The tile table entry of a tile, read at its home (R147). -/
def State.tileEntry (s : State) (d : Desc) (tile : Nat) : BitVec 64 := leBV 64 (s.peek (d.ttptr + 8 * tile) 8)

/-- A descriptor of a context's tensor table (R139); none above NDESC. A TTABLE beyond the HBM of the package reads what the model's numbers name there
(DESIGN CHOICE, log 121). -/
def State.descBits (s : State) (part : BitVec 5) (ctx : BitVec 3) (tensor : Nat) : Option (BitVec 512) :=
  let c := (s.part part).ctx ctx
  if tensor ≤ c.ndesc.toNat then some (leBV 512 (s.peek (c.ttable.toNat + 64 * tensor) 64)) else none

/-- Does a read of these bytes meet poison: a poisoned block, or a word with an error that cannot be corrected (R18)? -/
def State.tainted (s : State) (pa n : Nat) : Bool := s.anyPoison pa n || (s.flawsIn pa n).any fun e => decide (e.2 = .uncorrectable)

/-- Does a read of a tile's entry meet poison (R18)? -/
def State.badEntry (s : State) (d : Desc) (tile : Nat) : Bool := s.tainted (d.ttptr + 8 * tile) 8

/-- Does a read of a descriptor meet poison (R18)? -/
def State.badDesc (s : State) (part : BitVec 5) (ctx : BitVec 3) (tensor : Nat) : Bool :=
  s.tainted (((s.part part).ctx ctx).ttable.toNat + 64 * tensor) 64

/-- The entries of the present tiles of a partition's bound contexts on this package, with the sizes of the tiles: what it has in use (R84, R85; log 111). -/
def State.tilesIn (s : State) (p : BitVec 5) : List (Nat × BitVec 64) :=
  let t := s.part p
  (((List.range 8).filter fun c => t.bound.getLsbD c).flatMap fun c =>
    (List.range ((t.ctx (BitVec.ofNat 3 c)).ndesc.toNat + 1)).flatMap fun n => match s.descBits p (BitVec.ofNat 3 c) n with
      | none => []
      | some b =>
        let d := Desc.ofBits b
        if d.kind == 2 || !d.wf || !descPlain b then []
        else ((List.range d.tiles).map fun i => (d.tileBytes, s.tileEntry d i)).filter fun x => x.2.getLsbD 0 && fld x.2 16 9 == s.fabric.index)

/-- The 64 KiB HBM frames that a partition has in use (R84, R85). -/
def State.hbmFrames (s : State) (p : BitVec 5) : List Nat :=
  (((s.tilesIn p).filter fun x => fld x.2 4 2 == 0).map fun x => fld x.2 32 25 / 4).eraseDups

/-- The 16 KiB shared-memory units of a die that a partition has in use (R154), each as its number in units of 16 KiB. -/
def State.shmUnits (s : State) (p : BitVec 5) (die : Nat) : List Nat :=
  (((s.tilesIn p).filter fun x => fld x.2 4 2 == 1 && fld x.2 45 2 == die).flatMap fun x =>
    (List.range (x.1 / 16384)).map fun i => shmPa die 0 / 16384 + fld x.2 32 13 + i).eraseDups

/-- How an access that no strand issues can fail (R471); or it lies on another package. -/
inductive LinErr where
  | absent | bounds | poison | writeprot
  | stale (sub : Nat)
  | away (pkg pa : Nat)
  deriving DecidableEq, Repr

/-- Packages of the domain (R45). -/
def Fabric.packages (f : Fabric) : Nat := f.domSize.1 * f.domSize.2.1 * f.domSize.2.2

/-- The state of a frame at its home (R225, R228): 1 MIGRATING, 2 retired; and its sharers. -/
def State.frameState (s : State) (pa : Nat) : Nat × List Nat :=
  match s.frames.find? (·.1 == pa / 16384) with
  | some (_, st, sh) => (st, sh)
  | none => (0, [])

/-- Does the frame of a number hold writes back: it migrates, or other packages have copies (R198, R226)? -/
def State.heldFrame (s : State) (pa : Nat) : Bool := (s.frameState pa).1 == 1 || !(s.frameState pa).2.isEmpty

/-- Linear-space byte address to number, for `n` bytes within one tile, through descriptor 0 of a context (R142). The context need not be bound: what
stands at its TTABLE is read (DESIGN CHOICE, log 109, of a host access before context 0 is bound). Poison in the table is consumed like the tile's own (R18). -/
def State.linPa (s : State) (part : BitVec 5) (ctx : BitVec 3) (addr n : Nat) (write : Bool) : Except LinErr Nat :=
  match s.descBits part ctx 0 with
  | none => .error .bounds
  | some b =>
    let d := Desc.ofBits b
    if s.badDesc part ctx 0 then .error .poison
    else if !(d.linear && d.wf && descPlain b && d.format == 0) then .error .bounds
    else if addr + n > d.ext.getD 0 0 then .error .bounds
    else if s.badEntry d (addr / d.tileBytes) then .error .poison
    else
      let e := s.tileEntry d (addr / d.tileBytes)
      if !e.getLsbD 0 then .error .absent
      else if e.getLsbD 3 then .error .poison
      else if write && !e.getLsbD 1 then .error .writeprot
      else match s.locate part ctx e (d.tileBytes == 65536) (addr % d.tileBytes) with
        | .here pa => .ok pa
        | .far pkg pa => if pkg < s.fabric.packages then .error (.away pkg pa) else .error .absent
        | _ => .error .absent

/-- The first byte, in pieces of a range, whose tile is not present (R219, R471). -/
def State.firstAbsent (s : State) (part : BitVec 5) (ctx : BitVec 3) (ps : List (Nat × Nat)) : Option Nat :=
  (ps.find? fun p => match s.linPa part ctx p.1 p.2 false with
    | .error .absent => true
    | _ => false).map (·.1)

/-! ### Device accesses to a tensor of a context (R471) -/

/-- Where a byte of a tile lies, for a party that is no strand. -/
def State.devPlace (s : State) (p : BitVec 5) (ctx : BitVec 3) (d : Desc) (tile off : Nat) (write : Bool) :
    Except LinErr Nat :=
  let e := s.tileEntry d tile
  if s.badEntry d tile then .error .poison
  else if !e.getLsbD 0 then .error .absent
  else if e.getLsbD 3 then .error .poison
  else if write && !e.getLsbD 1 then .error .writeprot
  else match s.locate p ctx e (d.tileBytes == 65536) off with
    | .here pa => .ok pa
    | .far pkg pa => if pkg < s.fabric.packages then .error (.away pkg pa) else .error .absent
    | _ => .error .absent

/-- Where a byte of a ring's byte space lies (R146). -/
def State.ringPa (s : State) (p : BitVec 5) (ctx : BitVec 3) (tensor : BitVec 12) (byte : Nat) (write : Bool) :
    Except LinErr Nat :=
  match s.descBits p ctx tensor.toNat with
  | none => .error .bounds
  | some b =>
    let d := Desc.ofBits b
    if s.badDesc p ctx tensor.toNat then .error .poison
    else if d.kind != 3 || !d.wf || !descPlain b then .error .bounds
    else s.devPlace p ctx d (d.ringPlace byte).1 (d.ringPlace byte).2 write

/-- Splits a byte range at 64-byte boundaries: start and length of each piece (R155). -/
def pieces64 : Nat → Nat → Nat → List (Nat × Nat)
  | 0, _, _ => []
  | fuel + 1, a, n =>
    if n = 0 then []
    else
      let k := min n (64 - a % 64)
      (a, k) :: pieces64 fuel (a + k) (n - k)

/-! ### Accesses of the I/O die to other packages -/

/-- Is it a write? -/
def DevReq.isWrite (r : DevReq) : Bool := match r.act with
  | .write _ => true
  | _ => false

/-- Where an access of the I/O die lies. -/
def State.devAt (s : State) (r : DevReq) : Except LinErr Nat :=
  match r.ring with
  | none => s.linPa r.part r.ctx r.addr 1 r.isWrite
  | some t => s.ringPa r.part r.ctx t r.addr r.isWrite

/-- The answer to an access of the I/O die to linear space, if it has come. -/
def State.devAnswer (s : State) (part : BitVec 5) (ctx : BitVec 3) (addr : Nat) (act : DevAct) : Option PktBody :=
  (s.dev.find? fun r => r.part == part && r.ctx == ctx && r.addr == addr && r.ring.isNone && decide (r.act = act) && r.answer.isSome).bind (·.answer)

/-- Adds an access of the I/O die to those that wait. RETRY_RESEND of core 0 sends it (log 110). -/
def State.devAdd (s : State) (op : Nat) (part : BitVec 5) (ctx : BitVec 3) (addr : Nat) (act : DevAct) (ring : Option (BitVec 12) := none) : State :=
  { s with dev := s.dev ++ [{ op := op, tag := s.nextTag, part := part, ctx := ctx, addr := addr, act := act, ring := ring }], nextTag := s.nextTag + 1 }

/-- Asks for an access once. -/
def State.devAsk (s : State) (op : Nat) (part : BitVec 5) (ctx : BitVec 3) (addr : Nat) (act : DevAct) (ring : Option (BitVec 12) := none) : State :=
  if s.dev.any fun r => r.op == op && r.part == part && r.ctx == ctx && r.addr == addr && decide (r.ring = ring ∧ r.act = act) then s
  else s.devAdd op part ctx addr act ring

/-- An operation of the I/O die ends: the answers that it asked for go, unless it still waits for one. -/
def State.devDone (s : State) (op : Nat) : State :=
  if s.dev.isEmpty then s
  else if s.dev.any fun r => r.op == op && !r.isWrite && r.answer.isNone then s
  else { s with dev := s.dev.filter fun r => r.op != op || r.answer.isNone }

/-- Overlays bytes at `at_` on a read of bytes from `base`. -/
def overlay (base : Nat) (bs : List Byte) (at_ : Nat) (new : List Byte) : List Byte :=
  bs.mapIdx fun i b => if at_ ≤ base + i ∧ base + i < at_ + new.length then new.getD (base + i - at_) b else b

/-- Bytes that the I/O die reads, with its own writes that still wait. -/
def State.devOver (s : State) (part : BitVec 5) (ctx : BitVec 3) (addr : Nat) (bs : List Byte) (ring : Option (BitVec 12) := none) : List Byte :=
  s.dev.foldl (fun bs r => match r.act with
    | .write new => if r.part == part && r.ctx == ctx && decide (r.ring = ring) && r.answer.isNone then overlay addr bs r.addr new else bs
    | _ => bs) bs

/-- What an answer to a read holds. -/
def devFound : PktBody → Option (Except LinErr (List Byte))
  | .data _ v => some (.ok v)
  | .badTarget _ 4 _ => some (.error .poison)
  | .badTarget _ _ c => some (.error (.stale c))
  | _ => none

/-- Reads linear-space bytes for a party that is no strand, piece by piece (R471). -/
def State.linRead (s : State) (part : BitVec 5) (ctx : BitVec 3) (addr n : Nat) : State × Except LinErr (List Byte) :=
  (pieces64 (n / 64 + 2) addr n).foldl (fun acc p =>
    match acc with
    | (s, .error e) => (s, .error e)
    | (s, .ok bs) =>
      match s.linPa part ctx p.1 p.2 false with
      | .error (.away pkg pa) => match (s.devAnswer part ctx p.1 (.read p.2)).bind devFound with
        | some (.ok d) => (s, .ok (bs ++ s.devOver part ctx p.1 d))
        | some (.error e) => (s, .error e)
        | none => (s, .error (.away pkg pa))
      | .error e => (s, .error e)
      | .ok pa =>
        match s.bankRead pa p.2 with
        | (s, .data d) => (s, .ok (bs ++ s.devOver part ctx p.1 d))
        | (s, .poison) => (s, .error .poison)
        | (s, .stale c) => (s, .error (.stale c))) (s, .ok [])

/-- The pieces of some ranges of linear space that lie on other packages and have not been answered. -/
def State.farLeft (s : State) (part : BitVec 5) (ctx : BitVec 3) (rs : List (Nat × Nat)) : List (Nat × Nat) :=
  (rs.flatMap fun r => pieces64 (r.2 / 64 + 2) r.1 r.2).filter fun p => match s.linPa part ctx p.1 p.2 false with
    | .error (.away _ _) => ((s.devAnswer part ctx p.1 (.read p.2)).bind devFound).isNone
    | _ => false

/-- Runs an action of the I/O die that reads some ranges of linear space, once what lies on other packages has been answered. -/
def State.needFar (s : State) (op : Nat) (part : BitVec 5) (ctx : BitVec 3) (rs : List (Nat × Nat)) (f : State → State) : State :=
  if (s.farLeft part ctx rs).isEmpty then f s else (s.farLeft part ctx rs).foldl (fun s p => s.devAsk op part ctx p.1 (.read p.2)) s

/-- Writes linear-space bytes for a party that is no strand, piece by piece. A piece on another package, or whose frame holds writes back, waits with
those of the I/O die. -/
def State.linWrite (s : State) (part : BitVec 5) (ctx : BitVec 3) (addr : Nat) (bs : List Byte) : Except LinErr State :=
  (pieces64 (bs.length / 64 + 2) addr bs.length).foldl (fun acc p =>
    match acc with
    | .error e => .error e
    | .ok t =>
      let new := (bs.drop (p.1 - addr)).take p.2
      match s.linPa part ctx p.1 p.2 true with
      | .error (.away _ _) => .ok (t.devAdd 0 part ctx p.1 (.write new))
      | .error e => .error e
      | .ok pa => if s.heldFrame pa then .ok (t.devAdd 0 part ctx p.1 (.write new)) else .ok (t.bankWrite pa new)) (.ok s)

/-- Reads bytes of a ring for an operation of the I/O die: what lies on another package is asked for, and `away` until it has been answered. -/
def State.ringRead (s : State) (op : Nat) (p : BitVec 5) (ctx : BitVec 3) (tensor : BitVec 12) (byte n : Nat) :
    State × Except LinErr (List Byte) :=
  match s.ringPa p ctx tensor byte false with
  | .error (.away pkg pa) =>
    let mine := s.dev.find? fun r => r.op == op && r.part == p && r.ctx == ctx && r.addr == byte && decide (r.ring = some tensor ∧ r.act = .read n)
    match (mine.bind (·.answer)).bind devFound with
    | some (.ok d) => (s, .ok (s.devOver p ctx byte d (some tensor)))
    | some (.error e) => (s, .error e)
    | none => (s.devAsk op p ctx byte (.read n) (some tensor), .error (.away pkg pa))
  | .error e => (s, .error e)
  | .ok pa =>
    match s.bankRead pa n with
    | (t, .data bs) => (t, .ok (s.devOver p ctx byte bs (some tensor)))
    | (t, .poison) => (t, .error .poison)
    | (t, .stale c) => (t, .error (.stale c))

/-- Writes bytes of a ring: at once where nothing of the partition's waits before it (R198, R226). -/
def State.ringWrite (s : State) (p : BitVec 5) (ctx : BitVec 3) (tensor : BitVec 12) (byte : Nat) (bs : List Byte) :
    Except LinErr State :=
  let wait := s.devAdd 0 p ctx byte (.write bs) (some tensor)
  match s.ringPa p ctx tensor byte true with
  | .error (.away _ _) => .ok wait
  | .error e => .error e
  | .ok pa => .ok (if s.heldFrame pa || s.dev.any fun r => r.isWrite && r.part == p then wait else s.bankWrite pa bs)

/-- A little-endian 64-bit word of linear space. -/
def State.linRead64 (s : State) (part : BitVec 5) (ctx : BitVec 3) (addr : Nat) : State × Except LinErr Word :=
  match s.linRead part ctx addr 8 with
  | (s, .ok bs) => (s, .ok (leBV 64 bs))
  | (s, .error e) => (s, .error e)

end Sys2Proof.Machine
end

