-- ==== Sys2Proof/Machine/Rings.lean ====
section
/-! DEFINITION. The on-die rings and the die switch (R26, R30 to R40, R468, R470): injection, the reference timing of one
fabric cycle, and where a packet goes when it leaves a ring or a switch. -/

namespace Sys2Proof.Machine

/-- A field of the routing bits of a packet (R26). -/
def pktField (p : Packet) (lo n : Nat) : Nat := p.hdr.toNat / 2 ^ lo % 2 ^ n

/-- Payload flits (R26). -/
def pktLen (p : Packet) : Nat := pktField p 0 4

/-- Torus coordinates of the destination package (R26). -/
def pktPos (p : Packet) : Nat × Nat × Nat := (pktField p 32 9, pktField p 41 8, pktField p 49 8)

/-- Direction of a packet on a ring: clockwise? (R31). -/
def ringCw (src dst dir : Nat) : Bool :=
  if dir = 1 then true
  else if dir = 2 then false
  else
    let d := (dst + 8 - src) % 8
    if d < 4 then true else if 4 < d then false else decide (src % 2 = 0)

/-- Hops from entry to exit. -/
def RingPkt.dist (q : RingPkt) : Nat := if q.cw then (q.dst + 8 - q.src) % 8 else (q.src + 8 - q.dst) % 8

/-- The stop that hop `h` of a packet leaves. -/
def RingPkt.stopAt (q : RingPkt) (h : Nat) : Nat := if q.cw then (q.src + h) % 8 else (q.src + 8 - h % 8) % 8

/-- Has the packet crossed the dateline once it has made hop `h` (R32)? -/
def RingPkt.vc1 (q : RingPkt) (h : Nat) : Bool :=
  (List.range (h + 1)).any fun i => q.stopAt i == (if q.cw then 7 else 0)

/-- The number of a hop: stop and direction. -/
def hopIdx (stop : Nat) (cw : Bool) : Nat := 2 * stop + if cw then 0 else 1

/-- The number of the output that hop `h` of a packet uses. -/
def RingPkt.hop (q : RingPkt) (h : Nat) : Nat := hopIdx (q.stopAt h) q.cw

/-- The input port that hop `h` of a packet leads to. -/
def RingPkt.port (q : RingPkt) (h : Nat) : Nat := hopIdx (q.stopAt (h + 1)) q.cw

/-- Flits that have made at least `n` hops. -/
def RingPkt.past (q : RingPkt) (n : Nat) : Nat := (q.hops.filter fun x => decide (n ≤ x)).length

/-- Shared slots that a packet reserves at an input port: all of its flits until each leaves (R34). -/
def RingPkt.sharedAt (q : RingPkt) (port : Nat) : Nat :=
  sumL' ((List.range q.chan.length).map fun h =>
    if q.port h = port ∧ q.chan.getD h true = false then q.hops.length - q.past (h + 2) else 0)
where sumL' (l : List Nat) : Nat := l.foldl (· + ·) 0

/-- Flits of a packet in the escape channel of an input port, and whether it holds that channel (R33). -/
def RingPkt.escAt (q : RingPkt) (port : Nat) (vc1 : Bool) : Option Nat :=
  ((List.range q.chan.length).find? fun h => q.port h = port ∧ q.chan.getD h false = true ∧ q.vc1 h = vc1 ∧ q.past (h + 2) < q.hops.length).map
    fun h => q.past (h + 1) - q.past (h + 2)

/-- The shared-slot limit in force (R37). -/
def Ring.cap (r : Ring) : Nat := if r.test then r.limit.toNat else 16

/-- Free shared slots of an input port (R34, R38). -/
def Ring.sharedFree (r : Ring) (port : Nat) : Nat := r.cap - (r.pkts.map fun q => q.sharedAt port).foldl (· + ·) 0

/-- Occupied slots of an escape channel, if a packet holds it. -/
def Ring.escHeld (r : Ring) (port : Nat) (vc1 : Bool) : Option Nat := r.pkts.findSome? fun q => q.escAt port vc1

/-- Free slots of an escape channel (R39). -/
def Ring.escFree (r : Ring) (port : Nat) (vc1 : Bool) : Nat := 2 - (r.escHeld port vc1).getD 0

/-- The first flit of a packet that stands at a hop and may leave it in this cycle (R36). -/
def RingPkt.ready (q : RingPkt) (h cycle : Nat) : Bool :=
  let f := q.past (h + 1)
  decide (f < q.hops.length ∧ q.hops.getD f 9 = h) && (h == 0 || decide (q.came.getD f 0 < cycle))

/-- The channel that the head of a packet would take for hop `h` (R34, R35): true for the escape channel. -/
def Ring.admits (r : Ring) (q : RingPkt) (h : Nat) : Option Bool :=
  let port := q.port h
  let v := q.vc1 h
  if q.hops.length ≤ r.sharedFree port then
    let busy := r.pkts.any fun o => o.id != q.id && (List.range o.chan.length).any fun i =>
      o.hop i == q.hop h && o.chan.getD i true == false && o.vc1 i == v && decide (o.past (i + 1) < o.hops.length)
    if busy then none else some false
  else if (r.escHeld port v).isNone then some true
  else none

/-- A flit of a packet whose head has passed hop `h` finds its place (R34, R470). -/
def Ring.placeFor (r : Ring) (q : RingPkt) (h : Nat) : Bool :=
  !q.chan.getD h false || decide (0 < r.escFree (q.port h) (q.vc1 h))

/-- What a cycle does: the packet and the hop whose next flit moves, with the channel of a head. -/
structure RingMove where
  id   : Nat
  h    : Nat
  chan : Option Bool
  deriving DecidableEq, Repr

/-- The flit that an output grants in a cycle (R470). -/
def Ring.grant (r : Ring) (hop : Nat) : Option RingMove :=
  let at_ := r.pkts.flatMap fun q => ((List.range q.dist).filter fun h => q.hop h == hop && q.ready h r.cycle).map fun h => (q, h)
  match at_.find? fun x => decide (0 < x.1.past (x.2 + 1)) && r.placeFor x.1 x.2 with
  | some (q, h) => some ⟨q.id, h, none⟩
  | none =>
    let head := fun (loc : Bool) => (at_.filter fun x => x.1.past (x.2 + 1) == 0 && (x.2 == 0) == loc).findSome? fun x =>
      (r.admits x.1 x.2).map fun c => (⟨x.1.id, x.2, some c⟩ : RingMove)
    let first := !r.last.getLsbD hop
    (head first).or (head !first)

/-- The packet whose flit an ejection port takes in a cycle (R35, R36). -/
def Ring.eject (r : Ring) (hop : Nat) : Option Nat :=
  let at_ := r.pkts.filter fun q => q.port (q.dist - 1) == hop && q.ready q.dist r.cycle
  ((at_.find? fun q => decide (0 < q.past (q.dist + 1))).or at_.head?).map (·.id)

/-- A packet with the next flit of hop `h` moved on. -/
def RingPkt.move (q : RingPkt) (m : RingMove) (cycle : Nat) : RingPkt :=
  let f := q.past (m.h + 1)
  { q with hops := q.hops.set f (m.h + 1), came := q.came.set f (cycle + 1), chan := q.chan ++ m.chan.toList }

/-- One fabric cycle of a ring (R36, R470): every grant is made on the state at its start. Answers the packets whose tail has left. -/
def Ring.step (r : Ring) : Ring × List RingPkt :=
  let moves := (List.range 16).filterMap r.grant
  let outs := (List.range 16).filterMap r.eject
  let go := fun (q : RingPkt) =>
    let q := (moves.filter fun m => m.id == q.id).foldl (fun q m => q.move m r.cycle) q
    if outs.contains q.id then q.move ⟨q.id, q.dist, none⟩ r.cycle else q
  let heads := moves.filter fun m => m.chan.isSome
  let hopOf := fun (m : RingMove) => ((r.pkts.find? fun q => q.id == m.id).map fun q => (q.hop m.h, q.port m.h)).getD (0, 0)
  let last := heads.foldl (fun (l : BitVec 16) m =>
    if m.h = 0 then l ||| (1#16 <<< (hopOf m).1) else l &&& ~~~(1#16 <<< (hopOf m).1)) r.last
  let esc := heads.foldl (fun (e : Vector W32 16) m =>
    if m.chan = some true then Vector.ofFn fun i => if i.val = (hopOf m).2 then e[i] + 1 else e[i] else e) r.esc
  let ps := r.pkts.map go
  ({ r with pkts := ps.filter fun q => decide (q.past (q.dist + 1) < q.hops.length), last := last, esc := esc, cycle := r.cycle + 1 },
    ps.filter fun q => !decide (q.past (q.dist + 1) < q.hops.length))

/-- RINGSTAT of an input port (R39). -/
def Ring.stat (r : Ring) (port : Nat) : Word :=
  BitVec.ofNat 64 ((r.esc.toList.getD port 0).toNat * 2 ^ 32 + r.escFree port true * 2 ^ 10 + r.escFree port false * 2 ^ 8 + r.sharedFree port)

/-- A packet enters a ring at a stop, bound for another (R31). -/
def Ring.enter (r : Ring) (src dst dir : Nat) (p : Packet) : Ring :=
  let n := pktLen p + 1
  let q : RingPkt := ⟨r.nextId, ringCw src dst dir, src, dst, List.replicate n 0, List.replicate n 0, [], p⟩
  { r with pkts := r.pkts ++ [q], nextId := r.nextId + 1 }

/-- A package with one ring changed. -/
def State.modRing (s : State) (g : Nat) (f : Ring → Ring) : State :=
  if h : g < 16 then { s with rings := s.rings.set g (f s.rings[g]) h } else s

/-- A ring of the package. -/
def State.ring (s : State) (g : Nat) : Ring := s.rings.toList.getD g {}

/-- The die switch's attachment that a stop uses: stop 0 or 4 (R30). -/
def attach (stop : Nat) : Nat :=
  let d0 := min stop (8 - stop)
  let d4 := if stop ≤ 4 then 4 - stop else stop - 4
  if d4 < d0 then 4 else 0

/-- Outputs of a die switch (R40): 0 to 7 the ring attachments, 8 to 11 the link to a die, 12 the I/O die. -/
def State.switchOut (s : State) (die : Nat) (p : Packet) : Nat :=
  let c := pktField p 16 7
  if pktPos p ≠ s.fabric.pos ∨ pktField p 15 1 = 1 then 12
  else if c / 32 ≠ die then 8 + c / 32
  else 2 * (c / 8 % 4) + attach (c % 8) / 4

/-- A packet waits at an input of a die switch. -/
def State.toSwitch (s : State) (die input : Nat) (p : Packet) : State :=
  if h : die < 4 then
    { s with switches := s.switches.set die { s.switches[die] with waiting := s.switches[die].waiting ++ [(input, s.switchOut die p, p)] } h }
  else s

/-- Counts a packet's flits at the network interface of a core, under a source of R93: 40 sent, 41 received. A unit that is no core has no counters. -/
def State.countFlits (s : State) (p : Packet) (src : Nat) (core : BitVec 7) : State :=
  if pktField p (if src = 40 then 112 else 15) 1 = 1 then s else s.modCore core (·.count src (pktLen p + 1))

/-- A packet leaves a core's network interface (R30, R31, R468): onto the ring, to the die switch where the core's stop is
the attachment, or nowhere when it is for the core itself. A request to another stop of the ring takes FDIR's direction. -/
def State.fromCore (s : State) (core : Nat) (p : Packet) : State :=
  let s := s.countFlits p 40 (BitVec.ofNat 7 core)
  let stop := core % 8
  let c := pktField p 16 7
  let inside := pktPos p == s.fabric.pos && pktField p 15 1 == 0 && c / 8 == core / 8
  if inside && c == core then { s with agenda := s.agenda ++ [.packetReceive p] }
  else if inside then
    let dir := if pktField p 6 2 = 0 then (s.ring (core / 8)).sdir.toNat / 4 ^ stop % 4 else 0
    s.modRing (core / 8) fun r => r.enter stop (c % 8) dir { p with hdr := p.hdr ||| BitVec.ofNat 128 (dir * 16) }
  else if attach stop = stop then s.toSwitch (core / 32) (2 * (core / 8 % 4) + stop / 4) p
  else s.modRing (core / 8) fun r => r.enter stop (attach stop) 0 p

/-- A packet has left a ring at its exit stop: it is received there, or goes to the die switch. -/
def State.ringOut (s : State) (g : Nat) (q : RingPkt) : State :=
  let p := q.body
  if pktPos p = s.fabric.pos ∧ pktField p 15 1 = 0 ∧ pktField p 16 7 = 8 * g + q.dst then { s with agenda := s.agenda ++ [.packetReceive p] }
  else s.toSwitch (g / 4) (2 * (g % 4) + q.dst / 4) p

/-- Has a packet of a ring entered an escape channel at its first hop, and not before in `old` (R35, R93)? -/
def RingPkt.escaped (q : RingPkt) (old : Ring) : Bool :=
  q.chan == [true] && old.pkts.any fun o => o.id == q.id && o.chan.isEmpty

/-- `ring_flit_transfer` (R34 to R36, R470). A core whose own packet is admitted to an escape channel counts it (R93). -/
def execRingFlitTransfer (ring : BitVec 4) (s : State) : Host.Outcome State Fault Refusal :=
  let g := ring.toNat
  let (r, outs) := (s.ring g).step
  let own := (r.pkts ++ outs).filter fun q => q.escaped (s.ring g) && pktField q.body 112 1 == 0 && pktField q.body 105 7 == 8 * g + q.src
  let s := own.foldl (fun s q => s.modCore (BitVec.ofNat 7 (8 * g + q.src)) (·.count 42 1)) s
  .next (outs.foldl (fun s q => s.ringOut g q) (s.modRing g fun _ => r))

/-- The input that an output of a die switch serves next: round-robin from its pointer (R40). -/
def DieSwitch.pick (d : DieSwitch) (out : Nat) : Option (Nat × Packet) :=
  let turn := SMap.get 0 d.turn out
  (List.range 16).findSome? fun i =>
    let inp := (turn + i) % 16
    (d.waiting.find? fun w => w.1 == inp && w.2.1 == out).map fun w => (inp, w.2.2)

/-- A packet leaves a die switch: onto a ring, to another die's switch, or to the I/O die, whose torus port for its first
hop takes it (R40, R42). -/
def State.switchTo (s : State) (die out : Nat) (p : Packet) : State :=
  if out < 8 then
    let g := 4 * die + out / 2
    let stop := 4 * (out % 2)
    let dst := pktField p 16 7 % 8
    if dst = stop then { s with agenda := s.agenda ++ [.packetReceive p] } else s.modRing g fun r => r.enter stop dst 0 p
  else if out < 12 then s.toSwitch (out - 8) (8 + die) p
  else
    match s.fabric.egress (pktPos p) with
    | none => { s with agenda := s.agenda ++ [.packetReceive p] }
    | some port =>
      if h : port < 6 then
        { s with ports := s.ports.set port { s.ports[port] with queue := s.ports[port].queue ++ [p] } h }
      else s

/-- `die_switch_transfer` (R40): each output grants one waiting packet, round-robin per input. -/
def execDieSwitchTransfer (die : BitVec 2) (s : State) : Host.Outcome State Fault Refusal :=
  let d := s.switches[die.toFin]
  .next ((List.range 13).foldl (fun s out =>
    match d.pick out with
    | none => s
    | some (inp, p) =>
      let e := s.switches[die.toFin]
      let e : DieSwitch := ⟨e.waiting.erase (inp, out, p), SMap.put 0 e.turn out ((inp + 1) % 16)⟩
      ({ s with switches := s.switches.set die.toFin e } : State).switchTo die.toNat out p) s)

/-- FCTL as it reads (R37). -/
def Ring.fctl (r : Ring) : Word := BitVec.ofNat 64 (r.limit.toNat + if r.test then 256 else 0)

/-- `fctl_write` (R37): TEST and SHARED_LIMIT; only the physical function writes it. -/
def execFctlWrite (func : BitVec 6) (ring : BitVec 4) (value : BitVec 64) (s : State) : Host.Outcome State Fault Refusal :=
  let l := value.extractLsb' 0 5
  .next (if func ≠ 0 then s
    else s.modRing ring.toNat fun r => { r with test := value.getLsbD 8, limit := if l = 0 ∨ 16 < l.toNat then 16 else l })

/-- `fdir_write` (R468): two bits per stop; a write of 3 to a field stores 0. -/
def execFdirWrite (func : BitVec 6) (ring : BitVec 4) (value : BitVec 64) (s : State) : Host.Outcome State Fault Refusal :=
  let f := fun (i : Nat) => let x := value.toNat / 4 ^ i % 4; if x = 3 then 0 else x
  let v := (List.range 8).foldl (fun a i => a + f i * 4 ^ i) 0
  .next (if func ≠ 0 then s else s.modRing ring.toNat fun r => { r with sdir := BitVec.ofNat 16 v })

end Sys2Proof.Machine
end

