-- ==== Sys2Proof/Machine/Ops.lean ====
section
/-! DEFINITION. The operations that meanings share: taking a fault and leaving a halt, retiring an instruction, loops,
tokens, region stacks and trace records, translation, reads, writes and atomics with their side log, releases, and the
frame in which an S, V or M instruction runs. -/

namespace Sys2Proof.Machine

/-- A fault to be taken (R239, R240): kind, subcode and DETAIL bytes 24 to 63. -/
structure FaultInfo where
  kind   : Nat
  sub    : Nat := 0
  det    : BitVec 320 := 0
  remote : Bool := false
  deriving DecidableEq, Repr

/-- Why an instruction does not finish now: it raises a fault, or it is held and tries again at or after a time; or it has
done its work and raises a fault, with its token still to be posted. -/
inductive Stop where
  | fault (f : FaultInfo)
  | hold (notBefore : Nat)
  | done (f : FaultInfo)
  deriving DecidableEq, Repr

/-- A computation of an instruction on the machine. What it has changed stays changed when it stops. -/
abbrev Op (α : Type) := ExceptT Stop (StateM State) α

/-- Kinds of R240. -/
def kIllop : Nat := 1
def kTensor : Nat := 2
def kWriteprot : Nat := 3
def kPoison : Nat := 4
def kStale : Nat := 5
def kGenwrite : Nat := 6
def kGenfault : Nat := 7
def kRingwrite : Nat := 8
def kCapfault : Nat := 9
def kQueuefault : Nat := 10
def kFscope : Nat := 11
def kOrder : Nat := 12
def kMeta : Nat := 13
def kSampler : Nat := 14
def kTrap : Nat := 15
def kMiss : Nat := 16

/-- Severity of a kind (R240): 2 HALT, 1 NOTE, 3 FATAL. -/
def sevOf (kind : Nat) : Nat := if kind ≤ 15 then 2 else if kind ≤ 26 then 1 else 3

/-- DETAIL form T (R240), with bytes 27 and 28. -/
def detT (tensor slot tile off : Nat) (b27 : Nat := 0) (b28 : Nat := 0) : BitVec 320 :=
  BitVec.ofNat 320 (tensor + slot * 2 ^ 16 + b27 * 2 ^ 24 + b28 * 2 ^ 32 + tile * 2 ^ 64 + off * 2 ^ 128)

/-- DETAIL form A (R240). -/
def detA (addr : Nat) : BitVec 320 := BitVec.ofNat 320 (addr * 2 ^ 64)

/-- DETAIL form Q (R240): queue, index, offset of the failing field, byte 41, bytes 44 to 47 and bytes 48 to 55. -/
def detQ (queue index off : Nat) (b41 : Nat := 0) (w44 : Nat := 0) (addr : Nat := 0) : BitVec 320 :=
  BitVec.ofNat 320 (queue + index * 2 ^ 64 + off * 2 ^ 128 + b41 * 2 ^ 136 + w44 * 2 ^ 160 + addr * 2 ^ 192)

/-- DETAIL form T of a linear-space address: tensor 0 of its context (R142, R240). -/
def State.linDet (s : State) (p : BitVec 5) (ctx : BitVec 3) (addr : Nat) : BitVec 320 :=
  let tb := match s.descBits p ctx 0 with
    | some b => (Desc.ofBits b).tileBytes
    | none => 16384
  detT 0 0 (addr / tb) (addr % tb)

/-- Raises a fault. -/
def flt {α : Type} (kind : Nat) (sub : Nat := 0) (det : BitVec 320 := 0) : Op α := throw (.fault ⟨kind, sub, det, false⟩)

/-- Holds the instruction. -/
def holdOp {α : Type} : Op α := throw (.hold 0)

/-- Holds unless a condition is met. -/
def holdUnless (b : Bool) : Op Unit := if b then pure () else holdOp

/-- CAPFAULT of an access under a MEM right whose generation is past (R92, R240). -/
def capFlt {α : Type} (entries : List Nat) (gen : W32) : Op α := flt kCapfault 0 (BitVec.ofNat 320 (entries.headD 0 + gen.toNat * 2 ^ 32))

/-- Raises a fault unless a condition is met. -/
def need (b : Bool) (kind : Nat) (sub : Nat := 0) (det : BitVec 320 := 0) : Op Unit := if b then pure () else flt kind sub det

/-- Puts an event behind those that stand next. -/
def State.push (s : State) (i : Instr) : State := { s with agenda := s.agenda ++ [i] }

/-! ### Messages to the host and fault records (R62, R236 to R239) -/

/-- Sends an MSI-X message, or sets the pending bit of a masked vector (R62, R81). -/
def State.sendMsix (s : State) (f v : Nat) : State :=
  if (SMap.get 0 (s.func f).msix (16 * v + 12)).getLsbD 0 then s.modFunc f fun g => { g with pba := g.pba ||| (1 <<< v) }
  else { s with hostLog := .msix f v :: s.hostLog }

/-- The function that serves a partition (R58). -/
def State.funcOf (s : State) (p : BitVec 5) : Nat := if p.toNat < s.cfgrec.nvf then p.toNat + 1 else 0

/-- Does the function have a queue vector of this number (R62)? -/
def vecOk (f v : Nat) : Bool := decide (v ≤ (if f = 0 then 63 else 61))

/-- Notes something in the I/O die error log (R27, R87). -/
def State.logErr (s : State) (kind info : Nat) : State := { s with errlog := ⟨kind, info⟩ :: s.errlog }

/-- A fault record with VALID set (R239). `core` none sets NOCORE. -/
def faultRec (sev : Nat) (f : FaultInfo) (ctx : BitVec 3) (core : Option (BitVec 7)) (strand time : Nat) (pc word : W32) :
    FaultRec :=
  f.det ++ word ++ pc ++ BitVec.ofNat 64 time ++ (0 : BitVec 8) ++ BitVec.ofNat 8 strand ++
    (match core with | some c => (0 : BitVec 1) ++ c | none => (0x80 : BitVec 8)) ++
    BitVec.ofNat 8 (ctx.toNat + if f.remote then 8 else 0) ++ BitVec.ofNat 16 f.kind ++ BitVec.ofNat 8 f.sub ++
    BitVec.ofNat 8 (sev + 0x80)

/-- The fault queue header as the device reads it (R236): WRITE, READ, LOGSLOTS, VECTOR, DROPPED; an error when it cannot
be read or its LOGSLOTS or VECTOR is out of range. -/
def State.faultHeader (s : State) (p : BitVec 5) : State × Except LinErr (Nat × Nat × Nat × Nat × Nat) :=
  match s.linRead p 0 (s.part p).pfaultq.toNat 24 with
  | (t, .error e) => (t, .error e)
  | (t, .ok bs) =>
    let logslots := leNat ((bs.drop 16).take 1) % 32
    let vec := leNat ((bs.drop 17).take 1) % 64
    (t, if 4 ≤ logslots ∧ logslots ≤ 16 ∧ vecOk (s.funcOf p) vec then
      .ok (leNat (bs.take 8), leNat ((bs.drop 8).take 8), logslots, vec, leNat ((bs.drop 20).take 4))
    else .error .bounds)

/-- Is a record FATAL (R239)? -/
def isFatal (r : FaultRec) : Bool := fld r 0 7 == 3

/-- A record waits for the header of its fault queue to come from another package, a FATAL one before all others (log 110). -/
def State.keepRecord (s : State) (p : BitVec 5) (r : FaultRec) : State :=
  s.modPart p fun t => { t with missWait := if isFatal r then r :: t.missWait else t.missWait ++ [r] }

/-- A device write into the fault queue or stop area, at SYSTEM scope; one that cannot be made is noted in the error log. -/
def State.devWrite (s : State) (p : BitVec 5) (addr : Nat) (bs : List Byte) : State :=
  match s.linWrite p 0 addr bs with
  | .ok t => t
  | .error _ => s.logErr 0 addr

/-- Writes an ordinary record (R237); on another package once its header has come from there. A TILE_MISS record that finds no slot waits (R219); any other is dropped. -/
def State.writeRecord (s : State) (p : BitVec 5) (r : FaultRec) : State :=
  let q := (s.part p).pfaultq.toNat
  match s.faultHeader p with
  | (s, .error (.away _ _)) => s.keepRecord p r
  | (s, .error _) => s.logErr (fld r 16 16) r.toNat
  | (s, .ok (w, rd, ls, vec, dropped)) =>
    if w - rd < 2 ^ ls then
      let s := s.devWrite p (q + 128 + 64 * (w % 2 ^ ls)) (bvBytes 64 r)
      let s := s.devWrite p q (leBytes 8 (w + 1))
      if w = rd ∧ vec ≠ 0 then s.sendMsix (s.funcOf p) vec else s
    else if fld r 16 16 = kMiss then s.modPart p fun t => { t with missWait := t.missWait ++ [r] }
    else s.devWrite p (q + 20) (leBytes 4 (min (dropped + 1) (2 ^ 32 - 1)))

/-- Has the copy of a swap-out begun (R233, R246)? -/
def Part.copying (p : Part) : Bool := match p.swap with
  | some w => decide (3 ≤ w.step)
  | none => false

/-- The halt line of a partition rises (R230); a cause that arrives while it is up joins the halt. A fault that joins the halt
of a pre-emption before its copy begins cancels the pre-emption (R233). -/
def State.raiseLine (s : State) (p : BitVec 5) (cause : Nat) : State :=
  match (s.part p).halt with
  | some h =>
    if cause = 4 then s.modPart p fun t => { t with halt := some { h with cause := 4 } }
    else if cause = 1 ∧ h.cause = 2 ∧ (s.part p).copying = false then
      let s := s.modPart p fun t => { t with halt := some { h with cause := 1 }, preempt := none, swap := none }
      (s.part p).cores.foldl (fun s c => s.modCore c fun r => { r with yld := { r.yld with deadline := none } }) s
    else s
  | none =>
    let cs := (s.part p).cores
    let s := s.modPart p fun t => { t with halt := some { cause := cause, time := s.time, left := cs } }
    { s with agenda := s.agenda ++ cs.map .haltArrive ++ [.haltComplete p] }

/-- Writes the reserved slot of a fault queue, where that is free (R238). -/
def State.fatalSlot (s : State) (p : BitVec 5) (r : FaultRec) : State :=
  let q := (s.part p).pfaultq.toNat
  match s.faultHeader p with
  | (s, .error (.away _ _)) => s.keepRecord p r
  | (s, .error _) => s.logErr (fld r 16 16) r.toNat
  | (s, .ok (_, _, _, _, dropped)) =>
    match s.linRead p 0 (q + 64) 1 with
    | (s, .error (.away _ _)) => s.keepRecord p r
    | (s, found) =>
      if leNat (match found with | .ok b => b | .error _ => []) / 128 % 2 = 0 then s.devWrite p (q + 64) (bvBytes 64 r)
      else s.devWrite p (q + 20) (leBytes 4 (min (dropped + 1) (2 ^ 32 - 1)))

/-- Writes a FATAL record (R238): the reserved slot, PSTATE.FATAL, the halt line and vector 0. -/
def State.fatalRecord (s : State) (p : BitVec 5) (r : FaultRec) : State :=
  let s := s.fatalSlot p r
  let s := s.modPart p fun t => { t with fatal := true }
  (s.raiseLine p 4).sendMsix (s.funcOf p) 0

/-- A record that concerns no strand, charged to a partition (R87, R471). -/
def State.note (s : State) (p : BitVec 5) (ctx : BitVec 3) (f : FaultInfo) : State :=
  s.writeRecord p (faultRec (sevOf f.kind) f ctx none 7 s.time 0 0)

/-- TAKING A FAULT on a strand of a core (R87, R230, R232, R239): the record names the strand, its pc and head word; the
strand keeps the first fault of a stop; a HALT kind raises the partition's halt line. The strand's pc does not move. -/
def State.takeFault (s : State) (c : BitVec 7) (k : Strand) (pc : W32) (word : W32) (f : FaultInfo) : State :=
  match (s.core c).crew with
  | none => s
  | some w =>
    let s := s.writeRecord w.part (faultRec (sevOf f.kind) f w.ctx (some c) (strandFin k).val s.time pc word)
    let st := (s.core c).str k
    let s := s.modCore c fun r => r.setStr k { st with fault := some (st.fault.getD (f.kind, f.sub)) }
    if sevOf f.kind = 2 then s.raiseLine w.part 1 else s

/-! ### Retiring: loops, counters, snapshots, trace records, tokens -/

/-- The top two region-stack entries as one word (R291). -/
def StrandSt.regionWord (t : StrandSt) : W32 := t.region.getD 1 0 ++ t.region.getD 0 0

/-- Event kinds of trace records (R462). -/
def trEnter : Nat := 1
def trLeave : Nat := 2
def trLoop : Nat := 3
def trHalt : Nat := 4
def trResume : Nat := 5

/-- Does a trace stream of a core's crew follow events of a crew of `part` and `ctx`? It does while ENABLE is set, the
target names that context, and the context's GEN is still the one the stream began with (R462). -/
def State.traces (s : State) (holder : BitVec 7) (part : BitVec 5) (ctx : BitVec 3) : Bool :=
  match (s.core holder).crew with
  | none => false
  | some h =>
    let t := (s.core holder).trace
    let tgt := t.target
    let cap := SMap.get 0 ((s.part h.part).ctx h.ctx).caps (fld tgt 0 4)
    let subj : BitVec 5 × BitVec 3 := if tgt.getLsbD 7 then (h.part, h.ctx) else (cap.extractLsb' 8 5, cap.extractLsb' 0 3)
    tgt.getLsbD 63 && subj == (part, ctx) && (s.part part).runctx == ctx && ((s.part part).ctx ctx).gen == t.gen

/-- Writes one trace record for each stream that follows the crew (R462). A write that fails stops that stream and
raises the fault on the holder's S strand. -/
def State.traceEvent (s : State) (c : BitVec 7) (k : Strand) (kind : Nat) (pc : W32) : State :=
  match (s.core c).crew with
  | none => s
  | some w =>
    (List.range 128).foldl (fun s h =>
      let h := BitVec.ofNat 7 h
      if s.traces h w.part w.ctx then
        let t := (s.core h).trace
        match (s.core h).crew with
        | none => s
        | some hc =>
          let n := t.count.toNat % 2 ^ (fld t.buf 48 5)
          let rw := ((s.core c).str k).regionWord
          let bs := leBytes 8 s.time ++ [BitVec.ofNat 8 c.toNat, BitVec.ofNat 8 ((strandFin k).val + 16 * kind), 0, 0] ++
            bvBytes 4 pc ++ bvBytes 4 rw ++ List.replicate 12 0
          let addr := fld t.buf 0 48 + 32 * n
          match s.linWrite hc.part hc.ctx addr bs with
          | .ok s' => s'.modCore h fun r => { r with trace := { t with count := t.count + 1 } }
          | .error e =>
            let s := s.modCore h fun r => { r with trace := { t with target := t.target &&& 0x7FFFFFFFFFFFFFFF } }
            s.takeFault h .s ((s.core h).str .s).pc 0 (match e with
              | .poison => ⟨kPoison, 0, s.linDet hc.part hc.ctx addr, false⟩ | .writeprot => ⟨kWriteprot, 0, s.linDet hc.part hc.ctx addr, false⟩
              | .stale c => ⟨kStale, c, s.linDet hc.part hc.ctx addr, false⟩ | _ => ⟨kTensor, 3, s.linDet hc.part hc.ctx addr, false⟩)
      else s) s

/-- A hardware loop exit (R95): starts the copy of the matrix into the snapshot buffer, which takes 64 fabric cycles, and writes
trace records. An exit during a copy is folded into it. -/
def State.loopExit (s : State) (c : BitVec 7) (k : Strand) (pc : W32) : State :=
  let s := s.traceEvent c k trLoop pc
  let r := s.core c
  if r.ev.busy then s
  else
    let seq := leNat (SMap.read 0 r.ev.snap 0 8) + 1
    let st := r.str k
    let img := leBytes 8 seq ++ bvBytes 2 (st.region.getD 0 0) ++ bvBytes 2 (st.region.getD 1 0) ++ List.replicate 52 0 ++
      (List.range 256).flatMap fun i => bvBytes 4 (SMap.get 0 r.ev.matrix i)
    s.modCore c fun r => { r with ev := { r.ev with snap := SMap.write 0 r.ev.snap 0 img, busy := true, doneAt := s.time + 32 } }

/-- The end-of-body test after the word at `last` has issued (R354, R392, R400, R419): the innermost loop whose body ends
there goes round again, or ends and the test passes to the next loop out. Answers the next pc, the stack and the number
of loops that ended. -/
def loopEnd (last next : W32) : List LoopEnt → W32 × List LoopEnt × Nat
  | [] => (next, [], 0)
  | e :: r =>
    if e.stop = last then
      if e.remain = 0 then
        let (pc, st, n) := loopEnd last next r
        (pc, st, n + 1)
      else (e.start, { e with remain := e.remain - 1 } :: r, 0)
    else (next, e :: r, 0)

/-- A taken transfer on S ends each loop whose body does not hold the target, from the innermost out (R354). -/
def loopJump (target : W32) : List LoopEnt → List LoopEnt × Nat
  | [] => ([], 0)
  | e :: r =>
    if e.start.toNat ≤ target.toNat ∧ target.toNat ≤ e.stop.toNat then (e :: r, 0)
    else
      let (st, n) := loopJump target r
      (st, n + 1)

/-- Applies a step `n` times. -/
def iter {α : Type} (n : Nat) (f : α → α) (a : α) : α := (List.range n).foldl (fun a _ => f a) a

/-- The pc moves on past an instruction of `len` words, through the end-of-body test. -/
def State.advance (s : State) (c : BitVec 7) (k : Strand) (pc : W32) (len : Nat) : State :=
  let st := (s.core c).str k
  let (pc', loops, n) := loopEnd (pc + BitVec.ofNat 32 len - 1) (pc + BitVec.ofNat 32 len) st.loops
  let s := s.modCore c fun r => r.setStr k { (r.str k) with pc := pc', loops := loops }
  iter n (fun s => s.loopExit c k pc) s

/-- The pc of the next instruction to issue after one of `len` words, without moving (R235). -/
def StrandSt.nextPc (st : StrandSt) (pc : W32) (len : Nat) : W32 :=
  (loopEnd (pc + BitVec.ofNat 32 len - 1) (pc + BitVec.ofNat 32 len) st.loops).1

/-- Transfer of S to a target (R353, R354). -/
def State.jump (s : State) (c : BitVec 7) (pc target : W32) : State :=
  let st := (s.core c).str .s
  let (loops, n) := loopJump target st.loops
  let s := s.modCore c fun r => r.setStr .s { (r.str .s) with pc := target, loops := loops }
  iter n (fun s => s.loopExit c .s pc) s

/-- The token counter that a strand uses towards the strand its field value names (R286). -/
def tokIdx (from_ : Strand) (field : Nat) : Nat := 3 * (strandFin from_).val + field - 1

/-- The strand that a field value 1 to 3 names (R286). -/
def tokPeer (self : Strand) (field : Nat) : Strand :=
  match self, field with
  | .s, 1 => .v | .s, 2 => .m | .s, _ => .x
  | .v, 1 => .s | .v, 2 => .m | .v, _ => .x
  | .m, 1 => .s | .m, 2 => .v | .m, _ => .x
  | .x, 1 => .s | .x, 2 => .v | .x, _ => .m

/-- The counter from the strand that a wait field names to the waiting strand (R286, R287). -/
def waitIdx (self : Strand) (field : Nat) : Nat :=
  let y := tokPeer self field
  tokIdx y (((List.range 3).map (· + 1)).find? (fun f => tokPeer y f == self) |>.getD 1)

/-- A token counter. -/
def Core.tokAt (c : Core) (i : Nat) : Nat := (c.tok.toList.getD i 0).toNat

/-- Sets a token counter. -/
def Core.setTok (c : Core) (i n : Nat) : Core :=
  if h : i < 12 then { c with tok := c.tok.set i (BitVec.ofNat 6 n) h } else c

/-- A strand's first scoreboard entry is free (R293). On M the command that waits in the second entry moves up (R294). -/
def Core.freeEntry (r : Core) (k : Strand) : Core :=
  if k = .m then { r.setStr .m { (r.str .m) with held := r.ms.second } with ms := { r.ms with second := none } }
  else r.setStr k { (r.str k) with held := none }

/-- An instruction of a strand has finished (R194, R287, R293): it posts its token and frees its entry, or keeps the
entry while the counter is full. -/
def State.finishPost (s : State) (c : BitVec 7) (k : Strand) (h : Held) : State :=
  s.modCore c fun r =>
    match h.post with
    | none => r.freeEntry k
    | some (i, n) =>
      if r.tokAt i + n ≤ 63 then (r.setTok i (r.tokAt i + n)).freeEntry k
      else r.setStr k { (r.str k) with held := some { h with progress := .all } }

/-- One instruction of a strand retired (R93, sources 0 to 3). -/
def State.countRetired (s : State) (c : BitVec 7) (k : Strand) : State := s.modCore c fun r => r.count (strandFin k).val 1

/-! ### The running core and its registers -/

/-- The core whose strand acts. -/
def curCore : Op Core := do return (← get).core (← get).cur

/-- Changes the core whose strand acts. -/
def modCur (f : Core → Core) : Op Unit := modify fun s => s.modCore s.cur f

/-- The crew that acts. A core without one issues nothing. -/
def curCrew : Op Crew := do
  match (← curCore).crew with
  | some w => return w
  | none => holdOp

/-- x register n; x0 reads as zero (R279). -/
def Core.xr (c : Core) (n : BitVec 6) : Word := if n = 0 then 0 else c.x[n.toFin]

/-- Writes x register n; a write to x0 is discarded (R279). A pending value for the register is dropped with it. -/
def Core.setX (c : Core) (n : BitVec 6) (v : Word) : Core :=
  if n = 0 then c else { c with x := c.x.set n.toFin v, pend := c.pend.filter (·.1 != n) }

/-- Reads an x register in an operation. -/
def xr (n : BitVec 6) : Op Word := do return (← curCore).xr n

/-- Writes an x register in an operation. -/
def setX (n : BitVec 6) (v : Word) : Op Unit := modCur fun c => c.setX n v

/-- The entry of a strand's decode table for an opcode: the core's copy (R288, R290). -/
def Core.entryAt (c : Core) (k : Strand) (op : Nat) : BitVec 16 :=
  match (c.dtabs[strandFin k]).changed.find? (·.1 == op) with
  | some (_, e) => e
  | none => defaultEntry k op

/-- ILLOP for the instruction at hand, with its decode table entry in DETAIL (R240, R337). -/
def State.illop (s : State) (k : Strand) : FaultInfo :=
  ⟨kIllop, 0, ((s.core s.cur).entryAt k ((s.ir.headD 0).extractLsb' 22 10).toNat).setWidth 320, false⟩

/-- Raises ILLOP. -/
def illop {α : Type} (k : Strand) : Op α := do throw (.fault ((← get).illop k))

/-- Raises ILLOP unless a condition is met. -/
def legal (b : Bool) (k : Strand) : Op Unit := if b then pure () else illop k

/-- p register n as the instruction read it at issue (R280): from its entry when it has been held. -/
def pr (k : Strand) (n : Nat) : Op Word := do
  let c ← curCore
  match (c.str k).held with
  | some h => return h.ps.getD n 0
  | none => return c.p.toList.getD n 0

/-! ### Translation -/

/-- One access: the slot and tensor it names, its descriptor, tile and byte offset within the tile. -/
structure Acc where
  slot   : Nat
  tensor : Nat
  d      : Desc
  tile   : Nat
  off    : Nat
  deriving DecidableEq, Repr

/-- The key of an access and the place that it was translated to (R226). -/
def Acc.key (a : Acc) (ctx : BitVec 3) (pa : Nat) (dest : Option Nat := none) : FarKey := ⟨ctx, BitVec.ofNat 12 a.tensor, a.tile, a.off, pa, dest, a.slot⟩

/-- DETAIL of a record about a request (R240). -/
def FarReq.detail (w : FarReq) : BitVec 320 := match w.key with
  | some k => detT k.tensor.toNat k.slot k.tile k.off
  | none => w.det

/-- DETAIL of an access. -/
def Acc.det (a : Acc) : BitVec 320 := detT a.tensor a.slot a.tile a.off

/-- The descriptor of a tensor that a crew uses (R141): its copy from the first use on, which it makes whole; none above NDESC. -/
def State.crewBits (s : State) (w : Crew) (tensor : Nat) : Option (BitVec 512) :=
  match w.descs.find? (·.1 == tensor) with
  | some (_, b) => some b
  | none => s.descBits w.part w.ctx tensor

/-- The descriptor of a tensor that an access of a core goes by: its crew's copy where that crew runs in the context (R141). -/
def State.bitsFor (s : State) (core : BitVec 7) (p : BitVec 5) (ctx : BitVec 3) (tensor : Nat) : Option (BitVec 512) :=
  match (s.core core).crew with
  | some w => if w.part = p ∧ w.ctx = ctx then s.crewBits w tensor else s.descBits p ctx tensor
  | none => s.descBits p ctx tensor

/-- A crew keeps the copy of a descriptor that it makes at the first use (R141). -/
def Crew.keepDesc (w : Crew) (tensor : Nat) (b : BitVec 512) : Crew :=
  if w.descs.any (·.1 == tensor) then w else { w with descs := (tensor, b) :: w.descs }

/-- A crew's first read of a descriptor meets the errors that stand there (R18). -/
def descMet (w : Crew) (tensor slot : Nat) : Op Unit := do
  modify fun s => s.meet (((s.part w.part).ctx w.ctx).ttable.toNat + 64 * tensor) 64
  need (!(← get).badDesc w.part w.ctx tensor) kPoison 0 (detT tensor slot 0 0)

/-- The descriptor of a tensor for the running crew, which keeps its copy (R141). -/
def crewDesc (tensor : Nat) (slot : Nat := 0) : Op (Option (BitVec 512)) := do
  let w ← curCrew
  match (← get).crewBits w tensor with
  | none => return none
  | some b =>
    if !w.descs.any (·.1 == tensor) then descMet w tensor slot
    modCur fun c => { c with crew := c.crew.map (·.keepDesc tensor b) }
    return some b

/-- The tensor and descriptor that a slot names (R141, R143). Reserved bits of the slot's entry bind it to nothing (R4). -/
def slotDesc (slot : BitVec 5) : Op (Nat × Desc) := do
  let w ← curCrew
  let e := w.slots.getD slot.toNat 0
  let t := fld e 0 12
  if !e.getLsbD 15 || fld e 12 3 != 0 then flt kTensor 1 (detT 0 slot.toNat 0 0)
  else
    match ← crewDesc t slot.toNat with
    | none => flt kTensor 1 (detT t slot.toNat 0 0)
    | some b =>
      let d := Desc.ofBits b
      if d.kind == 0 || !d.wf || !descPlain b then flt kTensor 2 (detT t slot.toNat 0 0) else return (t, d)

/-- A linear operand (R145): the tensor must be linear, the coordinate a multiple of `align` and in range for `n` bytes. -/
def linAcc (slot : BitVec 5) (c n align : Nat) : Op Acc := do
  let (t, d) ← slotDesc slot
  need d.linear kTensor 4 (detT t slot.toNat 0 0)
  need (decide (c % align = 0)) kTensor 4 (detT t slot.toNat (c / d.tileBytes) (c % d.tileBytes))
  need (decide (c + n ≤ d.ext.getD 0 0)) kTensor 3 (detT t slot.toNat (c / d.tileBytes) (c % d.tileBytes))
  return ⟨slot.toNat, t, d, c / d.tileBytes, c % d.tileBytes⟩

/-- An access at a byte further on in a linear tensor. -/
def Acc.plus (a : Acc) (n : Nat) : Acc :=
  let c := a.tile * a.d.tileBytes + a.off + n
  { a with tile := c / a.d.tileBytes, off := c % a.d.tileBytes }

/-- Writes the TILE_MISS record of a key unless one is outstanding (R219). `port` 0 to 3 a strand, 4 the network
interface; `akind` 0 load, 1 store, 2 atomic (log 12). -/
def State.recordMiss (s : State) (p : BitVec 5) (ctx : BitVec 3) (c : Option (BitVec 7)) (strand : Nat) (pc word : W32)
    (port akind tensor slot tile off : Nat) : State :=
  let key : MissKey := ⟨ctx, BitVec.ofNat 12 tensor, tile⟩
  if (s.part p).misses.contains key then s
  else
    let s := s.modPart p fun t => { t with misses := key :: t.misses }
    s.writeRecord p (faultRec 1 ⟨kMiss, 0, detT tensor slot tile off port akind, false⟩ ctx c strand s.time pc word)

/-- A translation cache holds 256 entries (R216); a full one drops an entry of the implementation's choice (log 9). -/
def tcPut (tc : List TcEnt) (n : Nat) (e : TcEnt) : List TcEnt :=
  if tc.length < 256 then e :: tc else e :: tc.eraseIdx (Config.cacheVictim n).val

/-- Fills a port's translation cache (R217). -/
def Core.putTc (c : Core) (port : Fin 5) (n : Nat) (e : TcEnt) : Core :=
  { c with tcs := c.tcs.set port (tcPut c.tcs[port] n e) }

/-- Removes a key, or every tile of a tensor, from a core's translation caches. -/
def Core.dropTc (c : Core) (ctx : BitVec 3) (tensor : BitVec 12) (tile : Option Nat) : Core :=
  let keep := fun (e : TcEnt) => !(e.ctx == ctx && e.tensor == tensor && (tile.isNone || tile == some e.tile))
  { c with tcs := c.tcs.map fun l => l.filter keep }

/-- Translates a tile at a strand's port (R216, R217, R219): the entry with PRESENT 1, or none after the miss has been
recorded. A key whose miss is outstanding is not mapped until a side-log replay names it (R222). A walk meets the errors that stand in the table (R18). -/
def translate (k : Strand) (a : Acc) (akind : Nat) : Op (Option (BitVec 64)) := do
  let w ← curCrew
  let s ← get
  let c := s.core s.cur
  let t := BitVec.ofNat 12 a.tensor
  match (c.tcs[(strandFin k).castSucc]).find? (fun e => e.ctx == w.ctx && e.tensor == t && e.tile == a.tile) with
  | some e => return some e.entry
  | none =>
    modCur fun c => c.count 30 1
    modify fun s => s.meet (a.d.ttptr + 8 * a.tile) 8
    need (!(← get).badEntry a.d a.tile) kPoison 0 a.det
    let e := s.tileEntry a.d a.tile
    if e.getLsbD 0 && !(s.part w.part).misses.contains ⟨w.ctx, t, a.tile⟩ then
      modCur fun c => c.putTc (strandFin k).castSucc s.freeN ⟨w.ctx, t, a.tile, e⟩
      modify fun s => { s with freeN := s.freeN + 1 }
      return some e
    else
      modify fun s => s.recordMiss w.part w.ctx (some s.cur) (strandFin k).val (c.str k).pc (s.ir.headD 0)
        (strandFin k).val akind a.tensor a.slot a.tile a.off
      return none

/-- Removes a key, or every tile of a tensor, from all translation caches of a partition's cores (R218, R222, R457). -/
def State.dropKey (s : State) (p : BitVec 5) (ctx : BitVec 3) (tensor : BitVec 12) (tile : Option Nat) : State :=
  (s.part p).cores.foldl (fun s c => s.modCore c fun r => r.dropTc ctx tensor tile) s

/-! ### Other packages (R45, R52 to R54, R423) -/

/-- The header bits that name the target of an access on its package (R26): the core of a scratchpad, else a non-core unit. The numbers of the units
are the model's (log 105): 0 to 3 the shared memory of a die, 4 to 11 an HBM stack. -/
def targetBits (pa : Nat) : Nat :=
  if scrBase ≤ pa then scrCore pa % 128 * 2 ^ 16
  else 2 ^ 15 + (if shmBase ≤ pa then (pa - shmBase) / 2 ^ 27 % 4 else 4 + pa / 2 ^ 36 % 8) * 2 ^ 23

/-- The target bits of what a packet carries: where its first access lands, else the I/O die, unit 12 (R26, log 105). -/
def pktTarget : PktBody → Nat
  | .read pa _ _ => targetBits pa
  | .atomic r _ => targetBits r.pa
  | .write bl _ => targetBits ((bl.map (·.1)).headD 0)
  | .update r => targetBits ((r.lanes.map (·.1)).headD 0)
  | .count pa _ _ => targetBits pa
  | .lockSet pa _ _ => targetBits pa
  | .swapIf pa _ _ _ _ => targetBits pa
  | .posted _ b => pktTarget b
  | .renewRow pa _ => targetBits pa
  | .frame pa _ _ _ _ _ _ _ => targetBits pa
  | _ => 2 ^ 15 + 12 * 2 ^ 23

/-- The 64-byte blocks of its package that a write touches. -/
def pktBlocks : PktBody → List Nat
  | .write bl _ => bl.map fun b => b.1 / 64
  | .update r => r.lanes.map fun l => l.1 / 64
  | .posted _ b => pktBlocks b
  | _ => []

/-- A packet to a package (R26). To one outside the domain SRCOUT is set and the payload carries this package's coordinates. -/
def State.pkt (s : State) (len cls : Nat) (fscope : Bool) (dst : Nat × Nat × Nat) (core : BitVec 7) (window : Nat)
    (body : PktBody) : Packet :=
  let out := (s.fabric.indexOf dst).isNone
  ⟨BitVec.ofNat 128 (len + cls * 2 ^ 6 + (if fscope then 2 ^ 8 else 0) + pktTarget body + dst.1 * 2 ^ 32 + dst.2.1 * 2 ^ 41 +
    dst.2.2 * 2 ^ 49 + (window % 2 ^ 32) * 2 ^ 64 + (if out then 2 ^ 113 else s.fabric.index * 2 ^ 96) + core.toNat * 2 ^ 105),
    if out then .outside s.fabric.pos.1 s.fabric.pos.2.1 s.fabric.pos.2.2 body else body⟩

/-- DETAIL of FABRIC_SCOPE (R240). -/
def detPkg (pkg : Nat) : BitVec 320 := BitVec.ofNat 320 pkg

/-- A package with one torus port changed. -/
def State.modPort (s : State) (i : Nat) (f : TorusPort → TorusPort) : State :=
  if h : i < 6 then { s with ports := s.ports.set i (f s.ports[i]) h } else s

/-- Queues a packet at the egress port of its first hop (R42): control flits apart from the rest (R43). A packet for this package goes
nowhere. -/
def State.sendPkt (s : State) (pos : Nat × Nat × Nat) (pk : Packet) : State :=
  match s.fabric.egress pos with
  | none => s
  | some port => s.modPort port fun t =>
      if pktField pk 6 2 = 3 then { t with ctl := t.ctl ++ [pk] } else { t with queue := t.queue ++ [pk] }

/-- The number of the command that a strand runs: what its requests to other packages are filed under. -/
def StrandSt.seqNow (t : StrandSt) : W32 := (t.held.bind (·.seq)).getD 0

/-- Is a posted write not yet known to be performed: not admitted, before its visibility time, or refused (R54, R215, R223)? -/
def FarReq.live (w : FarReq) (now : Nat) : Bool := !w.admitted || decide (now < w.off) || w.answer.isSome

/-- Has a core a posted write outstanding that touches a block of a package (R195, R197)? -/
def State.inFlight (s : State) (core : BitVec 7) (pos : Nat × Nat × Nat) (pa : Nat) : Bool :=
  s.posts.any fun w => w.core == core && w.live s.time && pktPos w.body == pos && (pktBlocks w.body.body).contains (pa / 64)

/-- Has a request no answer that ends it: none yet, or a refusal, after which it is sent again (R223)? -/
def FarReq.unanswered (w : FarReq) : Bool := match w.answer with
  | none | some (.refusal _ _) => true
  | _ => false

/-- Requests of a core that are outstanding (R2, R28): pieces of its X strand, requests without an answer, and posted writes. -/
def State.outstanding (s : State) (core : BitVec 7) : Nat :=
  (s.core core).xs.net.length + (s.waits.filter fun w => w.core == core && w.unanswered && !(s.core core).xs.net.any fun p => p.tag == w.tag).length +
    (s.posts.filter fun w => w.core == core && w.live s.time).length

/-- Holds while a core has no room for so many requests more (R28). -/
def farRoom (n : Nat) : Op Unit := do
  let s ← get
  holdUnless (decide (n = 0 ∨ s.outstanding s.cur + n ≤ 1024))

/-- What a fabric-scope write costs (R52). -/
def pktCost (pk : Packet) : Nat := 64 * (pktLen pk + 1)

/-- A packet with its admission window (R52, R54). -/
def pktWindow (pk : Packet) (n : Nat) : Packet := { pk with hdr := pk.hdr &&& ~~~(0xFFFFFFFF#128 <<< 64) ||| (BitVec.ofNat 128 (n % 2 ^ 32) <<< 64) }

/-- Admits a fabric-scope write of a core at an egress port in the present window: a posted one counts for the core's releases until
its visibility time (R52, R54, R215). -/
def State.admitAt (s : State) (port : Nat) (core : BitVec 7) (pk : Packet) : State :=
  let s := s.modPort port fun t => { t with used := t.used + pktCost pk, queue := t.queue ++ [pktWindow pk s.fabric.window] }
  let s := s.countFlits pk 40 core
  let v := (s.fabric.window + 2) * s.fabric.windowLen
  match pk.body with
  | .posted tag _ =>
    let s : State := { s with posts := s.posts.map fun w => if w.tag == tag then { w with off := v, admitted := true } else w }
    s.modCore core fun r => { r with posted := v :: r.posted }
  | _ => s

/-- Admits the waiting fabric-scope writes of a port in issue order while they fit the budget (R52); none while HOLDOVER is set (R48). -/
def State.admitWaiting (s : State) (port : Nat) : State :=
  match s.ports.toList[port]? with
  | none => s
  | some t => (t.waiting.foldl (fun (a : Bool × State) e =>
      let u := ((a.2.ports.toList.getD port {}).used)
      if a.1 && decide (u + pktCost e.2 ≤ a.2.fabric.budgetBytes) then
        (true, (a.2.admitAt port e.1 e.2).modPort port fun t => { t with waiting := t.waiting.drop 1 })
      else (false, a.2)) (!s.fabric.holdover, s)).2

/-- Brings the windows up to the present time (R50 to R54): a waiting change of the window register, the new window, its fresh
budget, and the writes that waited for it. -/
def State.rollWindow (s : State) : State :=
  let f := s.fabric.at_ s.time
  let n := s.time / f.windowLen
  if f.window = n ∧ f.pending = s.fabric.pending then s
  else
    let s := { s with fabric := { f with window := n }, ports := s.ports.map (fun (t : TorusPort) => { t with used := 0 }) }
    (List.range 6).foldl State.admitWaiting s

/-- Charges a fabric-scope packet of a core to its egress port (R52): admitted now, or waiting behind earlier ones. -/
def State.charge (s : State) (core : BitVec 7) (port : Nat) (pk : Packet) : State :=
  let t := s.ports.toList.getD port {}
  if t.waiting.isEmpty && !s.fabric.holdover && decide (t.used + pktCost pk ≤ s.fabric.budgetBytes) then s.admitAt port core pk
  else s.modPort port fun t => { t with waiting := t.waiting ++ [(core, pk)] }

/-- Sends a fabric-scope write of some flits (R52). A write that asks for no answer is posted; it is kept until its visibility time, in case it
is refused (R215, R223). -/
def State.fabricWrite (s : State) (core : BitVec 7) (pkg flits : Nat) (body : PktBody) (key : Option FarKey := none) : State :=
  let s := s.rollWindow
  let pos := s.fabric.posOf pkg
  match s.fabric.egress pos with
  | none => s
  | some port =>
    let post := match body with
      | .write _ 0 | .update _ => true
      | _ => false
    let tag := s.nextTag
    let pk := s.pkt flits 0 true pos core s.fabric.window (if post then .posted tag body else body)
    let s := if post then
        { s with nextTag := tag + 1, posts := { tag := tag, core := core, strand := .s, body := pk, admitted := false, key := key } :: s.posts }
      else s
    s.charge core port pk

/-- Is it an access that is carried at fabric scope (R52, R204)? -/
def pktFscope : PktBody → Bool
  | .atomic _ _ => true
  | .count _ _ _ => true
  | .lockSet _ _ _ => true
  | .swapIf _ _ _ _ _ => true
  | _ => false

/-- A request that has been made: its answer, or what it waits for. -/
def farAwait (w : FarReq) (det : BitVec 320) : Op PktBody :=
  match w.answer with
  | none => holdOp
  | some (.refusal _ _) => throw (.hold w.notBefore)
  | some (.badTarget _ kind sub) => throw (.fault ⟨kind, sub, det, true⟩)
  | some b => return b

/-- A request to the package at some coordinates that waits for its answer, known by a number `key`: the first call sends it
and holds; once PACKET_RECEIVE has brought the answer, a later call returns it. The answers of one instruction are kept until
it ends. An atomic goes at fabric scope (R204). A refused request is sent again by RETRY_RESEND (R223); `fk` is the key that it was translated from. -/
def farSend (k : Strand) (pos : Nat × Nat × Nat) (key len cls : Nat) (body : Nat → PktBody) (det : BitVec 320 := 0) (fk : Option FarKey := none) :
    Op PktBody := do
  let s ← get
  let seq := ((s.core s.cur).str k).seqNow
  match s.waits.find? (fun w => w.core == s.cur && w.strand == k && w.seq == seq && w.off == key && pktPos w.body == pos) with
  | none =>
    farRoom 1
    let b := body s.nextTag
    let pk := s.pkt len cls (pktFscope b) pos s.cur s.windowNow b
    let rq : FarReq := { tag := s.nextTag, core := s.cur, strand := k, seq := seq, off := key, body := pk, key := fk }
    modify fun s =>
      let t : State := { s with nextTag := s.nextTag + 1, waits := rq :: s.waits }
      match pktFscope b, s.fabric.indexOf pos with
      | true, some pkg => t.fabricWrite s.cur pkg len b
      | _, _ => t.fromCore s.cur.toNat pk
    holdOp
  | some w => farAwait w det

/-- The request that what a strand runs has made under a key, wherever it went. -/
def farAsked (k : Strand) (key : Nat) : Op (Option FarReq) := do
  let s ← get
  return s.waits.find? fun w => w.core == s.cur && w.strand == k && w.seq == ((s.core s.cur).str k).seqNow && w.off == key

/-- A request to a package of the load-store domain by its index. -/
def farCall (k : Strand) (pkg : Nat) (key len cls : Nat) (body : Nat → PktBody) (det : BitVec 320 := 0) (fk : Option FarKey := none) : Op PktBody := do
  let f := (← get).fabric
  need (decide (pkg < f.packages)) kFscope 0 (detPkg pkg)
  farSend k (f.posOf pkg) key len cls body det fk

/-- Forgets the requests of what a strand runs: it has ended. -/
def State.dropWaits (s : State) (c : BitVec 7) (k : Strand) : State :=
  if s.waits.isEmpty then s
  else { s with waits := s.waits.filter fun w => !(w.core == c && w.strand == k && w.seq == ((s.core c).str k).seqNow) }

/-! ### Accesses of the I/O die that wait (log 110) -/

/-- Starts the invalidation of a frame's copies (R229). -/
def State.startInvalidate (s : State) (pa : Nat) : State :=
  match s.dups.find? (·.1 == pa / 16384) with
  | some (_, p, t, tile) => s.push (.invalidate p t tile)
  | none => s

/-- What a read at its home answers. -/
def foundBody (tag : Nat) : Found → PktBody
  | .data bs => .data tag bs
  | .poison => .badTarget tag kPoison 0
  | .stale sub => .badTarget tag kStale sub

/-- The operation number of the host's accesses among those of the I/O die; of linear-space requests of other packages whose tile lies on a third; of a queue, of an update of a signal, of a partition's launches. -/
def opHost : Nat := 1
def opServe : Nat := 5
def opQueue (q : BitVec 10) : Nat := 4 * q.toNat + 2
def opJob (p : BitVec 5) (id : Nat) : Nat := 4 * (32 * id + p.toNat) + 3
def opPart (p : BitVec 5) : Nat := 4 * p.toNat + 4
/-- Of the fault queue and of the stop area of a partition, of the mailbox of a function. -/
def opFault (p : BitVec 5) : Nat := 4 * p.toNat + 9
def opStop (p : BitVec 5) : Nat := 4 * p.toNat + 137
def opMail (f : BitVec 6) : Nat := 4 * f.toNat + 265
/-- Of a `spawn` of a core; of a pipeline's router as it admits records (`use` 0) or lets them go (4), the closing of its rings (1), a crew's record
boundary (2) or its derailleur (3). -/
def opSpawn (c : BitVec 7) : Nat := 4 * c.toNat + 521
def opRing (p : BitVec 5) (acc use : Nat) : Nat := 4 * (8 * (32 * acc + p.toNat) + use) + 1033

/-- The command that a mailbox runs (R63). -/
def mailEvent (f : BitVec 6) (code : W32) : Instr :=
  match code.toNat with
  | 1 => .attest f
  | 2 => .queueCreate f
  | 3 => .queueDestroy f
  | 4 => .queueReset f
  | 5 => .mailboxResume f
  | 6 => .abandon f
  | _ => .unlistedMailboxCode f code

/-- A mailbox command that waited for other packages is called up again, once nothing it asked for is outstanding. -/
def State.kickMail (s : State) (op : Nat) : State :=
  match (List.range 33).find? fun f => op == opMail (BitVec.ofNat 6 f) with
  | some f =>
    if s.dev.any fun r => r.op == op && r.answer.isNone then s else s.push (mailEvent (BitVec.ofNat 6 f) (s.func f).mbox.code)
  | none => s

/-- The router meets a failing access (R471): a tile not present is recorded and awaited, one that is away is awaited; any other failure is a fault that halts
the partition. What operation `op` has been answered goes, so that the access is repeated. -/
def State.routerFail (s : State) (op : Nat) (p : BitVec 5) (ctx : BitVec 3) (tensor : BitVec 12) (byte akind : Nat) (e : LinErr) : State :=
  let d := Desc.ofBits ((s.descBits p ctx tensor.toNat).getD 0)
  let (tile, off) := d.ringPlace byte
  let det := detT tensor.toNat 0 tile off
  let raise := fun (kind sub : Nat) => ((s.devDone op).note p ctx ⟨kind, sub, det, false⟩).raiseLine p 1
  match e with
  | .absent => (s.devDone op).recordMiss p ctx none 7 0 0 4 akind tensor.toNat 0 tile off
  | .away _ _ => s
  | .bounds => raise kTensor 3
  | .poison => raise kPoison 0
  | .writeprot => raise kWriteprot 0
  | .stale c => raise kStale c

/-- The oldest host access that waits is called up again. -/
def State.kickHost (s : State) : State :=
  match s.hostQ with
  | (i, false) :: r => ({ s with hostQ := (i, true) :: r } : State).push i
  | _ => s

/-- Has an access of the I/O die no answer that ends it? -/
def DevReq.pending (r : DevReq) : Bool := match r.answer with
  | none | some (.refusal _ _) => true
  | _ => false

/-- May a waiting access go now: it has not been sent or was refused and its time has come, and no earlier one that still waits must come before it: an access
to the same block, or a write before a write? One whose frame holds writes back asks for the copies once. -/
def State.devReady (s : State) (r : DevReq) : Bool :=
  r.pending && (r.sent.isNone || r.answer.isSome) && decide (r.notBefore ≤ s.time) &&
    !(s.dev.any fun q => decide (q.tag < r.tag) && q.pending && q.part == r.part &&
      (decide (q.ring = r.ring ∧ q.addr / 64 = r.addr / 64) || (q.isWrite && r.isWrite))) &&
    match s.devAt r, r.act with
    | .ok _, .read _ => true
    | .ok pa, _ => !s.heldFrame pa || (!r.asked && !(s.frameState pa).2.isEmpty)
    | _, _ => true

/-- An access of the I/O die has its answer: a write that nothing waits for goes; a host access is called up again. -/
def State.devEnd (s : State) (r : DevReq) (b : PktBody) : State :=
  let l := if r.op = 0 then s.dev.filter fun q => q.tag != r.tag
    else s.dev.map fun (q : DevReq) => if q.tag = r.tag then { q with answer := some b } else q
  let s : State := { s with dev := l }
  if r.op = opHost then s.kickHost else s.kickMail r.op

/-- An access of the I/O die goes: performed at its home on this package, or sent to another, a write or an atomic at fabric scope (R52, R57). One that its
tile no longer admits is dropped: its operation looks again, and a write is noted in the error log; a write of the stage router is handled as R471 has it. -/
def State.devGo (s : State) (r : DevReq) : State :=
  let gone := fun (s : State) =>
    let s : State := { s with dev := s.dev.filter fun q => q.tag != r.tag }
    if r.op = opHost then s.kickHost else s.kickMail r.op
  match s.devAt r with
  | .ok pa =>
    match r.act with
    | .read n => let (t, f) := s.bankRead pa n
      t.devEnd r (foundBody r.tag f)
    | .write bs =>
      if s.heldFrame pa then
        ({ s with dev := s.dev.map (fun (q : DevReq) => if q.tag = r.tag then { q with asked := true } else q) } : State).startInvalidate pa
      else (s.bankWrite pa bs).devEnd r (.ack r.tag)
    | _ => gone s
  | .error (.away pkg pa) =>
    let pos := s.fabric.posOf pkg
    let send := fun (len : Nat) (b : PktBody) =>
      let pk := s.pkt len 0 (len != 0) pos 0 s.windowNow b
      let pk : Packet := { pk with hdr := pk.hdr ||| (1 <<< 112) }
      let s : State := { s with dev := s.dev.map (fun (q : DevReq) => if q.tag = r.tag then { q with sent := some pk, answer := none } else q) }
      if len = 0 then s.sendPkt pos pk
      else match s.fabric.egress pos with
        | some port => s.rollWindow.charge 0 port pk
        | none => s
    match r.act with
    | .read n => send 0 (.read pa n r.tag)
    | .write bs => send 1 (.write [(pa, bs)] r.tag)
    | .atomic op w cmp v => send 1 (.atomic ⟨op, pa, w, cmp, v⟩ r.tag)
    | .count n => send 1 (.count pa n r.tag)
  | .error e => match r.ring with
    | none => if r.isWrite then (gone s).logErr 0 r.addr else gone s
    | some t =>
      if r.isWrite then
        let later := fun (q : DevReq) => if q.tag = r.tag then { q with notBefore := s.time + 4096 } else q
        ({ s with dev := s.dev.map later } : State).routerFail 0 r.part r.ctx t r.addr 1 e
      else gone s

/-! ### Reads and writes -/

/-- Where an access that a core holds back would land now, with its package; none while its tile is not present. -/
def State.backPlace (s : State) (core : BitVec 7) (p : BitVec 5) (ctx : BitVec 3) (tensor : BitVec 12) (tile off : Nat) : Option (Option Nat × Nat) :=
  match s.bitsFor core p ctx tensor.toNat with
  | none => none
  | some b =>
    let d := Desc.ofBits b
    let e := s.tileEntry d tile
    if !e.getLsbD 0 then none
    else match s.locate p ctx e (d.tileBytes == 65536) off with
      | .here pa => some (none, pa)
      | .far pkg pa => some (some pkg, pa)
      | _ => none

/-- Where an access that a core holds back lies, counted as the bytes of a read at `place` are counted from 65,536: by its key through the read's own
tensor, by its frame through another (R195, R196). -/
def State.backAt (s : State) (w : Crew) (a : Acc) (place : Option Nat × Nat) (ctx : BitVec 3) (tensor : BitVec 12) (tile off : Nat) : Option Nat :=
  if ctx == w.ctx && tensor == BitVec.ofNat 12 a.tensor && tile == a.tile then some (65536 + off - a.off)
  else match s.backPlace s.cur w.part ctx tensor tile off with
    | some (pkg, pa) => if pkg = place.1 ∧ place.2 < pa + 65536 then some (65536 + pa - place.2) else none
    | none => none

/-- A read's bytes with what the reader's own core holds back for them: non-temporal stores and side log stores, oldest first (R195, R196, R229). -/
def State.forward (s : State) (w : Crew) (a : Acc) (place : Option Nat × Nat) (bs : List Byte) : List Byte :=
  let put := fun (bs : List Byte) (at_ : Option Nat) (new : List Byte) => match at_ with
    | some q => overlay 65536 bs q new
    | none => bs
  let bs := (s.core s.cur).wcb.foldl (fun bs e => put bs (s.backAt w a place e.ctx e.tensor e.tile e.offset) e.bytes) bs
  (s.core s.cur).slog.foldl (fun bs e => match e.op with
    | .store b => put bs (s.backAt w a place e.ctx e.tensor e.tile e.offset) b
    | _ => bs) bs

/-- The bytes that a logged operation changes, from its offset: where and how many; none for a store, which reads can see at once. -/
def SlogOp.spans : SlogOp → List (Nat × Nat)
  | .store _ => []
  | .update r => r.lanes.map fun l => (l.1, 4)
  | .atomic _ w _ _ => [(0, w)]

/-- Holds a logged atomic or update of the reader's core some of these `n` bytes? A read waits for it (R197, R202). -/
def State.unsettled (s : State) (w : Crew) (a : Acc) (place : Option Nat × Nat) (n : Nat) : Bool :=
  (s.core s.cur).slog.any fun e => e.op.spans.any fun x => match s.backAt w a place e.ctx e.tensor e.tile e.offset with
    | some q => decide (q + x.1 < 65536 + n ∧ 65536 < q + x.1 + x.2)
    | none => false

/-- The MEM rights that were in force when the instruction of a strand issued (R92). -/
def State.memNow (s : State) (k : Strand) : BitVec 16 := match ((s.core s.cur).str k).held with
  | some h => h.mem
  | none => 0

/-- Reads `n` bytes of one 64-byte block for a strand (R144 to R148, R164, R220): held while the tile is not present. -/
def opRead (k : Strand) (a : Acc) (n : Nat) : Op (List Byte) := do
  let w ← curCrew
  match ← translate k a 0 with
  | none => holdOp
  | some e =>
    if e.getLsbD 3 then flt kPoison 0 a.det
    else
      let s ← get
      match (s.locate w.part w.ctx e (a.d.tileBytes == 65536) a.off).under (s.memNow k) with
      | .bad => flt kTensor 5 a.det
      | .revoked i g _ => capFlt i g
      | .unmapped =>
        modify fun s => s.recordMiss w.part w.ctx (some s.cur) (strandFin k).val ((s.core s.cur).str k).pc (s.ir.headD 0)
          (strandFin k).val 0 a.tensor a.slot a.tile a.off
        holdOp
      | .far pkg pa =>
        holdUnless (!s.inFlight s.cur (s.fabric.posOf pkg) pa && !s.unsettled w a (some pkg, pa) n)
        match ← farCall k pkg pa 0 0 (fun tag => .read pa n tag) a.det (some (a.key w.ctx pa)) with
        | .data _ v => return s.forward w a (some pkg, pa) v
        | _ => holdOp
      | .here pa =>
        if s.unsettled w a (none, pa) n then holdOp
        else if (s.frameState pa).1 = 2 ∧ s.tileEntry a.d a.tile ≠ e then
          modify fun s => (s.dropKey w.part w.ctx (BitVec.ofNat 12 a.tensor) (some a.tile)).modCore s.cur (·.count 32 1)
          throw (.hold (s.time + 256))
        else
          let (s', f) := s.bankRead pa n
          let src := if pa < shmBase then 28 else if pa < scrBase then 26 else 24
          set (s'.modCore s.cur fun c => c.count src 1)
          match f with
          | .poison => flt kPoison 0 a.det
          | .stale sub => do modCur (fun c => c.count 57 1); flt kStale sub a.det
          | .data bs =>
            return s.forward w a (none, pa) bs

/-- Does an entry concern a key, or a tensor when no tile is named? -/
def SlogEnt.hits (e : SlogEnt) (ctx : BitVec 3) (tensor : BitVec 12) (tile : Option Nat) : Bool :=
  e.ctx == ctx && e.tensor == tensor && (tile.isNone || tile == some e.tile)

/-- Takes a side log entry (R221); with all 128 in use the strand is held. -/
def logOp (k : Strand) (a : Acc) (op : SlogOp) (scope : Scope) (ord : MemOrd) (defer : Bool) : Op Unit := do
  let w ← curCrew
  let c ← curCore
  holdUnless (decide (c.slog.length < 128))
  let id := (← get).nextTag
  modify fun s => { s with nextTag := s.nextTag + 1 }
  let e : SlogEnt := ⟨id, w.ctx, BitVec.ofNat 12 a.tensor, a.tile, a.off, op, k, (c.str k).pc, scope, ord, defer, a.slot, (← get).ir.headD 0, (← get).memNow k⟩
  modCur fun c => ({ c with slog := c.slog ++ [e] } : Core).count 31 1

/-- Checks that a store may be made at a place and says where it goes: a number, another package, or none for the side
log (R147, R221, R226, R229); behind what the log still holds of its tile, the log too (R197). -/
def storePlace (k : Strand) (a : Acc) (akind : Nat) : Op (Option (Nat ⊕ (Nat × Nat)) × Bool) := do
  let w ← curCrew
  let t := BitVec.ofNat 12 a.tensor
  let logged := (← curCore).slog.filter fun e => e.hits w.ctx t (some a.tile)
  match ← translate k a akind with
  | none => return (none, false)
  | some e =>
    if logged.any fun e => !e.defer then return (none, false)
    else if e.getLsbD 3 then flt kPoison 0 a.det
    else if !e.getLsbD 1 || e.getLsbD 2 then flt kWriteprot 0 a.det
    else
      let s ← get
      match (s.locate w.part w.ctx e (a.d.tileBytes == 65536) a.off).under (s.memNow k) with
      | .bad => flt kTensor 5 a.det
      | .revoked i g _ => capFlt i g
      | .unmapped =>
        modify fun s => s.recordMiss w.part w.ctx (some s.cur) (strandFin k).val ((s.core s.cur).str k).pc (s.ir.headD 0)
          (strandFin k).val akind a.tensor a.slot a.tile a.off
        return (none, false)
      | .far pkg pa =>
        need (decide (pkg < s.fabric.packages)) kFscope 0 (detPkg pkg)
        if !logged.isEmpty then return (none, true)
        else
          holdUnless (!s.inFlight s.cur (s.fabric.posOf pkg) pa)
          return (some (.inr (pkg, pa)), false)
      | .here pa =>
        match s.frameState pa with
        | (1, _) => return (none, !logged.isEmpty)
        | (2, _) =>
          if s.tileEntry a.d a.tile = e then return (some (.inl pa), false)
          else
            modify fun s => (s.dropKey w.part w.ctx (BitVec.ofNat 12 a.tensor) (some a.tile)).modCore s.cur (·.count 32 1)
            throw (.hold (s.time + 256))
        | (_, []) => return (if logged.isEmpty then (some (.inl pa), false) else (none, true))
        | (_, _ :: _) =>
          modify fun s => s.push (.invalidate w.part (BitVec.ofNat 12 a.tensor) a.tile)
          return (none, true)

/-- Puts a non-temporal store into the write-combining buffer (R212). -/
def keepNt (k : Strand) (ctx : BitVec 3) (a : Acc) (bs : List Byte) : Op Unit := do
  let pc := ((← curCore).str k).pc
  let s ← get
  let e : NtStore := ⟨ctx, BitVec.ofNat 12 a.tensor, a.tile, a.off, bs, k, a.slot, pc, s.ir.headD 0, s.memNow k⟩
  modCur fun c => { c with wcb := c.wcb ++ [e] }
  modify fun s => s.push (.ntStorePerform s.cur)

/-- Writes bytes of one 64-byte block for S or V: performed at the home, posted to another package, logged, or kept in
the write-combining buffer when non-temporal (R212, R215, R221). -/
def opWrite (k : Strand) (a : Acc) (bs : List Byte) (scope : Scope) (nt : Bool) (ord : MemOrd := .rlx) : Op Unit := do
  let w ← curCrew
  if nt then
    let (_, _) ← storePlace k a 1
    keepNt k w.ctx a bs
  else
    match ← storePlace k a 1 with
    | (none, defer) => logOp k a (.store bs) scope ord defer
    | (some (.inl pa), _) =>
      modify fun s => (s.bankWrite pa bs).modCore s.cur fun c =>
        c.count (if pa < shmBase then 29 else if pa < scrBase then 27 else 25) 1
    | (some (.inr (pkg, pa)), _) => do
      farRoom 1
      modify fun s => s.fabricWrite s.cur pkg 1 (.write [(pa, bs)] 0) (some (a.key w.ctx pa))

/-- Has a core a write on its way to another package that is not known to be performed (R215)? -/
def State.posting (s : State) (c : BitVec 7) : Bool :=
  (s.posts.any fun w => w.core == c && w.live s.time) || s.ports.toList.any fun p => p.waiting.any fun e => e.1 == c && !e.2.hdr.getLsbD 112

/-- Where a non-temporal store lands whose crew has left: its tile must be present and writable (R147, R212). -/
def State.ntPlace (s : State) (p : BitVec 5) (e : NtStore) : Except LinErr (Nat ⊕ (Nat × Nat)) :=
  match s.descBits p e.ctx e.tensor.toNat with
  | none => .error .bounds
  | some b =>
    let d := Desc.ofBits b
    let t := s.tileEntry d e.tile
    if s.badEntry d e.tile then .error .poison
    else if !t.getLsbD 0 then .error .absent
    else if t.getLsbD 3 then .error .poison
    else if !t.getLsbD 1 || t.getLsbD 2 then .error .writeprot
    else match (s.locate p e.ctx t (d.tileBytes == 65536) e.offset).under e.mem with
      | .here pa => .ok (.inl pa)
      | .far pkg pa => .ok (.inr (pkg, pa))
      | .unmapped => .error .absent
      | _ => .error (.stale 0)

/-- Can the oldest non-temporal store that a crew left behind go now (R28, R212)? -/
def State.ntReady (s : State) (core : BitVec 7) : Bool :=
  match (s.core core).wcb, (s.core core).crew, s.ownerOf core with
  | e :: _, none, some p => match s.ntPlace p e with
    | .ok (.inl pa) => !s.heldFrame pa
    | .ok (.inr _) => decide (s.outstanding core < 1024)
    | _ => false
  | _, _, _ => false

/-- Has a core a non-temporal store that can go on: performed, or into the side log (R212)? -/
def State.ntGoes (s : State) (core : BitVec 7) : Bool :=
  if (s.core core).crew.isSome then !(s.core core).wcb.isEmpty && decide ((s.core core).slog.length < 128) else s.ntReady core

/-- The side log entries of a core whose home is not another package: those that a release narrower than FABRIC covers (R191, R215). -/
def State.loggedHere (s : State) (core : BitVec 7) : List SlogEnt :=
  match (s.core core).crew with
  | none => []
  | some w => (s.core core).slog.filter fun e => match s.backPlace core w.part e.ctx e.tensor e.tile e.offset with
    | some (some _, _) => false
    | _ => true

/-- The releases of R191, R200, R203, R212 and R215: holds until every earlier write that the scope covers has been
performed. -/
def opRelease (scope : Scope) : Op Unit := do
  let s ← get
  let c := s.core s.cur
  match scope with
  | .core => pure ()
  | .gang | .die | .pkg => holdUnless (s.loggedHere s.cur).isEmpty
  | .fab | .sys =>
    if scope == .sys && !c.wcb.isEmpty then
      modify fun s => s.push (.ntStorePerform s.cur)
      holdOp
    else
      holdUnless c.slog.isEmpty
      if c.posted.any fun v => decide (s.time < v) then
        modify fun s => s.push (.fabricReleaseComplete s.cur)
        holdOp
      else holdUnless (!s.posting s.cur)

/-- The release that a pending REL fence asks of the next store or release-capable atomic (R200). -/
def opFencedRelease (k : Strand) : Op Unit := do
  let c ← curCore
  match (c.str k).relNext with
  | none => pure ()
  | some sc =>
    opRelease sc
    modCur fun c => c.setStr k { (c.str k) with relNext := none }

/-! ### The frame in which an instruction runs -/

/-- What an instruction does when it completes: goes on to the next word, to a target, or past a number of words. -/
inductive Next where
  | seq
  | to (pc : W32)
  | skip (words : Nat)
  deriving DecidableEq, Repr

/-- An instruction that has issued and does not finish now becomes, or stays, the strand's scoreboard entry (R241). -/
def State.keepHeld (s : State) (c : BitVec 7) (k : Strand) (h : Held) : State :=
  s.modCore c fun r => r.setStr k { (r.str k) with held := some h }

/-- Is the next command of a strand issued already, behind the one in progress (R294)? The pc has then moved past the first. -/
def Core.behind (c : Core) (k : Strand) : Bool := k == .m && c.ms.second.isSome

/-- The pc moves past an instruction of `len` words, unless it has. -/
def State.pass (s : State) (c : BitVec 7) (k : Strand) (pc : W32) (len : Nat) : State :=
  if (s.core c).behind k then s else s.advance c k pc len

/-- The instruction of a strand completes: the pc moves, the token is posted, the entry is freed. -/
def State.complete (s : State) (c : BitVec 7) (k : Strand) (h : Held) (len : Nat) (nx : Next) : State :=
  let s := if (s.core c).behind k then s else
    let s := match nx with
      | .seq => s.advance c k h.pc len
      | .to pc => s.modCore c fun r => r.setStr k { (r.str k) with pc := pc }
      | .skip n => s.advance c k h.pc n
    match h.next with
    | some pc => s.modCore c fun r => r.setStr k { (r.str k) with pc := pc }
    | none => s
  ((s.dropWaits c k).finishPost c k h).countRetired c k

/-- The strand's scoreboard entry, or an empty one. -/
def Core.heldOf (c : Core) (k : Strand) : Held := ((c.str k).held).getD {}

/-- Runs the body of the instruction that the strand holds: it completes, stays held, or faults with an entry of
PROGRESS FAULT (R241). Each turn in which it stays held counts as a stall (R93; log 46). -/
def runBody (k : Strand) (len : Nat) (body : Op Next) (s : State) : State :=
  let c := s.cur
  match body.run s with
  | (.ok nx, s') => s'.complete c k ((s'.core c).heldOf k) len nx
  | (.error (.hold t), s') => (s'.keepHeld c k { (s'.core c).heldOf k with notBefore := t }).modCore c (·.count (4 + (strandFin k).val) 1)
  | (.error (.done f), s') =>
    let h := (s'.core c).heldOf k
    let s' := ((s'.pass c k h.pc len).keepHeld c k { h with progress := .all }).countRetired c k
    (s'.dropWaits c k).takeFault c k h.pc (h.words.headD 0) f
  | (.error (.fault f), s') =>
    let h := (s'.core c).heldOf k
    ((s'.keepHeld c k { h with progress := .fault }).dropWaits c k).takeFault c k h.pc (h.words.headD 0) f

/-- An instruction issues (R241, R280, R286): it takes the token it waits for and the strand's scoreboard entry, which keeps its
words, the p registers it reads and the counter it will post to. -/
def State.issueHeld (s : State) (k : Strand) (tk : Tok) : State :=
  let c := s.cur
  let wi := waitIdx k tk.wait.toNat
  let s := if tk.wait ≠ 0 then s.modCore c fun r => r.setTok wi (r.tokAt wi - 1) else s
  let h : Held := { pc := ((s.core c).str k).pc, words := s.ir
                    entry := (s.core c).entryAt k ((s.ir.headD 0).extractLsb' 22 10).toNat, ps := (s.core c).p.toList
                    post := if tk.post = 0 then none else some (tokIdx k tk.post.toNat, 1) }
  let h := { h with mem := match (s.core c).crew with | some w => s.memRights w.part w.ctx | none => 0 }
  s.keepHeld c k h

/-- The commands that hold up further issue on X: a full queue, or one whose post waits for its counter (R285, R287). -/
def XState.blocked (x : XState) : Bool := decide (64 ≤ x.queue.length) || x.queue.any fun m => m.progress == .all

/-- The first issue of an instruction that is no X command (R286, R287, R338); `go` is what follows once it has its entry. -/
def issueInstr (k : Strand) (tk : Tok) (check issue : Op Unit) (go : State → State) (s : State) : State :=
  let c := s.cur
  let st := (s.core c).str k
  match (check.run s).1 with
  | .error (.fault f) => s.takeFault c k st.pc (s.ir.headD 0) f
  | .error _ => s
  | .ok _ =>
    let wi := waitIdx k tk.wait.toNat
    if (tk.wait ≠ 0 ∧ (s.core c).tokAt wi = 0) ∨ (k = .x ∧ (s.core c).xs.blocked = true) then s
    else
      match (issue.run s).1 with
      | .error (.fault f) => s.takeFault c k st.pc (s.ir.headD 0) f
      | .error _ => s
      | .ok _ => go (s.issueHeld k tk)

/-- An M command that is to take the second entry, if it can issue (R294): it stands in for the first while it does. -/
def Held.probing (h : Held) (k : Strand) : Bool := k == .m && h.probe && h.seq.isNone

/-- Runs one instruction of `len` words that is no X command, on the core that acts (R194, R286, R287, R293, R338). At a first issue
`check` makes the faults that rest on the words and operand fields; without a token to take, the strand then waits with
nothing changed; `issue` makes the faults that rest on values read at issue (R280), still before the token is taken; the
instruction takes a scoreboard entry and `body` runs. One that the strand already holds runs its body again; one that is to wait in the second entry of M
issues only. -/
def runInstr (k : Strand) (len : Nat) (tk : Tok) (check issue : Op Unit) (body : Op Next) (s : State) : State :=
  match ((s.core s.cur).str k).held with
  | some h => if h.probing k then issueInstr k tk check issue id s else runBody k len body s
  | none => issueInstr k tk check issue (runBody k len body) s

/-- Changes the scoreboard entry of the instruction that runs. -/
def modHeld (k : Strand) (f : Held → Held) : Op Unit := modCur fun c => c.setStr k { (c.str k) with held := some (f (c.heldOf k)) }

/-- The scoreboard entry of the instruction that runs. -/
def heldNow (k : Strand) : Op Held := do return (← curCore).heldOf k

/-- The four-entry loop stack of V, M and X (R392, R400, R419): an empty body or a fifth entry raises ILLOP. -/
def loopCheck (k : Strand) (len : Nat) : Op Unit := do
  legal (decide (len ≠ 0 ∧ ((← curCore).str k).loops.length < 4)) k

/-- `loop` on V, M and X: the body is the `len` words that follow, the count a p register. -/
def loopBody (k : Strand) (n : BitVec 5) (len : Nat) : Op Next := do
  let count ← pr k n.toNat
  let pc := (← heldNow k).pc
  if count = 0 then return .skip (len + 1)
  else
    let e : LoopEnt := ⟨pc + 1, pc + BitVec.ofNat 32 len, count - 1⟩
    modCur fun c => c.setStr k { (c.str k) with loops := e :: (c.str k).loops }
    return .to (pc + 1)

/-- No tokens: S words have no wait and post fields (R331). -/
def noTok : Tok := ⟨0, 0⟩

/-- Does an S instruction read a register whose value is pending (R221)? -/
def Core.waitsOn (c : Core) (srcs : List (BitVec 6)) : Bool := srcs.any fun r => c.pend.any (·.1 == r)

/-- Runs an S instruction that reads the registers `srcs`: it waits while one of them is pending. -/
def runS (srcs : List (BitVec 6)) (check : Op Unit) (body : Op Next) (s : State) : State :=
  if (s.core s.cur).waitsOn srcs then s else runInstr .s 1 noTok check (pure ()) body s

/-- Runs an S instruction that only computes: it reads `srcs`, changes the core's registers and goes on. -/
def simpleS (srcs : List (BitVec 6)) (f : Core → Core) (s : State) : State :=
  if (s.core s.cur).waitsOn srcs then s
  else (((s.modCore s.cur f).advance s.cur .s ((s.core s.cur).str .s).pc 1).countRetired s.cur .s)

/-- Runs an S instruction that transfers control or not (R353): `f` may write lk. -/
def branchS (srcs : List (BitVec 6)) (target : Core → W32 → Option W32) (f : Core → W32 → Core) (s : State) : State :=
  let c := s.core s.cur
  if c.waitsOn srcs then s
  else
    let pc := (c.str .s).pc
    let s' := s.modCore s.cur fun c => f c pc
    match target c pc with
    | some t => (s'.jump s.cur pc t).countRetired s.cur .s
    | none => (s'.advance s.cur .s pc 1).countRetired s.cur .s

/-- Wraps a next state. -/
def nx (s : State) : Host.Outcome State Fault Refusal := .next s

end Sys2Proof.Machine
end

