-- ==== Sys2Proof/Machine/Flags.lean ====
section
/-! DEFINITION. Conditions of compares and branches and the integer results of the S strand (R332, R348 to R353). The S
strand has no flags: every condition is a value in a register or decides a transfer. -/

namespace Sys2Proof.Machine

/-- A condition of `cmp`, `cmpi` and the branches on two 64-bit values (R349, R353). -/
def condHolds (c : Cond) (a b : Word) : Bool :=
  match c with
  | .eq => a == b
  | .ne => a != b
  | .lt => a.slt b
  | .ge => !a.slt b
  | .ltu => a.ult b
  | .geu => !a.ult b

/-- 1 or 0 (R349). -/
def boolWord (b : Bool) : Word := if b then 1 else 0

/-- The `.w` rule (R332, R348): the operation is made on 32 bits and the result is sign-extended. -/
def widthRule (w : Bool) (op64 : Word → Word → Word) (op32 : W32 → W32 → W32) (a b : Word) : Word :=
  if w then (op32 (a.setWidth 32) (b.setWidth 32)).signExtend 64 else op64 a b

/-- Signed quotient rounded towards zero; all ones for a divisor of 0 (R348). -/
def divS {n : Nat} (a b : BitVec n) : BitVec n := if b = 0 then BitVec.allOnes n else a.sdiv b

/-- Unsigned quotient; all ones for a divisor of 0 (R348). -/
def divU {n : Nat} (a b : BitVec n) : BitVec n := if b = 0 then BitVec.allOnes n else a.udiv b

/-- Remainder with the sign of a; a for a divisor of 0 (R348). -/
def remS {n : Nat} (a b : BitVec n) : BitVec n := if b = 0 then a else a.srem b

/-- Unsigned remainder; a for a divisor of 0 (R348). -/
def remU {n : Nat} (a b : BitVec n) : BitVec n := if b = 0 then a else a.umod b

/-- High half of the signed product (R348). -/
def mulHigh {n : Nat} (a b : BitVec n) : BitVec n := ((a.signExtend (2 * n)) * (b.signExtend (2 * n))).extractLsb' n n

/-- High half of the unsigned product (R348). -/
def mulHighU {n : Nat} (a b : BitVec n) : BitVec n := ((a.setWidth (2 * n)) * (b.setWidth (2 * n))).extractLsb' n n

/-- A shift or rotate amount: the low 6 bits, or the low 5 at width 32 (R348). -/
def amount (n : Nat) (b : BitVec n) : Nat := b.toNat % n

/-- Signed minimum. -/
def minS {n : Nat} (a b : BitVec n) : BitVec n := if b.slt a then b else a

/-- Signed maximum. -/
def maxS {n : Nat} (a b : BitVec n) : BitVec n := if a.slt b then b else a

/-- Unsigned minimum. -/
def minU {n : Nat} (a b : BitVec n) : BitVec n := if b.ult a then b else a

/-- Unsigned maximum. -/
def maxU {n : Nat} (a b : BitVec n) : BitVec n := if a.ult b then b else a

/-- Leading zeros (R348). -/
def countLead {n : Nat} (a : BitVec n) : BitVec n := BitVec.ofNat n (((List.range n).find? fun i => a.getMsbD i).getD n)

/-- Trailing zeros (R348). -/
def countTrail {n : Nat} (a : BitVec n) : BitVec n := BitVec.ofNat n (((List.range n).find? fun i => a.getLsbD i).getD n)

/-- Set bits (R348). -/
def countOnes {n : Nat} (a : BitVec n) : BitVec n := BitVec.ofNat n (((List.range n).filter fun i => a.getLsbD i).length)

/-- `bext` at a width: p and n from the low bits of b, n capped at the width (R348). -/
def bitExt {n : Nat} (lenBits : Nat) (a b : BitVec n) : BitVec n :=
  let p := b.toNat % n
  let k := min (b.toNat / 256 % 2 ^ lenBits) n
  (a >>> p) &&& BitVec.ofNat n (2 ^ k - 1)

/-- `bins` at a width: bits [p + n - 1 : p] of d replaced by the low bits of a (R348). -/
def bitIns {n : Nat} (lenBits : Nat) (d a b : BitVec n) : BitVec n :=
  let p := b.toNat % n
  let k := min (b.toNat / 256 % 2 ^ lenBits) n
  let m := BitVec.ofNat n (2 ^ k - 1) <<< p
  (d &&& ~~~m) ||| ((a <<< p) &&& m)

end Sys2Proof.Machine
end

