-- ==== Sys2Proof/Machine/Operands.lean ====
section
/-! DEFINITION. Operand forms: the S memory operand (R332, R355), TREF coordinates and boxes (R335), linear operands,
tile ranges and status locations (R416), and the checks made before a token is examined (R338). -/

namespace Sys2Proof.Machine

/-- The byte coordinate of an S memory operand: x[offset register] + imm5 × w (R332, R355). -/
def sCoord (r : BitVec 6) (imm : BitVec 5) (w : Nat) : Op Nat := do
  return ((← xr r) + BitVec.ofNat 64 (imm.toNat * w)).toNat

/-- The check of a slot made at issue: it is bound, with no reserved bit set, to an index within the table (R4, R141, R143, R335, R338). -/
def slotBound (slot : BitVec 5) : Op Unit := do
  let w ← curCrew
  let e := w.slots.getD slot.toNat 0
  need (e.getLsbD 15 && fld e 12 3 == 0) kTensor 1 (detT 0 slot.toNat 0 0)
  need (decide (fld e 0 12 ≤ (((← get).part w.part).ctx w.ctx).ndesc.toNat)) kTensor 1 (detT (fld e 0 12) slot.toNat 0 0)

/-- The rank of the tensor a bound slot names, from the crew's copy of its descriptor or from the table. -/
def slotRank (slot : BitVec 5) : Op Nat := do
  let w ← curCrew
  let t := fld (w.slots.getD slot.toNat 0) 0 12
  return fld (((← get).crewBits w t).getD 0) 2 3

/-- The checks of a TREF at issue (R335): the slot is bound and no register index goes above 31. -/
def trefCheck (t : TRef) : Op Unit := do
  slotBound t.slot
  need (decide (t.pcrd.toNat + (← slotRank t.slot) ≤ 32)) kTensor 4 (detT 0 t.slot.toNat 0 0)

/-- The checks of a TREF with a box at issue (R335). -/
def tboxCheck (t : TBox) : Op Unit := do
  trefCheck ⟨t.slot, t.pcrd⟩
  need (decide (t.pbox.toNat + (← slotRank t.slot) ≤ 32)) kTensor 4 (detT 0 t.slot.toNat 0 0)

/-- Coordinates p[base], p[base + 1], … for a rank (R335). -/
def coordsAt (k : Strand) (base rank : Nat) : Op (List Nat) :=
  (List.range rank).mapM fun d => do return (← pr k (base + d)).toNat

/-- The checks of a scalar store or atomic at issue: its slot, and that no generator or ring takes one (R146, R185, R338; log 134). -/
def storeCheck (slot : BitVec 5) : Op Unit := do
  slotBound slot
  let w ← curCrew
  let t := fld (w.slots.getD slot.toNat 0) 0 12
  let b := ((← get).crewBits w t).getD 0
  let d := Desc.ofBits b
  if d.wf && descPlain b then
    need (d.kind != 2) kGenwrite 0 (detT t slot.toNat 0 0)
    need (d.kind != 3) kRingwrite 0 (detT t slot.toNat 0 0)

/-- The operand of a scalar store or atomic: a generator or a ring takes none (R146, R185). -/
def storeAcc (slot : BitVec 5) (c n align : Nat) : Op Acc := do
  let (t, d) ← slotDesc slot
  need (d.kind != 2) kGenwrite 0 (detT t slot.toNat 0 0)
  need (d.kind != 3) kRingwrite 0 (detT t slot.toNat 0 0)
  linAcc slot c n align

/-- The access of element coordinates of a MEMORY tensor, with the bit position within the byte (R144). -/
def elemAcc (slot : BitVec 5) (t : Nat) (d : Desc) (c : List Nat) : Op (Acc × Nat) := do
  let (tile, bits) := d.place c
  need (d.inBounds c) kTensor 3 (detT t slot.toNat tile (bits / 8))
  return (⟨slot.toNat, t, d, tile, bits / 8⟩, bits % 8)

/-- The access of a byte of a ring's byte space (R146). -/
def ringAcc (slot : BitVec 5) (t : Nat) (d : Desc) (b : Nat) : Acc :=
  let (tile, off) := d.ringPlace b
  ⟨slot.toNat, t, d, tile, off⟩

/-- Reads `n` bytes of a linear tensor from an access on, in pieces of 64-byte blocks (R155). -/
def readRange (k : Strand) (a : Acc) (n : Nat) : Op (List Byte) := do
  let parts ← (pieces64 (n / 64 + 2) (a.tile * a.d.tileBytes + a.off) n).mapM fun p =>
    opRead k { a with tile := p.1 / a.d.tileBytes, off := p.1 % a.d.tileBytes } p.2
  return parts.flatten

/-- Bytes of a linear tensor that a form reads after its tile checks. -/
def readLin (k : Strand) (slot : BitVec 5) (c n align : Nat) : Op (List Byte) := do
  readRange k (← linAcc slot c n align) n

/-- Where a write of one piece would land, checked before any piece is performed (R388, R442, R451). A tile that is not
present holds the form (`log` false) or sends the piece to the side log (`log` true). -/
def placePiece (k : Strand) (a : Acc) (log : Bool) : Op (Option (Nat ⊕ (Nat × Nat)) × Bool) := do
  let r ← storePlace k a 1
  match r.1 with
  | some _ => return r
  | none => if log then return r else holdOp

/-- Does a piece land on another package? -/
def isFar (place : Option (Nat ⊕ (Nat × Nat)) × Bool) : Bool := match place.1 with
  | some (.inr _) => true
  | _ => false

/-- Performs a piece whose place has been checked. -/
def performPiece (k : Strand) (a : Acc) (bs : List Byte) (nt : Bool) (place : Option (Nat ⊕ (Nat × Nat)) × Bool) :
    Op Unit := do
  let w ← curCrew
  if nt then
    keepNt k w.ctx a bs
  else
    match place with
    | (none, defer) => logOp k a (.store bs) .core .rlx defer
    | (some (.inl pa), _) => modify fun s => s.bankWrite pa bs
    | (some (.inr (pkg, pa)), _) => modify fun s => s.fabricWrite s.cur pkg 1 (.write [(pa, bs)] 0) (some (a.key w.ctx pa))

/-- Runs an operation and hands out what stopped it. -/
def tryOp {α : Type} (x : Op α) : Op (Except Stop α) := fun s =>
  match x.run s with
  | (r, t) => (.ok r, t)

/-- Is it a fault? -/
def isFault {α : Type} : Except Stop α → Bool
  | .error (.fault _) => true
  | _ => false

/-- Runs every operation of a list; the fault of the first that faults is raised, else the first that is held holds
(R388). -/
def tryAll {α : Type} (xs : List (Op α)) : Op (List α) := do
  let rs ← xs.mapM tryOp
  match rs.find? isFault with
  | some (.error e) => throw e
  | _ =>
    rs.mapM fun r => match r with
      | .ok a => pure a
      | .error e => throw e

/-- The longest start of a list with at most so many elements that count, and the rest. -/
def portion {α : Type} (counts : α → Bool) : Nat → List α → List α × List α
  | _, [] => ([], [])
  | room, x :: xs =>
    match counts x, room with
    | true, 0 => ([], x :: xs)
    | true, r + 1 => (x :: (portion counts r xs).1, (portion counts r xs).2)
    | false, r => (x :: (portion counts r xs).1, (portion counts r xs).2)

/-- Performs pieces, of which those that `far` selects are requests to other packages, within the 1,024 of R28: all at once where they fit; more than
that go in portions as room comes, and the scoreboard entry counts those that have gone. -/
def performAll {α : Type} (k : Strand) (far : α → Bool) (go : α → Op Unit) (xs : List α) : Op Unit := do
  let n := (xs.filter far).length
  if n ≤ 1024 then
    farRoom n
    xs.forM go
  else
    let s ← get
    let (now, rest) := portion far (1024 - s.outstanding s.cur) xs
    now.forM go
    modHeld k fun h => { h with sent := h.sent + now.length }
    holdUnless rest.isEmpty

/-- What is left of the pieces of an instruction that goes in portions. -/
def unsent {α : Type} (k : Strand) (xs : List α) : Op (List α) := do return xs.drop (← heldNow k).sent

/-- Writes pieces all at once (R388): every place is checked, the side log has room for those it takes, and then every
piece is performed. -/
def writeAll (k : Strand) (nt log : Bool) (ps : List (Acc × List Byte)) : Op Unit := do
  let ps ← unsent k ps
  let placed ← tryAll (ps.map fun p => do return (p, ← placePiece k p.1 log))
  let logged := (placed.filter fun p => p.2.1.isNone).length
  if !nt then
    holdUnless (decide ((← curCore).slog.length + logged ≤ 128))
  performAll k (fun p => !nt && isFar p.2) (fun p => performPiece k p.1.1 p.1.2 nt p.2) placed

/-- The pieces of a run of bytes of a linear tensor. -/
def linPieces (a : Acc) (bs : List Byte) : List (Acc × List Byte) :=
  let c := a.tile * a.d.tileBytes + a.off
  (pieces64 (bs.length / 64 + 2) c bs.length).map fun p =>
    ({ a with tile := p.1 / a.d.tileBytes, off := p.1 % a.d.tileBytes }, (bs.drop (p.1 - c)).take p.2)

/-- A "coordinate" of a † form (R442): `n` bytes of descriptor 0 of the running context, a multiple of 64. A descriptor 0 that is not well formed is
R141's DESC; one that is, and is not the linear space that R142 asks for, has the outcome of R3: ILLOP. -/
def sysAcc (c n align : Nat) : Op Acc := do
  match ← crewDesc 0 with
  | none => flt kTensor 2
  | some b =>
    let d := Desc.ofBits b
    need (d.kind != 0 && d.wf && descPlain b) kTensor 2 (detT 0 0 0 0)
    need (d.linear && d.format == 0) kIllop
    need (decide (c % align = 0)) kTensor 4 (detT 0 0 (c / d.tileBytes) (c % d.tileBytes))
    need (decide (c + n ≤ d.ext.getD 0 0)) kTensor 3 (detT 0 0 (c / d.tileBytes) (c % d.tileBytes))
    return ⟨0, 0, d, c / d.tileBytes, c % d.tileBytes⟩

end Sys2Proof.Machine
end

