-- ==== Sys2Proof/Machine/GenRead.lean ====
section
/-! DEFINITION. Generated reads (R176 to R184). -/

namespace Sys2Proof.Machine

/-- A 32-bit field of a generator descriptor by byte offset. -/
def GenDesc.word (g : GenDesc) (byte : Nat) : W32 := g.d.extractLsb' (8 * byte) 32

/-- KIND of R176: 0 NONE, 1 RAMP, 2 CAUSAL, 3 ROTARY, 4 RAND. -/
def GenDesc.kind (g : GenDesc) : Nat := fld g.d 0 3

/-- Is the pair of R177 accepted (R183)? -/
def GenDesc.pairOk (g : GenDesc) (format : Nat) : Bool :=
  match g.kind with
  | 1 => (format == 0x13 && fld g.d 8 8 == 0) || format == 0x01
  | 2 => format == 0x01 || format == 0x03 ||
      (g.d.getLsbD 3 && (format == 0x13 || format == 0x11 || format == 0x19))
  | 3 => format == 0x1B
  | 4 => format == 0x1B || format == 0x01
  | _ => false

/-- The exact ramp of R179. -/
def GenDesc.ramp (g : GenDesc) (c : List Nat) : Int :=
  (c.mapIdx fun i (x : Nat) => (g.word (16 + 4 * i)).toInt * (x : Int)).foldl (· + ·) (g.d.extractLsb' 64 64).toInt

/-- One round of R182. -/
def philoxRound (k0 k1 : W32) (x : W32 × W32 × W32 × W32) : W32 × W32 × W32 × W32 :=
  let p : Word := 0xD2511F53 * x.1.setWidth 64
  let q : Word := 0xCD9E8D57 * x.2.2.1.setWidth 64
  (q.extractLsb' 32 32 ^^^ x.2.1 ^^^ k0, q.extractLsb' 0 32, p.extractLsb' 32 32 ^^^ x.2.2.2 ^^^ k1, p.extractLsb' 0 32)

/-- Philox-4×32 with ten rounds (R182): output word `i` for counter n. -/
def philox (key : Word) (n : BitVec 128) (i : Nat) : W32 :=
  let x := (List.range 10).foldl (fun x r =>
    philoxRound (key.extractLsb' 0 32 + 0x9E3779B9 * BitVec.ofNat 32 r) (key.extractLsb' 32 32 + 0xBB67AE85 * BitVec.ofNat 32 r) x)
    (n.extractLsb' 0 32, n.extractLsb' 32 32, n.extractLsb' 64 32, n.extractLsb' 96 32)
  match i with
  | 0 => x.1
  | 1 => x.2.1
  | 2 => x.2.2.1
  | _ => x.2.2.2

/-- The value of a generated element in the tensor's FORMAT, or the GENFAULT subcode (R177 to R183). -/
def GenDesc.value (g : GenDesc) (d : Desc) (c : List Nat) : Except Nat Nat :=
  let c0 := c.getD 0 0
  let c1 := c.getD 1 0
  if g.kind = 0 then .error 1
  else if !g.pairOk d.format then .error 2
  else if (g.kind = 2 ∨ g.kind = 3) ∧ d.rank < 2 then .error 3
  else match g.kind with
    | 1 =>
      let e := g.ramp (c.take d.rank)
      if d.format = 0x13 then .ok (intBits 32 e)
      else .ok (encodeVal 1 rne false false ((Val.ofInt e).scale (sbyte (fld g.d 8 8))))
    | 2 =>
      let pass := decide ((c1 : Int) - c0 ≤ (g.word 4).toInt)
      if g.d.getLsbD 3 then .ok (if pass then encodeVal d.format rne false false (Val.ofInt 1) else 0)
      else .ok (if pass then 0 else encodeVal d.format rne false false (.inf true))
    | 3 =>
      if 128 ≤ c0 then .error 4
      else
        let pos := (fld g.d 64 64 + c1) % 2 ^ 32
        .ok (pos * fld g.f (32 * (c0 / 2)) 32 % 2 ^ 32)
    | _ =>
      let l := d.linearIndex c
      let w := philox (g.d.extractLsb' 64 64) (g.d.extractLsb' 384 128 + BitVec.ofNat 128 (l / 4)) (l % 4)
      if d.format = 0x1B then .ok w.toNat
      else .ok (encodeVal 1 rne false false (.fin false (w.toNat / 256) (-24)))

/-- A generated read on the core that acts (R144, R183, R188): the bounds check, then the value from the core's copy. -/
def genRead (slot t : Nat) (d : Desc) (c : List Nat) : Op Nat := do
  need (d.inBounds c) kTensor 3 (detT t slot 0 0)
  match (SMap.get {} (← curCore).gens d.gen).value d c with
  | .ok v => return v
  | .error sub => flt kGenfault sub (detT t slot 0 0 d.gen)

end Sys2Proof.Machine
end

