-- ==== Sys2Proof/Machine/Elements.lean ====
section
/-! DEFINITION. Reading elements of tensors for M: runs of plain elements, blocks, and matrix operands (R144, R254, R397,
R398). -/

namespace Sys2Proof.Machine

/-- Elements that lie in one 64-byte block: the access of the first byte, their bit positions in the tile in order, and
whether they are in bounds. -/
structure ERun where
  acc  : Acc
  bits : List Nat
  ok   : Bool
  deriving DecidableEq, Repr

/-- Puts an element before a list of runs. -/
def addERun (a : Acc) (bits : Nat) (ok : Bool) : List ERun → List ERun
  | [] => [⟨a, [bits], ok⟩]
  | r :: rs =>
    if ok && r.ok && a.tile == r.acc.tile && a.off / 64 == r.acc.off / 64 && decide (bits ≤ r.bits.headD 0) then
      ⟨a, bits :: r.bits, true⟩ :: rs
    else ⟨a, [bits], ok⟩ :: r :: rs

/-- The runs of a list of elements by coordinates. -/
def eruns (slot : BitVec 5) (t : Nat) (d : Desc) (css : List (List Nat)) : List ERun :=
  css.foldr (fun c rs =>
    let (tile, bits, ok) := d.spot c
    addERun ⟨slot.toNat, t, d, tile, bits / 8⟩ bits ok rs) []

/-- Bytes of a run. -/
def ERun.len (r : ERun) (w : Nat) : Nat := (r.bits.getLastD 0 + w - 1) / 8 + 1 - r.acc.off

/-- The elements of a run from its bytes. -/
def ERun.pick (r : ERun) (w : Nat) (bs : List Byte) : List Nat :=
  r.bits.map fun b => leNat bs / 2 ^ (b - 8 * r.acc.off) % 2 ^ w

/-- Reads elements of a plain MEMORY or GENERATOR tensor for a strand, as raw bits (R144, R184). -/
def readElems (k : Strand) (slot : BitVec 5) (t : Nat) (d : Desc) (css : List (List Nat)) : Op (List Nat) :=
  if d.kind = 2 then css.mapM (genRead slot.toNat t d)
  else do
    let w := 2 ^ d.elog
    let ps ← (eruns slot t d css).mapM fun r => do
      need r.ok kTensor 3 r.acc.det
      let bs ← opRead k r.acc (r.len w)
      return r.pick w bs
    return ps.flatten

/-- A matrix operand (R397): tensor, descriptor and base coordinates. -/
structure MOp where
  slot : BitVec 5
  t    : Nat
  d    : Desc
  cs   : List Nat
  deriving DecidableEq, Repr

/-- The operand of a TREF (R335): a MEMORY or GENERATOR tensor. -/
def mOperand (r : TRef) : Op MOp := do
  let (t, d) ← slotDesc r.slot
  need (d.kind == 1 || d.kind == 2) kTensor 4 (detT t r.slot.toNat 0 0)
  return ⟨r.slot, t, d, ← coordsAt .m r.pcrd.toNat d.rank⟩

/-- Base coordinate of dimension 0. -/
def MOp.c0 (o : MOp) : Nat := o.cs.getD 0 0

/-- The coordinates beyond dimension 0 with `i` added to the first of them (R397). -/
def MOp.rest (o : MOp) (i : Nat) : List Nat :=
  match o.cs.drop 1 with
  | [] => if i = 0 then [] else [i]
  | c :: r => (c + i) :: r

/-- Reads the 64 bytes of block b of a BLOCK operand, with its access. -/
def MOp.block (o : MOp) (rest : List Nat) (b : Nat) : Op (Acc × List Byte) := do
  let (a, _) ← elemAcc o.slot o.t o.d ((o.c0 + b) :: rest)
  return (a, ← opRead .m a 64)

/-- The operand's format: FORMAT, or the code of its first block, which must be accepted (R397, R398). -/
def MOp.code (o : MOp) (accept : List Nat) : Op Nat := do
  if o.d.format ≠ 0xFF then return o.d.format
  else
    let (a, bs) ← o.block (o.cs.drop 1) 0
    let c := (bs.getD 0 0).toNat
    need (accept.contains c) kTensor 4 a.det
    return c

/-- The values at positions along dimension 0 (R397); `tab b` gives the table of a CB3 block. -/
def MOp.vals (o : MOp) (code : Nat) (rest : List Nat) (tab : Nat → Op (List Byte)) (xs : List Nat) : Op (List Val) := do
  match blockCount code with
  | none => return (← readElems .m o.slot o.t o.d (xs.map fun x => (o.c0 + x) :: rest)).map (decodeVal code)
  | some n =>
    let bs ← ((xs.map (· / n)).eraseDups).mapM fun b => do
      let (a, bytes) ← o.block rest b
      need ((bytes.getD 0 0).toNat == code) kTensor 4 a.det
      return (b, bytes, ← if code = 0x89 then tab b else pure [])
    return xs.map fun x =>
      match bs.find? (·.1 == x / n) with
      | some (_, bytes, tb) => blockElem bytes tb (x % n)
      | none => defNan

/-- No table. -/
def noTable (_ : Nat) : Op (List Byte) := pure []

end Sys2Proof.Machine
end

