-- ==== Sys2Proof/Machine/Tables.lean ====
section
/-! DEFINITION. The partition's tables: groups (R103, R104), chunk queues (R107, R108) and capabilities (R91, R245). -/

namespace Sys2Proof.Machine

/-- A group table entry (R103). -/
structure Grp where
  inuse   : Bool
  ctx     : BitVec 3
  phase   : W32
  arrived : Nat
  done    : Nat
  joined  : Nat
  size    : Nat
  deriving DecidableEq, Repr

/-- The fields of an entry. -/
def Grp.ofBits (b : BitVec 128) : Grp :=
  ⟨b.getLsbD 67, b.extractLsb' 64 3, b.extractLsb' 32 32, fld b 24 8, fld b 16 8, fld b 8 8, fld b 0 8⟩

/-- The entry that fields make. -/
def Grp.bits (g : Grp) : BitVec 128 :=
  (0 : BitVec 60) ++ (if g.inuse then (1 : BitVec 1) else 0) ++ g.ctx ++ g.phase ++ BitVec.ofNat 8 g.arrived ++
    BitVec.ofNat 8 g.done ++ BitVec.ofNat 8 g.joined ++ BitVec.ofNat 8 g.size

/-- A group of a partition. -/
def Part.group (p : Part) (g : BitVec 8) : Grp := Grp.ofBits (SMap.get 0 p.groups g.toNat)

/-- A partition with one group changed. -/
def Part.modGroup (p : Part) (g : BitVec 8) (f : Grp → Grp) : Part :=
  { p with groups := SMap.put 0 p.groups g.toNat (f (p.group g)).bits }

/-- A group whose ARRIVED + DONE has reached SIZE will advance (R104). -/
def State.groupCheck (s : State) (p : BitVec 5) (g : BitVec 8) : State :=
  let e := (s.part p).group g
  if e.inuse && e.arrived + e.done == e.size then
    (s.modPart p fun t => { t with due := g :: t.due }).push (.phaseAdvance p g)
  else s

/-- A crew arrives at a group's current phase (R104, R360). -/
def State.groupArrive (s : State) (p : BitVec 5) (acc rank : Nat) (g : BitVec 8) : State :=
  let s := s.modPart p fun t =>
    { t.modGroup g (fun e => { e with arrived := e.arrived + 1 }) with arrivals := (acc, rank, g) :: t.arrivals }
  s.groupCheck p g

/-- Has a crew arrived at a group's current phase? -/
def Part.hasArrived (p : Part) (acc rank : Nat) (g : BitVec 8) : Bool := p.arrivals.contains (acc, rank, g)

/-- A crew exits from a group (R104). -/
def State.groupExit (s : State) (p : BitVec 5) (acc rank : Nat) (g : BitVec 8) : State :=
  let a := if (s.part p).hasArrived acc rank g then 1 else 0
  let s := s.modPart p fun t =>
    { t.modGroup g (fun e => { e with done := e.done + 1, arrived := e.arrived - a }) with
      arrivals := t.arrivals.filter (· != (acc, rank, g)) }
  s.groupCheck p g

/-- A crew of a discarded gang leaves a group (R104): `exited` for one that had exited, `requeue` for a gang that becomes
REQUEUED. -/
def State.groupDiscard (s : State) (p : BitVec 5) (acc rank : Nat) (exited requeue : Bool) (g : BitVec 8) : State :=
  if exited then
    if requeue then s.modPart p fun t => t.modGroup g fun e => { e with joined := e.joined - 1, done := e.done - 1 } else s
  else
    let a := if (s.part p).hasArrived acc rank g then 1 else 0
    s.modPart p fun t =>
      { t.modGroup g (fun e => { e with joined := e.joined - 1, arrived := e.arrived - a }) with
        arrivals := t.arrivals.filter (· != (acc, rank, g)) }

/-- A chunk queue (R107). -/
structure Chunk where
  conf    : Bool
  steal   : Bool
  workers : Nat
  gran    : Nat
  minchunk : Nat
  remain  : Nat
  sdom    : BitVec 16
  next    : Nat
  deriving DecidableEq, Repr

/-- The fields of a chunk queue's state. -/
def Chunk.ofBits (b : BitVec 256) : Chunk :=
  ⟨b.getLsbD 153, b.getLsbD 152, fld b 144 8, fld b 128 16, fld b 112 16, fld b 64 48, b.extractLsb' 48 16, fld b 0 48⟩

/-- The state that fields make. -/
def Chunk.bits (c : Chunk) : BitVec 256 :=
  (0 : BitVec 102) ++ (if c.conf then (1 : BitVec 1) else 0) ++ (if c.steal then (1 : BitVec 1) else 0) ++
    BitVec.ofNat 8 c.workers ++ BitVec.ofNat 16 c.gran ++ BitVec.ofNat 16 c.minchunk ++ BitVec.ofNat 48 c.remain ++
    c.sdom ++ BitVec.ofNat 48 c.next

/-- One grant of R108 for `w` workers: start, count, and the queue afterwards. -/
def Chunk.grant (c : Chunk) (w : Nat) : Nat × Nat × Chunk :=
  if c.remain = 0 then (c.next, 0, c)
  else
    let w := max w 1
    let size := max c.minchunk ((c.remain + 2 * w - 1) / (2 * w))
    let size := c.gran * ((size + c.gran - 1) / c.gran)
    let size := min size c.remain
    (c.next, size, { c with next := c.next + size, remain := c.remain - size })

/-- A chunk queue of a context. -/
def Ctx.chunk (c : Ctx) (q : Nat) : Chunk := Chunk.ofBits (SMap.get 0 c.chunks q)

/-- A partition with one chunk queue of a context changed. -/
def Part.modChunk (p : Part) (ctx : BitVec 3) (q : Nat) (f : Chunk → Chunk) : Part :=
  p.modCtx ctx fun c => { c with chunks := SMap.put 0 c.chunks q (f (c.chunk q)).bits }

/-- Changes an entry of a context's capability table. A change while the context's block lies in its save area is kept over what the block holds
(R91, R92; log 112). -/
def State.setCap (s : State) (p : BitVec 5) (c : BitVec 3) (e : Nat) (v : BitVec 128) : State :=
  s.modPart p fun t => t.modCtx c fun x =>
    { x with caps := SMap.put 0 x.caps e v, capsNew := if x.savedImg && !x.capsNew.contains e then e :: x.capsNew else x.capsNew }

end Sys2Proof.Machine
end

