-- ==== Sys2Proof/Machine/Crew.lean ====
section
/-! DEFINITION. The life of a crew and of a gang: start (R277), exit (R104, R126, R211), completion (R80), discard (R104,
R117), and the accesses of device parties to rings (R471). -/

namespace Sys2Proof.Machine

/-! ### Rings that the device closes -/

/-- Sets CLOSED of a ring of a pipeline as one `ring.close` (R126, R435), and says whether that could be done; where it could not, the failure is handled as
the router's (R471). -/
def State.closeRing (s : State) (p : BitVec 5) (acc : Nat) (ctx : BitVec 3) (tensor : BitVec 12) : State × Bool :=
  match s.ringRead (opRing p acc 1) p ctx tensor 8 8 with
  | (t, .ok bs) =>
    match t.ringWrite p ctx tensor 8 (leBytes 8 (leNat bs ||| 1)) with
    | .ok u => (u.devDone (opRing p acc 1), true)
    | .error e => (t.routerFail (opRing p acc 1) p ctx tensor 8 1 e, false)
  | (t, .error e) => (t.routerFail (opRing p acc 1) p ctx tensor 8 2 e, false)

/-! ### Launches -/

/-- A launch of a partition by its acceptance number. -/
def Part.launch (p : Part) (acc : Nat) : Option Launch := p.launches.find? (·.acc == acc)

/-- A partition with one launch changed. -/
def Part.modLaunch (p : Part) (acc : Nat) (f : Launch → Launch) : Part :=
  { p with launches := p.launches.map fun l => if l.acc == acc then f l else l }

/-- Cores of a partition that hold a crew, and their crews. -/
def State.residents (s : State) (p : BitVec 5) : List (BitVec 7 × Crew) :=
  (s.part p).cores.filterMap fun c =>
    match (s.core c).crew with
    | some w => if w.part == p then some (c, w) else none
    | none => none

/-- PSTATE.RUN (R85). -/
def State.running (s : State) (p : BitVec 5) : Bool := !(s.residents p).isEmpty

/-- Is a core idle: without a crew, cleared, and not kept for a gang (R97, R277)? -/
def State.idle (s : State) (p : BitVec 5) (c : BitVec 7) : Bool :=
  (s.core c).crew.isNone && !(s.core c).clearing && (s.part p).launches.all fun l => !l.reserved.contains c

/-- The registers of a clean core (R277): what belongs to the core or to the running context stays. -/
def Core.fresh (c : Core) : Core :=
  { ev := c.ev, dtabs := c.dtabs, gens := c.gens, genUpd := c.genUpd, dtabUpd := c.dtabUpd, units := c.units,
    tcs := c.tcs, wcb := c.wcb, posted := c.posted, steal := c.steal }

/-- The chunk fetch of a core is discarded: a steal that another package has still to answer stays until it has (R109). -/
def Core.dropFetch (c : Core) : Core :=
  { c with steal := (c.steal.filter fun t => !t.left.isEmpty).map fun t => { t with orphan := true } }

/-- A crew leaves its core, which then clears its registers (R277). -/
def State.vacate (s : State) (c : BitVec 7) : State :=
  let s := s.modCore c fun r => { r.fresh.dropFetch with clearing := true }
  ({ s with waits := s.waits.filter (fun w => w.core != c), dev := s.dev.filter fun r => r.op != opSpawn c } : State).push (.coreClear c)

/-- A completion signal update becomes due; none where the packet names no signal and nothing of it waits to be written (R80). -/
def State.oweSignal (s : State) (p : BitVec 5) (j : SigJob) : State :=
  let s := if j.addr = 0 ∧ j.stamp = none ∧ j.after = 0 then s else s.modPart p fun t => { t with jobs := t.jobs ++ [j] }
  s.push (.completionSignalDecrement p j.id)

/-- The update that a launch owes: −1, or the error value (R71, R80). Its interrupt goes with −1 only (DESIGN CHOICE, log 129). -/
def Launch.job (l : Launch) (ok : Bool) : SigJob :=
  { id := l.acc, ctx := l.ctx, addr := l.signal, add := if ok then some (-1) else none
    intr := if ok then l.intr else none, queue := l.queue, index := l.index, off := 24 }

/-- A launch is complete, or discarded for good (R106): it leaves the dependence unit and no longer holds dependents. -/
def State.launchDone (s : State) (p : BitVec 5) (acc : Nat) : State :=
  let free := fun (l : Launch) =>
    let ds := l.deps.filter (· != acc)
    if l.life == .depwait && ds.isEmpty then { l with deps := ds, life := .placewait, since := s.time } else { l with deps := ds }
  s.modPart p fun t => { t with launches := (t.launches.filter (·.acc != acc)).map free }

/-- The work of a packet and its signal are done (R82): it no longer holds its queue's BARRIER. -/
def State.workDone (s : State) (p : BitVec 5) (acc : Nat) : State :=
  let qs := s.queues.map fun e =>
    if e.2.part == p then (e.1, { e.2 with busy := e.2.busy.filter (·.acc != acc) }) else e
  { s with queues := qs.filter fun e => !decide (e.2 = {}) }

/-- Every crew of a launch has exited (R80, R126): its signal is owed, and it holds its dependents until that update is over (R106, R210). -/
def State.finishLaunch (s : State) (p : BitVec 5) (acc : Nat) : State :=
  match (s.part p).launch acc with
  | none => s
  | some l => (s.oweSignal p (l.job true)).modPart p fun t => t.modLaunch acc fun l => { l with life := .finished, cores := [], reserved := [] }

/-- Is a stage in the commuting set? -/
def Pipeline.inSet (g : Pipeline) (j : Nat) : Bool := decide (g.clen ≠ 0 ∧ g.cfirst ≤ j ∧ j < g.cfirst + g.clen)

/-- Stages `a` to `b - 1` have no crew left. -/
def Pipeline.noCrew (g : Pipeline) (a b : Nat) : Bool := ((List.range (b - a)).all fun i => g.counts.getD (a + i) 0 == 0)

/-- A pipeline with one crew of a stage less. -/
def Pipeline.less (g : Pipeline) (j : Nat) : Pipeline := { g with counts := listSet g.counts j (g.counts.getD j 0 - 1) }

/-- The stage whose output ring closes when a crew of stage `j` exits: none is left in the stage, or in the whole set (R126). -/
def Pipeline.closes (g : Pipeline) (j : Nat) : Option Nat :=
  let last := if g.inSet j then g.cfirst + g.clen - 1 else j
  let gone := if g.inSet j then (g.less j).noCrew g.cfirst (g.cfirst + g.clen) else (g.less j).noCrew j (j + 1)
  if gone && !g.closed.contains last then some last else none

/-- A crew of a stage has exited (R126): with the last one the stage's output ring is to be closed. A move is cancelled when its donor has gone, or its stage
has fallen to MIN (R137). -/
def State.stageExit (s : State) (p : BitVec 5) (acc stage : Nat) : State :=
  match (s.part p).launch acc with
  | none => s
  | some l =>
    match l.pipe with
    | none => s
    | some g =>
      let h := g.less stage
      let stays := fun (m : BitVec 7 × Nat) => match (s.core m.1).crew with
        | some w => let j := w.stage.getD 0
          decide (((g.stages[j]?).map (·.min)).getD 0 < h.counts.getD j 0)
        | none => false
      let last := (g.closes stage).toList
      s.modPart p fun t => t.modLaunch acc fun l => { l with pipe := some { h with
        move := g.move.filter stays, closed := last ++ g.closed, toClose := g.toClose ++ last.filter fun k => !((g.stages[k]?).map (·.noout)).getD true } }

/-- Has the crew of a core nothing outstanding (R211, R215)? -/
def State.quiet (s : State) (c : BitVec 7) : Bool :=
  let r := s.core c
  r.xs.queue.isEmpty && r.slog.isEmpty && r.posted.all (fun v => decide (v ≤ s.time)) && !s.posting c

/-- The last strand of a crew has exited: group and chunk queue counts, the gang's progress, the core (R104, R107, R126,
R277). A pipeline goes on to its router, which closes its rings and completes it. -/
def State.crewExit (s : State) (c : BitVec 7) : State :=
  match (s.core c).crew with
  | none => s
  | some w =>
    let s := w.groups.foldl (fun s g => s.groupExit w.part w.acc w.rank g) s
    let s := match w.chunkq with
      | some q => s.modPart w.part fun t => t.modChunk w.ctx q.toNat fun k => { k with workers := k.workers - 1 }
      | none => s
    let s := s.vacate c
    let s := s.modPart w.part fun t => t.modLaunch w.acc fun l => { l with exited := w.rank :: l.exited }
    let s := match w.stage with
      | some j => s.stageExit w.part w.acc j
      | none => s
    let s := if (s.part w.part).preempt.isSome then s.push (.yieldDeadline w.part) else s
    match (s.part w.part).launch w.acc with
    | some l => if l.pipe.isSome then s.push (.routerDecision w.part w.acc)
      else if l.cores.length ≤ l.exited.length then s.finishLaunch w.part w.acc else s
    | none => s

/-- A strand ends (R368, R391, R400, R419): the last one of the crew waits until nothing is outstanding (R211). An armed precise stop ends with a halt at
the exit (R292). -/
def exitOp (k : Strand) : Op Next := do
  let s ← get
  let c := s.core s.cur
  let w ← curCrew
  let others := [Strand.s, .v, .m, .x].any fun j => j != k && (c.str j).live
  if !others then holdUnless (s.quiet s.cur)
  let armed := (c.str k).armed
  modCur fun c => c.setStr k { (c.str k) with live := false, armed := false }
  if !others then modify fun s => s.crewExit s.cur
  if armed then modify fun s => s.raiseLine w.part 3
  return .seq

/-- The entry of a strand: `0xFFFF` is EXIT (R72). -/
def startStrand (e : BitVec 16) : StrandSt := if e = 0xFFFF then {} else { pc := e.setWidth 32, live := true }

/-- A crew with the header of its code object as it stands now, where it can be read (R143, R275). -/
def State.withHeader (s : State) (w : Crew) : State × Crew :=
  match s.linRead w.part w.ctx w.code 128 with
  | (t, .ok bs) => (t, { w with header := some bs })
  | (t, .error _) => (t, w)

/-- A crew starts on a core (R277). -/
def State.startCrew (s : State) (c : BitVec 7) (w : Crew) (entries : List (BitVec 16)) (params : List Word) (x1 x2 : Nat) :
    State :=
  let ent := fun (i : Fin 4) => startStrand (entries.getD i.val 0xFFFF)
  let x := ((Vector.replicate 64 (0 : Word)).set 1 (BitVec.ofNat 64 x1)).set 2 (BitVec.ofNat 64 x2)
  let (s, w) := s.withHeader w
  let s := s.modCore c fun r =>
    { r.fresh with crew := some w, strands := Vector.ofFn ent, x := x.set 3 (BitVec.ofNat 64 c.toNat), p := Vector.ofFn fun i => params.getD i.val 0 }
  if (s.core c).strands.toList.all (fun t => !t.live) then s.crewExit c else s

/-- A gang is discarded (R104, R107, R117, R238, R243): its crews leave their cores; it is queued again, or its completion
signal receives the error value. -/
def State.discardGang (s : State) (p : BitVec 5) (acc : Nat) (mayRequeue : Bool) : State :=
  match (s.part p).launch acc with
  | none => s
  | some l =>
    let rq := mayRequeue && l.restart && l.pipe.isNone
    let here := l.life == .resident
    let s := l.cores.zipIdx.foldl (fun s e =>
      let exited := l.exited.contains e.2
      let s := l.groups.foldl (fun s g => s.groupDiscard p acc e.2 exited rq g) s
      if exited || !here || !((s.core e.1).crew.any fun w => w.part == p && w.acc == acc) then s
      else
        let s := match l.chunkq with
          | some q => s.modPart p fun t => t.modChunk l.ctx q.toNat fun k => { k with workers := k.workers - 1 }
          | none => s
        s.vacate e.1) s
    if rq then
      s.modPart p fun t => t.modLaunch acc fun l =>
        { l with life := .requeued, cores := [], reserved := [], exited := [], since := s.time, ranFor := 0, policy := none, saved := [] }
    else
      (s.oweSignal p (l.job false)).launchDone p acc

/-- `core_clear` (R277): the registers are zero and the core is idle. -/
def execCoreClear (core : BitVec 7) (s : State) : Host.Outcome State Fault Refusal :=
  nx (if (s.core core).clearing then s.modCore core Core.fresh else s)

end Sys2Proof.Machine
end

