-- ==== Sys2Proof/Machine/Atomics.lean ====
section
/-! DEFINITION. Atomics and element-wise updates at their home (R156, R157). -/

namespace Sys2Proof.Machine

/-- The signed reading of a number of `b` bits. -/
def asSigned (b n : Nat) : Int := if n < 2 ^ (b - 1) then n else (n : Int) - 2 ^ b

/-- What an operation of R156 makes of the memory value m, at a width of `w` bytes. -/
def atomApply (op : AtomOp) (w m cmp v : Nat) : Nat :=
  let b := 8 * w
  let v := v % 2 ^ b
  match op with
  | .add => (m + v) % 2 ^ b
  | .and => m &&& v
  | .or => m ||| v
  | .xor => m ^^^ v
  | .swap => v
  | .smin => if asSigned b v < asSigned b m then v else m
  | .smax => if asSigned b m < asSigned b v then v else m
  | .umin => min m v
  | .umax => max m v
  | .cas => if m = cmp % 2 ^ b then v else m
  | .faddF32 => faddBits 1 m v
  | .faddBF16 => faddBits 3 m v
  | .fminF32 => fminmax 1 false m v
  | .fmaxF32 => fminmax 1 true m v

/-- One atomic at its home (R156): its read meets R160, R164 and R18; then the row is written. Answers the old bytes. -/
def State.atomAt (s : State) (r : AtomReq) : State × Found :=
  match s.bankRead r.pa r.w with
  | (t, .data bs) => (t.bankWrite r.pa (leBytes r.w (atomApply r.op r.w (leNat bs) r.cmp.toNat r.v.toNat)), .data bs)
  | x => x

/-- A word of 8 bytes at its home is exchanged for another if it holds what is expected; the blocks that go with it are written before it (R123, R323).
Answers the old bytes. -/
def State.swapAt (s : State) (pa : Nat) (old new : Word) (blocks : List (Nat × List Byte)) : State × Found :=
  match s.bankRead pa 8 with
  | (t, .data bs) =>
    (if leBV 64 bs = old then (blocks.foldl (fun s b => s.bankWrite b.1 b.2) t).bankWrite pa (bvBytes 8 new) else t, .data bs)
  | x => x

/-- Bytes of a lane of an element-wise update. -/
def updBytes : UpdKind → Nat
  | .bf16 => 2
  | _ => 4

/-- The lane sum of an element-wise update (R156). -/
def updSum (k : UpdKind) (m v : Nat) : Nat :=
  match k with
  | .s32 => (m + v) % 2 ^ 32
  | .fp32 => faddBits 1 m v
  | .bf16 => faddBits 3 m v

/-- One element-wise update, lane by lane (R156). It stops at the first lane that cannot be read, with what that read
found; lanes before it stand. -/
def State.updAt (s : State) (r : UpdReq) : State × Option Found :=
  r.lanes.foldl (fun acc l =>
    match acc with
    | (s, some f) => (s, some f)
    | (s, none) =>
      match s.bankRead l.1 (updBytes r.kind) with
      | (t, .data bs) => (t.bankWrite l.1 (leBytes (updBytes r.kind) (updSum r.kind (leNat bs) (l.2.toNat % 2 ^ (8 * (updBytes r.kind))))), none)
      | (t, f) => (t, some f)) (s, none)

/-- The number under which the atomic of a strand asks another package. -/
def atomKey : Nat := 2 ^ 66

/-- Performs an atomic that a strand issues: at the home, or on another package, or it is logged (R156, R203, R204,
R221). One that has been sent is performed where it went and nowhere else, wherever its tile lies since. Answers the old bytes, or none when it was logged. -/
def opAtomic (k : Strand) (a : Acc) (op : AtomOp) (w : Nat) (cmp v : BitVec 128) (scope : Scope) (ord : MemOrd) :
    Op (Option (List Byte)) := do
  match ← farAsked k atomKey with
  | some r => match ← farAwait r a.det with
    | .data _ bs => return some bs
    | _ => holdOp
  | none =>
  let crew ← curCrew
  match ← storePlace k a 2 with
  | (none, defer) =>
    logOp k a (.atomic op w cmp v) scope ord defer
    return none
  | (some (.inl pa), _) =>
    let s ← get
    let (s', f) := s.atomAt ⟨op, pa, w, cmp, v⟩
    set s'
    match f with
    | .data bs => return some bs
    | .poison => flt kPoison 0 a.det
    | .stale sub => do modCur (fun c => c.count 57 1); flt kStale sub a.det
  | (some (.inr (pkg, pa)), _) =>
    match ← farCall k pkg atomKey 1 0 (fun tag => .atomic ⟨op, pa, w, cmp, v⟩ tag) a.det (some (a.key crew.ctx pa)) with
    | .data _ bs => return some bs
    | _ => holdOp

end Sys2Proof.Machine
end

