-- ==== Sys2Proof/Machine/ScalarMem.lean ====
section
/-! DEFINITION. Meanings of the scalar loads, stores, atomics, fences and `mwait` (R355 to R357, R362). -/

namespace Sys2Proof.Machine

/-- The atomics that S has in the side log and whose value has not returned. -/
def Core.sAtomics (c : Core) : List SlogEnt :=
  c.slog.filter fun e => e.strand == .s && (match e.op with | .atomic .. => true | _ => false)

/-- No later access of S issues until an acquire atomic has returned (R203). -/
def acqClear : Op Unit := do
  holdUnless (!((← curCore).sAtomics.any fun e => e.ord == .acq || e.ord == .acqrel))

/-- A scalar load of `w` bytes (R355). An acquire (R192) adds nothing, since S issues one access at a time. -/
def loadS (sgn : Bool) (w : Nat) (d r : BitVec 6) (slot imm : BitVec 5) (s : State) : State :=
  runS [r] (slotBound slot) (do
    acqClear
    let c ← sCoord r imm w
    let bs ← readLin .s slot c w w
    setX d (if sgn then (leBV (8 * w) bs).signExtend 64 else leBV 64 bs)
    return .seq) s

/-- A scalar store of `w` bytes (R355), as a release where `rel` names a scope (R191), non-temporal where the form or the
tensor says so (R212). -/
def storeS (w : Nat) (nt : Bool) (rel : Option Scope) (d r : BitVec 6) (slot imm : BitVec 5) (s : State) : State :=
  runS [d, r] (storeCheck slot) (do
    acqClear
    let c ← sCoord r imm w
    let a ← storeAcc slot c w w
    match rel with
    | some sc => opRelease sc
    | none => pure ()
    let fenced := ((← curCore).str .s).relNext
    opFencedRelease .s
    opWrite .s a (leBytes w (← xr d).toNat) (rel.getD (fenced.getD .core)) (nt || a.d.nt) (if rel.isSome || fenced.isSome then .rel else .rlx)
    return .seq) s

/-- Does an ordering have a release half (R192)? -/
def memRel : MemOrd → Bool
  | .rel | .acqrel => true
  | _ => false

/-- A scalar atomic of `w` bytes (R203 to R205, R356): comparand and operand as R340 gives them; `two` for the register
pairs of `cas.128`. -/
def amoS (op : AtomOp) (w : Nat) (scope : Scope) (ord : MemOrd) (d r : BitVec 6) (slot imm : BitVec 5)
    (srcs : List (BitVec 6)) (cmp v : Core → BitVec 128) (two : Bool) (s : State) : State :=
  runS (r :: srcs) (storeCheck slot) (do
    acqClear
    let c ← sCoord r imm w
    let a ← storeAcc slot c w w
    if memRel ord then opRelease scope
    opFencedRelease .s
    let k ← curCore
    let id := (← get).nextTag
    match ← opAtomic .s a op w (cmp k) (v k) scope ord with
    | some bs =>
      setX d (leBV 64 (bs.take 8))
      if two then setX (d + 1) (leBV 64 (bs.drop 8))
    | none =>
      let ds := ((if two then [d, d + 1] else [d]).zipIdx).filter (·.1 != 0)
      modCur fun c => { c with pend := ds.map (fun n => (n.1, id, n.2)) ++ c.pend.filter (fun e => !ds.any (·.1 == e.1)) }
    return .seq) s

/-- An atomic with the one operand x[d+1] at 32 or 64 bits. -/
def amoOne (op : AtomOp) (w : Nat) (scope : Scope) (ord : MemOrd) (d r : BitVec 6) (slot imm : BitVec 5) (s : State) : State :=
  amoS op w scope ord d r slot imm [d + 1] (fun _ => 0) (fun c => (c.xr (d + 1)).setWidth 128) false s

/-- Width in bytes of an atomic of 32 or 64 bits. -/
def amoW (wide : Bool) : Nat := if wide then 8 else 4

/-- `ld.s8` (R355). -/
def execLdS8 (d r : BitVec 6) (slot imm : BitVec 5) (s : State) : Host.Outcome State Fault Refusal :=
  nx (loadS true 1 d r slot imm s)

/-- `ld.n8` (R355). -/
def execLdN8 (d r : BitVec 6) (slot imm : BitVec 5) (s : State) : Host.Outcome State Fault Refusal :=
  nx (loadS false 1 d r slot imm s)

/-- `ld.s16` (R355). -/
def execLdS16 (d r : BitVec 6) (slot imm : BitVec 5) (s : State) : Host.Outcome State Fault Refusal :=
  nx (loadS true 2 d r slot imm s)

/-- `ld.n16` (R355). -/
def execLdN16 (d r : BitVec 6) (slot imm : BitVec 5) (s : State) : Host.Outcome State Fault Refusal :=
  nx (loadS false 2 d r slot imm s)

/-- `ld.s32` (R355). -/
def execLdS32 (d r : BitVec 6) (slot imm : BitVec 5) (s : State) : Host.Outcome State Fault Refusal :=
  nx (loadS true 4 d r slot imm s)

/-- `ld.n32` (R355). -/
def execLdN32 (d r : BitVec 6) (slot imm : BitVec 5) (s : State) : Host.Outcome State Fault Refusal :=
  nx (loadS false 4 d r slot imm s)

/-- `ld.64` (R355). -/
def execLd64 (d r : BitVec 6) (slot imm : BitVec 5) (s : State) : Host.Outcome State Fault Refusal :=
  nx (loadS false 8 d r slot imm s)

/-- `ld.acq.<scope>.n32` (R355, R192): the load is an acquire at the scope. S issues nothing else until it has returned,
which is all an acquire asks of the issuer, so the scope changes no state. -/
def execLdAcqN32 (_scope : Scope) (d r : BitVec 6) (slot imm : BitVec 5) (s : State) : Host.Outcome State Fault Refusal :=
  nx (loadS false 4 d r slot imm s)

/-- `ld.acq.<scope>.64` (R355, R192), as `ld.acq.<scope>.n32`. -/
def execLdAcq64 (_scope : Scope) (d r : BitVec 6) (slot imm : BitVec 5) (s : State) : Host.Outcome State Fault Refusal :=
  nx (loadS false 8 d r slot imm s)

/-- `st.8` (R355). -/
def execSt8 (d r : BitVec 6) (slot imm : BitVec 5) (s : State) : Host.Outcome State Fault Refusal :=
  nx (storeS 1 false none d r slot imm s)

/-- `st.16` (R355). -/
def execSt16 (d r : BitVec 6) (slot imm : BitVec 5) (s : State) : Host.Outcome State Fault Refusal :=
  nx (storeS 2 false none d r slot imm s)

/-- `st.32` (R355). -/
def execSt32 (d r : BitVec 6) (slot imm : BitVec 5) (s : State) : Host.Outcome State Fault Refusal :=
  nx (storeS 4 false none d r slot imm s)

/-- `st.64` (R355). -/
def execSt64 (d r : BitVec 6) (slot imm : BitVec 5) (s : State) : Host.Outcome State Fault Refusal :=
  nx (storeS 8 false none d r slot imm s)

/-- `st.nt.8` (R355, R212). -/
def execStNt8 (d r : BitVec 6) (slot imm : BitVec 5) (s : State) : Host.Outcome State Fault Refusal :=
  nx (storeS 1 true none d r slot imm s)

/-- `st.nt.16` (R355, R212). -/
def execStNt16 (d r : BitVec 6) (slot imm : BitVec 5) (s : State) : Host.Outcome State Fault Refusal :=
  nx (storeS 2 true none d r slot imm s)

/-- `st.nt.32` (R355, R212). -/
def execStNt32 (d r : BitVec 6) (slot imm : BitVec 5) (s : State) : Host.Outcome State Fault Refusal :=
  nx (storeS 4 true none d r slot imm s)

/-- `st.nt.64` (R355, R212). -/
def execStNt64 (d r : BitVec 6) (slot imm : BitVec 5) (s : State) : Host.Outcome State Fault Refusal :=
  nx (storeS 8 true none d r slot imm s)

/-- `st.rel.<scope>.32` (R355, R191, R215). -/
def execStRel32 (scope : Scope) (d r : BitVec 6) (slot imm : BitVec 5) (s : State) : Host.Outcome State Fault Refusal :=
  nx (storeS 4 false (some scope) d r slot imm s)

/-- `st.rel.<scope>.64` (R355, R191, R215). -/
def execStRel64 (scope : Scope) (d r : BitVec 6) (slot imm : BitVec 5) (s : State) : Host.Outcome State Fault Refusal :=
  nx (storeS 8 false (some scope) d r slot imm s)

/-- `amo.add` (R356). -/
def execAmoAdd (wide : Bool) (scope : Scope) (ord : MemOrd) (d r : BitVec 6) (slot imm : BitVec 5) (s : State) :
    Host.Outcome State Fault Refusal :=
  nx (amoOne .add (amoW wide) scope ord d r slot imm s)

/-- `amo.and` (R356). -/
def execAmoAnd (wide : Bool) (scope : Scope) (ord : MemOrd) (d r : BitVec 6) (slot imm : BitVec 5) (s : State) :
    Host.Outcome State Fault Refusal :=
  nx (amoOne .and (amoW wide) scope ord d r slot imm s)

/-- `amo.or` (R356). -/
def execAmoOr (wide : Bool) (scope : Scope) (ord : MemOrd) (d r : BitVec 6) (slot imm : BitVec 5) (s : State) :
    Host.Outcome State Fault Refusal :=
  nx (amoOne .or (amoW wide) scope ord d r slot imm s)

/-- `amo.xor` (R356). -/
def execAmoXor (wide : Bool) (scope : Scope) (ord : MemOrd) (d r : BitVec 6) (slot imm : BitVec 5) (s : State) :
    Host.Outcome State Fault Refusal :=
  nx (amoOne .xor (amoW wide) scope ord d r slot imm s)

/-- `amo.swap` (R356). -/
def execAmoSwap (wide : Bool) (scope : Scope) (ord : MemOrd) (d r : BitVec 6) (slot imm : BitVec 5) (s : State) :
    Host.Outcome State Fault Refusal :=
  nx (amoOne .swap (amoW wide) scope ord d r slot imm s)

/-- `amo.smin` (R356). -/
def execAmoSmin (wide : Bool) (scope : Scope) (ord : MemOrd) (d r : BitVec 6) (slot imm : BitVec 5) (s : State) :
    Host.Outcome State Fault Refusal :=
  nx (amoOne .smin (amoW wide) scope ord d r slot imm s)

/-- `amo.smax` (R356). -/
def execAmoSmax (wide : Bool) (scope : Scope) (ord : MemOrd) (d r : BitVec 6) (slot imm : BitVec 5) (s : State) :
    Host.Outcome State Fault Refusal :=
  nx (amoOne .smax (amoW wide) scope ord d r slot imm s)

/-- `amo.umin` (R356). -/
def execAmoUmin (wide : Bool) (scope : Scope) (ord : MemOrd) (d r : BitVec 6) (slot imm : BitVec 5) (s : State) :
    Host.Outcome State Fault Refusal :=
  nx (amoOne .umin (amoW wide) scope ord d r slot imm s)

/-- `amo.umax` (R356). -/
def execAmoUmax (wide : Bool) (scope : Scope) (ord : MemOrd) (d r : BitVec 6) (slot imm : BitVec 5) (s : State) :
    Host.Outcome State Fault Refusal :=
  nx (amoOne .umax (amoW wide) scope ord d r slot imm s)

/-- `amo.fadd.f32` (R157, R356). -/
def execAmoFaddF32 (scope : Scope) (ord : MemOrd) (d r : BitVec 6) (slot imm : BitVec 5) (s : State) :
    Host.Outcome State Fault Refusal :=
  nx (amoOne .faddF32 4 scope ord d r slot imm s)

/-- `amo.fadd.bf16` (R157, R356). -/
def execAmoFaddBf16 (scope : Scope) (ord : MemOrd) (d r : BitVec 6) (slot imm : BitVec 5) (s : State) :
    Host.Outcome State Fault Refusal :=
  nx (amoOne .faddBF16 2 scope ord d r slot imm s)

/-- `amo.fmin.f32` (R157, R356). -/
def execAmoFminF32 (scope : Scope) (ord : MemOrd) (d r : BitVec 6) (slot imm : BitVec 5) (s : State) :
    Host.Outcome State Fault Refusal :=
  nx (amoOne .fminF32 4 scope ord d r slot imm s)

/-- `amo.fmax.f32` (R157, R356). -/
def execAmoFmaxF32 (scope : Scope) (ord : MemOrd) (d r : BitVec 6) (slot imm : BitVec 5) (s : State) :
    Host.Outcome State Fault Refusal :=
  nx (amoOne .fmaxF32 4 scope ord d r slot imm s)

/-- `amo.cas` (R205, R340, R356): 32 and 64 bits with comparand x[d] and new value x[d+1]; 128 bits with the pairs. -/
def execAmoCas (w : CasWidth) (scope : Scope) (ord : MemOrd) (d r : BitVec 6) (slot imm : BitVec 5) (s : State) :
    Host.Outcome State Fault Refusal :=
  match w with
  | .w32 => nx (amoS .cas 4 scope ord d r slot imm [d, d + 1] (fun c => (c.xr d).setWidth 128)
      (fun c => (c.xr (d + 1)).setWidth 128) false s)
  | .w64 => nx (amoS .cas 8 scope ord d r slot imm [d, d + 1] (fun c => (c.xr d).setWidth 128)
      (fun c => (c.xr (d + 1)).setWidth 128) false s)
  | .w128 => nx (amoS .cas 16 scope ord d r slot imm [d, d + 1, d + 2, d + 3] (fun c => c.xr (d + 1) ++ c.xr d)
      (fun c => c.xr (d + 3) ++ c.xr (d + 2)) true s)

/-- A scope's number (R339). -/
def scopeNum : Scope → Nat
  | .core => 0
  | .gang => 1
  | .die => 2
  | .pkg => 3
  | .fab => 4
  | .sys => 5

/-- The wider of two scopes. -/
def scopeWider (a b : Scope) : Scope := if scopeNum a < scopeNum b then b else a

/-- The REL half of a fence (R200): the next store or atomic of S is a release at the scope; at SYSTEM scope the fence
also waits until the core's non-temporal stores are performed, those that have gone to the side log or to another package among them (R212, R357). -/
def fenceRelOp (scope : Scope) : Op Unit := do
  if scope == .sys then opRelease .sys
  modCur fun c => c.setStr .s { (c.str .s) with relNext := some (scopeWider ((c.str .s).relNext.getD .core) scope) }

/-- The ACQ half of a fence (R200): holds until the latest earlier load or atomic has returned. -/
def fenceAcqOp : Op Unit := do holdUnless (← curCore).sAtomics.isEmpty

/-- `fence.rel` (R200, R357). -/
def execFenceRel (scope : Scope) (s : State) : Host.Outcome State Fault Refusal :=
  nx (runS [] (pure ()) (do fenceRelOp scope; return .seq) s)

/-- `fence.acq` (R200, R357). What it orders is every later access of S after an earlier one, whatever the scope. -/
def execFenceAcq (_scope : Scope) (s : State) : Host.Outcome State Fault Refusal :=
  nx (runS [] (pure ()) (do fenceAcqOp; return .seq) s)

/-- `fence.full` (R200, R357): both halves, and every earlier write that the scope covers is performed first. -/
def execFenceFull (scope : Scope) (s : State) : Host.Outcome State Fault Refusal :=
  nx (runS [] (pure ()) (do fenceAcqOp; opRelease scope; fenceRelOp scope; return .seq) s)

/-- `fence.alias` (R196, R357): every earlier write of the crew is performed at its home first. -/
def execFenceAlias (s : State) : Host.Outcome State Fault Refusal :=
  nx (runS [] (pure ()) (do opRelease .sys; return .seq) s)

/-- Where an access of S leads, for the monitor of `mwait`: a number of this package, if it is here. -/
def placeOf (a : Acc) : Op (Option Nat) := do
  let w ← curCrew
  let s ← get
  match s.locate w.part w.ctx (s.tileEntry a.d a.tile) (a.d.tileBytes == 65536) a.off with
  | .here pa => return some pa
  | _ => return none

/-- `mwait` (R362): reads GEN of the lock word at its home as an acquire; finishes when it differs from x[d][31:0], and
otherwise arms the monitor and looks again, by a request of its own where the home is another package's, at its signal or after 4 µs. -/
def execMwait (_scope : Scope) (d r : BitVec 6) (slot imm : BitVec 5) (s : State) : Host.Outcome State Fault Refusal :=
  nx (runS [r, d] (slotBound slot) (do
    acqClear
    let c ← sCoord r imm 16
    let a ← linAcc slot c 16 16
    let bs ← opRead .s a 16
    let g : W32 := leBV 32 ((bs.drop 8).take 4)
    if g != (← xr d).setWidth 32 then
      setX d (g.setWidth 64)
      modCur fun c => { c with monitor := none }
      return .seq
    else
      let pa ← placeOf a
      modCur fun c => { c with monitor := pa.map fun p => (p, 0) }
      modify fun s => s.dropWaits s.cur .s
      throw (.hold ((← get).time + 4000))) s)

end Sys2Proof.Machine
end

