-- ==== Sys2Proof/Machine/ScalarCoord.lean ====
section
/-! DEFINITION. Meanings of the scalar forms that coordinate: groups and phases, tokens, chunk queues, spawn, notify,
yield, exit, regions and generator control (R358 to R369), and of the events they cause. -/

namespace Sys2Proof.Machine

/-! ### Groups and phases (R358 to R360) -/

/-- The group named by a phase form is in use and belongs to the running context (R360). -/
def grpLegal (g : BitVec 8) (member : Bool) : Op Unit := do
  let w ← curCrew
  let e := ((← get).part w.part).group g
  legal (e.inuse && e.ctx == w.ctx && (!member || w.groups.contains g)) .s

/-- Arrives at the current phase (R201, R360): waits while the crew has already arrived, releases at PKG scope, and answers
the PHASE value at the arrival. -/
def arriveOp (g : BitVec 8) : Op W32 := do
  let w ← curCrew
  holdUnless (!((← get).part w.part).hasArrived w.acc w.rank g)
  opRelease .pkg
  let ph := (((← get).part w.part).group g).phase
  modify fun s => s.groupArrive w.part w.acc w.rank g
  return ph

/-- The current PHASE of a group. -/
def phaseNow (g : BitVec 8) : Op W32 := do return (((← get).part (← curCrew).part).group g).phase

/-- `phase.arrive` (R360). -/
def execPhaseArrive (d : BitVec 6) (group : BitVec 8) (s : State) : Host.Outcome State Fault Refusal :=
  nx (runS [] (grpLegal group true) (do
    let ph ← arriveOp group
    setX d (ph.setWidth 64)
    return .seq) s)

/-- `phase.wait` (R360). -/
def execPhaseWait (d : BitVec 6) (group : BitVec 8) (s : State) : Host.Outcome State Fault Refusal :=
  nx (runS [d] (grpLegal group false) (do
    let ph ← phaseNow group
    holdUnless (ph != (← xr d).setWidth 32)
    setX d (ph.setWidth 64)
    return .seq) s)

/-- `phase` (R360, R370): arrives once, keeps the arrival value in its entry, and waits until PHASE differs. -/
def execPhase (d : BitVec 6) (group : BitVec 8) (s : State) : Host.Outcome State Fault Refusal :=
  nx (runS [] (grpLegal group true) (do
    if (← heldNow .s).arrival.isNone then
      let ph ← arriveOp group
      modHeld .s fun h => { h with arrival := some ph, progress := .part }
    let at_ := (← heldNow .s).arrival.getD 0
    let ph ← phaseNow group
    holdUnless (ph != at_)
    setX d (ph.setWidth 64)
    return .seq) s)

/-- `phase_advance` (R104, R201): a group that is due raises PHASE and clears ARRIVED in one update. -/
def execPhaseAdvance (part : BitVec 5) (group : BitVec 8) (s : State) : Host.Outcome State Fault Refusal :=
  nx (if (s.part part).due.contains group then
    s.modPart part fun p =>
      let q := p.modGroup group fun e => { e with phase := e.phase + 1, arrived := 0 }
      { q with due := q.due.filter (· != group), arrivals := q.arrivals.filter (fun a => a.2.2 != group) }
  else s)

/-- `grp.init` (R358): the lowest free entry. -/
def execGrpInit (d a : BitVec 6) (s : State) : Host.Outcome State Fault Refusal :=
  nx (runS [a] (pure ()) (do
    let w ← curCrew
    let v ← xr a
    let n := v.toNat
    if n = 0 ∨ 128 < n then setX d (-2)
    else
      let p := (← get).part w.part
      match firstBelow 256 fun g => !(p.group (BitVec.ofNat 8 g)).inuse with
      | none => setX d (-1)
      | some g =>
        modify fun s => s.modPart w.part fun p => p.modGroup (BitVec.ofNat 8 g) fun _ => ⟨true, w.ctx, 0, 0, 0, 0, n⟩
        setX d (BitVec.ofNat 64 g)
    return .seq) s)

/-- `grp.free` (R359). -/
def execGrpFree (group : BitVec 8) (s : State) : Host.Outcome State Fault Refusal :=
  nx (runS [] (pure ()) (do
    let w ← curCrew
    let e := ((← get).part w.part).group group
    if e.inuse && e.ctx == w.ctx && e.joined == e.done then
      modify fun s => s.modPart w.part fun p => { p with groups := SMap.put 0 p.groups group.toNat 0 }
    return .seq) s)

/-! ### Tokens (R361) -/

/-- `tok.wait` (R361): issues when the counter from the named strand is at least n, and subtracts n. -/
def execTokWait (strand : BitVec 2) (count : BitVec 6) (s : State) : Host.Outcome State Fault Refusal :=
  let i := waitIdx .s strand.toNat
  let n := count.toNat
  nx (if (s.core s.cur).tokAt i < n then s
    else runS [] (pure ()) (do
      modCur fun c => c.setTok i (c.tokAt i - n)
      return .seq) s)

/-- `tok.post` (R194, R361, R287): once the strand's atomics have returned, adds n to the counter to the named strand, waiting in its entry while that
would pass 63. -/
def execTokPost (strand : BitVec 2) (count : BitVec 6) (s : State) : Host.Outcome State Fault Refusal :=
  nx (runS [] (pure ()) (do
    fenceAcqOp
    modHeld .s fun h => { h with post := some (tokIdx .s strand.toNat, count.toNat) }
    return .seq) s)

/-- `instruction_finish` (R194, R242, R287): an instruction whose work is done posts its token and frees its entry, once
the counter has room. -/
def execInstructionFinish (core : BitVec 7) (strand : Strand) (s : State) : Host.Outcome State Fault Refusal :=
  nx (match ((s.core core).str strand).held with
  | some h => if h.progress == .all then s.finishPost core strand h else s
  | none => s)

/-! ### Chunk queues (R363, R364, R107 to R110) -/

/-- Coordinates of the neighbour at a port (R42): +x, −x, +y, −y, +z, −z. -/
def Fabric.neighbour (f : Fabric) (port : Nat) : Nat × Nat × Nat :=
  let up := fun (v n : Nat) => (v + 1) % n
  let dn := fun (v n : Nat) => (v + n - 1) % n
  match port with
  | 0 => (up f.pos.1 f.size.1, f.pos.2.1, f.pos.2.2)
  | 1 => (dn f.pos.1 f.size.1, f.pos.2.1, f.pos.2.2)
  | 2 => (f.pos.1, up f.pos.2.1 f.size.2.1, f.pos.2.2)
  | 3 => (f.pos.1, dn f.pos.2.1 f.size.2.1, f.pos.2.2)
  | 4 => (f.pos.1, f.pos.2.1, up f.pos.2.2 f.size.2.2)
  | _ => (f.pos.1, f.pos.2.1, dn f.pos.2.2 f.size.2.2)

/-- What the neighbour at a port last advertised for a steal domain; an entry not renewed for four windows counts as zero
(R56). -/
def State.advertised (s : State) (sdom : BitVec 16) (port : Nat) : Nat :=
  match s.ports.toList[port]? with
  | none => 0
  | some t =>
    if !t.up then 0
    else match t.adverts.find? (·.dom == sdom) with
      | some e => if s.windowNow < e.came / (s.fabric.at_ s.time).windowLen + 4 then e.count.toNat else 0
      | none => 0

/-- The victims of a steal in the order of R109: ports by remaining count, higher first, ties in port order. -/
def State.victims (s : State) (sdom : BitVec 16) : List Nat :=
  let ps := ((List.range 6).map fun i => (i, s.advertised sdom i)).filter fun e => e.2 ≠ 0
  (sortBy (fun a b => decide (b.2 ≤ a.2)) ps).map (·.1)

/-- Sends a steal request to the next victim of a core's steal (R109). -/
def State.askVictim (s : State) (c : BitVec 7) (sdom : BitVec 16) (port : Nat) : State :=
  let pos := s.fabric.neighbour port
  s.fromCore c.toNat (s.pkt 0 2 false pos c 0 (.steal sdom (BitVec.ofNat 9 s.fabric.index) c))

/-- What waits at a chunk queue, in the order in which it came; at one time, by core (R108). -/
def State.chunkLine (s : State) (p : BitVec 5) (ctx : BitVec 3) (q : BitVec 6) : List (BitVec 7 × Steal) :=
  sortBy (fun (a b : BitVec 7 × Steal) => decide (a.2.came ≤ b.2.came)) ((s.part p).cores.filterMap fun c => match (s.core c).steal with
    | some t => if t.part = p ∧ t.ctx = ctx ∧ t.q = q then some (c, t) else none
    | none => none)

/-- A chunk form of a core has been performed: its entry holds what the fetch returned, and it waits no longer. -/
def State.chunkDone (s : State) (c : BitVec 7) (results : List (BitVec 6 × Word)) : State :=
  s.modCore c fun r =>
    let st := r.str .s
    { r.setStr .s { st with held := st.held.map fun (h : Held) => { h with performed := true, results := results } } with steal := none }

/-- One that waits at its chunk queue is served, or starts its steal, behind which the others wait (R108, R109, R363); says whether the next may follow. -/
def State.chunkServe (s : State) (c : BitVec 7) (t : Steal) : Bool × State :=
  let k := ((s.part t.part).ctx t.ctx).chunk t.q.toNat
  let set := fun (k' : Chunk) => s.modPart t.part fun p => p.modChunk t.ctx t.q.toNat fun _ => k'
  let got := fun (s : State) (start n : Nat) => (true, s.chunkDone c [(t.d, BitVec.ofNat 64 start), (t.d + 1, BitVec.ofNat 64 n)])
  if !t.left.isEmpty then (false, s)
  else match t.init with
  | some b => (true, (set { Chunk.ofBits b with workers := k.workers }).chunkDone c [])
  | none =>
    if !k.conf then got s 0 0
    else if k.remain ≠ 0 then got (set (k.grant k.workers).2.2) (k.grant k.workers).1 (k.grant k.workers).2.1
    else match if k.steal && !t.asked then s.victims k.sdom else [] with
      | [] => got s k.next 0
      | v :: vs => (false, (s.modCore c fun r => { r with steal := some { t with asked := true, left := v :: vs } }).askVictim c k.sdom v)

/-- A chunk queue serves what waits there, one at a time, in the order in which it came (R108). -/
def State.chunkRun (s : State) (p : BitVec 5) (ctx : BitVec 3) (q : BitVec 6) : State :=
  ((s.chunkLine p ctx q).foldl (fun a x => if a.1 then a.2.chunkServe x.1 x.2 else a) (true, s)).2

/-- A chunk form comes to its queue and waits until it has been performed. -/
def chunkWait (q : BitVec 6) (d : BitVec 6) (init : Option Chunk) : Op Unit := do
  let w ← curCrew
  if !(← heldNow .s).performed then
    if (← curCore).steal.isNone then
      modify fun s => (s.modCore s.cur fun r => { r with steal := some { part := w.part, ctx := w.ctx, q := q, came := s.time, d := d, init := init.map (·.bits) } }).chunkRun
        w.part w.ctx q
    holdUnless (← heldNow .s).performed

/-- `chunk.init` (R363): it takes its place among the fetches of its queue. -/
def execChunkInit (a b : BitVec 6) (s : State) : Host.Outcome State Fault Refusal :=
  nx (runS [a, b] (do
    let x ← xr a
    let y ← xr b
    legal (fld x 7 9 == 0 && fld y 48 16 == 0 && fld x 32 16 != 0 && fld x 48 16 != 0) .s) (do
    acqClear
    let x ← xr a
    let y ← xr b
    chunkWait (x.extractLsb' 0 6) 0 (some ⟨true, x.getLsbD 6, 0, fld x 32 16, fld x 48 16, fld y 0 48, x.extractLsb' 16 16, 0⟩)
    return .seq) s)

/-- `chunk.fetch` (R108, R109, R364): a grant; at a dry queue with STEAL set, a steal, behind which other fetches wait and are served in the order in
which they came. -/
def execChunkFetch (d a : BitVec 6) (s : State) : Host.Outcome State Fault Refusal :=
  nx (runS [a] (pure ()) (do
    acqClear
    chunkWait ((← xr a).extractLsb' 0 6) d none
    (← heldNow .s).results.forM fun e => setX e.1 e.2
    return .seq) s)

/-- Serves a steal (R110): the victim's configured queue of the running context with that steal domain grants with
W = WORKERS + 1; the grant goes back as a CLASS 2 message. Of several such queues the first serves, by partition and then by number, even if it is dry (DESIGN
CHOICE, log 125). -/
def State.serveSteal (s : State) (sdom : BitVec 16) (pos : Nat × Nat × Nat) (thiefCore : BitVec 7) : State :=
  let find := (List.range 32).findSome? fun p =>
    let t := s.part (BitVec.ofNat 5 p)
    (firstBelow 64 fun q => ((t.ctx t.runctx).chunk q).conf && ((t.ctx t.runctx).chunk q).sdom == sdom).map fun q => (BitVec.ofNat 5 p, q)
  let answer := fun (s : State) (start n : Nat) =>
    s.sendPkt pos (s.pkt 0 2 false pos thiefCore 0 (.grant thiefCore (BitVec.ofNat 48 start) (BitVec.ofNat 48 n)))
  match find with
  | none => answer s 0 0
  | some (p, q) =>
    let ctx := (s.part p).runctx
    let k := ((s.part p).ctx ctx).chunk q
    let (start, n, k') := k.grant (k.workers + 1)
    answer (s.modPart p fun t => t.modChunk ctx q fun _ => k') start n

/-- `steal_request` (R110) of a package of the domain. -/
def execStealRequest (sdom : BitVec 16) (thiefPkg : BitVec 9) (thiefCore : BitVec 7) (s : State) :
    Host.Outcome State Fault Refusal :=
  nx (s.serveSteal sdom (s.fabric.posOf thiefPkg.toNat) thiefCore)

/-- `steal_grant` (R109, R110): a range goes into the thief's chunk queue, which then serves the fetch and those behind it; a count of 0 sends the steal to the
next neighbour, or ends it. A steal outlives a fetch that has been discarded: what comes goes into the queue, and no other neighbour is asked. -/
def execStealGrant (core : BitVec 7) (start count : BitVec 48) (s : State) : Host.Outcome State Fault Refusal :=
  nx (match (s.core core).steal with
  | some t =>
    let left := if count = 0 ∧ !t.orphan then t.left.drop 1 else []
    let s := s.modCore core fun c => { c with steal := if t.orphan then none else some { t with left := left } }
    match left with
    | v :: _ => s.askVictim core (((s.part t.part).ctx t.ctx).chunk t.q.toNat).sdom v
    | [] =>
      let s := if count = 0 then s else s.modPart t.part fun p => p.modChunk t.ctx t.q.toNat fun k => { k with next := start.toNat, remain := count.toNat }
      s.chunkRun t.part t.ctx t.q
  | none => s)

/-! ### Spawn and notify (R365, R366) -/

/-- The global number of a partition's queue by its local number (R63). -/
def State.localQueue (s : State) (p : BitVec 5) (n : Nat) : Option (BitVec 10) :=
  (s.queues.find? fun e => e.2.enable && e.2.part == p && e.2.local_ == n).map fun e => BitVec.ofNat 10 e.1

/-- A write to a queue's notify register (R67): the greater of the two indices. It brings the package out of PS2 (R14). -/
def State.notifyQueue (s : State) (q : BitVec 10) (v : Word) : State :=
  (if s.power.ps = 2 then s.push .ps2Exit else s).modQueue q fun k => { k with notified := if k.notified.ult v then v else k.notified }

/-- A linear-space result as an operation: an access that cannot be made holds the form. -/
def ofLin {α : Type} (r : Except LinErr α) : Op α :=
  match r with
  | .ok a => pure a
  | .error _ => holdOp

/-- Has another core a `spawn` under way that asked another package for the header of a queue? -/
def State.spawning (s : State) (p : BitVec 5) (header : Nat) : Bool :=
  s.dev.any fun r => r.part == p && decide (r.addr = header ∧ r.op ≠ opSpawn s.cur ∧ 521 ≤ r.op ∧ r.op ≤ 1029 ∧ r.op % 4 = 1)

/-- Asks other packages for some ranges of linear space on behalf of `spawn`, and holds until they have answered (log 110). -/
def askFar (p : BitVec 5) (ctx : BitVec 3) (rs : List (Nat × Nat)) : Op Unit := do
  let s ← get
  if !(s.farLeft p ctx rs).isEmpty then
    set (s.needFar (opSpawn s.cur) p ctx rs id)
    holdOp

/-- The claim of R111: room, the bodies with CTX set, byte 0 of each slot, the second first, and the notified index. The
queue header and slots are accesses of the command processor through descriptor 0 of context 0 (R142). -/
def claimOp (p : BitVec 5) (ctx : BitVec 3) (q : BitVec 10) (imgs : List (List Byte)) : Op Word := do
  let k := (← get).queue q
  holdUnless !((← get).spawning p k.header.toNat)
  askFar p 0 [(k.header.toNat, 8), (k.header.toNat + 8, 8)]
  let s ← get
  let (s, w) := s.linRead64 p 0 k.header.toNat
  let w ← ofLin w
  let (s, r) := s.linRead64 p 0 (k.header.toNat + 8)
  let r ← ofLin r
  let n := imgs.length
  let size := 2 ^ k.logslots.toNat
  if size < (w - r).toNat + n then
    set (s.devDone (opSpawn s.cur))
    return 1
  else
    let slot := fun (i : Nat) => k.header.toNat + 64 + 64 * ((w.toNat + i) % size)
    let body := fun (img : List Byte) =>
      let b3 := (img.getD 3 0 &&& 0xC7) ||| (ctx.setWidth 8 <<< 3)
      ((img.drop 1).take 2) ++ [b3] ++ (img.drop 4).take 60
    let s ← imgs.zipIdx.foldlM (fun (s : State) e => ofLin (s.linWrite p 0 (slot e.2 + 1) (body e.1))) s
    let s ← imgs.zipIdx.reverse.foldlM (fun (s : State) e =>
      ofLin (s.linWrite p 0 (slot e.2) [(e.1.getD 0 0 &&& 0x0F) ||| 0x80])) s
    let s ← ofLin (s.linWrite p 0 k.header.toNat (bvBytes 8 (w + BitVec.ofNat 64 n)))
    let note := fun (k : Queue) => { k with spawned := k.spawned ++ imgs.zipIdx.map fun e =>
      (w.toNat + e.2, BitVec.ofNat 2 (s.cur.toNat / 32), e.1.getD 0 0 &&& 0x0F != (if e.2 = 0 then 1 else 6)) }
    set (((s.modQueue q note).notifyQueue q (w + BitVec.ofNat 64 n)).devDone (opSpawn s.cur))
    return 0

/-- `spawn` (R111, R365). -/
def execSpawn (d a b : BitVec 6) (s : State) : Host.Outcome State Fault Refusal :=
  nx (runS [a, b] (do
    let x ← xr a
    legal (fld x 10 2 == 0 && fld x 13 51 == 0) .s) (do
    let w ← curCrew
    let x ← xr a
    let n := if x.getLsbD 12 then 2 else 1
    opRelease .pkg
    match (← get).localQueue w.part (fld x 0 10) with
    | none => flt kQueuefault 0 (BitVec.ofNat 320 (fld x 0 10))
    | some q =>
      let acc ← sysAcc (← xr b).toNat (64 * n) 64
      let bs ← readRange .s acc (64 * n)
      let imgs := (List.range n).map fun i => (bs.drop (64 * i)).take 64
      setX d (← claimOp w.part w.ctx q imgs)
      return .seq) s)

/-- The slots that a crew's notify makes known, below index `v`, came from its die, as far as no spawn filled them (R98). -/
def Queue.noteCrew (k : Queue) (v : Word) (die : BitVec 2) : Queue :=
  let n := min (2 ^ k.logslots.toNat) (v.toNat - k.notified.toNat)
  { k with spawned := k.spawned ++ (List.range n).map fun i => (v.toNat - n + i, die, false) }

/-- Every earlier release of S has left the side log (R366). -/
def relClear : Op Unit := do
  holdUnless (!((← curCore).slog.any fun e => e.strand == .s && (e.ord == .rel || e.ord == .acqrel)))

/-- `notify` (R366): a local queue of the partition, or a CLASS 2 message to another package. -/
def execNotify (a b : BitVec 6) (s : State) : Host.Outcome State Fault Refusal :=
  nx (runS [a, b] (do
    let x ← xr a
    legal (fld x 10 5 == 0 && fld x 31 33 == 0 && (x.getLsbD 15 || fld x 16 15 == 0)) .s) (do
    relClear
    let w ← curCrew
    let x ← xr a
    let v ← xr b
    let q := x.extractLsb' 0 10
    let pos := (fld x 16 5, fld x 21 5, fld x 26 5)
    let f := (← get).fabric
    let bad : BitVec 320 := BitVec.ofNat 320 q.toNat
    if x.getLsbD 15 && !(decide (pos.1 < f.size.1 ∧ pos.2.1 < f.size.2.1 ∧ pos.2.2 < f.size.2.2)) then flt kQueuefault 0 bad
    else if x.getLsbD 15 && pos != f.pos then
      modify fun s => s.fromCore s.cur.toNat (s.pkt 0 2 false pos s.cur 0 (.notify q v))
      return .seq
    else
      let k := (← get).queue q
      need (k.enable && k.part == w.part) kQueuefault 0 bad
      modify fun s => (s.modQueue q fun k => k.noteCrew v (BitVec.ofNat 2 (s.cur.toNat / 32))).notifyQueue q v
      return .seq) s)

/-! ### Yield, exit and regions (R367, R368, R291, R292) -/

/-- `yield` (R117, R367): with a request set, the other strands stop at their next boundary, every scoreboard empties, and
the crew is stopped as cooperative. -/
def execYield (s : State) : Host.Outcome State Fault Refusal :=
  nx (runS [] (pure ()) (do
    let c ← curCore
    let w ← curCrew
    if c.yld.deadline.isNone then return .seq
    else
      modCur fun c => { c with yld := { c.yld with draining := true } }
      modHeld .s fun h => { h with progress := .part }
      holdUnless ([Strand.v, .m, .x].all (fun k => (c.str k).held.isNone) && c.xs.queue.isEmpty)
      modCur fun c => { c with yld := { c.yld with draining := false, coop := true } }
      modify fun s => s.push (.yieldDeadline w.part)
      return .seq) s)

/-- `exit` on S (R368). -/
def execSExit (s : State) : Host.Outcome State Fault Refusal := nx (runS [] (pure ()) (exitOp .s) s)

/-- A push on a region stack (R291). -/
def StrandSt.enter (t : StrandSt) (id : BitVec 16) : StrandSt :=
  { t with region := (id :: t.region).take 8, lost := t.lost || decide (8 ≤ t.region.length) }

/-- A pop from a region stack (R291). -/
def StrandSt.leave (t : StrandSt) : StrandSt :=
  { t with region := t.region.drop 1, lost := t.lost && decide (1 < t.region.length) }

/-- Would an instruction leave its strand's scoreboard empty as it retires (R287, R292)? -/
def State.lastEntry (s : State) (k : Strand) : Bool :=
  let c := s.core s.cur
  (k != .x || c.xs.queue.isEmpty) && (match (c.heldOf k).post with
    | some (i, n) => decide (c.tokAt i + n ≤ 63)
    | none => true)

/-- A region form of a strand (R291, R292, R462): the stack, a trace record, and an armed precise stop, which raises the
halt line as the form retires and leaves the scoreboard empty. -/
def regionOp (k : Strand) (kind : Nat) (f : StrandSt → StrandSt) : Op Next := do
  let w ← curCrew
  let pc := (← heldNow k).pc
  if ((← curCore).str k).armed then holdUnless ((← get).lastEntry k)
  modCur fun c => c.setStr k (f (c.str k))
  modify fun s => s.traceEvent s.cur k kind pc
  if ((← curCore).str k).armed then
    modCur fun c => c.setStr k { (c.str k) with armed := false }
    modify fun s => s.raiseLine w.part 3
  return .seq

/-- `region.enter` on S (R291, R368). -/
def execSRegionEnter (imm : BitVec 16) (s : State) : Host.Outcome State Fault Refusal :=
  nx (runS [] (pure ()) (regionOp .s trEnter fun t => t.enter imm) s)

/-- `region.leave` on S (R291, R368). -/
def execSRegionLeave (s : State) : Host.Outcome State Fault Refusal :=
  nx (runS [] (pure ()) (regionOp .s trLeave fun t => t.leave) s)

/-! ### Generators (R186 to R188, R369) -/

/-- Bits of a descriptor that its kind uses (R176). -/
def genMask (kind : Nat) : BitVec 512 :=
  match kind with
  | 1 => BitVec.ofNat 512 (7 + 255 * 2 ^ 8 + (2 ^ 64 - 1) * 2 ^ 64 + (2 ^ 160 - 1) * 2 ^ 128)
  | 2 => BitVec.ofNat 512 (15 + (2 ^ 32 - 1) * 2 ^ 32)
  | 3 => BitVec.ofNat 512 (7 + (2 ^ 64 - 1) * 2 ^ 64)
  | 4 => BitVec.ofNat 512 (7 + (2 ^ 64 - 1) * 2 ^ 64 + (2 ^ 128 - 1) * 2 ^ 384)
  | _ => 7

/-- A descriptor that `gen.set` accepts (R186): a kind of R176 and no reserved field set. -/
def genOk (d : BitVec 512) : Bool := decide (fld d 0 3 ≤ 4) && (d &&& ~~~genMask (fld d 0 3)) == 0

/-- Queues an update at the generator home and waits until every copy has applied it (R188). -/
def genUpdate (g : Nat) (d : Option GenDesc) (add : BitVec 128) : Op Next := do
  let w ← curCrew
  if (← heldNow .s).point = 0 then
    modify fun s => (s.modPart w.part fun p => { p with genQ := p.genQ ++ [(s.cur, g, d, add)] }).push (.genHomeUpdate w.part)
    modHeld .s fun h => { h with point := 1 }
  let s ← get
  let p := s.part w.part
  if (← heldNow .s).point = 2 then
    modHeld .s fun h => { h with point := 0 }
    flt kGenfault 6 (detT 0 0 0 0 g)
  else
    holdUnless (!(p.genQ.any fun e => e.1 == s.cur))
    holdUnless (p.cores.all fun c => (s.core c).genUpd.isEmpty)
    return .seq

/-- `gen.set` (R186, R188, R369). -/
def execGenSet (g : BitVec 4) (r : BitVec 6) (slot imm : BitVec 5) (s : State) : Host.Outcome State Fault Refusal :=
  nx (runS [r] (slotBound slot) (do
    if (← heldNow .s).point ≠ 0 then genUpdate g.toNat none 0
    else
      acqClear
      let c ← sCoord r imm 64
      let bs ← readLin .s slot c 64 64
      let d : BitVec 512 := leBV 512 bs
      if fld d 0 3 = 3 then
        let all ← readLin .s slot c 320 64
        if genOk (leBV 512 all) then genUpdate g.toNat (some ⟨leBV 512 all, leBV 2048 (all.drop 64)⟩) 0
        else flt kGenfault 5 (detT 0 slot.toNat 0 0 g.toNat)
      else if genOk d then genUpdate g.toNat (some ⟨d, 0⟩) 0
      else flt kGenfault 5 (detT 0 slot.toNat 0 0 g.toNat)) s)

/-- `gen.skip` (R187, R188, R369). -/
def execGenSkip (g : BitVec 4) (a b : BitVec 6) (s : State) : Host.Outcome State Fault Refusal :=
  nx (runS [a, b] (pure ()) (do genUpdate g.toNat none ((← xr b) ++ (← xr a))) s)

/-- `gen_home_update` (R187, R188): the first queued update is performed at the home and sent to every copy. A skip of a
descriptor that is not RAND is refused. While the partition is halted none is performed (R189). -/
def execGenHomeUpdate (part : BitVec 5) (s : State) : Host.Outcome State Fault Refusal :=
  nx (match (s.part part).genQ with
  | [] => s
  | (c, g, d, add) :: rest =>
    let p := s.part part
    if p.halted || p.halt.isSome then s else
    let s := s.modPart part fun t => { t with genQ := rest }
    let old := SMap.get {} (p.ctx p.runctx).gens g
    match d, fld old.d 0 3 == 4 with
    | none, false => s.modCore c fun r => r.setStr .s { (r.str .s) with held := ((r.str .s).held).map fun h => { h with point := 2 } }
    | _, _ =>
      let new := match d with
        | some v => v
        | none => { old with d := (old.d.extractLsb' 384 128 + add) ++ old.d.extractLsb' 0 384 }
      let s := s.modPart part fun t => t.modCtx t.runctx fun x => { x with gens := SMap.put {} x.gens g new }
      let s := s.modCore c fun r => r.setStr .s { (r.str .s) with held := ((r.str .s).held).map fun h => { h with performed := true } }
      p.cores.foldl (fun s c => (s.modCore c fun r => { r with genUpd := r.genUpd ++ [(g, new)] }).push (.genCopyApply c)) s)

/-- `gen_copy_apply` (R188): a core's copy applies the next update whole. -/
def execGenCopyApply (core : BitVec 7) (s : State) : Host.Outcome State Fault Refusal :=
  nx (match (s.core core).genUpd with
  | [] => s
  | (g, d) :: rest => s.modCore core fun r => { r with gens := SMap.put {} r.gens g d, genUpd := rest })

/-- `mwait_wake` (R362): the monitor's signal, or 4 µs, lets the waiting `mwait` look again. -/
def execMwaitWake (core : BitVec 7) (s : State) : Host.Outcome State Fault Refusal :=
  nx (match (s.core core).monitor, ((s.core core).str .s).held with
  | some _, some h => s.modCore core fun r => { r.setStr .s { (r.str .s) with held := some { h with notBefore := 0 } } with monitor := none }
  | _, _ => s)

/-- `snapshot_done` (R95): the copy ends and SEQ becomes even; exits met meanwhile are part of it. -/
def execSnapshotDone (core : BitVec 7) (s : State) : Host.Outcome State Fault Refusal :=
  nx (if (s.core core).ev.busy then
    s.modCore core fun r =>
      let seq := leNat (SMap.read 0 r.ev.snap 0 8) + 1
      { r with ev := { r.ev with snap := SMap.write 0 r.ev.snap 0 (leBytes 8 seq), busy := false } }
  else s)

end Sys2Proof.Machine
end

