-- ==== Sys2Proof/Machine/Matrix.lean ====
section
/-! DEFINITION. Meanings of the matrix forms other than the sparse walk (R395 to R405, R408 to R414). -/

namespace Sys2Proof.Machine

/-! ### The frame of an M command -/

/-- Changes the M state of the core that acts. -/
def modM (f : MState → MState) : Op Unit := modCur fun c => { c with ms := f c.ms }

/-- Adds to a statistics counter and its event source (R311). -/
def Core.stat (c : Core) (k n : Nat) : Core :=
  let s := c.ms.stats
  ({ c with ms := { c.ms with stats := listSet s k (s.getD k 0 + BitVec.ofNat 64 n) } } : Core).count (8 + k) n

/-- Raises the MAXLAG counter to a value (R311). -/
def Core.statMax (c : Core) (v : Nat) : Core :=
  let old := (c.ms.stats.getD 4 0).toNat
  if old < v then
    ({ c with ms := { c.ms with stats := listSet c.ms.stats 4 (BitVec.ofNat 64 v) } } : Core).count 12 (v - old)
  else c

/-- An M command completes (R311, source 23). -/
def mDone : Op Next := do
  modCur fun c => c.count 23 1
  return .seq

/-- The command that has issued takes its number (R464). -/
def numberM : Op Unit := do
  modM fun m => { m with seq := m.seq + 1 }
  let n := (← curCore).ms.seq
  modHeld .m fun h => { h with seq := some n }

/-- Does the command that runs only try for the second entry (R294)? -/
def State.probing (s : State) : Bool := ((s.core s.cur).heldOf .m).probing .m

/-- Runs an M command of `len` words (R294, R399, R464): its number is taken at issue. -/
def runM (len : Nat) (tk : Tok) (check issue : Op Unit) (body : Op Unit) (s : State) : State :=
  let t := runInstr .m len tk check issue (do
    if (← heldNow .m).seq.isNone then numberM
    body
    mDone) s
  if s.probing && !t.probing then (numberM.run t).2 else t

/-- Tile t of the command. -/
def tileOf (one : Bool) : Op Tile := do return (← curCore).ms.tile one

/-- Changes a tile. -/
def modTile (one : Bool) (f : Tile → Tile) : Op Unit := modM fun m => m.setTile one (f (m.tile one))

/-- A write form aimed at a generator or a ring (R399). -/
def writable (slot : BitVec 5) : Op Unit := do
  let (t, d) ← slotDesc slot
  need (d.kind != 2) kGenwrite 0 (detT t slot.toNat 0 0)
  need (d.kind != 3) kRingwrite 0 (detT t slot.toNat 0 0)

/-! ### Writing elements -/

/-- A piece to write: its place, whether it is in bounds, whether it is non-temporal, and its bytes. -/
structure WPiece where
  acc   : Acc
  ok    : Bool
  nt    : Bool
  bytes : Op (List Byte)

/-- Writes pieces all at once, each checked first (R388). -/
def writePieces (k : Strand) (ps : List WPiece) : Op Unit := do
  let ps ← unsent k ps
  let placed ← tryAll (ps.map fun p => do
    need p.ok kTensor 3 p.acc.det
    let bs ← p.bytes
    let pl ← placePiece k p.acc true
    return (p, bs, pl))
  let logged := (placed.filter fun x => !x.1.nt && x.2.2.1.isNone).length
  holdUnless (decide ((← curCore).slog.length + logged ≤ 128))
  performAll k (fun x => !x.1.nt && isFar x.2.2) (fun x => performPiece k x.1.acc x.2.1 x.1.nt x.2.2) placed

/-- Puts an element before a list of runs of adjacent elements of `w` bits, with their values. -/
def addWRun (w : Nat) (a : Acc) (bits : Nat) (ok : Bool) (v : Nat) : List (ERun × List Nat) → List (ERun × List Nat)
  | [] => [(⟨a, [bits], ok⟩, [v])]
  | (r, vs) :: rs =>
    if ok && r.ok && a.tile == r.acc.tile && a.off / 64 == r.acc.off / 64 && r.bits.headD 0 == bits + w then
      (⟨a, bits :: r.bits, true⟩, v :: vs) :: rs
    else (⟨a, [bits], ok⟩, [v]) :: (r, vs) :: rs

/-- The bytes of a destination as a write of part of a byte finds them: no fault, and zeros in an expired row (R161, R317). A poisoned block at a far
home stays poisoned whatever the rest of its byte. -/
def underBytes (k : Strand) (a : Acc) (n : Nat) : Op (List Byte) := do
  match ← storePlace k a 1 with
  | (some (.inl pa), _) =>
    let s ← get
    return if s.expired pa then List.replicate n 0 else s.peek pa n
  | _ =>
    match ← tryOp (opRead k a n) with
    | .ok bs => pure bs
    | .error (.fault f) => if f.kind = kPoison ∨ f.kind = kStale then pure (List.replicate n 0) else throw (.fault f)
    | .error e => throw e

/-- The bytes that a run of values of `w` bits leaves; the other half of a byte that a 4-bit element shares stays (R144). -/
def runBytes (k : Strand) (w : Nat) (r : ERun) (vs : List Nat) : Op (List Byte) := do
  let n := r.len w
  let lead := r.bits.headD 0 - 8 * r.acc.off
  let v := vs.foldr (fun x acc => x % 2 ^ w + acc * 2 ^ w) 0
  if lead = 0 ∧ w * vs.length = 8 * n then return leBytes n v
  else
    let old := leNat (← underBytes k r.acc n)
    let m := 2 ^ (w * vs.length) * 2 ^ lead
    return leBytes n (old % 2 ^ lead + v * 2 ^ lead + old / m * m)

/-- The pieces that write elements by coordinates. -/
def elemPieces (k : Strand) (slot : BitVec 5) (t : Nat) (d : Desc) (xs : List (List Nat × Nat)) : List WPiece :=
  let w := 2 ^ d.elog
  let rs := xs.foldr (fun x rs =>
    let (tile, bits, ok) := d.spot x.1
    addWRun w ⟨slot.toNat, t, d, tile, bits / 8⟩ bits ok x.2 rs) []
  rs.map fun r => ⟨r.1.acc, r.1.ok, d.nt, runBytes k w r.1 r.2⟩

/-- The pieces that write bytes of a linear tensor. -/
def linWPieces (a : Acc) (bs : List Byte) : List WPiece := (linPieces a bs).map fun p => ⟨p.1, true, a.d.nt, pure p.2⟩

/-- Reads bytes of a linear tensor, every piece checked (R388). -/
def readChecked (k : Strand) (a : Acc) (n : Nat) : Op (List Byte) := do
  let ps := pieces64 (n / 64 + 2) (a.tile * a.d.tileBytes + a.off) n
  let parts ← tryAll (ps.map fun p => opRead k { a with tile := p.1 / a.d.tileBytes, off := p.1 % a.d.tileBytes } p.2)
  return parts.flatten

/-! ### Control, configuration, anchors (R400 to R402) -/

/-- `nop` on M. -/
def execMNop (tk : Tok) (s : State) : Host.Outcome State Fault Refusal := nx (runInstr .m 1 tk (pure ()) (pure ()) (pure .seq) s)

/-- `exit` on M (R400): waits for the table loads it issued. -/
def execMExit (tk : Tok) (s : State) : Host.Outcome State Fault Refusal :=
  nx (runInstr .m 1 tk (pure ()) (pure ()) (do
    holdUnless ((← curCore).ms.tabs.all fun t => t.table.isSome)
    exitOp .m) s)

/-- `loop` on M (R400). -/
def execMLoop (tk : Tok) (n : BitVec 5) (len : BitVec 13) (s : State) : Host.Outcome State Fault Refusal :=
  nx (runInstr .m 1 tk (loopCheck .m len.toNat) (pure ()) (loopBody .m n len.toNat) s)

/-- `region.enter` on M. -/
def execMRegionEnter (tk : Tok) (imm : BitVec 16) (s : State) : Host.Outcome State Fault Refusal :=
  nx (runInstr .m 1 tk (pure ()) (pure ()) (regionOp .m trEnter fun t => t.enter imm) s)

/-- `region.leave` on M. -/
def execMRegionLeave (tk : Tok) (s : State) : Host.Outcome State Fault Refusal :=
  nx (runInstr .m 1 tk (pure ()) (pure ()) (regionOp .m trLeave fun t => t.leave) s)

/-- A value that MCFG accepts (R401). -/
def mcfgOk (v : Word) : Bool := fld v 5 3 == 0 && (List.range 4).all fun j => fld v (14 * j + 17) 5 == 0

/-- `mcfg` (R401). -/
def execMcfg (tk : Tok) (n : BitVec 5) (s : State) : Host.Outcome State Fault Refusal :=
  nx (runM 1 tk (pure ()) (do legal (mcfgOk (← pr .m n.toNat)) .m) (do
    let v ← pr .m n.toNat
    modM fun m => { m with cfg := v }) s)

/-- `manchor` (R402). -/
def execManchor (tk : Tok) (tile : Bool) (n : BitVec 5) (s : State) : Host.Outcome State Fault Refusal :=
  nx (runM 1 tk (pure ()) (pure ()) (do
    let v ← pr .m n.toNat
    modTile tile fun t => { t.cleared with anchor := v.setWidth 16, auto := false, taken := false }) s)

/-- `manchor.auto` (R402). -/
def execManchorAuto (tk : Tok) (tile : Bool) (s : State) : Host.Outcome State Fault Refusal :=
  nx (runM 1 tk (pure ()) (pure ()) (modTile tile fun t => { t.cleared with anchor := 0, auto := true, taken := false }) s)

/-- `mzero` (R402). -/
def execMzero (tk : Tok) (tile : Bool) (s : State) : Host.Outcome State Fault Refusal :=
  nx (runM 1 tk (pure ()) (pure ()) (modTile tile fun t => { t.cleared with taken := false }) s)

/-! ### Operand formats and geometry (R396, R398) -/

/-- Plain formats of 16 bits or fewer. -/
def plain16 : List Nat := [2, 3, 4, 5, 6, 0x10, 0x11, 0x12, 0x18, 0x19, 0x1A]

/-- Block codes other than CB3. -/
def blocks16 : List Nat := [0x81, 0x82, 0x83, 0x84, 0x85, 0x86, 0x87, 0x88]

/-- The plain formats and the block codes that a profile accepts (R398). -/
def profFormats (p : Nat) : List Nat × List Nat :=
  match p with
  | 2 => ([2, 3], [])
  | 3 => ([3], [])
  | 4 => ([1], [])
  | 5 => ([0x11, 0x10], [0x87, 0x88])
  | 6 => ([0x11, 0x10], [0x87, 0x88])
  | _ => (plain16, blocks16)

/-- The formats of B: CB3 alone under `mmc`. -/
def bFormats (p : Nat) (mmc : Bool) : List Nat × List Nat := if mmc then ([], [0x89]) else profFormats p

/-- Is a descriptor's FORMAT one of these, or BLOCK where some code is accepted (R398)? -/
def fmtIn (d : Desc) (f : List Nat × List Nat) : Bool := f.1.contains d.format || (d.format == 0xFF && !f.2.isEmpty)

/-- The checks of an operand at issue (R335, R397): a MEMORY or GENERATOR tensor in an accepted format. -/
def opndCheck (r : TRef) (f : List Nat × List Nat) : Op Unit := do
  trefCheck r
  let (t, d) ← slotDesc r.slot
  need (d.kind != 3) kTensor 4 (detT t r.slot.toNat 0 0)
  legal (fmtIn d f) .m

/-- A table tensor (R403): rank 1, ELOG 7, FORMAT 0. -/
def tabCheck (r : TRef) : Op Unit := do
  trefCheck r
  let (t, d) ← slotDesc r.slot
  need (d.kind == 1 && d.rank == 1 && d.elog == 7 && d.format == 0) kTensor 4 (detT t r.slot.toNat 0 0)

/-- The checks of a multiply command that rest on its words and descriptors. -/
def mulCheck (m : MulArgs) (mmc : Bool) : Op Unit := do
  opndCheck m.a (profFormats m.prof.toNat)
  opndCheck m.b (bFormats m.prof.toNat mmc)

/-- ROWS, COLS and K of p[G] (R396). -/
def geoOf (v : Word) : Nat × Nat × Nat := (fld v 0 8, fld v 8 8, fld v 16 24)

/-- Is a geometry within R396? -/
def geoOk (v : Word) : Bool :=
  let (r, c, k) := geoOf v
  decide (1 ≤ r ∧ r ≤ 128 ∧ 1 ≤ c ∧ c ≤ 64 ∧ 1 ≤ k) && fld v 40 24 == 0

/-- The check of the geometry at issue, with A's tensor in DETAIL. -/
def geoCheck (m : MulArgs) : Op Unit := do
  let (t, _) ← slotDesc m.a.slot
  need (geoOk (← pr .m m.g.toNat)) kTensor 4 (detT t m.a.slot.toNat 0 0)

/-- b and c of a format (R295). -/
def bundleOne (f : Nat) : Nat × Nat :=
  if f = 0x81 then (4, 1)
  else if f = 0x82 ∨ f = 6 ∨ f = 0x10 ∨ f = 0x18 ∨ f = 0x86 ∨ f = 0x88 then (2, 1)
  else if f = 2 ∨ f = 3 ∨ f = 0x12 ∨ f = 0x1A then (1, 2)
  else if f = 0x89 then (1, 4)
  else if f = 1 then (1, 12)
  else (1, 1)

/-- b and c of a command (R295). -/
def bundleOf (fa fb : Nat) : Nat × Nat :=
  (Nat.min (bundleOne fa).1 (bundleOne fb).1, Nat.max (bundleOne fa).2 (bundleOne fb).2)

/-! ### The weight path's tables (R313, R408) -/

/-- The table of a tag, if a slot holds it. -/
def MState.tab (m : MState) (tensor : BitVec 12) (block : Nat) : Option TabSlot :=
  m.tabs.find? fun t => t.tensor == tensor && t.block == block

/-- Puts a slot first; the less recently used of two makes room. -/
def MState.useTab (m : MState) (t : TabSlot) : MState :=
  { m with tabs := (t :: m.tabs.filter fun x => !(x.tensor == t.tensor && x.block == t.block)).take 2 }

/-- A table read on demand (R313): the decode waits until it has arrived. -/
def tableFor (k : Strand) (o : MOp) (b : Nat) : Op (List Byte) := do
  let c ← curCore
  let tag := BitVec.ofNat 12 o.t
  match c.ms.tab tag (o.c0 + b) with
  | some ⟨x, y, some tb, z, pc, w⟩ =>
    modM fun m => m.useTab ⟨x, y, some tb, z, pc, w⟩
    return tb
  | some _ =>
    modCur fun c => c.stat 5 1
    holdOp
  | none =>
    modCur fun c => c.stat 5 1
    let (a, _) ← elemAcc o.slot o.t o.d [o.c0 + b]
    let tb ← opRead k a 16
    modM fun m => m.useTab { tensor := tag, block := o.c0 + b, table := some tb }
    return tb

/-- `mtab` (R408). -/
def execMtab (tk : Tok) (two : Bool) (t : TRef) (s : State) : Host.Outcome State Fault Refusal :=
  nx (runM 2 tk (tabCheck t) (pure ()) (do
    let o ← mOperand t
    let h ← heldNow .m
    (List.range (if two then 2 else 1)).forM fun i => do
      let tag := BitVec.ofNat 12 o.t
      let new : TabSlot := ⟨tag, o.c0 + i, none, t.slot, h.pc, h.words.headD 0⟩
      modM fun m => m.useTab ((m.tab tag (o.c0 + i)).getD new)
    modify fun s => s.push (.tableArrival s.cur)) s)

/-- `table_arrival` (R313, R408): the oldest requested table is read: it arrives, or its slot empties and the fault is
raised on M with the `mtab`'s pc and head word. A tile that is not present keeps it waiting. -/
def execTableArrival (core : BitVec 7) (s : State) : Host.Outcome State Fault Refusal :=
  nx (match (s.core core).ms.tabs.reverse.find? (fun t => t.table.isNone) with
  | none => s
  | some t =>
    let read : Op (List Byte) := do
      let (n, d) ← slotDesc t.slot
      let (a, _) ← elemAcc t.slot n d [t.block]
      opRead .m a 16
    let drop := fun (s : State) => s.modCore core fun c =>
      { c with ms := { c.ms with tabs := c.ms.tabs.filter fun x => !(x.tensor == t.tensor && x.block == t.block) } }
    match read.run { s with cur := core, ir := [t.word] } with
    | (.ok bs, s') => s'.modCore core fun c =>
        { c with ms := { c.ms with tabs := c.ms.tabs.map fun x => if x == t then { t with table := some bs } else x } }
    | (.error (.fault f), s') => (drop s').takeFault core .m t.pc t.word f
    | (.error _, s') => s')

/-! ### Dense and codebook products (R403 to R405) -/

/-- NP48 at a command's completion (R274, log 10): what the array left, the sampled rows, the offset, and SAMPLER. -/
def np48Finish (one : Bool) (rows cols : Nat) : Op Unit := do
  let s ← get
  let m := (s.core s.cur).ms
  let t := m.tile one
  let within := Config.np48Within s.freeN
  let near := fun (x : Nat) (w : BitVec 128) =>
    let r := Config.np48Low (s.freeN + x)
    let v := if within then (w &&& ~~~0xFF) ||| (r &&& 0xFF) else r
    if wState w.toInt || wState v.toInt then w else v
  let xs := (List.range rows).flatMap fun i => (List.range cols).map fun j => tileIdx i j
  let u := xs.foldl (fun (u : Tile) x => u.putEl x (near x (SMap.get 0 t.el x)) false) t
  let sampled := (List.range rows).filter fun i => i % 64 == m.sampOff.toNat
  let bad := sampled.filter fun i => (List.range cols).any fun j =>
    (SMap.get 0 u.el (tileIdx i j)) >>> 8 != (SMap.get 0 t.el (tileIdx i j)) >>> 8
  let sat := fun (v : W32) (n : Nat) => BitVec.ofNat 32 (Nat.min (v.toNat + n) (2 ^ 32 - 1))
  modify fun s => { s with freeN := s.freeN + 8192 }
  modM fun m => { m.setTile one u with sampled := sat m.sampled sampled.length, mismatch := sat m.mismatch bad.length, sampOff := m.sampOff + 1 }
  modCur fun c => (c.count 21 sampled.length).count 22 bad.length
  let m := (← curCore).ms
  if m.bnd ≠ 0 ∧ 1024 ≤ m.sampled.toNat ∧ m.mismatch.toNat * 65536 > m.bnd.toNat * m.sampled.toNat then
    modCur fun c => c.count 23 1
    throw (.done ⟨kSampler, 0, BitVec.ofNat 320 (m.mismatch.toNat + m.sampled.toNat * 2 ^ 64), false⟩)

/-- Adds the products of some k values to the tile (R404): `as_ i` and `bs` hold the values of A row i and of the B rows. -/
def addBundle (p : Nat) (rows cols : Nat) (as_ : List (List Val)) (bs : List (List Val)) (t : Tile) : Tile :=
  (List.range rows).foldl (fun t i => (List.range cols).foldl (fun t j =>
    let ps := ((as_.getD i []).zip bs).map fun x => (x.1, x.2.getD j defNan)
    if p = 3 then contributeGroup t (tileIdx i j) ps
    else ps.foldl (fun t x => contribute p t (tileIdx i j) x.1 x.2) t) t) t

/-- A dense command (R404, R405): bundle by bundle from POINT on. `tab` is the table tensor of `mmc`. -/
def denseOp (m : MulArgs) (tab : Option TRef) : Op Unit := do
  let p := m.prof.toNat
  let (rows, cols, kk) := geoOf (← pr .m m.g.toNat)
  let a ← mOperand m.a
  let b ← mOperand m.b
  let fa ← a.code (profFormats p).2
  let fb ← b.code (bFormats p tab.isSome).2
  modTile m.tile fun t => t.anchorAuto p (a.d.sceil.toInt + b.d.sceil.toInt + 8)
  let (bs, cyc) := bundleOf fa fb
  let step := if p = 3 then 4 else 1
  let nb := (kk + bs - 1) / bs
  let n0 := (← heldNow .m).point
  let tabOf ← match tab with
    | none => pure noTable
    | some r => do
      let o ← mOperand r
      pure (tableFor .m o)
  (List.range ((nb - n0 + step - 1) / step)).forM fun i => do
    let n := n0 + step * i
    let ks := (List.range (Nat.min ((n + step) * bs) kk - n * bs)).map (n * bs + ·)
    let av ← (List.range rows).mapM fun i => a.vals fa (a.rest i) noTable ks
    let bv ← ks.mapM fun k =>
      if tab.isSome then do
        let vs ← b.vals fb (b.cs.drop 1) tabOf ((List.range cols).map (64 * k + ·))
        return vs.map fun v => decodeVal 3 (encodeVal 3 rne false false v)
      else b.vals fb (b.rest k) noTable (List.range cols)
    modTile m.tile (addBundle p rows cols av bv)
    modHeld .m fun h => { h with point := Nat.min (n + step) nb, progress := .part }
    modCur fun c => c.stat 6 (cyc * (Nat.min (n + step) nb - n))
  modCur fun c => c.stat 6 8
  if p = 48 then np48Finish m.tile rows cols

/-- `mmd` (R403, R404). -/
def execMmd (tk : Tok) (m : MulArgs) (s : State) : Host.Outcome State Fault Refusal :=
  nx (runM 3 tk (mulCheck m false) (geoCheck m) (denseOp m none) s)

/-- `mmc` (R403, R404). -/
def execMmc (tk : Tok) (m : MulArgs) (tab : TRef) (s : State) : Host.Outcome State Fault Refusal :=
  nx (runM 4 tk (do mulCheck m true; tabCheck tab) (geoCheck m) (denseOp m (some tab)) s)

/-! ### Readout, images, merging (R409 to R412) -/

/-- The rounding code of a readout (R268, R409). -/
def mrdCode (r : MrdArgs) : Nat := if windowProf r.prof.toNat then (if r.prof.toNat = 1 then 4 else 0) else r.rm.toNat

/-- One element of a readout (R410). -/
def mrdElem (r : MrdArgs) (f : Nat) (t : Tile) (i j : Nat) : Nat :=
  let mode := rmode (mrdCode r) i j
  let p := r.prof.toNat
  if p = 5 ∨ p = 6 then convertBits 0x13 f mode r.sat (t.lowAt (tileIdx i j)).toNat
  else encodeVal f mode r.sat false (t.value p (tileIdx i j))

/-- The checks of `mrd` on its words and descriptors (R399, R409). -/
def mrdCheck (r : MrdArgs) : Op Unit := do
  trefCheck ⟨r.d.slot, r.d.pcrd⟩
  writable r.d.slot
  let (t, d) ← slotDesc r.d.slot
  let det := detT t r.d.slot.toNat 0 0
  need (decide (r.d.pbox.toNat + 2 ≤ 32)) kTensor 4 det
  need (d.format != 0 && d.format != 0xFF && decide (2 ≤ d.rank)) kTensor 4 det
  match r.ovf with
  | none => pure ()
  | some o => do
    trefCheck o
    writable o.slot

/-- The check of the box of `mrd` (R409). -/
def mrdBox (r : MrdArgs) : Op Unit := do
  let (t, _) ← slotDesc r.d.slot
  let n := (← pr .m r.d.pbox.toNat).toNat
  let m := (← pr .m (r.d.pbox.toNat + 1)).toNat
  need (decide (n ≠ 0 ∧ m ≠ 0 ∧ r.row0.toNat + m ≤ 128 ∧ r.col0.toNat + n ≤ 64)) kTensor 4 (detT t r.d.slot.toNat 0 0)

/-- The elements that a readout writes, with their coordinates: `n` columns of `m` rows (R409, R410). -/
def mrdElems (r : MrdArgs) (f : Nat) (t : Tile) (cs : List Nat) (n m : Nat) : List (List Nat × Nat) :=
  (List.range m).flatMap fun i => (List.range n).map fun j =>
    ((cs.getD 0 0 + j) :: (cs.getD 1 0 + i) :: cs.drop 2, mrdElem r f t (r.row0.toNat + i) (r.col0.toNat + j))

/-- The pieces of the OVF operand of a readout: 8 bytes for each row (R409). -/
def mrdOvf (r : MrdArgs) (t : Tile) (n m : Nat) : Op (List WPiece) := do
  match r.ovf with
  | none => return []
  | some o =>
    let c := (← pr .m o.pcrd.toNat).toNat
    let rows ← (List.range m).mapM fun i => do
      let a ← linAcc o.slot (c + 8 * i) 8 8
      let bits := (List.range n).foldl (fun v j => if t.ovfAt (tileIdx (r.row0.toNat + i) (r.col0.toNat + j)) then v + 2 ^ j else v) 0
      return linWPieces a (leBytes 8 bits)
    return rows.flatten

/-- A tile with the elements that a readout with CLR has read made zero (R409). -/
def Tile.clearBox (t : Tile) (r : MrdArgs) (n m : Nat) : Tile :=
  (List.range m).foldl (fun t i => (List.range n).foldl (fun t j =>
    let x := tileIdx (r.row0.toNat + i) (r.col0.toNat + j)
    { t with el := SMap.put 0 t.el x 0, ovf := t.ovf &&& ~~~((1 : BitVec 8192) <<< x) }) t) t

/-- `mrd` (R409, R410). -/
def execMrd (tk : Tok) (r : MrdArgs) (s : State) : Host.Outcome State Fault Refusal :=
  nx (runM 3 tk (mrdCheck r) (mrdBox r) (do
    let (t, d) ← slotDesc r.d.slot
    let cs ← coordsAt .m r.d.pcrd.toNat d.rank
    let n := (← pr .m r.d.pbox.toNat).toNat
    let m := (← pr .m (r.d.pbox.toNat + 1)).toNat
    let tl ← tileOf r.tile
    let os ← mrdOvf r tl n m
    writePieces .m (elemPieces .m r.d.slot t d (mrdElems r d.format tl cs n m) ++ os)
    if r.clr then modTile r.tile fun t => t.clearBox r n m) s)

/-- Bytes of a tile image. -/
def imageLen : Nat := 135168

/-- `mst` (R411). -/
def execMst (tk : Tok) (tile : Bool) (t : TRef) (s : State) : Host.Outcome State Fault Refusal :=
  nx (runM 2 tk (do trefCheck t; writable t.slot) (pure ()) (do
    let a ← linAcc t.slot (← pr .m t.pcrd.toNat).toNat imageLen 64
    writePieces .m (linWPieces a (← tileOf tile).image)) s)

/-- `mld` (R411). -/
def execMld (tk : Tok) (tile : Bool) (t : TRef) (s : State) : Host.Outcome State Fault Refusal :=
  nx (runM 2 tk (trefCheck t) (pure ()) (do
    let a ← linAcc t.slot (← pr .m t.pcrd.toNat).toNat imageLen 64
    let bs ← readChecked .m a imageLen
    modTile tile fun _ => Tile.ofImage bs) s)

/-- Merges a row of an image into a row of a tile (R307, R412). -/
def mergeRow (p : Nat) (anchor : Int) (i : Nat) (els : List (BitVec 128)) (ovf : Nat) (t : Tile) : Tile :=
  (List.range 64).foldl (fun t j => mergeEl p t (tileIdx i j) (els.getD j 0) anchor (ovf.testBit j)) t

/-- Merges the rows of an image into a tile in ascending order from POINT on (R307, R412): `c` is the image's first byte. -/
def mergeRows (p : Nat) (tile : Bool) (slot : BitVec 5) (c row0 rows : Nat) (anchor : Int) : Op Unit := do
  let n0 := (← heldNow .m).point
  (List.range (rows - n0)).forM fun r => do
    let i := row0 + n0 + r
    let els ← readChecked .m (← linAcc slot (c + 4096 + 1024 * i) 1024 64) 1024
    let ov ← readChecked .m (← linAcc slot (c + 64 + 8 * i) 8 8) 8
    modTile tile (mergeRow p anchor i ((chunks 16 64 els).map (leBV 128)) (leNat ov))
    modHeld .m fun h => { h with point := n0 + r + 1, progress := .part }
    modCur fun c => c.count 19 1

/-- `mmerge` (R307, R412): the image's anchor, then its rows. -/
def execMmerge (tk : Tok) (prof : BitVec 6) (tile : Bool) (t : TRef) (row0 : BitVec 7) (rows : BitVec 8) (s : State) :
    Host.Outcome State Fault Refusal :=
  nx (runM 3 tk (do
    trefCheck t
    let (n, _) ← slotDesc t.slot
    need (decide (rows ≠ 0 ∧ row0.toNat + rows.toNat ≤ 128)) kTensor 4 (detT n t.slot.toNat 0 0)) (pure ()) (do
    let c := (← pr .m t.pcrd.toNat).toNat
    let hd ← readChecked .m (← linAcc t.slot c 64 64) 64
    let anchor := (leBV 16 (hd.take 2)).toInt
    modTile tile fun u => u.anchorAuto prof.toNat anchor
    mergeRows prof.toNat tile t.slot c row0.toNat rows.toNat anchor) s)

/-! ### Counters (R413, R414) -/

/-- `mstat` (R413, R414). -/
def execMstat (tk : Tok) (slot c : BitVec 5) (clr : Bool) (s : State) : Host.Outcome State Fault Refusal :=
  nx (runM 1 tk (do slotBound slot; writable slot) (pure ()) (do
    let at_ := fld (← pr .m c.toNat) 0 48
    let a ← linAcc slot at_ 64 64
    writePieces .m (linWPieces a ((← curCore).ms.stats.flatMap fun v => bvBytes 8 v))
    if clr then modM fun m => { m with stats := List.replicate 8 0 }) s)

/-- `msamp` (R413, R414). -/
def execMsamp (tk : Tok) (bnd : Bool) (slot c : BitVec 5) (clr : Bool) (s : State) : Host.Outcome State Fault Refusal :=
  nx (runM 1 tk (do slotBound slot; writable slot) (pure ()) (do
    let v ← pr .m c.toNat
    let a ← linAcc slot (fld v 0 48) 16 16
    let m := (← curCore).ms
    writePieces .m (linWPieces a (bvBytes 4 m.sampled ++ bvBytes 4 m.mismatch ++ bvBytes 2 m.bnd ++
      [BitVec.ofNat 8 m.sampOff.toNat] ++ List.replicate 5 0))
    if clr then modM fun m => { m with sampled := 0, mismatch := 0 }
    if bnd then modM fun m => { m with bnd := v.extractLsb' 48 16 }) s)

end Sys2Proof.Machine
end

