-- ==== Sys2Proof/Machine/Sparse.lean ====
section
/-! DEFINITION. The sparse and N:M commands: the metadata streams and the front end of the array, core cycle by core cycle
(R297 to R311, R406, R407, R465). -/

namespace Sys2Proof.Machine

/-! ### Metadata (R297, R298) -/

/-- Bytes of an item. -/
def itemBytes (kind : Nat) : Nat :=
  match kind with
  | 1 => 4
  | 2 => 16
  | 5 => 2
  | 6 => 8
  | _ => 1

/-- M, N and position bits of an N:M kind; none for the others. -/
def nmOf (kind : Nat) : Option (Nat × Nat × Nat) :=
  match kind with
  | 3 => some (4, 2, 2)
  | 4 => some (4, 1, 2)
  | 5 => some (8, 4, 3)
  | _ => none

/-- The header check of R298 and R406, for streams of `rows` rows and extent `k`. -/
def MState.header (m : MState) (slot : Nat) (kinds : List Nat) (rows k : Nat) : Option MHdr :=
  let b := SMap.read 0 m.index (4096 * slot) 16
  let at_ := fun (lo n : Nat) => leNat ((b.drop lo).take n)
  let kind := at_ 0 1
  let ns := at_ 1 1
  let items := at_ 8 4
  let vals := at_ 12 4
  let fine := match nmOf kind with
    | some (mm, n, _) => decide (items = rows * ((k + mm - 1) / mm) ∧ vals = n * items)
    | none => if kind = 1 then items == vals else items == k
  if kinds.contains kind && decide (1 ≤ ns ∧ slot + ns ≤ 16 ∧ at_ 2 2 = rows ∧ at_ 4 4 = k ∧ 1 ≤ k ∧ k ≤ 65536) && fine then
    some ⟨kind, slot, ns, items, vals⟩
  else none

/-- Does item n lie within the slots that the stream spans (R309)? -/
def MHdr.holds (h : MHdr) (n : Nat) : Bool := decide (16 + itemBytes h.kind * (n + 1) ≤ 4096 * h.nslots)

/-- Item n as a number. -/
def MState.item (m : MState) (h : MHdr) (n : Nat) : Nat :=
  leNat (SMap.read 0 m.index (4096 * h.slot + 16 + itemBytes h.kind * n) (itemBytes h.kind))

/-- Bits set below `w`. -/
def popBelow (v w : Nat) : Nat := ((List.range w).filter fun i => v.testBit i).length

/-- The elements (k, row) that an A item selects, in order (R298). -/
def itemElems (h : MHdr) (rows n raw : Nat) : List (Nat × Nat) :=
  match nmOf h.kind with
  | some (mm, c, pb) => (List.range c).map fun t => (mm * (n / rows) + raw / 2 ^ (pb * t) % 2 ^ pb, n % rows)
  | none =>
    if h.kind = 1 then [(raw % 65536, raw / 65536)]
    else ((List.range 128).filter fun i => raw.testBit i).map fun i => (n, i)

/-- The greatest k of an item (R309). -/
def itemTop (h : MHdr) (rows n raw : Nat) : Nat :=
  if h.kind = 2 then n else (itemElems h rows n raw).foldl (fun a e => Nat.max a e.1) 0

/-- Lexicographic order of (k, row). -/
def kLess (a b : Nat × Nat) : Bool := decide (a.1 < b.1) || (a.1 == b.1 && decide (a.2 < b.2))

/-- The first failing position of an N:M item: subcode 3 or 4 (R309). -/
def nmFault : List Nat → List (Nat × Nat) → Nat
  | _, [] => 0
  | seen, (k, _) :: r =>
    if k < seen.headD 0 then 3
    else if seen.contains k then 4
    else nmFault (k :: seen) r

/-- The METAFAULT subcode of an A item's own checks, 0 when it passes: a k beyond K before the others (R309, R465). -/
def MRun.itemFault (r : MRun) (m : MState) (n raw : Nat) : Nat :=
  let (rows, _, kk) := r.geo
  let el := itemElems r.ah rows n raw
  if kk ≤ itemTop r.ah rows n raw then 2 else
  match nmOf r.ah.kind with
  | some (_, c, pb) => if raw / 2 ^ (c * pb) ≠ 0 then 6 else nmFault [] el
  | none =>
    if r.ah.kind = 1 then
      let e := el.headD (0, 0)
      if rows ≤ e.2 then 1
      else if n ≠ 0 && !kLess ((itemElems r.ah rows (n - 1) (m.item r.ah (n - 1))).headD (0, 0)) e then 3
      else 0
    else if raw / 2 ^ rows ≠ 0 then 1
    else if r.ah.vals < r.apop + el.length then 5
    else 0

/-- Running popcount of the B masks of rows 0 to k − 1. -/
def MState.maskSum (m : MState) (h : MHdr) (k : Nat) : Nat :=
  (List.range k).foldl (fun a i => a + popBelow (m.item h i) 64) 0

/-- The B items up to `top`, checked from `bchk` on (R309, R465): the subcode and item of the first that fails. -/
def MRun.bFault (r : MRun) (m : MState) (h : MHdr) (top : Nat) : Option (Nat × Nat) :=
  let (_, _, kk) := r.geo
  let start := m.maskSum h r.bchk
  let step := fun (acc : Nat × Option (Nat × Nat)) (d : Nat) =>
    let i := r.bchk + d
    match acc.2 with
    | some _ => acc
    | none =>
      if !h.holds i then (acc.1, some (6, i))
      else
        let c := acc.1 + popBelow (m.item h i) 64
        if h.vals < c then (c, some (5, i))
        else if i + 1 = kk ∧ c < h.vals then (c, some (5, kk))
        else (c, none)
  ((List.range (top + 1 - r.bchk)).foldl step (start, none)).2

/-- Is B row k nonempty (R299)? -/
def MRun.rowOn (r : MRun) (m : MState) (k : Nat) : Bool :=
  match r.bh with
  | none => true
  | some h => h.holds k && m.item h k != 0

/-- DETAIL of METAFAULT (R240, R309). -/
def metaDet (seq : W32) (item : Nat) (b : Bool) : BitVec 320 :=
  BitVec.ofNat 320 (seq.toNat + (item + if b then 2 ^ 31 else 0) * 2 ^ 64)

/-- Changes the sparse command of the core that acts. -/
def modRun (f : MRun → MRun) : Op Unit := modM fun m => { m with run := m.run.map f }

/-! ### Starting and ending a command (R305, R306, R406, R407) -/

/-- The helper rows of each split output row (R306): empty when splitting does not apply. -/
def splitRows (cfg : Word) (rows : Nat) : List (Nat × List Nat) :=
  let es := (List.range 4).map fun j => (fld cfg (14 * j + 8) 7, fld cfg (14 * j + 15) 2)
  let act := es.foldl (fun (acc : List (Nat × Nat)) e => if e.2 = 0 || acc.any (·.1 == e.1) then acc else acc ++ [e]) []
  if rows + sumL (act.map (·.2)) ≤ 128 then
    (act.foldl (fun (acc : List (Nat × List Nat) × Nat) e =>
      (acc.1 ++ [(e.1, (List.range e.2).map fun i => acc.2 - i)], acc.2 - e.2)) ([], 127)).1
  else []

/-- A malformed header (R298, R406): METAFAULT 6 at item 0. -/
def badHeader {α : Type} (seq : W32) (b : Bool) : Op α := do
  modCur fun c => (c.stat 7 1).count 20 1
  flt kMeta 6 (metaDet seq 0 b)

/-- Starts a sparse command at its POINT (R298, R310, R402). -/
def sparseStart (m : MulArgs) (aslot : BitVec 4) (bslot : Option (BitVec 4)) (kinds : List Nat) : Op Unit := do
  let p := m.prof.toNat
  let (rows, cols, kk) := geoOf (← pr .m m.g.toNat)
  let h ← heldNow .m
  let seq := h.seq.getD 0
  let a ← mOperand m.a
  let b ← mOperand m.b
  let fa ← a.code (profFormats p).2
  let fb ← b.code (bFormats p false).2
  modTile m.tile fun t => t.anchorAuto p (a.d.sceil.toInt + b.d.sceil.toInt + 8)
  let ms := (← curCore).ms
  match ms.header aslot.toNat kinds rows kk with
  | none => badHeader seq false
  | some ah =>
    let bh ← match bslot with
      | none => pure none
      | some n =>
        match ms.header n.toNat [6] cols kk with
        | some h => pure (some h)
        | none => badHeader seq true
    let split := splitRows ms.cfg rows
    modTile m.tile fun t => split.foldl (fun t e => e.2.foldl Tile.zeroRow t) t
    let apop := if ah.kind = 2 then (List.range h.point).foldl (fun n i => n + popBelow (ms.item ah i) 128) 0 else 0
    let run : MRun := ⟨m, ah, bh, seq, fld ms.cfg 0 4 + 1, (rows, cols, kk), fa, fb, split, 0, h.point, apop, 0, none, [], false, none, 0, 0, [], [], [], [], [], [], [], 0, 0, none, false⟩
    modM fun s => { s with run := some run }

/-- A sparse command (R407): starts, waits while its cycles run, and ends as the walk ended. -/
def sparseOp (m : MulArgs) (aslot : BitVec 4) (bslot : Option (BitVec 4)) (kinds : List Nat) : Op Unit := do
  match (← curCore).ms.run with
  | none => do
    sparseStart m aslot bslot kinds
    holdOp
  | some r => do
    modHeld .m fun h => { h with point := r.item, progress := if r.item = 0 then .none else .part }
    holdUnless r.fin
    modCur fun c => c.count 16 r.loads.length
    modM fun s => { s with run := none }
    match r.bad with
    | some (kind, sub, det) => flt kind sub det
    | none => if m.prof.toNat = 48 then np48Finish m.tile r.geo.1 r.geo.2.1

/-- `mms` (R406, R407). -/
def execMms (tk : Tok) (m : MulArgs) (aslot : BitVec 4) (bslot : Option (BitVec 4)) (s : State) : Host.Outcome State Fault Refusal :=
  nx (runM 4 tk (mulCheck m false) (geoCheck m) (sparseOp m aslot bslot [1, 2]) s)

/-- `mmn` (R406, R407). -/
def execMmn (tk : Tok) (m : MulArgs) (aslot : BitVec 4) (bslot : Option (BitVec 4)) (s : State) : Host.Outcome State Fault Refusal :=
  nx (runM 4 tk (mulCheck m false) (geoCheck m) (sparseOp m aslot bslot [3, 4, 5]) s)

/-! ### The front end: ITEM (R300, R309) -/

/-- Ends the walk with a fault. -/
def endWalk (f : Nat × Nat × BitVec 320) : Op Unit := modRun fun r => { r with walk := 2, bad := some f, staged := none }

/-- Ends the walk with METAFAULT. -/
def metaEnd (sub item : Nat) (b : Bool) (seq : W32) : Op Unit := do
  modCur fun c => c.count 20 1
  endWalk (kMeta, sub, metaDet seq item b)

/-- The end of the stream (R309): a BITMAP count that falls short is a fault numbered NITEMS; otherwise DRAIN. -/
def streamEnd (r : MRun) : Op Unit :=
  if r.ah.kind = 2 ∧ r.apop < r.ah.vals then metaEnd 5 r.ah.items false r.seq
  else modRun fun r => { r with walk := 1 }

/-- Reads a B row (R299, R301): none where the column mask leaves an element out. -/
def fetchRow (r : MRun) (k : Nat) : Op (List (Option Val)) := do
  let (_, cols, _) := r.geo
  let b ← mOperand r.a.b
  match r.bh with
  | none => return (← b.vals r.bCode (b.rest k) noTable (List.range cols)).map some
  | some h =>
    let m := (← curCore).ms
    let mask := m.item h k
    let base := m.maskSum h k
    let vs ← b.vals r.bCode (b.cs.drop 1) noTable ((List.range (popBelow mask cols)).map (base + ·))
    return (List.range cols).map fun j => if mask.testBit j then vs[popBelow mask j]? else none

/-- The k values whose slots item n needs and does not have (R300, R301): an N:M kind takes those of the group with its first item. -/
def MRun.newKs (r : MRun) (m : MState) (ents : List (Nat × Nat × Val)) : List Nat :=
  let (rows, _, kk) := r.geo
  match nmOf r.ah.kind with
  | some (mm, _, _) =>
    let g := r.item / rows
    if r.group = some g then []
    else ((List.range mm).map (mm * g + ·)).filter fun k => decide (k < kk) && r.rowOn m k
  | none => ((ents.map (·.1)).eraseDups).filter fun k => !(r.slots.any (·.k == k))

/-- SLOT (R301): allocates slots for the k-steps `ks`, and queues their loads. -/
def MRun.allocate (r : MRun) (ks : List Nat) : MRun :=
  let r := ks.foldl (fun r k =>
    let at_ := Nat.max r.cycle r.loadAt + 4
    let row := ((r.rows.find? (·.1 == k)).map (·.2)).getD []
    { r with slots := r.slots ++ [{ q := r.q, k := k, loaded := at_, row := row }], loads := r.loads ++ [at_], q := r.q + 1, loadAt := at_ }) r
  { r with slotsOn := true, group := some (r.item / r.geo.1) }

/-- Fetches the B rows that an item with entries meets first, and stages it. A row that no item selects is never read (R254). -/
def stageItem (r : MRun) (ents : List (Nat × Nat × Val)) : Op Unit := do
  let had := r.rows.filter fun e => r.slots.any (·.k == e.1)
  let ks := ((ents.map (·.1)).eraseDups).filter fun k => !(had.any (·.1 == k))
  let rows ← ks.mapM fun k => do return (k, ← fetchRow r k)
  let fill := fun (sl : MSlot) => match rows.find? (·.1 == sl.k) with
    | some e => { sl with row := e.2 }
    | none => sl
  modRun fun r => { r with staged := some ents, rows := had ++ rows, slots := r.slots.map fill, slotsOn := false }

/-- An item without entries is passed over in the cycle (R300); the first item of an N:M group takes the group's slots all the same (R301), and
stalls where they are not free (R311). -/
def passItem (top sel : Nat) : Op Bool := do
  let m := (← curCore).ms
  match m.run with
  | none => return false
  | some r =>
    let ks := r.newKs m []
    if 16 < r.slots.length + ks.length then do
      modCur fun c => c.stat 2 1
      return false
    else do
      modRun fun r => { r.allocate ks with item := r.item + 1, bchk := Nat.max r.bchk (top + 1), apop := r.apop + sel, slotsOn := false }
      return true

/-- ITEM for item n (R300, R309, R465): answers whether to go on to the next item in this cycle. -/
def itemStage : Op Bool := do
  let m := (← curCore).ms
  match m.run with
  | none => return false
  | some r =>
    let n := r.item
    let (rows, _, kk) := r.geo
    if r.walk ≠ 0 || r.staged.isSome then return false
    else if r.ah.items ≤ n then do
      streamEnd r
      return false
    else if !r.ah.holds n then do
      metaEnd 6 n false r.seq
      return false
    else
      let raw := m.item r.ah n
      let top := Nat.min (itemTop r.ah rows n raw) (kk - 1)
      match r.bh.bind fun h => r.bFault m h top with
      | some (sub, i) => do
        metaEnd sub i true r.seq
        return false
      | none =>
        let sub := r.itemFault m n raw
        if sub ≠ 0 then do
          metaEnd sub n false r.seq
          return false
        else
          let el := itemElems r.ah rows n raw
          let per := match nmOf r.ah.kind with
            | some (_, c, _) => c * n
            | none => if r.ah.kind = 1 then n else r.apop
          let on := (el.zipIdx).filter fun e => r.rowOn m e.1.1
          let a ← mOperand r.a.a
          let vs ← a.vals r.aCode (a.cs.drop 1) noTable (on.map fun e => per + e.2)
          let ents := (on.zip vs).map fun e => (e.1.1.1, e.1.1.2, e.2)
          if ents.isEmpty then passItem top el.length
          else do
            stageItem r ents
            modRun fun r => { r with bchk := Nat.max r.bchk (top + 1) }
            return false

/-- ITEM until an item has entries or the walk ends; a value that cannot be read ends the walk with its own kind
(R299). -/
def itemLoop : Nat → Op Unit
  | 0 => pure ()
  | fuel + 1 => do
    match ← tryOp itemStage with
    | .ok true => itemLoop fuel
    | .ok false => pure ()
    | .error (.fault f) => endWalk (f.kind, f.sub, f.det)
    | .error e => throw e

/-! ### The array: retire, drain, push, sample, release (R301 to R306) -/

/-- Adds one entry's products, or under NP3 collects it in its group of four (R270, R407). -/
def retireEl (p : Nat) (arr : Nat) (a : Val) (row : List (Option Val)) (t : Tile) : Tile :=
  (row.zipIdx).foldl (fun t e => match e.1 with
    | some b => contribute p t (tileIdx arr e.2) a b
    | none => t) t

/-- Adds a group of NP3 to an array row, column by column. -/
def addGroup (cols arr : Nat) (g : List (Val × List (Option Val))) (t : Tile) : Tile :=
  (List.range cols).foldl (fun t j =>
    contributeGroup t (tileIdx arr j) (g.filterMap fun e => (e.2.getD j none).map fun b => (e.1, b))) t

/-- Retires the head entry of an array row. -/
def retireRow (arr : Nat) : Op Unit := do
  match (← curCore).ms.run with
  | none => pure ()
  | some r =>
    match r.queues.find? (·.arr == arr) with
    | none => pure ()
    | some e =>
      match r.slots.find? (·.q == e.q) with
      | none => pure ()
      | some sl =>
        let rate := if 16 ≤ (formatBits r.aCode).getD 8 then 2 else 1
        let free := match r.last.find? (·.1 == arr) with
          | some (_, c) => decide (c + rate ≤ r.cycle)
          | none => true
        if sl.ready && free then do
          let p := r.a.prof.toNat
          if p = 3 then
            let g := ((r.carry.find? (·.1 == arr)).map (·.2)).getD [] ++ [(e.a, sl.row)]
            let others := r.carry.filter (·.1 != arr)
            if g.length = 4 then modTile r.a.tile (addGroup r.geo.2.1 arr g)
            modRun fun r => { r with carry := if g.length = 4 then others else others ++ [(arr, g)] }
          else modTile r.a.tile (retireEl p arr e.a sl.row)
          modRun fun r => { r with queues := r.queues.erase e, last := (arr, r.cycle) :: r.last.filter (·.1 != arr) }
          modCur fun c => c.count 17 1

/-- Phase 2 (R304): the oldest entry of the overflow buffer whose row queue has room moves there. -/
def MRun.drain (r : MRun) : MRun :=
  match r.overq.find? fun e => decide ((r.queues.filter (·.arr == e.arr)).length < 4) with
  | some e => { r with overq := r.overq.erase e, queues := r.queues ++ [e] }
  | none => r

/-- The member that takes the n-th entry of an output row (R306). -/
def MRun.member (r : MRun) (row n : Nat) : Nat :=
  match r.split.find? (·.1 == row) with
  | some (_, hs) => (row :: hs).getD (n % (1 + hs.length)) row
  | none => row

/-- Entries pushed so far for an output row. -/
def MRun.pushedOf (r : MRun) (row : Nat) : Nat := ((r.pushed.find? (·.1 == row)).map (·.2)).getD 0

/-- The staged entries with their array rows, in order. -/
def MRun.targets (r : MRun) (ents : List (Nat × Nat × Val)) : List MEntry :=
  (ents.foldl (fun (acc : List MEntry × List (Nat × Nat)) e =>
    let n := ((acc.2.find? (·.1 == e.2.1)).map (·.2)).getD (r.pushedOf e.2.1)
    let q := ((r.slots.find? (·.k == e.1)).map (·.q)).getD 0
    (acc.1 ++ [⟨r.member e.2.1 n, q, e.2.2⟩], (e.2.1, n + 1) :: acc.2)) ([], [])).1

/-- Does an entry fail the lag rule (R303)? -/
def MRun.lags (r : MRun) (e : MEntry) : Bool :=
  let others := ((r.queues ++ r.overq).filter (·.arr != e.arr)).map (·.q)
  match others with
  | [] => false
  | q :: qs => decide (e.q > qs.foldl Nat.min q + r.lag)

/-- The queue and overflow buffer after a push, and how many entries went to the buffer (R302). -/
def MRun.place (r : MRun) (es : List MEntry) : List MEntry × List MEntry × Nat :=
  es.foldl (fun acc e =>
    if (acc.1.filter (·.arr == e.arr)).length < 4 && !(acc.2.1.any (·.arr == e.arr)) then (acc.1 ++ [e], acc.2.1, acc.2.2)
    else (acc.1, acc.2.1 ++ [e], acc.2.2 + 1)) (r.queues, r.overq, 0)

/-- PUSH (R302): the staged item's entries enter the queues, and the front end goes on. -/
def pushItem (r : MRun) (es : List MEntry) (placed : List MEntry × List MEntry × Nat) (ents : List (Nat × Nat × Val)) :
    Op Unit := do
  modCur fun c => (c.stat 0 es.length).stat 1 placed.2.2
  let n := (itemElems r.ah r.geo.1 r.item ((← curCore).ms.item r.ah r.item)).length
  modRun fun r => { r with queues := placed.1, overq := placed.2.1, staged := none, item := r.item + 1, apop := r.apop + n }
  ents.forM fun e => modRun fun r => { r with pushed := (e.2.1, r.pushedOf e.2.1 + 1) :: r.pushed.filter (·.1 != e.2.1) }
  match (← curCore).ms.run with
  | some r => if r.ah.items ≤ r.item then streamEnd r
  | none => pure ()

/-- Phase 3 (R300 to R304): at most one item with entries is handled. -/
def frontEnd : Op Unit := do
  let m := (← curCore).ms
  match m.run with
  | none => pure ()
  | some r =>
    match r.staged with
    | none => pure ()
    | some ents =>
      if r.walk = 0 then do
        let ks := r.newKs m ents
        if !r.slotsOn && decide (16 < r.slots.length + ks.length) then modCur fun c => c.stat 2 1
        else do
          if !r.slotsOn then modRun fun r => r.allocate ks
          match (← curCore).ms.run with
          | none => pure ()
          | some r =>
            let es := r.targets ents
            let placed := r.place es
            if es.any r.lags then modCur fun c => c.stat 3 1
            else if 32 < placed.2.1.length then modCur fun c => c.stat 2 1
            else pushItem r es placed ents

/-- Has the front end handled every item that references k (R304)? -/
def MRun.handled (r : MRun) (m : MState) (k : Nat) : Bool :=
  r.walk != 0 || match nmOf r.ah.kind with
    | some (mm, _, _) => decide (r.geo.1 * (k / mm + 1) ≤ r.item ∨ r.ah.items ≤ r.item)
    | none =>
      if r.ah.kind = 2 then decide (k < r.item)
      else !((List.range (r.ah.items - r.item)).any fun i => r.ah.holds (r.item + i) && m.item r.ah (r.item + i) % 65536 == k)

/-- Phase 5 (R304): releases the lowest occupied slots while they may be released. -/
def MRun.release (m : MState) : Nat → MRun → MRun
  | 0, r => r
  | fuel + 1, r =>
    match r.slots with
    | [] => r
    | sl :: rest =>
      if r.handled m sl.k && !((r.queues ++ r.overq).any (·.q == sl.q)) then MRun.release m fuel { r with slots := rest }
      else r

/-- Merges a helper row into its output row, below the column count (R294), and clears it (R306). -/
def mergeHelper (p cols row h : Nat) (t : Tile) : Tile :=
  let t := (List.range cols).foldl (fun t j =>
    mergeEl p t (tileIdx row j) (SMap.get 0 t.el (tileIdx h j)) t.anchorI (t.ovfAt (tileIdx h j))) t
  t.zeroRow h

/-- The helpers in the order of R306. -/
def MRun.helpers (r : MRun) : List (Nat × Nat) := r.split.flatMap fun e => e.2.map fun h => (e.1, h)

/-- The groups of NP3 that end short (R270). -/
def flushGroups (r : MRun) : Op Unit := do
  r.carry.forM fun e => modTile r.a.tile (addGroup r.geo.2.1 e.1 e.2)
  modRun fun r => { r with carry := [] }

/-- One core cycle of the walk: the five phases of R304, then the end of the walk (R305). -/
def walkCycle : Op Unit := do
  match (← curCore).ms.run with
  | none => pure ()
  | some r0 =>
    itemLoop (r0.ah.items + 2 - r0.item)
    ((r0.queues.map (·.arr)).eraseDups).forM retireRow
    modRun MRun.drain
    frontEnd
    let m := (← curCore).ms
    match m.run with
    | none => pure ()
    | some r =>
      match r.slots.head? with
      | some sl => modCur fun c => c.statMax (r.q - 1 - sl.q)
      | none => pure ()
      modRun fun r => { MRun.release m 16 r with cycle := r.cycle + 1 }
      match (← curCore).ms.run with
      | none => pure ()
      | some r =>
        if r.walk ≠ 0 ∧ r.queues.isEmpty ∧ r.overq.isEmpty then do
          flushGroups r
          if r.helpers.isEmpty then modRun fun r => { r with fin := true } else modRun fun r => { r with merge := 1 }
        else if r.loads.any fun at_ => decide (at_ ≤ r.cycle) then
          modify fun s => s.push (.bRowLoadDone s.cur)

/-- One helper row is merged, and counted (R311). -/
def mergeOne (r : MRun) (h : Nat × Nat) : Op Unit := do
  modTile r.a.tile (mergeHelper r.a.prof.toNat r.geo.2.1 h.1 h.2)
  modCur fun c => c.count 18 1

/-- One core cycle of the merges: two for each helper row (R306). -/
def mergeCycle (r : MRun) : Op Unit := do
  let n := r.merge / 2
  if r.merge % 2 = 0 then
    match r.helpers[n - 1]? with
    | some (row, h) => do
      mergeOne r (row, h)
    | none => pure ()
  modRun fun r => { r with merge := r.merge + 1, fin := r.merge % 2 == 0 && decide (r.helpers.length ≤ n) }

/-- What one core cycle of a sparse command does (R304): CYCLES counts it. -/
def cycleOp (r : MRun) : Op Unit := do
  modCur fun c => c.stat 7 1
  if r.merge = 0 then walkCycle else mergeCycle r

/-- `matrix_cycle` (R304): one core cycle of a sparse command. A cycle in which a value is still to come changes nothing
but what waits for it (R304: memory latency does not enter the reference timing). -/
def execMatrixCycle (core : BitVec 7) (s : State) : Host.Outcome State Fault Refusal :=
  nx (match (s.core core).ms.run with
  | none => s
  | some r =>
    if r.fin then s
    else ((cycleOp r).run { s with cur := core, ir := (((s.core core).str .m).held.getD {}).words }).2)

/-- `b_row_load_done` (R301): loads that have run their four cycles make their slots loaded. -/
def execBRowLoadDone (core : BitVec 7) (s : State) : Host.Outcome State Fault Refusal :=
  nx (match (s.core core).ms.run with
  | none => s
  | some r =>
    let due := fun (sl : MSlot) => !sl.ready && decide (sl.loaded ≤ r.cycle)
    let (over_, left) := r.loads.partition fun at_ => decide (at_ ≤ r.cycle)
    s.modCore core fun c =>
      let slots := r.slots.map fun sl => if due sl then { sl with ready := true } else sl
      ({ c with ms := { c.ms with run := some { r with slots := slots, loads := left } } } : Core).count 16 over_.length)

/-- The skid of M at a halt (R231, R306, R310): no further item is handled, queued entries retire, helpers merge. A walk that had failed writes its
record, and its entry is FAULT (R300, R309). -/
def skidMatrix (r : MRun) : Op Unit := do
  modCur fun c => c.count 16 r.loads.length
  modRun fun r => { r with walk := Nat.max r.walk 1, loads := [], staged := none, last := [], slots := r.slots.map fun sl => { sl with ready := true } }
  (List.range (r.queues.length + r.overq.length + 1)).forM fun _ => do
    match (← curCore).ms.run with
    | none => pure ()
    | some r => do
      ((r.queues.map (·.arr)).eraseDups).forM retireRow
      modRun fun r => { r.drain with last := [] }
  match (← curCore).ms.run with
  | none => pure ()
  | some r => do
    flushGroups r
    (r.helpers.drop ((r.merge - 1) / 2)).forM (mergeOne r)
  let point := fun (p : Progress) => modHeld .m fun h => { h with point := r.item, progress := p }
  modM fun m => { m with run := none }
  match r.bad with
  | none => point (if r.item = 0 then .none else .part)
  | some (kind, sub, det) => do
    point .fault
    let h ← heldNow .m
    modify fun s => s.takeFault s.cur .m h.pc (h.words.headD 0) { kind := kind, sub := sub, det := det }

end Sys2Proof.Machine
end

