-- ==== Sys2Proof/Machine/XBase.lean ====
section
/-! DEFINITION. What the X commands share (R316, R317, R416, R469): operands, boxes, pieces, places, handing to the network
interface, and footprints. -/

namespace Sys2Proof.Machine

/-- Runs an operation of an X command: the strand stands at that command with the p registers it read at issue (R416). -/
def asCmd {α : Type} (m : XCmd) (body : Op α) : Op α := fun s =>
  let c := s.cur
  let st := (s.core c).str .x
  let h : Held := { pc := m.pc, words := [m.word], ps := m.ps, seq := some m.seq, mem := m.mem }
  let s1 := s.modCore c fun r => r.setStr .x { st with pc := m.pc, held := some h }
  match body.run { s1 with ir := [m.word] } with
  | (r, t) => (r, t.modCore c fun r => r.setStr .x { (r.str .x) with pc := st.pc, held := st.held })

/-- Changes the X strand's state. -/
def modX (f : XState → XState) : Op Unit := modCur fun c => { c with xs := f c.xs }

/-- An operand with a box (R335): tensor, descriptor, base coordinates and extents. -/
structure XBox where
  slot : BitVec 5
  t    : Nat
  d    : Desc
  cs   : List Nat
  ext  : List Nat
  deriving DecidableEq, Repr

/-- The operand of a TREF with a box. -/
def xbox (b : TBox) : Op XBox := do
  let (t, d) ← slotDesc b.slot
  return ⟨b.slot, t, d, ← coordsAt .x b.pcrd.toNat d.rank, ← coordsAt .x b.pbox.toNat d.rank⟩

/-- Elements of a box (R420). -/
def XBox.count (b : XBox) : Nat := prodL b.ext

/-- Coordinates of element e of a box, dimension 0 fastest (R319). -/
def XBox.at_ (b : XBox) (e : Nat) : List Nat :=
  ((b.cs.zip b.ext).foldl (fun (a : List Nat × Nat) x => (a.1 ++ [x.1 + a.2 % x.2], a.2 / x.2)) ([], e)).1

/-- DETAIL of an operand. -/
def XBox.det (b : XBox) : BitVec 320 := detT b.t b.slot.toNat 0 0

/-- Raises TENSORFAULT SHAPE for an operand unless a condition holds. -/
def XBox.shape (b : XBox) (ok : Bool) : Op Unit := need ok kTensor 4 b.det

/-- A destination of kind GENERATOR or RING is refused (R420, R426). -/
def XBox.writable (b : XBox) : Op Unit := do
  need (b.d.kind != 2) kGenwrite 0 b.det
  need (b.d.kind != 3) kRingwrite 0 b.det

/-- Raw elements of a box (R319): relaxed reads, or generated values. -/
def XBox.read (b : XBox) (es : List Nat) : Op (List Nat) := readElems .x b.slot b.t b.d (es.map b.at_)

/-- Runs of adjacent elements, each within one aligned 64-byte block, with their numbers (R317). -/
def xruns (slot : BitVec 5) (t : Nat) (d : Desc) (xs : List (Nat × List Nat)) : List (ERun × List Nat) :=
  xs.foldr (fun x rs =>
    let (tile, bits, ok) := d.spot x.2
    addWRun (2 ^ d.elog) ⟨slot.toNat, t, d, tile, bits / 8⟩ bits ok x.1 rs) []

/-- The first element of each piece of a box, and the end (R317). -/
def XBox.cuts (b : XBox) : List Nat :=
  ((xruns b.slot b.t b.d ((List.range b.count).map fun e => (e, b.at_ e))).map fun r => r.2.headD 0) ++ [b.count]

/-- The elements of piece n. -/
def cutElems (cuts : List Nat) (n : Nat) : List Nat :=
  let a := cuts.getD n 0
  (List.range (cuts.getD (n + 1) a - a)).map (a + ·)

/-- A piece about to be handed: where it lands, its bytes, the core whose lock word counts it, and what it was translated from. -/
structure Load where
  pa    : Nat
  bytes : List Byte
  dest  : Option Nat := none
  key   : Option FarKey := none
  deriving DecidableEq, Repr

/-- Where a write of a command lands on this package or another (R317, R318): held while the tile is not present, migrates
or has sharers. -/
def xPlace (a : Acc) : Op (Nat ⊕ (Nat × Nat)) := do
  match ← storePlace .x a 1 with
  | (some p, _) => pure p
  | (none, _) => holdOp

/-- Bytes for a run of a destination that lies on this package or another; checks its bounds (R317). -/
def xRunBytes (r : ERun) (w : Nat) (vs : List Nat) : Op (List Byte) := do
  need r.ok kTensor 3 r.acc.det
  runBytes .x w r vs

/-- Adds a piece to those at the network interface. -/
def addNet (p : Piece) : Op Unit := modX fun x => { x with net := x.net ++ [p] }

/-- The pieces that the cores have handed for this package are performed and acknowledged: what is to happen at a home happens behind them (R194, R218, R226). -/
def State.flushPieces (s : State) : State :=
  ((List.range 128).map (BitVec.ofNat 7)).foldl (fun s c => ((s.core c).xs.net.filter fun x => x.mem.isSome).foldl (fun s x =>
    let (pa, bs) := x.mem.getD (0, [])
    (s.bankWrite pa bs).modCore c fun r => r.acked x) s) s

/-- A packet between cores of this package (R26). -/
def State.corePkt (s : State) (len cls dst src : Nat) (body : PktBody) : Packet :=
  let (x, y, z) := s.fabric.pos
  ⟨BitVec.ofNat 128 (len + cls * 2 ^ 6 + dst * 2 ^ 16 + x * 2 ^ 32 + y * 2 ^ 41 + z * 2 ^ 49 + s.fabric.index * 2 ^ 96 + src * 2 ^ 105),
    body⟩

/-- A request is outstanding under a tag; a write has the key it came from. -/
def noteReq (m : XCmd) (tag key : Nat) (pk : Packet) (fk : Option FarKey := none) (det : BitVec 320 := 0) : Op Unit :=
  modify fun s => { s with waits := { tag := tag, core := s.cur, strand := .x, seq := m.seq, off := key, body := pk, key := fk, det := det } :: s.waits }

/-- Is a number in the scratchpad of another core? -/
def State.peer (s : State) (pa : Nat) : Bool := decide (scrBase ≤ pa) && scrCore pa != s.cur.toNat

/-- Sends blocks to another core's scratchpad as one write packet (R469). -/
def sendBlocks (m : XCmd) (lock : Bool) (core : Nat) (ls : List Load) : Op Unit := do
  let s ← get
  let tag := s.nextTag
  let pk := s.corePkt ls.length 0 core s.cur.toNat (.write (ls.map fun l => (l.pa, l.bytes)) tag)
  ls.forM fun l => addNet { seq := m.seq, n := l.bytes.length, tag := tag, lock := lock, dest := l.dest }
  modify fun s => { s with nextTag := tag + 1 }
  noteReq m tag m.point pk (ls.head?.bind (·.key))
  modify fun s => s.fromCore s.cur.toNat pk

/-- Hands pieces of this package in order: one run of them to each destination core as one packet, others singly. All go at once, and none until
there is room for all (R28, R318). -/
def handLocal (m : XCmd) (lock : Bool) (runs : List (List Load)) : Op Unit := do
  let s ← get
  let ls := runs.flatten
  farRoom ls.length
  (ls.filter fun l => !s.peer l.pa).forM fun l =>
    addNet { seq := m.seq, n := l.bytes.length, mem := some (l.pa, l.bytes), lock := lock, dest := l.dest }
  let far := ls.filter fun l => s.peer l.pa
  ((far.map fun l => scrCore l.pa).eraseDups).forM fun c => sendBlocks m lock c (far.filter fun l => scrCore l.pa = c)

/-- The further runs that travel in the same packet: whole consecutive blocks, at most 8 in all (R469). -/
def followUp (piece : Nat → Op (List Load)) : Nat → Nat → List Load → Op (List (List Load))
  | 0, _, _ => pure []
  | fuel + 1, n, prev => do
    let s ← get
    match (piece n).run s with
    | (.ok ls, t) =>
      if ls.length = prev.length ∧ (prev.zip ls).all (fun p => p.2.pa == p.1.pa + 64 && p.2.bytes.length == 64) then do
        set t
        return ls :: (← followUp piece fuel (n + 1) ls)
      else return []
    | _ => return []

/-- Hands piece `n` of a command, below `total`, with those that share its packet; answers how many runs. -/
def handRuns (m : XCmd) (lock : Bool) (n total : Nat) (piece : Nat → Op (List Load)) : Op Nat := do
  let l0 ← piece n
  let s ← get
  let whole := l0.all (fun l => l.pa % 64 == 0 && l.bytes.length == 64) && l0.any fun l => s.peer l.pa
  let more ← if whole then followUp piece (Nat.min 7 (total - n - 1)) (n + 1) l0 else pure []
  handLocal m lock (l0 :: more)
  return 1 + more.length

/-! ### Lock words, status and stamp locations (R416, R417) -/

/-- A location named by a slot and a p register: `n` bytes aligned to `n` (R416). -/
def xLoc (l : LockRef) (n : Nat) : Op Acc := do linAcc l.slot (← pr .x l.pc.toNat).toNat n n

/-- The lock word that a command names, if any; for a walk it lies in the buffer's tensor (R417). -/
def XKind.lockRef : XKind → Option LockRef
  | .copy c | .copyEnc c _ | .copyDec c _ | .copySt c _ => c.lk
  | .gather g | .scatter g => g.lk
  | .get lk _ _ _ => lk
  | .mcast lk _ _ _ => lk
  | .walk w => w.lk.map fun p => ⟨w.buf.slot, p⟩
  | _ => none

/-- The check of the lock word at start (R416). -/
def lockCheck (m : XCmd) : Op Unit := do
  match m.kind.lockRef with
  | none => pure ()
  | some l => do
    let _ ← xLoc l 16

/-- Destination cores that a list register names (R424): bytes up to the first 0xFF, each once. -/
def coreList (v : Word) : List Nat :=
  (((List.range 8).map fun k => fld v (8 * k) 8).takeWhile (· != 255)).eraseDups

/-- The check of a list (R424): not empty, every core on the issuer's die and of its partition. -/
def listCheck (v : Word) (slot t : Nat) : Op Unit := do
  let s ← get
  let w ← curCrew
  let cs := coreList v
  need (!cs.isEmpty) kTensor 4 (detT t slot 0 0)
  need (cs.all fun c => decide (c < 128 ∧ c / 32 = s.cur.toNat / 32) && (s.part w.part).ownsCore c) kTensor 5 (detT t slot 0 0)

/-- The places of one run under a list: a scratchpad, and then the same unit and offset of each listed core (R424). -/
def spread (a : Acc) (dests : Option (List Nat)) (bs : List Byte) (pa : Nat) : Op (List Load) := do
  let ctx := (← curCrew).ctx
  match dests with
  | none => return [⟨pa, bs, none, some (a.key ctx pa)⟩]
  | some cs => do
    need (decide (scrBase ≤ pa)) kTensor 5 a.det
    return cs.map fun c => let q := scrPa c ((pa - scrBase) % 2 ^ 22)
      ⟨q, bs, some c, some (a.key ctx q (some c))⟩

/-- A write of a command to another package of the domain, which acknowledges it (R52, R194): one of the command's pieces, counted in its lock word if
`lock` says so. -/
def ackWrite (m : XCmd) (a : Acc) (pkg pa : Nat) (bs : List Byte) (lock : Bool) : Op Unit := do
  let w ← curCrew
  let s ← get
  let tag := s.nextTag
  let body : PktBody := .write [(pa, bs)] tag
  addNet { seq := m.seq, n := bs.length, tag := tag, lock := lock }
  modify fun s => { s with nextTag := tag + 1 }
  noteReq m tag m.point (s.pkt 1 0 true (s.fabric.posOf pkg) s.cur s.windowNow body) (some (a.key w.ctx pa))
  modify fun s => s.fabricWrite s.cur pkg 1 body

/-- A word of 8 bytes at a home on another package is exchanged for another if it holds what is expected, and the blocks that go with it are written before
it (R123, R323). Another value there makes the command look again. -/
def xSwap (m : XCmd) (a : Acc) (pkg pa : Nat) (old new : Word) (blocks : List (Nat × List Byte)) : Op Unit := do
  let w ← curCrew
  match ← farCall .x pkg (2 ^ 67 + pa) (1 + blocks.length) 0 (fun tag => .swapIf pa old new blocks tag) a.det (some (a.key w.ctx pa)) with
  | .data _ bs =>
    if leBV 64 bs ≠ old then
      modify fun s => { s with waits := s.waits.filter fun w => !(w.core == s.cur && w.strand == .x && w.seq == m.seq && (match w.answer with | some (.data _ _) => true | _ => false)) }
      holdOp
  | _ => holdOp

/-- Holds while a packet of a command is not acknowledged: the next waits for it (R318, R423). -/
def oneAtATime (m : XCmd) : Op Unit := do holdUnless ((← curCore).xs.net.all fun p => p.seq != m.seq || p.mem.isSome)

/-- Hands bytes for one run to its place on another package of the domain (R52, R318). -/
def xFarWrite (m : XCmd) (a : Acc) (pkg pa : Nat) (bs : List Byte) (lock : Bool) : Op Unit := do
  oneAtATime m
  need (decide (pkg < (← get).fabric.packages)) kFscope 0 (detPkg pkg)
  farRoom 1
  ackWrite m a pkg pa bs lock

/-- Performs a write of a command whose place has been checked; on another package it is acknowledged before the command retires (R194). -/
def xPerform (m : XCmd) (a : Acc) (bs : List Byte) (place : Option (Nat ⊕ (Nat × Nat)) × Bool) : Op Unit :=
  match place.1 with
  | some (.inr (pkg, pa)) => ackWrite m a pkg pa bs false
  | _ => performPiece .x a bs false place

/-- Room for the writes of some checked places that go to other packages (R28). -/
def farRoomFor (places : List (Option (Nat ⊕ (Nat × Nat)) × Bool)) : Op Unit := farRoom (places.filter isFar).length

/-- Hands piece `n` of a command that writes runs of elements: `vals` gives the values of a run's elements. -/
def handElems (m : XCmd) (lock : Bool) (dests : Option (List Nat)) (w : Nat) (total : Nat) (n : Nat) (run : Nat → Option (ERun × List Nat))
    (vals : List Nat → Op (List Nat)) : Op Nat := do
  let one := fun (k : Nat) => do
    match run k with
    | none => flt kTensor 3
    | some (r, es) =>
      need r.ok kTensor 3 r.acc.det
      let p ← xPlace r.acc
      let bs ← xRunBytes r w (← vals es)
      return (r, p, bs)
  let (r, p, bs) ← one n
  match p with
  | .inr (pkg, pa) =>
    need dests.isNone kTensor 5 r.acc.det
    xFarWrite m r.acc pkg pa bs lock
    return 1
  | .inl _ =>
    handRuns m lock n total fun k => do
      let (r, p, bs) ← if k = n then pure (r, p, bs) else one k
      match p with
      | .inl pa => spread r.acc dests bs pa
      | .inr _ => holdOp

/-! ### Footprints (R316) -/

/-- Scratchpad units that some tiles of a tensor map, on any core of this package: 256 × core + unit. -/
def State.unitsOf (s : State) (d : Desc) (ts : List Nat) : List Nat :=
  if d.kind = 2 then []
  else
    (ts.flatMap fun t =>
      let e := s.tileEntry d t
      if t < d.tiles ∧ e.getLsbD 0 ∧ fld e 4 2 = 2 ∧ fld e 16 9 = s.fabric.index then
        (List.range (d.tileBytes / 16384)).map fun i => 256 * fld e 40 7 + (fld e 32 8 + i) % 256
      else []).eraseDups

/-- Every tile of a tensor. -/
def Desc.allTiles (d : Desc) : List Nat := List.range d.tiles

/-- Tiles of a coordinate box (R316): none for a box without elements; those of its records for a ring. -/
def XBox.tiles (b : XBox) : List Nat :=
  if b.count = 0 then []
  else if b.d.kind = 1 then
    let dims := (b.cs.zip (b.ext.zip (b.d.tlog.zip b.d.tileCounts))).map fun x =>
      let lo := x.1 / 2 ^ x.2.2.1
      let hi := (x.1 + x.2.1 - 1) / 2 ^ x.2.2.1
      ((List.range (Nat.min (hi + 1 - lo) x.2.2.2)).map (lo + ·), x.2.2.2)
    (dims.foldl (fun (a : List Nat × Nat) x => (x.1.flatMap fun k => a.1.map fun t => t + k * a.2, a.2 * x.2)) ([0], 1)).1
  else ((List.range b.count).map fun e => (b.d.spot (b.at_ e)).1).eraseDups

/-- Units of a box. -/
def XBox.units (b : XBox) : Op (List Nat) := do return (← get).unitsOf b.d b.tiles

/-- Units of `n` bytes or elements of a rank-1 tensor from a coordinate on; none where the operand does not exist. -/
def lineUnits (slot pc : BitVec 5) (n : Nat) : Op (List Nat) := do
  match ← tryOp (slotDesc slot) with
  | .ok (t, d) => XBox.units ⟨slot, t, d, [(← pr .x pc.toNat).toNat], [n]⟩
  | .error _ => pure []

/-- Units of a box operand; none where it does not exist. -/
def boxUnits (b : TBox) : Op (List Nat) := do
  match ← tryOp (xbox b) with
  | .ok o => o.units
  | .error _ => pure []

/-- Units of every tile of a slot's tensor. -/
def allUnits (slot : BitVec 5) : Op (List Nat) := do
  match ← tryOp (slotDesc slot) with
  | .ok (_, d) => return (← get).unitsOf d d.allTiles
  | .error _ => pure []

/-- Units of a lock word, status or stamp. -/
def locUnits (l : Option LockRef) (n : Nat) : Op (List Nat) :=
  match l with
  | none => pure []
  | some l => lineUnits l.slot l.pc n

/-- First and last tile of a tile range (R416). -/
def rangeOf (t : TBox) : Op (Nat × Nat) := do return ((← pr .x t.pcrd.toNat).toNat, (← pr .x t.pbox.toNat).toNat)

/-- Units that a tile range maps. -/
def rangeUnits (t : TBox) : Op (List Nat) := do
  match ← tryOp (slotDesc t.slot) with
  | .error _ => pure []
  | .ok (_, d) =>
    let (a, b) ← rangeOf t
    return (← get).unitsOf d ((List.range (Nat.min (b + 1) d.tiles - a)).map (a + ·))

/-- The same units of the listed cores (R424). -/
def spreadUnits (cores : Option (BitVec 5)) (us : List Nat) : Op (List Nat) :=
  match cores with
  | none => pure us
  | some p => do
    let cs := coreList (← pr .x p.toNat)
    return (us.flatMap fun u => cs.map fun c => 256 * c + u % 256).eraseDups

end Sys2Proof.Machine
end

