-- ==== Sys2Proof/Machine/XCopy.lean ====
section
/-! DEFINITION. X commands that move boxes (R319, R320, R420 to R426): copies, multicast, metadata, remote copies, gather and
scatter. For each, the checks made at start and the handing of one piece. -/

namespace Sys2Proof.Machine

/-- Is a FORMAT plain (R249): neither untyped nor BLOCK? -/
def plainFmt (f : Nat) : Bool := f != 0 && f != 0xFF

/-- An entry that has passed the checks of its start: the pieces it will hand. -/
def XCmd.readied (m : XCmd) (cuts vals : List Nat) : XCmd :=
  { m with ready := true, cuts := cuts, vals := vals, total := cuts.length - 1 }

/-! ### Copies (R420, R421) -/

/-- The operand check of `copy` and `copy.st` (R420). -/
def copyOk (s d : XBox) : Bool :=
  let sf := s.d.format
  let df := d.d.format
  (sf == 0xFF) == (df == 0xFF) && s.count == d.count &&
    (s.d.elog == d.d.elog || (plainFmt sf && plainFmt df))

/-- The 64 bytes of source block b of a `copy.dec`, with its access. -/
def decBlock (b : XBox) (i : Nat) : Op (Acc × List Byte) := do
  let (tile, bits, ok) := b.d.spot (b.at_ i)
  let a : Acc := ⟨b.slot.toNat, b.t, b.d, tile, bits / 8⟩
  need ok kTensor 3 a.det
  return (a, ← opRead .x a 64)

/-- The table operand of a `copy.dec` (R403, R421). -/
def decTable (tab : Option LockRef) : Op (Option MOp) := do
  match tab with
  | none => return none
  | some r => do
    let (t, d) ← slotDesc r.slot
    need (d.kind == 1 && d.rank == 1 && d.elog == 7 && d.format == 0) kTensor 4 (detT t r.slot.toNat 0 0)
    return some ⟨r.slot, t, d, [(← pr .x r.pc.toNat).toNat]⟩

/-- The start of `copy` (R420); for `copy.st` its stamp location is checked too (R416). -/
def copyStart (m : XCmd) (c : CopyArgs) (st : Option StampRef) : Op XCmd := do
  let s ← xbox c.s
  let d ← xbox c.d
  d.writable
  s.shape (copyOk s d)
  lockCheck m
  match st with
  | none => pure ()
  | some z => do
    let _ ← xLoc ⟨z.slot, z.pc⟩ 8
  return m.readied d.cuts []

/-- The start of `copy.enc` (R420). -/
def encStart (m : XCmd) (c : CopyArgs) (code : Nat) : Op XCmd := do
  let s ← xbox c.s
  let d ← xbox c.d
  let n := (blockCount code).getD 1
  d.writable
  s.shape (plainFmt s.d.format && d.d.format == 0xFF && d.count == (s.count + n - 1) / n)
  lockCheck m
  return m.readied d.cuts [code]

/-- The first block of a `copy.dec`, whose code its start needs: a fault of this read is one of piece 0 (R318), so it is raised as a fault after the
start. -/
def decFirst (b : XBox) : Op (Acc × List Byte) := do
  match ← tryOp (decBlock b 0) with
  | .ok x => pure x
  | .error (.fault f) => throw (.done f)
  | .error e => throw e

/-- The start of `copy.dec` (R420, R421): its first block's code is read. -/
def decStart (m : XCmd) (c : CopyArgs) (tab : Option LockRef) : Op XCmd := do
  let s ← xbox c.s
  let d ← xbox c.d
  d.writable
  s.shape (s.d.format == 0xFF && plainFmt d.d.format)
  let _ ← decTable tab
  lockCheck m
  if s.count = 0 then
    d.shape (d.count == 0)
    return m.readied d.cuts [0]
  else
    let (a, bs) ← decFirst s
    let code := (bs.getD 0 0).toNat
    let n := (blockCount code).getD 0
    need (n != 0) kTensor 4 a.det
    s.shape ((code == 0x89) == tab.isSome)
    d.shape ((d.count + n - 1) / n == s.count)
    return m.readied d.cuts [code]

/-- The rounding of an element of a destination box (R259): DITHER takes the destination coordinates. -/
def XBox.mode (b : XBox) (rm : BitVec 3) (e : Nat) : RMode := rmode rm.toNat ((b.at_ e).getD 1 0) ((b.at_ e).getD 0 0)

/-- Values of destination elements of `copy` (R319): bits unchanged, or converted (R260, R261). -/
def copyVals (c : CopyArgs) (s d : XBox) (es : List Nat) : Op (List Nat) := do
  let sf := s.d.format
  let df := d.d.format
  let vs ← s.read es
  if sf = df ∨ sf = 0 ∨ df = 0 then return vs
  else return (es.zip vs).map fun x => convertBits sf df (d.mode c.rm x.1) c.sat x.2

/-- Destination blocks of `copy.enc` (R263, R421): DITHER takes the source index in the copy's order. -/
def encVals (c : CopyArgs) (s : XBox) (code : Nat) (es : List Nat) : Op (List Nat) := do
  let n := (blockCount code).getD 1
  es.mapM fun x => do
    let ix := (List.range (Nat.min n (s.count - x * n))).map (x * n + ·)
    let vs ← s.read ix
    return leNat (encodeBlock code (fun j => rmode c.rm.toNat ((x * n + j) / 16) (x * n + j)) c.sat (vs.map (decodeVal s.d.format)))

/-- Values of destination elements of `copy.dec` (R312, R421): every source block carries the code of the first. CB3 goes to BF16 by RNE, and with
S = 127 as its table has it (R257). -/
def decVals (c : CopyArgs) (s d : XBox) (tab : Option LockRef) (code : Nat) (es : List Nat) : Op (List Nat) := do
  let n := (blockCount code).getD 1
  let tb ← decTable tab
  let bs ← ((es.map (· / n)).eraseDups).mapM fun b => do
    let (a, bytes) ← decBlock s b
    need ((bytes.getD 0 0).toNat == code) kTensor 4 a.det
    match tb with
    | none => return (b, bytes, [])
    | some o => return (b, bytes, ← tableFor .x o b)
  return es.map fun e =>
    match bs.find? (·.1 == e / n) with
    | some (_, bytes, t) =>
      let bf := code = 0x89 ∧ d.d.format = 3
      encodeVal d.d.format (if bf then rne else d.mode c.rm e) (c.sat && !(decide bf && bytes.getD 1 0 == 127)) false (blockElem bytes t (e % n))
    | none => 0

/-- The run of piece n of a destination box. -/
def XBox.run (b : XBox) (cuts : List Nat) (n : Nat) : Option (ERun × List Nat) :=
  (xruns b.slot b.t b.d ((cutElems cuts n).map fun e => (e, b.at_ e))).head?

/-- Hands the next pieces of a command whose destination is a box. -/
def handBox (m : XCmd) (lock : Bool) (dests : Option (List Nat)) (d : XBox) (vals : List Nat → Op (List Nat)) : Op XCmd := do
  let per := match dests with | some cs => Nat.max cs.length 1 | none => 1
  let k ← handElems m lock dests (2 ^ d.d.elog) (m.total / per) (m.point / per) (d.run m.cuts) vals
  return { m with point := m.point + per * k }

/-- Hands pieces of `copy` and `copy.st`. -/
def copyHand (m : XCmd) (c : CopyArgs) : Op XCmd := do
  let s ← xbox c.s
  let d ← xbox c.d
  handBox m c.lk.isSome none d (copyVals c s d)

/-- Hands pieces of `copy.enc`. -/
def encHand (m : XCmd) (c : CopyArgs) : Op XCmd := do
  let s ← xbox c.s
  handBox m c.lk.isSome none (← xbox c.d) (encVals c s (m.vals.getD 0 0))

/-- Hands pieces of `copy.dec`. -/
def decHand (m : XCmd) (c : CopyArgs) (tab : Option LockRef) : Op XCmd := do
  let s ← xbox c.s
  let d ← xbox c.d
  handBox m c.lk.isSome none d (decVals c s d tab (m.vals.getD 0 0))

/-! ### Multicast (R320, R424) -/

/-- Formats equal, or one of them untyped with equal element sizes (R424, R426). -/
def sameBits (a b : Desc) : Bool := a.elog == b.elog && (a.format == b.format || a.format == 0 || b.format == 0)

/-- The destination cores of a command with LIST 1. -/
def destsOf (cores : Option (BitVec 5)) : Op (Option (List Nat)) := do
  match cores with
  | none => return none
  | some p => return some (coreList (← pr .x p.toNat))

/-- The check of a list operand at start (R424). -/
def coresCheck (cores : Option (BitVec 5)) (slot t : Nat) : Op Unit := do
  match cores with
  | none => pure ()
  | some p => listCheck (← pr .x p.toNat) slot t

/-- The start of `mcast` (R424); each destination counts as a piece (R320). -/
def mcastStart (m : XCmd) (sb db : TBox) (cores : Option (BitVec 5)) : Op XCmd := do
  let s ← xbox sb
  let d ← xbox db
  d.writable
  s.shape (sameBits s.d d.d && s.count == d.count)
  coresCheck cores d.slot.toNat d.t
  lockCheck m
  let n := match ← destsOf cores with | some cs => cs.length | none => 1
  return { m.readied d.cuts [] with total := n * (d.cuts.length - 1) }

/-- Hands pieces of `mcast`: each source piece is read once, for every destination. -/
def mcastHand (m : XCmd) (lk : Option LockRef) (sb db : TBox) (cores : Option (BitVec 5)) : Op XCmd := do
  let s ← xbox sb
  handBox m lk.isSome (← destsOf cores) (← xbox db) s.read

/-! ### Metadata (R425) -/

/-- The start of `meta.load`. -/
def metaStart (m : XCmd) (nslot : BitVec 5) (t : TRef) : Op XCmd := do
  let (n, d) ← slotDesc t.slot
  let c := (← pr .x t.pcrd.toNat).toNat
  need (d.linear && c % 64 == 0) kTensor 4 (detT n t.slot.toNat 0 0)
  return { m with ready := true, total := 64 * nslot.toNat }

/-- One piece of `meta.load`: 64 bytes of the index store (R284). -/
def metaHand (m : XCmd) (islot : BitVec 4) (t : TRef) : Op XCmd := do
  let c := (← pr .x t.pcrd.toNat).toNat
  let bs ← readLin .x t.slot (c + 64 * m.point) 64 64
  modCur fun k => { k with ms := { k.ms with index := SMap.write 0 k.ms.index (4096 * islot.toNat + 64 * m.point) bs } }
  return { m with point := m.point + 1 }

/-! ### Remote copies (R422, R423) -/

/-- The remote side that p[PPKG] and p[PADDR] name (R422): coordinates, partition, address. -/
structure Remote where
  pos  : Nat × Nat × Nat
  part : BitVec 5
  addr : Nat
  deriving DecidableEq, Repr

/-- Reads the remote side. -/
def remoteOf (ppkg paddr : BitVec 5) : Op (Remote × Bool) := do
  let v ← pr .x ppkg.toNat
  let a ← pr .x paddr.toNat
  return (⟨(fld v 0 9, fld v 9 9, fld v 18 9), v.extractLsb' 27 5, fld a 0 48⟩, fld v 32 32 == 0)

/-- Bytes of a local box (R422). -/
def XBox.bytes (b : XBox) : Nat := b.count * 2 ^ b.d.elog / 8

/-- The checks of R422 at start. -/
def remoteCheck (b : XBox) (r : Remote) (plain st : Bool) : Op Unit := do
  let f := (← get).fabric
  b.shape (b.count * 2 ^ b.d.elog % 8 == 0 && plain && r.pos != f.pos && (!st || r.addr % 8 == 0))

/-- Is a package of the torus in the load-store domain (R45)? -/
def Fabric.inDomain (f : Fabric) (pos : Nat × Nat × Nat) : Bool := (f.indexOf pos).isSome

/-- Byte pieces of the remote range of a `put`, each within one aligned 64-byte block. -/
def putPieces (b : XBox) (r : Remote) : List (Nat × Nat) := pieces64 (b.bytes / 64 + 2) r.addr b.bytes

/-- The start of `put`. -/
def putStart (m : XCmd) (st : Bool) (sb : TBox) (ppkg paddr : BitVec 5) : Op XCmd := do
  let s ← xbox sb
  let (r, plain) ← remoteOf ppkg paddr
  remoteCheck s r plain st
  return { m with ready := true, total := (putPieces s r).length }

/-- `n` bytes of a box's elements, laid end to end, from byte `o` on. -/
def XBox.stream (b : XBox) (o n : Nat) : Op (List Byte) := do
  let w := 2 ^ b.d.elog
  let e0 := 8 * o / w
  let e1 := (8 * (o + n) + w - 1) / w
  let vs ← b.read ((List.range (e1 - e0)).map (e0 + ·))
  let v := vs.foldr (fun x acc => x % 2 ^ w + acc * 2 ^ w) 0
  return leBytes n (v / 2 ^ (8 * o - e0 * w))

/-- Sends one write of a `put` (R423); a record about it names the local operand (DEDUCED, log 126): charged and admitted under R52 within the domain, a CLASS 2 message outside it. The next
waits for its acknowledgement. -/
def sendRemote (m : XCmd) (r : Remote) (det : BitVec 320) (addr n : Nat) (bs : List Byte) (lock : Option Nat) : Op Unit := do
  oneAtATime m
  let s ← get
  let tag := s.nextTag
  let body : PktBody := .linWrite r.part addr bs lock tag
  let cls := if s.fabric.inDomain r.pos then 0 else 2
  let pk : Packet := s.pkt 1 cls (cls == 0) r.pos s.cur s.windowNow body
  farRoom 1
  addNet { seq := m.seq, n := n, tag := tag }
  modify fun s => { s with nextTag := tag + 1 }
  noteReq m tag addr pk none det
  match s.fabric.indexOf r.pos with
  | some pkg => modify fun s => s.fabricWrite s.cur pkg 1 body
  | none => modify fun s => s.fromCore s.cur.toNat pk

/-- Hands one piece of `put`. -/
def putHand (m : XCmd) (lk : Option (BitVec 5)) (sb : TBox) (ppkg paddr : BitVec 5) : Op XCmd := do
  let s ← xbox sb
  let (r, _) ← remoteOf ppkg paddr
  let (a, n) := (putPieces s r).getD m.point (0, 0)
  let bs ← s.stream (a - r.addr) n
  let lock ← match lk with
    | some p => do pure (some (fld (← pr .x p.toNat) 0 48))
    | none => pure none
  sendRemote m r s.det a n bs lock
  return { m with point := m.point + 1 }

/-- The start of `get`. -/
def getStart (m : XCmd) (db : TBox) (ppkg paddr : BitVec 5) : Op XCmd := do
  let d ← xbox db
  d.writable
  let (r, plain) ← remoteOf ppkg paddr
  remoteCheck d r plain false
  lockCheck m
  return m.readied d.cuts []

/-- Values of elements from the remote side of a `get`. -/
def getVals (d : XBox) (r : Remote) (es : List Nat) : Op (List Nat) := do
  let w := 2 ^ d.d.elog
  let e0 := es.headD 0
  let o := e0 * w / 8
  let n := ((e0 + es.length) * w + 7) / 8 - o
  let cls := if (← get).fabric.inDomain r.pos then 0 else 2
  match ← farSend .x r.pos (r.addr + o) 0 cls (fun tag => .linRead r.part (r.addr + o) n tag) d.det with
  | .data _ bs => return es.map fun e => leNat bs / 2 ^ (e * w - 8 * o) % 2 ^ w
  | _ => holdOp

/-- Hands one piece of `get`. -/
def getHand (m : XCmd) (lk : Option LockRef) (db : TBox) (ppkg paddr : BitVec 5) : Op XCmd := do
  let d ← xbox db
  let (r, _) ← remoteOf ppkg paddr
  handBox m lk.isSome none d (getVals d r)

/-! ### Gather and scatter (R321, R426) -/

/-- The index operand: its tensor is rank 1 with FORMAT s32, n32 or n64 (R426). -/
def idxBox (l : LockRef) (n : Nat) (fmts : List Nat) : Op XBox := do
  let (t, d) ← slotDesc l.slot
  need (d.rank == 1 && d.kind != 3 && fmts.contains d.format) kTensor 4 (detT t l.slot.toNat 0 0)
  return ⟨l.slot, t, d, [(← pr .x l.pc.toNat).toNat], [n]⟩

/-- Index j as an element number; a negative s32 index is none. -/
def XBox.index (b : XBox) (j : Nat) : Op (Option Nat) := do
  let v := (← b.read [j]).getD 0 0
  return if b.d.format = 0x13 ∧ 2 ^ 31 ≤ v then none else some v

/-- Formats of an index tensor of `gather` and `scatter`. -/
def idxFmts : List Nat := [0x13, 0x1B, 0x1C]

/-- The coordinates of an indexed element (R178, R321), or TENSORFAULT BOUNDS. -/
def indexed (slot : BitVec 5) (t : Nat) (d : Desc) (i : Option Nat) : Op (List Nat) := do
  match i with
  | none => flt kTensor 3 (detT t slot.toNat 0 0)
  | some l => do
    need (decide (l < d.count)) kTensor 3 (detT t slot.toNat 0 0)
    return d.coordsOf l

/-- The start of `gather`. -/
def gatherStart (m : XCmd) (g : GatherArgs) : Op XCmd := do
  let d ← xbox g.box
  let (_, sd) ← slotDesc g.slot
  d.writable
  d.shape (sameBits sd d.d)
  let _ ← idxBox g.idx d.count idxFmts
  lockCheck m
  return m.readied d.cuts []

/-- Hands pieces of `gather`: the values of the indexed elements. -/
def gatherHand (m : XCmd) (g : GatherArgs) : Op XCmd := do
  let d ← xbox g.box
  let (t, sd) ← slotDesc g.slot
  let ix ← idxBox g.idx d.count idxFmts
  handBox m g.lk.isSome none d fun es => es.mapM fun j => do
    let cs ← indexed g.slot t sd (← ix.index j)
    return (← readElems .x g.slot t sd [cs]).getD 0 0

/-- An index that could not be read at the start: its piece reads it again. -/
def badIndex : Nat := 2 ^ 64

/-- Where an index kept by `scatter` leads; outside the tensor for one that no element has. -/
def scatterSpot (dd : Desc) (v : Nat) : List Nat := if v = 0 ∨ dd.count < v then [2 ^ 70] else dd.coordsOf (v - 1)

/-- The start of `scatter`: every index is read, since duplicates are combined before any piece is handed (R321). An index is
kept with 1 added; 0 stands for a negative one. -/
def scatterStart (m : XCmd) (g : GatherArgs) : Op XCmd := do
  let s ← xbox g.box
  let (t, dd) ← slotDesc g.slot
  XBox.writable ⟨g.slot, t, dd, [], []⟩
  s.shape (sameBits s.d dd)
  let ix ← idxBox g.idx s.count idxFmts
  lockCheck m
  let is ← (List.range s.count).mapM fun j => do
    match ← tryOp (ix.index j) with
    | .ok (some l) => pure (l + 1)
    | .ok none => pure 0
    | .error (.fault _) => pure (badIndex + 1 + j)
    | .error e => throw e
  let keep := (List.range s.count).filter fun j =>
    decide (dd.count < is.getD j 0) || !(is.drop (j + 1)).contains (is.getD j 0) || is.getD j 0 == 0
  let runs := xruns g.slot t dd (keep.map fun j => (j, scatterSpot dd (is.getD j 0)))
  let cuts := runs.map fun r => (keep.idxOf (r.2.headD 0))
  return { m with ready := true, cuts := cuts ++ [keep.length], vals := is ++ keep, total := cuts.length }

/-- Hands pieces of `scatter`, in ascending source order. -/
def scatterHand (m : XCmd) (g : GatherArgs) : Op XCmd := do
  let s ← xbox g.box
  let (t, dd) ← slotDesc g.slot
  let ix ← idxBox g.idx s.count idxFmts
  let keep := m.vals.drop s.count
  let js := fun (n : Nat) => (cutElems m.cuts n).map fun i => keep.getD i 0
  let here ← (js m.point).mapM fun j => do
    let v := m.vals.getD j 0
    return (j, ← indexed g.slot t dd (← if badIndex ≤ v then ix.index j else pure (if v = 0 then none else some (v - 1))))
  let xs := fun (n : Nat) => if n = m.point then here else (js n).map fun j => (j, scatterSpot dd (m.vals.getD j 0))
  let k ← handElems m g.lk.isSome none (2 ^ dd.elog) m.total m.point (fun n => (xruns g.slot t dd (xs n)).head?) s.read
  return { m with point := m.point + k }

end Sys2Proof.Machine
end

