-- ==== Sys2Proof/Machine/XBins.lean ====
section
/-! DEFINITION. X commands: binned scatter-add (R322 to R324, R427, R428), lock words (R325, R326, R429), tile walks and permits
(R328, R329, R430, R431), and regions (R165 to R167, R432). -/

namespace Sys2Proof.Machine

/-! ### Bin sets -/

/-- A bin set's header (R322). -/
structure BinHdr where
  nbins : Nat
  dst   : Nat
  op    : Nat
  cap   : Nat
  lo    : Nat
  width : Nat
  deriving DecidableEq, Repr

/-- The header from its bytes; none where a reserved field is not zero or a field is out of range. -/
def binHdr (bs : List Byte) : Option BinHdr :=
  let v : BitVec 512 := leBV 512 bs
  let h : BinHdr := ⟨fld v 0 12, fld v 16 12, fld v 28 4, fld v 32 24, fld v 64 48, fld v 128 32⟩
  let plain := fld v 12 4 == 0 && fld v 56 8 == 0 && fld v 112 16 == 0 && fld v 160 352 == 0
  if plain && decide (1 ≤ h.nbins ∧ 1 ≤ h.op ∧ h.op ≤ 3 ∧ 1 ≤ h.cap ∧ 1 ≤ h.width) then some h else none

/-- The bin set operand at start (R322): linear, with a shared-memory home, at a multiple of 64, with a sound header and no reserved
byte set in any bin. -/
def binStart (t : TRef) : Op BinHdr := do
  let (n, d) ← slotDesc t.slot
  let c := (← pr .x t.pcrd.toNat).toNat
  need (d.linear && d.homekind == 1 && c % 64 == 0) kTensor 4 (detT n t.slot.toNat 0 0)
  let det := detT n t.slot.toNat (c / d.tileBytes) (c % d.tileBytes)
  match binHdr (← readLin .x t.slot c 64 64) with
  | some h =>
    (List.range h.nbins).forM fun b => do
      let bs ← readLin .x t.slot (c + 72 + 16 * b) 8 8
      need (bs.all (· == 0)) kTensor 2 det
    return h
  | none => flt kTensor 2 det

/-- A header as numbers, and back. -/
def BinHdr.nums (h : BinHdr) : List Nat := [h.nbins, h.dst, h.op, h.cap, h.lo, h.width]

/-- The header kept by a command. -/
def XCmd.bin (m : XCmd) : BinHdr :=
  let g := fun i => m.vals.getD i 0
  ⟨g 0, g 1, g 2, g 3, g 4, g 5⟩

/-- FORMAT of an OP of R322. -/
def binFmt (op : Nat) : Nat := if op = 1 then 0x13 else if op = 2 then 1 else 3

/-- Byte of record r of bin b within a bin set (R322). -/
def BinHdr.recAt (h : BinHdr) (b r : Nat) : Nat := 64 + 16 * h.nbins + 16 * (h.cap * b + r)

/-- The start of `scatter.bin` (R427). -/
def sbinStart (m : XCmd) (v : TBox) (idx : LockRef) (bins : TRef) : Op XCmd := do
  let vb ← xbox v
  let _ ← idxBox idx vb.count [0x1B, 0x1C]
  let h ← binStart bins
  vb.shape (vb.d.format == binFmt h.op)
  return { m with ready := true, total := vb.count, vals := h.nums }

/-- Reads bytes at a number of this package, with the outcome of R18 and R164. -/
def readHere (a : Acc) (pa n : Nat) : Op (List Byte) := do
  let (s', f) := (← get).bankRead pa n
  set s'
  match f with
  | .data bs => return bs
  | .poison => flt kPoison 0 a.det
  | .stale sub => do modCur (fun c => c.count 57 1); flt kStale sub a.det

/-- One pair of `scatter.bin` (R323): the claim at COUNT_b, then its record is handed. -/
def sbinHand (m : XCmd) (v : TBox) (idx : LockRef) (bins : TRef) : Op XCmd := do
  let h := m.bin
  let vb ← xbox v
  let ix ← idxBox idx vb.count [0x1B, 0x1C]
  let c := (← pr .x bins.pcrd.toNat).toNat
  let e := (← ix.index m.point).getD 0
  let val := (← vb.read [m.point]).getD 0 0
  let b := (e - h.lo) / h.width
  let (t, d) ← slotDesc bins.slot
  need (decide (h.lo ≤ e ∧ b < h.nbins)) kTensor 3 (detT t bins.slot.toNat (c / d.tileBytes) (c % d.tileBytes))
  let ca ← linAcc bins.slot (c + 64 + 16 * b) 8 8
  let cp ← xPlace ca
  let cnt ← match cp with
    | .inl cpa => do pure (leNat (← readHere ca cpa 8))
    | .inr _ => do pure (leNat (← opRead .x ca 8))
  let count := cnt % 2 ^ 32
  let drop := cnt / 2 ^ 32
  let claim := fun (new : Nat) => do
    match cp with
    | .inl cpa => modify fun s => s.bankWrite cpa (leBytes 8 new)
    | .inr (pkg, cpa) => xSwap m ca pkg cpa (BitVec.ofNat 64 cnt) (BitVec.ofNat 64 new) []
  if count < h.cap then
    let ra ← linAcc bins.slot (c + h.recAt b count) 16 16
    let rp ← xPlace ra
    let w ← curCrew
    let seq := (← curCore).xs.binSeq
    let bytes := leBytes 6 e ++ [BitVec.ofNat 8 w.rank, 0] ++ leBytes 4 val ++ bvBytes 4 seq
    farRoom 1
    claim (count + 1 + drop * 2 ^ 32)
    modX fun x => { x with binSeq := x.binSeq + 1 }
    match rp with
    | .inl rpa => addNet { seq := m.seq, n := 16, mem := some (rpa, bytes) }
    | .inr (pkg, rpa) => ackWrite m ra pkg rpa bytes false
  else
    claim (count + Nat.min (drop + 1) (2 ^ 32 - 1) * 2 ^ 32)
  return { m with point := m.point + 1 }

/-- Rank and SEQ of a record. -/
def recKey (bs : List Byte) : Nat × Nat := ((bs.getD 6 0).toNat, leNat ((bs.drop 12).take 4))

/-- The start of `bin.apply` (R324, R428): the bin and COUNT_b are read; SORTED reads the keys of the records, and the order in
which they are applied is kept. -/
def bapplyStart (m : XCmd) (pb : BitVec 5) (arr : Bool) (bins : TRef) : Op XCmd := do
  let h ← binStart bins
  let (t, d) ← slotDesc bins.slot
  let c := (← pr .x bins.pcrd.toNat).toNat
  let b := (← pr .x pb.toNat).toNat
  need (decide (b < h.nbins)) kTensor 3 (detT t bins.slot.toNat (c / d.tileBytes) (c % d.tileBytes))
  match ← crewDesc h.dst with
  | none => flt kTensor 2 (detT h.dst 0 0 0)
  | some db =>
    let dd := Desc.ofBits db
    need (dd.wf && descPlain db) kTensor 2 (detT h.dst 0 0 0)
    need (dd.kind != 2) kGenwrite 0 (detT h.dst 0 0 0)
    need (dd.kind == 1 && dd.homekind == 1 && dd.format == binFmt h.op) kTensor 4 (detT h.dst 0 0 0)
  let n := leNat (← readLin .x bins.slot (c + 64 + 16 * b) 4 4)
  let keys ← if arr then pure [] else (List.range n).mapM fun r => do
    return (r, recKey (← readLin .x bins.slot (c + h.recAt b r) 16 16))
  let le := fun (x y : Nat × Nat × Nat) => decide (x.2.1 < y.2.1 ∨ (x.2.1 = y.2.1 ∧ x.2.2 ≤ y.2.2))
  let order := if arr then List.range n else (sortBy le keys).map (·.1)
  return { m with ready := true, total := n, vals := h.nums ++ order }

/-- One record of `bin.apply`: a single-lane element-wise update at its element's bank (R324). -/
def bapplyHand (m : XCmd) (pb : BitVec 5) (bins : TRef) : Op XCmd := do
  let h := m.bin
  let c := (← pr .x bins.pcrd.toNat).toNat
  let b := (← pr .x pb.toNat).toNat
  let r := m.vals.getD (6 + m.point) 0
  let bs ← readLin .x bins.slot (c + h.recAt b r) 16 16
  let dd := Desc.ofBits ((← crewDesc h.dst).getD 0)
  let e := leNat (bs.take 6)
  need (decide (e < dd.count)) kTensor 3 (detT h.dst 0 0 0)
  let (tile, bits, _) := dd.spot (dd.coordsOf e)
  let a : Acc := ⟨0, h.dst, dd, tile, bits / 8⟩
  let v : W32 := leBV 32 ((bs.drop 8).take 4)
  match ← xPlace a with
  | .inl pa =>
    need (decide (shmBase ≤ pa ∧ pa < scrBase)) kTensor 5 a.det
    let kind : UpdKind := if h.op = 1 then .s32 else if h.op = 2 then .fp32 else .bf16
    let (s', f) := (← get).updAt ⟨kind, [(pa, v)]⟩
    set s'
    match f with
    | none => return { m with point := m.point + 1 }
    | some .poison => flt kPoison 0 a.det
    | some (.stale sub) => flt kStale sub a.det
    | some (.data _) => return { m with point := m.point + 1 }
  | .inr (pkg, pa) =>
    let op : AtomOp := if h.op = 1 then .add else if h.op = 2 then .faddF32 else .faddBF16
    match ← farCall .x pkg (2 ^ 67 + pa) 1 0 (fun tag => .atomic ⟨op, pa, if h.op = 3 then 2 else 4, 0, v.setWidth 128⟩ tag) a.det (some (a.key (← curCrew).ctx pa)) with
    | .data _ _ => return { m with point := m.point + 1 }
    | _ => holdOp

/-- The end of `bin.apply`: COUNT_b and DROPPED_b become 0, with a release at PKG scope (R324). -/
def bapplyEnd (m : XCmd) (pb : BitVec 5) (bins : TRef) : Op Unit := do
  opRelease .pkg
  let c := (← pr .x bins.pcrd.toNat).toNat
  let b := (← pr .x pb.toNat).toNat
  let a ← linAcc bins.slot (c + 64 + 16 * b) 8 8
  let pl ← placePiece .x a false
  farRoomFor [pl]
  xPerform m a (leBytes 8 0) pl

/-! ### Lock words -/

/-- One count at a lock word of 16 bytes (R325). -/
def lockCounted (v : BitVec 128) (n : Nat) : BitVec 128 :=
  let target := fld v 0 32
  let sum := fld v 32 32 + n
  let count := Nat.min sum (2 ^ 32 - 1)
  let flags := fld v 96 32 ||| (if 2 ^ 32 - 1 < sum then 1 else 0)
  let turns := if target = 0 then 0 else count / target
  BitVec.ofNat 128 (target + (count - turns * target) * 2 ^ 32 + (fld v 64 32 + turns) % 2 ^ 32 * 2 ^ 64 + flags * 2 ^ 96)

/-- The atomic of `lock.set` (R326): TARGET written, COUNT and FLAGS zero, GEN kept. -/
def lockSetUp (v : BitVec 128) (target : Nat) : BitVec 128 := BitVec.ofNat 128 (target + fld v 64 32 * 2 ^ 64)

/-- One atomic on a lock word at its home (R325, R326): its read meets R160, R164 and R18. -/
def State.lockAt (s : State) (pa : Nat) (f : BitVec 128 → BitVec 128) : State × Found :=
  match s.bankRead pa 16 with
  | (t, .data bs) => (t.bankWrite pa (bvBytes 16 (f (leBV 128 bs))), .data bs)
  | x => x

/-- The number under which an atomic on a lock word asks another package. -/
def lockKey : Nat := 2 ^ 65

/-- An atomic on a lock word at its home: on this package, or on another by a request of its own (R204, R207). -/
def opLock (a : Acc) (p : Nat ⊕ (Nat × Nat)) (f : BitVec 128 → BitVec 128) (body : Nat → Nat → PktBody) : Op Unit := do
  match p with
  | .inl pa =>
    let (s', r) := (← get).lockAt pa f
    set s'
    match r with
    | .data _ => pure ()
    | .poison => flt kPoison 0 a.det
    | .stale sub => do modCur (fun c => c.count 57 1); flt kStale sub a.det
  | .inr (pkg, pa) =>
    match ← farCall .x pkg lockKey 1 0 (body pa) a.det (some (a.key (← curCrew).ctx pa)) with
    | .ack _ => pure ()
    | _ => holdOp

/-- `lock.set` (R326, R429). -/
def lockSetHand (m : XCmd) (pt : BitVec 5) (l : TRef) : Op XCmd := do
  let a ← linAcc l.slot (← pr .x l.pcrd.toNat).toNat 16 16
  let target := fld (← pr .x pt.toNat) 0 32
  opLock a (← xPlace a) (lockSetUp · target) fun pa tag => .lockSet pa target tag
  return { m with point := 1 }

/-- The check of `lock.set` at start. -/
def lockSetStart (m : XCmd) (l : TRef) : Op XCmd := do
  let _ ← linAcc l.slot (← pr .x l.pcrd.toNat).toNat 16 16
  return { m with ready := true, total := 1 }

/-! ### Tile walks and permits -/

/-- The checks of a tile range at start (R416). -/
def rangeCheck (t : TBox) (ok : Desc → Bool) : Op (Nat × Desc × Nat × Nat) := do
  let (n, d) ← slotDesc t.slot
  let (a, b) ← rangeOf t
  let det := detT n t.slot.toNat 0 0
  need (ok d) kTensor 4 det
  need (decide (a ≤ b)) kTensor 4 det
  need (decide (b < d.tiles)) kTensor 3 det
  return (n, d, a, b)

/-- The buffer byte of slot `i mod NBUF` for tile i of the tensor (R328, R430). -/
def walkBuf (w : WalkArgs) (d : Desc) (i o : Nat) : Op Nat := do
  return (← pr .x w.buf.pcrd.toNat).toNat + i % (w.nbm1.toNat + 1) * d.tileBytes + o

/-- The tile-walk engine meets a tile that is not present (R220, R223): refused with hint 16, and counted. -/
def walkMapped (a : Acc) (akind : Nat) : Op Unit := do
  match ← translate .x a akind with
  | some _ => pure ()
  | none =>
    modCur fun c => (c.count 32 1).count 43 1
    throw (.hold ((← get).time + 16 * 256))

/-- Where the tile-walk engine writes: a frame that migrates, or that other packages have copies of, refuses it with a hint, which is counted (R223, R226,
R229). -/
def walkPlace (a : Acc) : Op (Nat ⊕ (Nat × Nat)) := do
  match ← storePlace .x a 1 with
  | (some p, _) => pure p
  | (none, _) =>
    let w ← curCrew
    let s ← get
    let h := match s.backPlace s.cur w.part w.ctx (BitVec.ofNat 12 a.tensor) a.tile a.off with
      | some (none, pa) => if (s.frameState pa).1 = 1 then 8 else if (s.frameState pa).2.isEmpty then 1 else 4
      | _ => 16
    modCur fun c => (c.count 32 1).count 43 1
    throw (.hold (s.time + 256 * h))

/-- The start of `walk` (R430): the operands; every buffer slot lies in a scratchpad; a place in the die's quota. -/
def walkStart (m : XCmd) (w : WalkArgs) : Op XCmd := do
  let (_, d, a, b) ← rangeCheck w.tiles fun d => d.kind == 1
  let (bt, bd) ← slotDesc w.buf.slot
  let c := (← pr .x w.buf.pcrd.toNat).toNat
  let det := detT bt w.buf.slot.toNat (c / bd.tileBytes) (c % bd.tileBytes)
  need (bd.linear && c % 64 == 0) kTensor 4 det
  coresCheck w.cores w.buf.slot.toNat bt
  lockCheck m
  let n := (w.nbm1.toNat + 1) * d.tileBytes
  need (decide (c + n ≤ bd.ext.getD 0 0)) kTensor 5 det
  (List.range ((c + n - 1) / bd.tileBytes + 1 - c / bd.tileBytes)).forM fun i => do
    let acc : Acc := ⟨w.buf.slot.toNat, bt, bd, c / bd.tileBytes + i, 0⟩
    walkMapped acc 1
    match ← translate .x acc 1 with
    | none => holdOp
    | some e => need (fld e 4 2 == 2) kTensor 5 acc.det
  let s ← get
  let crew ← curCrew
  let die := s.cur.toNat / 32
  let used := ((s.part crew.part).cores.filter fun c => c.toNat / 32 = die).foldl (fun n c =>
    n + ((s.core c).xs.queue.filter fun q => q.started && q.ready && (c != s.cur || q.seq != m.seq) && (match q.kind with | .walk _ => true | _ => false)).length) 0
  holdUnless (decide (used < fld (s.part crew.part).pwalks (16 * die) 16))
  return { m with ready := true, total := b + 1 - a }

/-- Pieces of a tile. -/
def walkPieces (d : Desc) : Nat := d.tileBytes / 64

/-- Hands the next pieces of the tile that a walk moves (R220, R328, R430). -/
def walkHand (m : XCmd) (w : WalkArgs) : Op XCmd := do
  let (t, d) ← slotDesc w.tiles.slot
  let (first, _) ← rangeOf w.tiles
  let i := m.point
  holdUnless (m.moving && decide (m.inner < walkPieces d))
  let tileAcc := fun (k : Nat) => (⟨w.tiles.slot.toNat, t, d, first + i, 64 * k⟩ : Acc)
  let bufAcc := fun (k : Nat) => do linAcc w.buf.slot (← walkBuf w d (first + i) (64 * k)) 64 64
  let dests ← destsOf w.cores
  let piece := fun (k : Nat) => do
    let (src, dst) ← if w.store then do pure (← bufAcc k, tileAcc k) else do pure (tileAcc k, ← bufAcc k)
    walkMapped dst 1
    walkMapped src 0
    let p ← walkPlace dst
    return (dst, p, ← opRead .x src 64)
  let (dst, p, bs) ← piece m.inner
  match p with
  | .inr (pkg, pa) =>
    xFarWrite m dst pkg pa bs w.lk.isSome
    return { m with inner := m.inner + 1 }
  | .inl _ =>
    let k ← handRuns m w.lk.isSome m.inner (walkPieces d) fun k => do
      let (dst, p, bs) ← if k = m.inner then pure (dst, p, bs) else piece k
      match p with
      | .inl pa => spread dst dests bs pa
      | .inr _ => holdOp
    return { m with inner := m.inner + k }

/-- The walk of a number, if one is in progress. -/
def XState.walkOf (x : XState) (wn : BitVec 3) : Option WalkSt := x.walks.find? (·.wn == wn)

/-- Sets the permits of a walk number. -/
def XState.setPermits (x : XState) (wn : BitVec 3) (n : Nat) : XState :=
  { x with walks := x.walks.map fun w => if w.wn == wn then { w with permits := n } else w }

/-- `permit` (R329, R431). -/
def permitHand (m : XCmd) (n : BitVec 8) (wn : BitVec 3) : Op XCmd := do
  match (← curCore).xs.walkOf wn with
  | none => return { m with point := 1 }
  | some w =>
    holdUnless (decide (w.permits + n.toNat ≤ 255))
    modX fun x => x.setPermits wn (w.permits + n.toNat)
    return { m with point := 1 }

/-! ### Regions (R165 to R167, R432) -/

/-- One entry of a core's unit table (R163). -/
def State.unitAt (s : State) (core u : Nat) : BitVec 8 := (s.core (BitVec.ofNat 7 core)).units.toList.getD u 0

/-- Sets one entry of a core's unit table. -/
def State.setUnit (s : State) (core u : Nat) (v : BitVec 8) : State :=
  s.modCore (BitVec.ofNat 7 core) fun c => if h : u < 256 then { c with units := c.units.set u v h } else c

/-- Lowest free units for each of `n` tiles of `span` units, aligned to `span` (R165). -/
def pickUnits (used : List Nat) (span : Nat) : Nat → Option (List Nat)
  | 0 => some []
  | n + 1 =>
    match (List.range (256 / span)).find? fun k => (List.range span).all fun i => !used.contains (span * k + i) with
    | none => none
    | some k => (pickUnits (used ++ (List.range span).map (span * k + ·)) span n).map (span * k :: ·)

/-- The indivisible step of `alloc` (R165): its status and what it leaves. -/
def State.allocAt (s : State) (p : BitVec 5) (ctx : BitVec 3) (d : Desc) (first last cls : Nat) (zero : Bool) : Nat × State :=
  let ts := (List.range (last + 1 - first)).map (first + ·)
  let span := d.tileBytes / 16384
  let home := d.core
  let table := (List.range 256).map fun u => s.unitAt home u
  let used := (List.range 256).filter fun u => (table.getD u 0).getLsbD 0
  if ts.any fun t => (s.tileEntry d t).getLsbD 0 then (1, s)
  else if !(s.part p).ownsCore home then (2, s)
  else if cls = 1 ∧ 64 < (table.filter fun v => v.extractLsb' 0 3 == 3).length + ts.length * span then (3, s)
  else match pickUnits used span ts.length with
    | none => (4, s)
    | some us =>
      (0, (ts.zip us).foldl (fun s x =>
        let s := (List.range span).foldl (fun s i => s.setUnit home (x.2 + i) (BitVec.ofNat 8 (1 + cls * 2 + ctx.toNat * 8))) s
        let base := scrPa home (16384 * x.2)
        let s := if zero then (List.range (8 * span)).foldl (fun s r => s.bankWrite (base + 2048 * r) (List.replicate 2048 0)) s
          else s.expireRows (rowOf base) (8 * span)
        let e := 3 + 2 * 16 + s.fabric.index * 2 ^ 16 + x.2 * 2 ^ 32 + home * 2 ^ 40
        s.bankWrite (d.ttptr + 8 * x.1) (leBytes 8 e)) s)

/-- The start of `alloc` (R165, R416, R432). -/
def allocStart (m : XCmd) (status : LockRef) (t : TBox) : Op XCmd := do
  let _ ← rangeCheck t fun d => (d.kind == 1 || d.kind == 3) && d.homekind == 2
  let _ ← xLoc status 8
  return { m with ready := true, total := 1 }

/-- `alloc` (R165, R432): the whole step, and then its status word. -/
def allocHand (m : XCmd) (status : LockRef) (zero : Bool) (cls : BitVec 2) (t : TBox) : Op XCmd := do
  let (_, d) ← slotDesc t.slot
  let (a, b) ← rangeOf t
  let la ← xLoc status 8
  let place ← placePiece .x la false
  opRelease .pkg
  farRoomFor [place]
  let w ← curCrew
  let (st, s') := (← get).allocAt w.part w.ctx d a b cls.toNat zero
  set s'
  xPerform m la (leBytes 8 st) place
  return { m with point := 1 }

/-- The start of `free` and `renew` (R166, R167, R432). -/
def regionStart (m : XCmd) (t : TBox) : Op XCmd := do
  let (_, _, a, b) ← rangeCheck t fun d => d.kind != 2
  return { m with ready := true, total := b + 1 - a }

/-- One tile of `free` (R166). A unit is one of this package's scratchpads, whose unit tables it reads. `before` lists the earlier commands that have not retired, with the units they reach. -/
def freeHand (m : XCmd) (t : TBox) (before : List (List Nat)) : Op XCmd := do
  let (n, d) ← slotDesc t.slot
  let (a, _) ← rangeOf t
  let i := a + m.point
  let s ← get
  let w ← curCrew
  let e := s.tileEntry d i
  let core := fld e 40 7
  let u := fld e 32 8
  let v := s.unitAt core u
  if e.getLsbD 0 ∧ fld e 4 2 = 2 ∧ fld e 16 9 = s.fabric.index ∧ (s.part w.part).ownsCore core ∧ v.extractLsb' 3 3 = w.ctx then
    let us := s.unitsOf d [i]
    holdUnless (before.all fun f => us.all fun x => !f.contains x)
    let span := d.tileBytes / 16384
    modify fun s =>
      let s := s.flushPieces.bankWrite (d.ttptr + 8 * i) (bvBytes 8 (e &&& ~~~1))
      let s := s.dropKey w.part w.ctx (BitVec.ofNat 12 n) (some i)
      let s := s.expireRows (rowOf (scrPa core (16384 * u))) (8 * span)
      (List.range span).foldl (fun s j => s.setUnit core (u + j) (s.unitAt core (u + j) &&& 0xFE)) s
  return { m with point := m.point + 1 }

/-- The context and linear-space address that a number has, through descriptor 0 of a bound context of a partition (R142). -/
def State.linearOf (s : State) (p : BitVec 5) (pa : Nat) : Option (BitVec 3 × Nat) :=
  (List.range 8).findSome? fun i =>
    let c := BitVec.ofNat 3 i
    if !(s.part p).bound.getLsbD c.toNat then none
    else match s.descBits p c 0 with
      | none => none
      | some b =>
        let d := Desc.ofBits b
        if !(d.linear && d.wf) then none
        else (firstBelow d.tiles fun t =>
          let e := s.tileEntry d t
          e.getLsbD 0 && (match s.locate p c e (d.tileBytes == 65536) 0 with
            | .here base => decide (base ≤ pa ∧ pa < base + d.tileBytes)
            | _ => false)).map fun t => (c, t * d.tileBytes + pa % d.tileBytes)

/-- The partition that owns the row or frame of a number (R84, R87): by its quads, its stripes, a shadow slot's core, or, in HBM, the frames that its
tiles lie in (log 111). -/
def State.rowOwner (s : State) (pa : Nat) : Option (BitVec 5) :=
  let first := fun (f : BitVec 5 → Bool) => ((List.range 32).map fun p => BitVec.ofNat 5 p).find? f
  if pa < shmBase then first fun p => (s.hbmFrames p).contains (pa / 65536)
  else if scrBase ≤ pa then s.ownerOf (BitVec.ofNat 7 (scrCore pa))
  else
    let k := (pa - shmBase) % 2 ^ 27 / 2 ^ 19
    if 192 ≤ k then s.ownerOf (BitVec.ofNat 7 (32 * dieOf pa + (k - 192) / 2))
    else first fun p => (SMap.get 0 (s.part p).pstripe (stripeIdx (dieOf pa) k)).getLsbD 3

/-- What the patrol or a renewal finds in a word (R18, R87, R170): an error that cannot be corrected poisons its block, with a POISON NOTE to the partition
that owns the frame or row, else in the I/O die error log. The record gives the linear address that the owner has for it, 0 where there is none. -/
def State.scrubFound (s : State) (pa : Nat) (ecc : Ecc) : State :=
  let s := s.eccFound pa ecc
  if ecc = .uncorrectable then
    match s.rowOwner pa with
    | some p => match s.linearOf p pa with
      | some (c, a) => s.writeRecord p (faultRec 1 ⟨kPoison, 0, detA a, false⟩ c none 7 s.time 0 0)
      | none => s.writeRecord p (faultRec 1 ⟨kPoison, 0, 0, false⟩ (s.part p).runctx none 7 s.time 0 0)
    | none => s.logErr kPoison pa
  else s

/-- The patrol or a renewal meets the errors that stand in `n` bytes. -/
def State.scrub (s : State) (pa n : Nat) : State := (s.flawsIn pa n).foldl (fun s e => s.scrubFound (8 * e.1) e.2) (s.mended pa n)

/-- Rewrites a row in place (R159, R167, R168): an expired row stays expired, and what its codes find is met (R170). The bank (R152) is held for 4 fabric
cycles, counted under a requester class (R94). -/
def State.renewRow (s : State) (pa cls src : Nat) : State :=
  if s.expired pa then s.expireRow (rowOf pa)
  else
    let s := (s.scrub (2048 * rowOf pa) 2048).freshen (rowOf pa)
    if pa < scrBase then s
    else s.modCore (BitVec.ofNat 7 (scrCore pa)) fun r => (r.conflict cls (s.bankOf pa) 4).count src 1

/-- The rows that `renew` visits: those of present tiles in scratchpads, by package and in ascending row address (R167): this package's first, as 0, then
those of the others, with 1 added to their index (log 114). -/
def State.renewRows (s : State) (p : BitVec 5) (ctx : BitVec 3) (d : Desc) (a b : Nat) : List (Nat × Nat) :=
  sortBy (fun (x y : Nat × Nat) => decide (x.1 < y.1 ∨ (x.1 = y.1 ∧ x.2 ≤ y.2))) <| List.eraseDups <| (List.range (b + 1 - a)).flatMap fun i =>
    let e := s.tileEntry d (a + i)
    let rows := fun (g pa : Nat) => (List.range (d.tileBytes / 2048)).map fun r => (g, pa + 2048 * r)
    if e.getLsbD 0 ∧ fld e 4 2 = 2 then
      match s.locate p ctx e (d.tileBytes == 65536) 0 with
      | .here pa => rows 0 pa
      | .far pkg pa => if pkg < s.fabric.packages then rows (pkg + 1) pa else []
      | _ => []
    else []

/-- A row's place in the order of `renewRows`, as one number. -/
def rowKey (x : Nat × Nat) : Nat := x.1 * 2 ^ 40 + x.2 / 2048 + 1

/-- Forgets the answered request of a command that is known by a number. -/
def dropTag (m : XCmd) (key : Nat) : Op Unit := modify fun s =>
  { s with waits := s.waits.filter fun w => !(w.core == s.cur && w.strand == .x && w.seq == m.seq && w.off == key) }

/-- One row of `renew` (R167): the next after the last that was done, or, on a replay, after as many as POINT counts. -/
def renewHand (m : XCmd) (t : TBox) : Op XCmd := do
  let (_, d) ← slotDesc t.slot
  let (a, b) ← rangeOf t
  let w ← curCrew
  let all := (← get).renewRows w.part w.ctx d a b
  let rows := if m.inner = 0 then all.drop m.point else all.filter fun x => decide (m.inner < rowKey x)
  match rows with
  | [] => return { m with total := m.point }
  | x :: rest =>
    if x.1 = 0 then modify fun s => s.renewRow x.2 3 59
    else
      match ← farCall .x (x.1 - 1) (2 ^ 68 + rowKey x) 0 0 fun tag => .renewRow x.2 tag with
      | .ack _ => dropTag m (2 ^ 68 + rowKey x)
      | _ => holdOp
    return { m with point := m.point + 1, inner := rowKey x, total := m.point + 1 + rest.length }

end Sys2Proof.Machine
end

