-- ==== Sys2Proof/Machine/XRings.lean ====
section
/-! DEFINITION. X commands on record queues (R123 to R128, R433 to R435) and collectives (R436 to R438). -/

namespace Sys2Proof.Machine

/-! ### Pipelines as stage crews see them -/

/-- The pipeline that a launch is. -/
def Part.pipeOf (p : Part) (acc : Nat) : Option Pipeline := (p.launch acc).bind (·.pipe)

/-- A partition with one pipeline changed. -/
def Part.modPipe (p : Part) (acc : Nat) (f : Pipeline → Pipeline) : Part :=
  p.modLaunch acc fun l => { l with pipe := l.pipe.map f }

/-- The record that exits next (R133): in the order of the last DONE bit, or, with DET, once every record before it has left. -/
def Pipeline.nextExit (g : Pipeline) : Option Nat :=
  if g.det then g.exitQ.find? fun q => g.recs.all fun r => r.gone || decide (q ≤ r.seq) else g.exitQ.head?

/-- Has every crew left that puts into the input ring of stage j (R126)? Of a set, the router has put every record that could still leave it. For stage 0
the ring must be closed instead. -/
def Pipeline.feederDone (g : Pipeline) (j : Nat) : Bool :=
  if j = 0 then false
  else if g.inSet (j - 1) then g.noCrew g.cfirst (g.cfirst + g.clen) && g.nextExit.isNone
  else g.noCrew (j - 1) j

/-- A verdict on a record of the set (R128, R129): the window of its stage moves on; a record with every DONE bit waits to exit,
another that passed waits to be routed. -/
def Pipeline.verdict (g : Pipeline) (seq j : Nat) (pass : Bool) : Pipeline :=
  let i := j - g.cfirst
  let full : BitVec 8 := BitVec.ofNat 8 (2 ^ g.clen - 1)
  let mark := fun (r : SetRec) =>
    if r.seq = seq then
      if pass then { r with done := r.done ||| (1 <<< i), stage := none, taken := false }
      else { r with stage := none, taken := false, gone := true }
    else r
  let recs := g.recs.map mark
  let exits := pass && (recs.any fun r => r.seq == seq && r.done == full)
  { g with recs := recs, exitQ := if exits then g.exitQ ++ [seq] else g.exitQ, windows := g.windows.mapIdx fun k w => if k = i then w.drop 1 ++ [pass] else w }

/-- Sets the DONE bit of a stage in a record's slot of the set's input ring (R124, R128), and says whether that could be done; where it could not, the
failure is handled as the router's (R471). -/
def State.markDone (s : State) (p : BitVec 5) (acc q j : Nat) : State × Bool :=
  match (s.part p).launch acc with
  | none => (s, true)
  | some l =>
    match l.pipe.bind fun g => (g.stages[g.cfirst]?).map fun x => (g, x) with
    | none => (s, true)
    | some (g, st) =>
      let d := Desc.ofBits ((s.descBits p l.ctx st.inring.toNat).getD 0)
      let at_ := 128 + 64 * (q % 2 ^ d.logslots) + 4
      match s.ringRead (opRing p acc 2) p l.ctx st.inring at_ 1 with
      | (t, .ok bs) =>
        match t.ringWrite p l.ctx st.inring at_ [bs.getD 0 0 ||| (1 <<< (j - g.cfirst))] with
        | .ok u => (u.devDone (opRing p acc 2), true)
        | .error e => (t.routerFail (opRing p acc 2) p l.ctx st.inring at_ 1 e, false)
      | (t, .error e) => (t.routerFail (opRing p acc 2) p l.ctx st.inring at_ 2 e, false)

/-- A crew has reached its record boundary: a set record that it held has passed; outside a set, what it took no longer holds back others' outputs. -/
def State.pastBoundary (s : State) (w : Crew) (c : BitVec 7) : State :=
  match w.stage with
  | none => s
  | some j =>
    let s := s.modCore c fun r => { r with crew := r.crew.map fun w => { w with holdRec := none } }
    s.modPart w.part fun t => t.modPipe w.acc fun g =>
      let g := match w.holdRec with
        | some q => g.verdict q j true
        | none => g
      { g with takes := g.takes.filter fun x => x.core != c }

/-- The record boundary of a crew (R125, R127, R134): a set record that it still holds finishes as PASS with its payload unchanged, as a release at PKG
scope. -/
def boundaryOp : Op Unit := do
  let w ← curCrew
  match w.stage, w.holdRec with
  | some j, some q =>
    opRelease .pkg
    let (t, ok) := (← get).markDone w.part w.acc q j
    set t
    holdUnless ok
  | _, _ => pure ()
  modify fun s => s.pastBoundary w s.cur

/-- A crew marked for a move waits for it at its record boundary (R137). -/
def State.donor (s : State) (c : BitVec 7) : Bool :=
  match (s.core c).crew with
  | some w => match (s.part w.part).pipeOf w.acc with
    | some g => (match g.move with | some (d, _) => d == c | none => false)
    | none => false
  | none => false

/-! ### Rings -/

/-- The ring operand (R433): KIND RING. -/
def ringOperand (slot : BitVec 5) : Op (Nat × Desc) := do
  let (t, d) ← slotDesc slot
  need (d.kind == 3) kTensor 4 (detT t slot.toNat 0 0)
  return (t, d)

/-- A word of a ring's control block (R146): PUT at 0, flags at 8, cursor c at 16 + 8c. -/
def ringWord (slot : BitVec 5) (t : Nat) (d : Desc) (byte : Nat) : Op Nat := do return leNat (← opRead .x (ringAcc slot t d byte) 8)

/-- Writes bytes of a ring's byte space. -/
def ringPoke (m : XCmd) (slot : BitVec 5) (t : Nat) (d : Desc) (byte : Nat) (bs : List Byte) : Op Unit := do
  let a := ringAcc slot t d byte
  let pl ← placePiece .x a false
  farRoomFor [pl]
  xPerform m a bs pl

/-- The least enabled cursor of a ring. -/
def ringLow (slot : BitVec 5) (t : Nat) (d : Desc) : Op Nat := do
  let cs ← ((List.range 8).filter fun c => d.cursors.testBit c).mapM fun c => ringWord slot t d (16 + 8 * c)
  return cs.foldl Nat.min (cs.headD 0)

/-- The start of `ring.put` (R433): the record is read; a plain put at a closed ring raises RINGWRITE; PASS and DROP need a set
crew with an unfinished record, and the set's input ring. -/
def rputStart (m : XCmd) (verd : BitVec 2) (src : TRef) (ring : BitVec 5) : Op XCmd := do
  let (t, d) ← ringOperand ring
  let bs ← readLin .x src.slot (← pr .x src.pcrd.toNat).toNat 64 64
  let w ← curCrew
  if verd = 0 then
    let fl ← ringWord ring t d 8
    need (fl % 2 == 0) kRingwrite 0 (detT t ring.toNat 0 8)
  else
    let ok := match w.stage, (← get).part w.part |>.pipeOf w.acc with
      | some j, some g => g.inSet j && w.holdRec.isSome && ((g.stages[g.cfirst]?).map fun x => x.inring.toNat) == some t
      | _, _ => false
    need ok kTensor 4 (detT t ring.toNat 0 0)
  return { m with ready := true, total := 1, vals := bs.map (·.toNat) }

/-- May this crew commit its output now (R125)? On an INORDER stage outside a set, once every record taken earlier at the
cursor has reached its boundary. -/
def State.mayCommit (s : State) (w : Crew) (c : BitVec 7) : Bool :=
  match w.stage, (s.part w.part).pipeOf w.acc with
  | some j, some g =>
    match g.stages[j]? with
    | some st =>
      if g.inSet j || !st.inorder then true
      else match g.takes.find? fun x => x.core == c with
        | some k => g.takes.all fun x => x.ring != k.ring || x.cursor != k.cursor || decide (k.seq ≤ x.seq)
        | none => true
    | none => true
  | _, _ => true

/-- A put of the stage waited for space (R135). -/
def State.noteWait (s : State) (w : Crew) : State :=
  match w.stage with
  | some j => s.modPart w.part fun t => t.modPipe w.acc fun g => { g with bp := if g.bp.contains j then g.bp else j :: g.bp }
  | none => s

/-- Forgets what a command has read on other packages: it reads again. -/
def dropFound (m : XCmd) : Op Unit := modify fun s =>
  { s with waits := s.waits.filter fun w => !(w.core == s.cur && w.strand == .x && w.seq == m.seq && (match w.answer with | some (.data _ _) => true | _ => false)) }

/-- Do the control block and a record's slot of a ring lie on different packages? A put then claims its number before it writes the slot, and a take waits
until the slot holds that number (DESIGN CHOICE, log 122). -/
def ringSplit (t : Nat) (at_ : Nat) (d : Desc) : Op Bool := do
  let w ← curCrew
  let s ← get
  let pkg := fun (b : Nat) => (s.backPlace s.cur w.part w.ctx (BitVec.ofNat 12 t) (d.ringPlace b).1 (d.ringPlace b).2).map (·.1)
  return pkg 0 != pkg at_

/-- `ring.put` (R123, R124, R128, R433). -/
def rputHand (m : XCmd) (verd : BitVec 2) (ring : BitVec 5) : Op XCmd := do
  let (t, d) ← ringOperand ring
  let w ← curCrew
  let bs := m.vals.map (BitVec.ofNat 8)
  opRelease .pkg
  if verd = 0 then
    let put ← ringWord ring t d 0
    let low ← ringLow ring t d
    if 2 ^ d.logslots ≤ put - low then
      modify fun s => s.noteWait w
      holdOp
    holdUnless ((← get).mayCommit w (← get).cur)
    let at_ := 128 + 64 * (put % 2 ^ d.logslots)
    let slot := leBytes 4 put ++ (0 : Byte) :: bs.drop 5
    let pc ← xPlace (ringAcc ring t d 0)
    let ps ← xPlace (ringAcc ring t d at_)
    farRoom 2
    let next := BitVec.ofNat 64 (put + 1)
    match pc, ps with
    | .inr (pkg, pa), .inr (qkg, qa) =>
      xSwap m (ringAcc ring t d 0) pkg pa (BitVec.ofNat 64 put) next (if pkg = qkg then [(qa, slot)] else [])
      if pkg ≠ qkg then ackWrite m (ringAcc ring t d at_) qkg qa slot false
    | .inr (pkg, pa), .inl _ =>
      xSwap m (ringAcc ring t d 0) pkg pa (BitVec.ofNat 64 put) next []
      xPerform m (ringAcc ring t d at_) slot (some ps, false)
    | .inl _, .inr _ =>
      xPerform m (ringAcc ring t d 0) (bvBytes 8 next) (some pc, false)
      xPerform m (ringAcc ring t d at_) slot (some ps, false)
    | .inl _, .inl _ =>
      xPerform m (ringAcc ring t d at_) slot (some ps, false)
      xPerform m (ringAcc ring t d 0) (bvBytes 8 next) (some pc, false)
    return { m with point := 1 }
  else
    let q := w.holdRec.getD 0
    let j := w.stage.getD 0
    if verd = 1 then
      let g := ((← get).part w.part).pipeOf w.acc
      let done := ((g.bind fun g => g.recs.find? (·.seq == q)).map fun r => r.done).getD 0
      let bit : BitVec 8 := 1 <<< (j - (g.map (·.cfirst)).getD 0)
      ringPoke m ring t d (128 + 64 * (q % 2 ^ d.logslots) + 4) ((done ||| bit) :: bs.drop 5)
    let c := (← get).cur
    modify fun s =>
      let s := s.modCore c fun r => { r with crew := r.crew.map fun w => { w with holdRec := none } }
      s.modPart w.part fun p => p.modPipe w.acc fun g => g.verdict q j (verd == 1)
    return { m with point := 1 }

/-- The start of `ring.take` (R434). -/
def rtakeStart (m : XCmd) (cur : BitVec 3) (ring : BitVec 5) (dst : TRef) (status : LockRef) : Op XCmd := do
  let (t, d) ← ringOperand ring
  need (d.cursors.testBit cur.toNat) kTensor 4 (detT t ring.toNat 0 0)
  let _ ← linAcc dst.slot (← pr .x dst.pcrd.toNat).toNat 64 64
  let _ ← xLoc status 8
  return { m with ready := true, total := 1 }

/-- What a take may claim: a sequence number, or END, or nothing yet (R123, R126, R127). -/
inductive Claim where
  | seq (n : Nat)
  | fin
  | wait
  deriving DecidableEq, Repr

/-- The claim of a take at a set stage (R127): the head of the stage's dispatch queue. -/
def Pipeline.claim (g : Pipeline) (j : Nat) (full : Bool) : Claim :=
  match (g.queues.getD (j - g.cfirst) []).head? with
  | some q => .seq q
  | none => if full && g.recs.all (·.gone) && g.exitQ.isEmpty then .fin else .wait

/-- The pipeline after a set stage's crew has taken the head of its dispatch queue. -/
def Pipeline.taken (g : Pipeline) (j q : Nat) : Pipeline :=
  { g with queues := g.queues.mapIdx (fun k l => if k = j - g.cfirst then l.drop 1 else l), recs := g.recs.map fun r => if r.seq = q then { r with taken := true } else r }

/-- The start of a take is its crew's record boundary (R125), which is passed once: `inner` is then 1, or 2 for a crew that a move waits for (R137). -/
def takeBoundary (m : XCmd) : Op Unit := do
  let w ← curCrew
  if m.inner = 0 then
    boundaryOp
    let moved := (← get).donor (← get).cur
    modX fun x => { x with queue := x.queue.map fun q => if q.seq == m.seq then { m with inner := if moved then 2 else 1 } else q }
    if moved then
      modify fun s => s.push (.derailleurMove w.part w.acc)
      holdOp
  else if m.inner = 2 then holdUnless !((← get).donor (← get).cur)

/-- The ring that a take reads: for a set crew, the set's input ring (R127, R434). -/
def takeRing (ring : BitVec 5) (set : Option (Nat × Pipeline)) : Op (Nat × Desc) := do
  let (t, d) ← ringOperand ring
  match set.bind fun e => e.2.stages[e.2.cfirst]? with
  | none => return (t, d)
  | some st =>
    if st.inring.toNat = t then return (t, d)
    else match ← crewDesc st.inring.toNat ring.toNat with
      | none => flt kTensor 1 (detT st.inring.toNat ring.toNat 0 0)
      | some b =>
        need ((Desc.ofBits b).kind == 3 && (Desc.ofBits b).wf && descPlain b) kTensor 2 (detT st.inring.toNat ring.toNat 0 0)
        return (st.inring.toNat, Desc.ofBits b)

/-- `ring.take` (R123, R125 to R127, R434): the claim, the record and the status word as one unit. A take at a ring or cursor that is not its stage's input ends as
one outside a pipeline does (DESIGN CHOICE, log 130). -/
def rtakeHand (m : XCmd) (cur : BitVec 3) (ring : BitVec 5) (dst : TRef) (status : LockRef) : Op XCmd := do
  let c := (← get).cur
  takeBoundary m
  let w ← curCrew
  let g := ((← get).part w.part).pipeOf w.acc
  let setStage := match w.stage, g with
    | some j, some g => if g.inSet j then some (j, g) else none
    | _, _ => none
  let (t, d) ← takeRing ring setStage
  let da ← linAcc dst.slot (← pr .x dst.pcrd.toNat).toNat 64 64
  let dp ← placePiece .x da false
  let sa ← xLoc status 8
  let sp ← placePiece .x sa false
  farRoomFor [dp, sp, sp]
  let put ← ringWord ring t d 0
  let closed := (← ringWord ring t d 8) % 2 == 1
  let cn ← ringWord ring t d (16 + 8 * cur.toNat)
  let first ← match setStage with
    | some (_, g) => ringWord ring t d (16 + 8 * ((g.stages[g.cfirst]?).map (·.cursor.toNat)).getD 0)
    | none => pure 0
  let claim := if !w.ended.isEmpty then .fin
    else match setStage with
      | some (j, g) =>
        g.claim j (decide (put ≤ if g.recs.isEmpty then first else g.admitted) && (if g.cfirst = 0 then closed else g.feederDone g.cfirst))
      | none =>
        if cn < put then .seq cn
        else
          let full := match w.stage, g with
            | some j, some g =>
              let own := match g.stages[j]? with
                | some st => st.inring.toNat == t && st.cursor == cur
                | none => false
              if j = 0 || !own then closed else g.feederDone j
            | _, _ => closed
          if full then .fin else .wait
  match claim with
  | .wait => holdOp
  | .fin =>
    modCur fun r => { r with crew := r.crew.map fun w => { w with ended := if w.ended.contains t then w.ended else t :: w.ended } }
    modify fun s => s.modPart w.part fun p => p.modPipe w.acc fun g =>
      { g with move := match g.move with | some (x, r) => if x = c then none else some (x, r) | none => none }
    xPerform m sa (leBytes 8 (2 ^ 63)) sp
    return { m with point := 1 }
  | .seq q =>
    let at_ := 128 + 64 * (q % 2 ^ d.logslots)
    let bs ← opRead .x (ringAcc ring t d at_) 64
    if (← ringSplit t at_ d) && leNat (bs.take 4) != q % 2 ^ 32 then
      dropFound m
      holdOp
    match setStage with
    | some (j, _) =>
      modify fun s => s.modPart w.part fun p => p.modPipe w.acc fun g => g.taken j q
      modCur fun r => { r with crew := r.crew.map fun w => { w with holdRec := some q } }
    | none =>
      let ca := ringAcc ring t d (16 + 8 * cur.toNat)
      match ← xPlace ca with
      | .inl pa => modify fun s => s.bankWrite pa (leBytes 8 (q + 1))
      | .inr (pkg, pa) => xSwap m ca pkg pa (BitVec.ofNat 64 q) (BitVec.ofNat 64 (q + 1)) []
      match w.stage with
      | some j => modify fun s => s.modPart w.part fun p => p.modPipe w.acc fun g => { g with takes := ⟨j, q, c, BitVec.ofNat 12 t, cur⟩ :: g.takes }
      | none => pure ()
    xPerform m da bs dp
    xPerform m sa (leBytes 8 (q % 2 ^ 63)) sp
    return { m with point := 1 }

/-- `ring.close` (R435). -/
def rcloseHand (m : XCmd) (ring : BitVec 5) : Op XCmd := do
  let (t, d) ← ringOperand ring
  opRelease .pkg
  let fl ← ringWord ring t d 8
  if fl % 2 = 0 then ringPoke m ring t d 8 (leBytes 8 (fl + 1))
  return { m with point := 1 }

/-! ### Collectives (R436 to R438) -/

/-- The box of packages of p[PSPAN] (R436): origin and extents. -/
def spanOf (v : Word) : (Nat × Nat × Nat) × (Nat × Nat × Nat) :=
  ((fld v 0 9, fld v 9 9, fld v 18 9), (fld v 27 3 + 1, fld v 30 3 + 1, fld v 33 3 + 1))

/-- This package's place in a box and the packages in it; none where the box does not hold it or leaves the domain. -/
def Fabric.spanPlace (f : Fabric) (v : Word) : Option (Nat × Nat) :=
  let (o, e) := spanOf v
  let (dx, dy, dz) := (f.pos.1 - o.1, f.pos.2.1 - o.2.1, f.pos.2.2 - o.2.2)
  let holds := decide (o.1 ≤ f.pos.1 ∧ o.2.1 ≤ f.pos.2.1 ∧ o.2.2 ≤ f.pos.2.2 ∧ dx < e.1 ∧ dy < e.2.1 ∧ dz < e.2.2)
  let inside := (f.indexOf o).isSome && (f.indexOf (o.1 + e.1 - 1, o.2.1 + e.2.1 - 1, o.2.2 + e.2.2 - 1)).isSome
  if holds && inside && fld v 36 28 == 0 then some (dx + e.1 * (dy + e.2.1 * dz), e.1 * e.2.1 * e.2.2) else none

/-- Cores of a partition whose crew belongs to a group, in ascending index: its members (R436). -/
def State.members (s : State) (p : BitVec 5) (g : BitVec 8) : List (BitVec 7) :=
  (s.residents p).filterMap fun x => if x.2.groups.contains g then some x.1 else none

/-- SIZE of the group times the packages of the box. -/
def State.collSize (s : State) (p : BitVec 5) (c : CollArgs) (span : Word) : Nat :=
  ((s.part p).group c.group).size * ((s.fabric.spanPlace span).map (·.2)).getD 1

/-- The checks of `coll` at issue (R3, R436, R437): RED 3, a group that is not in use, an issuer that is no member, a box that does not hold this package or
leaves the domain. -/
def collLegal (c : CollArgs) : Op Unit := do
  let w ← curCrew
  let e := ((← get).part w.part).group c.group
  legal (c.red != 3 && e.inuse && e.ctx == w.ctx && w.groups.contains c.group && ((← get).fabric.spanPlace (← pr .x c.pspan.toNat)).isSome) .x

/-- Do two boxes share an element? -/
def overlapping (a b : XBox) : Bool :=
  a.t == b.t && ((a.cs.zip (a.ext.zip (b.cs.zip b.ext))).all fun x => decide (x.1 < x.2.2.1 + x.2.2.2 ∧ x.2.2.1 < x.1 + x.2.1))

/-- Formats that a reduction accepts (R437). -/
def redFmts : List Nat := [1, 3, 0x13]

/-- The start of `coll` (R437): the operands; what this participant sends is read and kept. -/
def collStart (m : XCmd) (c : CollArgs) : Op XCmd := do
  let s ← xbox c.s
  let d ← xbox c.d
  d.writable
  let w ← curCrew
  let st ← get
  let span ← pr .x c.pspan.toNat
  let root := (← pr .x c.proot.toNat).toNat
  let pn := st.collSize w.part c span
  let red := c.op.toNat < 2
  let count := match c.op.toNat with
    | 1 => d.count * pn == s.count
    | 2 => d.count == pn * s.count
    | _ => d.count == s.count
  s.shape ((st.fabric.spanPlace span).isSome && sameBits s.d d.d && count && !overlapping s d && (c.red == 0 || red) &&
    (!red || (redFmts.contains s.d.format && s.d.format == d.d.format)) && (c.op != 3 || decide (root < pn)))
  (xruns d.slot d.t d.d ((List.range d.count).map fun e => (e, d.at_ e))).forM fun r => do
    need r.1.ok kTensor 3 r.1.acc.det
    let _ ← xPlace r.1.acc
  let vs ← s.read (List.range s.count)
  return { m with ready := true, total := 1, vals := vs }

/-- What every participant of an instance must agree on (R437). -/
def collKey (m : XCmd) (c : CollArgs) (sf df : Nat) : List Nat :=
  [c.op.toNat, c.red.toNat, m.vals.length, sf, df, (m.ps.getD c.pspan.toNat 0).toNat,
    if c.op = 3 then (m.ps.getD c.proot.toNat 0).toNat else 0]

/-- One step of a reduction in ascending rank (R438): FP32 for floating formats. -/
def redStep (red : Nat) (f : Nat) (a v : Nat) : Nat :=
  if f = 0x13 then
    if red = 0 then (a + v) % 2 ^ 32
    else if (red = 1) = decide (asSigned 32 a < asSigned 32 v) then v else a
  else if red = 0 then faddBits 1 a v
  else fminmax 1 (red == 1) a v

/-- Do +∞ and −∞ meet among FP32 values (R262)? -/
def infMeet (vs : List Nat) : Bool := vs.contains 0x7F800000 && vs.contains 0xFF800000

/-- The reduction of one element over the participants in ascending rank (R438). -/
def reduce (red f : Nat) (vs : List Nat) : Nat :=
  let up := fun (v : Nat) => if f = 3 then v * 65536 else v
  match vs with
  | [] => 0
  | v :: r =>
    let x := match (if f = 0x13 then none else (vs.map up).find? fun b => (decodeVal 1 b).isNan) with
      | some n => encodeVal 1 rne false false (decodeVal 1 n)
      | none => if f ≠ 0x13 && infMeet (vs.map up) then 0x7FC00000 else r.foldl (fun a b => redStep red f a (up b)) (up v)
    if f = 3 then convertBits 1 3 rne false x else x

/-- The values that participant `r` of `n` receives (R437): `all` lists every participant's values by rank. -/
def collResult (op red f root cnt r : Nat) (all : List (List Nat)) : List Nat :=
  let red := fun (e : Nat) => reduce red f (all.map fun vs => vs.getD e 0)
  match op with
  | 0 => (List.range cnt).map red
  | 1 => (List.range cnt).map fun i => red (r * cnt + i)
  | 2 => all.flatten
  | _ => all.getD root []

/-- The X command of a core that an instance of a group waits for: its first `coll` on the group, started and checked. -/
def Core.collOn (c : Core) (g : BitVec 8) : Option (XCmd × CollArgs) :=
  (c.xs.queue.find? fun m => !m.fin && (match m.kind with | .coll a => a.group == g | _ => false)).bind fun m =>
    match m.kind with
    | .coll a => if m.started && m.ready then some (m, a) else none
    | _ => none

/-- One entry of the X queue replaced. -/
def XState.setCmd (x : XState) (m : XCmd) : XState := { x with queue := x.queue.map fun q => if q.seq == m.seq then m else q }

/-- Elements from the bytes that another participant sent. -/
def elemsOf (w n : Nat) (bs : List Byte) : List Nat := (List.range n).map fun i => leNat bs / 2 ^ (w * i) % 2 ^ w

/-- Every participant of an instance on this package: its core, command and arguments. -/
def State.collParties (s : State) (p : BitVec 5) (g : BitVec 8) : Option (List (BitVec 7 × XCmd × CollArgs)) :=
  (s.members p g).mapM fun c => ((s.core c).collOn g).map fun x => (c, x.1, x.2)

/-- The send and receive buffers of a participant's `coll`. -/
def State.collBoxes (s : State) (x : BitVec 7 × XCmd × CollArgs) : Option (XBox × XBox) :=
  match ((asCmd x.2.1 (do return (← xbox x.2.2.s, ← xbox x.2.2.d))).run { s with cur := x.1 }).1 with
  | .ok y => some y
  | .error _ => none

/-- What a participant must agree on with the others (R437). -/
def State.collKeyOf (s : State) (x : BitVec 7 × XCmd × CollArgs) : Option (List Nat) :=
  (s.collBoxes x).map fun f => collKey x.2.1 x.2.2 f.1.d.format f.2.d.format

/-- The place of this package in the span of an instance (R436). -/
def State.collPlace (s : State) (m : XCmd) (a : CollArgs) : Nat := ((s.fabric.spanPlace (m.ps.getD a.pspan.toNat 0)).map (·.1)).getD 0

/-- Every participant's values by rank: those of this package from `base` on, the others from what they sent. -/
def collValues (base total w n : Nat) (ps : List (BitVec 7 × XCmd × CollArgs)) (remote : List (Nat × List Byte)) : List (List Nat) :=
  let mine := ps.mapIdx fun i x => (base + i, x.2.1.vals)
  (List.range total).map fun r =>
    match mine.find? (·.1 == r) with
    | some (_, v) => v
    | none => ((remote.find? (·.1 == r)).map fun x => elemsOf w n x.2).getD []

/-- A participant's receive buffer is written with what its rank receives (R438). -/
def collWrite (m : XCmd) (a : CollArgs) (format rank : Nat) (all : List (List Nat)) : Op Unit := asCmd m do
  let d ← xbox a.d
  let vs := collResult a.op.toNat a.red.toNat format (m.ps.getD a.proot.toNat 0).toNat d.count rank all
  let ws ← (xruns d.slot d.t d.d ((List.range d.count).map fun e => (e, d.at_ e))).mapM fun r => do
    return (r.1.acc, ← xPlace r.1.acc, ← runBytes .x (2 ^ d.d.elog) r.1 (r.2.map fun e => vs.getD e 0))
  farRoomFor (ws.map fun x => (some x.2.1, false))
  ws.forM fun x => xPerform m x.1 x.2.2 (some x.2.1, false)

/-- Can a participant not write its receive buffer yet? Then the state with what it waits for recorded. -/
def State.collWaits (s : State) (x : BitVec 7 × XCmd × CollArgs) (format rank : Nat) (all : List (List Nat)) : Option State :=
  match (collWrite x.2.1 x.2.2 format rank all).run { s with cur := x.1 } with
  | (.error (.hold _), t) => some { t with cur := s.cur }
  | _ => none

/-- One participant receives: its command is performed, or faults. -/
def State.collReceive (s : State) (x : BitVec 7 × XCmd × CollArgs) (format rank : Nat) (all : List (List Nat)) : State :=
  match (collWrite x.2.1 x.2.2 format rank all).run { s with cur := x.1 } with
  | (.ok _, t) => t.modCore x.1 fun r => { r with xs := r.xs.setCmd { x.2.1 with point := 1, fin := true } }
  | (.error (.fault f), t) =>
    (t.modCore x.1 fun r => { r with xs := r.xs.setCmd { x.2.1 with started := false, ready := false, progress := .fault } }).takeFault x.1 .x
      x.2.1.pc x.2.1.word f
  | (.error _, _) => s

/-- A participant that does not agree with the others raises TENSORFAULT SHAPE (R437). -/
def State.collRefuse (s : State) (x : BitVec 7 × XCmd × CollArgs) : State :=
  (s.modCore x.1 fun r => { r with xs := r.xs.setCmd { x.2.1 with started := false, ready := false, progress := .none } }).takeFault x.1 .x
    x.2.1.pc x.2.1.word ⟨kTensor, 4, 0, false⟩

/-- `coll_instance_complete` (R209, R437, R438): once every contribution is there (`remote` brings those of other packages by
rank), the participants are compared and every receive buffer is written, all of them or, while one of them cannot be, none. -/
def execCollInstanceComplete (part : BitVec 5) (group : BitVec 8) (remote : List (Nat × List Byte)) (s : State) :
    Host.Outcome State Fault Refusal :=
  .next (match s.collParties part group with
  | none => s
  | some [] => s
  | some (x :: rest) =>
    let ps := x :: rest
    let size := ((s.part part).group group).size
    let total := s.collSize part x.2.2 (x.2.1.ps.getD x.2.2.pspan.toNat 0)
    if ps.length < size ∨ ps.length + remote.length < total then s
    else if !ps.all (fun y => s.collKeyOf y == s.collKeyOf x) || !remote.all (fun r => decide (r.1 < total)) then ps.foldl State.collRefuse s
    else
      match s.collBoxes x with
      | none => s
      | some (sb, _) =>
        let base := s.collPlace x.2.1 x.2.2 * size
        let all := collValues base total (2 ^ sb.d.elog) x.2.1.vals.length ps remote
        match ps.zipIdx.findSome? fun y => s.collWaits y.1 sb.d.format (base + y.2) all with
        | some t => t
        | none => ps.zipIdx.foldl (fun s y => s.collReceive y.1 sb.d.format (base + y.2) all) s)

end Sys2Proof.Machine
end

