-- ==== Sys2Proof/Machine/XQueue.lean ====
section
/-! DEFINITION. The X command queue (R285, R314 to R318, R325, R327, R338, R473): issue, start, the handing of pieces, their
acknowledgement, lock word counts, stamps and retirement. -/

namespace Sys2Proof.Machine

/-! ### Issue (R285, R314, R338) -/

/-- The TREFs of a command, with a box and without (R335). -/
def XKind.trefs : XKind → List TBox × List TRef
  | .copy c | .copyEnc c _ | .copyDec c _ | .copySt c _ => ([c.s, c.d], [])
  | .metaLoad _ _ t => ([], [t])
  | .gather g | .scatter g => ([g.box], [])
  | .scatterBin v _ b => ([v], [b])
  | .binApply _ _ b => ([], [b])
  | .put _ _ s _ _ => ([s], [])
  | .get _ d _ _ => ([d], [])
  | .mcast _ s d _ => ([s, d], [])
  | .walk w => ([], [w.buf])
  | .permit _ _ => ([], [])
  | .lockSet _ l => ([], [l])
  | .alloc _ _ _ _ => ([], [])
  | .free _ | .renew _ => ([], [])
  | .ringPut _ s _ => ([], [s])
  | .ringTake _ _ d _ => ([], [d])
  | .ringClose _ => ([], [])
  | .coll c => ([c.s, c.d], [])

/-- The slots that a command names in words of the TREF layout without coordinates: an indexed tensor, a tile range, a ring. -/
def XKind.slots : XKind → List (BitVec 5)
  | .gather g | .scatter g => [g.slot]
  | .walk w => [w.tiles.slot]
  | .alloc _ _ _ t | .free t | .renew t => [t.slot]
  | .ringPut _ _ r | .ringTake _ r _ _ | .ringClose r => [r]
  | _ => []

/-- The field values that raise ILLOP (R417, R420, R425, R431, R433, R437). -/
def XKind.fieldsOk : XKind → Bool
  | .copy c | .copyDec c _ | .copySt c _ => decide (c.rm.toNat < 5)
  | .copyEnc c code => decide (c.rm.toNat < 5 ∧ 0x81 ≤ code.toNat ∧ code.toNat ≤ 0x88)
  | .metaLoad n i _ => decide (n ≠ 0 ∧ n.toNat + i.toNat ≤ 16)
  | .permit n _ => decide (n ≠ 0)
  | .ringPut v _ _ => decide (v ≠ 3)
  | _ => true

/-- A misaligned lock word is refused when its command issues (R325). -/
def lockAligned (l : LockRef) : Op Unit := do
  let c := (← pr .x l.pc.toNat).toNat
  match ← tryOp (slotDesc l.slot) with
  | .ok (t, d) => need (c % 16 == 0) kTensor 4 (detT t l.slot.toNat (c / d.tileBytes) (c % d.tileBytes))
  | .error _ => pure ()

/-- The faults of an X command that come before its token is examined (R325, R335, R338, R430, R436). -/
def xIssueCheck (k : XKind) : Op Unit := do
  legal k.fieldsOk .x
  match k with
  | .coll c => collLegal c
  | _ => pure ()
  k.trefs.1.forM tboxCheck
  k.trefs.2.forM trefCheck
  k.slots.forM slotBound
  match k with
  | .walk w => need ((← curCore).xs.walkOf w.wn).isNone kTensor 4 (detT 0 w.tiles.slot.toNat 0 0)
  | _ => pure ()
  match k with
  | .put (some lk) _ b _ _ => do
    match ← tryOp (slotDesc b.slot) with
    | .ok (t, _) => need ((← pr .x lk.toNat).toNat % 16 == 0) kTensor 4 (detT t b.slot.toNat 0 0)
    | .error _ => pure ()
  | _ => pure ()
  match k.lockRef, k with
  | some l, _ => lockAligned l
  | none, .lockSet _ l => lockAligned ⟨l.slot, l.pcrd⟩
  | none, _ => pure ()

/-- Issues an X command of `len` words (R285, R314, R338). -/
def issueX (k : XKind) (order : Option Order) (len : Nat) (tk : Tok) (s : State) : State :=
  let c := s.cur
  let st := (s.core c).str .x
  match ((xIssueCheck k).run s).1 with
  | .error (.fault f) => s.takeFault c .x st.pc (s.ir.headD 0) f
  | .error _ => s
  | .ok _ =>
    let wi := waitIdx .x tk.wait.toNat
    if (s.core c).xs.blocked ∨ (tk.wait ≠ 0 ∧ (s.core c).tokAt wi = 0) then s
    else
      let s := if tk.wait ≠ 0 then s.modCore c fun r => r.setTok wi (r.tokAt wi - 1) else s
      let s := ((k.trefs.1.map (·.slot) ++ k.trefs.2.map (·.slot) ++ k.slots).forM (fun b => do let _ ← tryOp (slotDesc b)) : Op Unit).run s |>.2
      let x := (s.core c).xs
      let m : XCmd :=
        { seq := x.xseq + 1, pc := st.pc, word := s.ir.headD 0, kind := k, order := order, ps := (s.core c).p.toList, det := x.det
          post := if tk.post = 0 then none else some (tokIdx .x tk.post.toNat, 1)
          mem := match (s.core c).crew with | some w => s.memRights w.part w.ctx | none => 0 }
      let walks := match k with
        | .walk w => (⟨w.wn, x.xseq + 1, 0⟩ : WalkSt) :: x.walks
        | _ => x.walks
      let s := s.modCore c fun r => { r with xs := { r.xs with xseq := x.xseq + 1, queue := x.queue ++ [m], walks := walks } }
      s.advance c .x st.pc len

/-- May the crew of a core issue and hand on (R112, R230, R231, R367)? -/
def State.coreRuns (s : State) (c : BitVec 7) : Bool :=
  match (s.core c).crew with
  | none => false
  | some w =>
    let p := s.part w.part
    !(s.core c).stopped && !(s.core c).yld.coop && !p.halted && p.halt.isNone && p.runctx == w.ctx

/-! ### Start (R314 to R316, R416) -/

/-- Is a command in execution? -/
def XCmd.running (m : XCmd) : Bool := m.started && m.progress != .all

/-- Has the command that a delta names retired (R315)? -/
def XState.named (x : XState) (m : XCmd) (d : BitVec 6) : Bool := d == 0 || x.queue.all fun q => q.seq != m.seq - d.setWidth 32

/-- A `permit` that has started and is held (R431). -/
def XCmd.heldPermit (m : XCmd) : Bool := match m.kind with
  | .permit _ _ => m.running && !m.fin
  | _ => false

/-- May a command of the queue start now (R314)? `before` are the entries issued before it. -/
def XState.mayStart (x : XState) (before : List XCmd) (m : XCmd) : Bool :=
  !m.started && m.progress != .all && decide ((x.queue.filter (·.running)).length < 16) &&
    if m.det then match m.order with
      | some o => x.named m o.d1 && x.named m o.d2
      | none => true
    else before.all fun q => (q.started || q.progress == .all) && !q.heldPermit

/-- The command that starts next. -/
def XState.nextStart (x : XState) : Option XCmd :=
  ((List.range x.queue.length).find? fun i => match x.queue[i]? with
    | some m => x.mayStart (x.queue.take i) m
    | none => false).bind fun i => x.queue[i]?

/-- Units that a command reads and writes (R316, R416). -/
def xFoot (k : XKind) : Op (List Nat × List Nat) := do
  let lk ← locUnits k.lockRef 16
  match k with
  | .copy c | .copyEnc c _ => return (← boxUnits c.s, (← boxUnits c.d) ++ lk)
  | .copyDec c tab =>
    let n := match ← tryOp (xbox c.s) with
      | .ok b => b.count
      | .error _ => 0
    let t ← match tab with
      | some r => lineUnits r.slot r.pc n
      | none => pure []
    return ((← boxUnits c.s) ++ t, (← boxUnits c.d) ++ lk)
  | .copySt c z => return (← boxUnits c.s, (← boxUnits c.d) ++ lk ++ (← locUnits (some ⟨z.slot, z.pc⟩) 8))
  | .metaLoad n _ t => return (← lineUnits t.slot t.pcrd (4096 * n.toNat), [])
  | .gather g =>
    let n := match ← tryOp (xbox g.box) with
      | .ok b => b.count
      | .error _ => 0
    return ((← allUnits g.slot) ++ (← lineUnits g.idx.slot g.idx.pc n), (← boxUnits g.box) ++ lk)
  | .scatter g =>
    let n := match ← tryOp (xbox g.box) with
      | .ok b => b.count
      | .error _ => 0
    return ((← boxUnits g.box) ++ (← lineUnits g.idx.slot g.idx.pc n), (← allUnits g.slot) ++ lk)
  | .scatterBin v idx _ =>
    let n := match ← tryOp (xbox v) with
      | .ok b => b.count
      | .error _ => 0
    return ((← boxUnits v) ++ (← lineUnits idx.slot idx.pc n), [])
  | .binApply _ _ _ => return ([], [])
  | .put _ _ s _ _ => return (← boxUnits s, [])
  | .get _ d _ _ => return ([], (← boxUnits d) ++ lk)
  | .mcast _ s d cores => return (← boxUnits s, ← spreadUnits cores ((← boxUnits d) ++ lk))
  | .walk _ | .permit _ _ => return ([], [])
  | .lockSet _ l => return ([], ← locUnits (some ⟨l.slot, l.pcrd⟩) 16)
  | .alloc z _ _ t => return ([], (← rangeUnits t) ++ (← locUnits (some z) 8))
  | .free t | .renew t => return ([], ← rangeUnits t)
  | .ringPut _ s r => return (← lineUnits s.slot s.pcrd 64, ← allUnits r)
  | .ringTake _ r d z => return ([], (← allUnits r) ++ (← lineUnits d.slot d.pcrd 64) ++ (← locUnits (some z) 8))
  | .ringClose r => return ([], ← allUnits r)
  | .coll c => return (← boxUnits c.s, ← boxUnits c.d)

/-- Do two footprints meet on a unit that one of them writes (R316)? -/
def footClash (a b : List Nat × List Nat) : Bool := a.2.any (fun u => b.1.contains u || b.2.contains u) || a.1.any fun u => b.2.contains u

/-- The checks that a command makes on its operands at start (R416). -/
def xStart (m : XCmd) : Op XCmd :=
  match m.kind with
  | .copy c => copyStart m c none
  | .copyEnc c code => encStart m c code.toNat
  | .copyDec c tab => decStart m c tab
  | .copySt c z => copyStart m c (some z)
  | .metaLoad n _ t => metaStart m n t
  | .gather g => gatherStart m g
  | .scatter g => scatterStart m g
  | .scatterBin v idx b => sbinStart m v idx b
  | .binApply pb arr b => bapplyStart m pb arr b
  | .put _ st s pk pa => putStart m st.isSome s pk pa
  | .get _ d pk pa => getStart m d pk pa
  | .mcast _ s d cores => mcastStart m s d cores
  | .walk w => walkStart m w
  | .permit _ _ => pure { m with ready := true, total := 1 }
  | .lockSet _ l => lockSetStart m l
  | .alloc z _ _ t => allocStart m z t
  | .free t | .renew t => regionStart m t
  | .ringPut v src r => rputStart m v src r
  | .ringTake cur r d z => rtakeStart m cur r d z
  | .ringClose r => do
    let _ ← ringOperand r
    return { m with ready := true, total := 1 }
  | .coll c => collStart m c

/-- Units of earlier commands that have not retired, for `free` (R166). -/
def earlierUnits (m : XCmd) : Op (List (List Nat)) := do
  let before := (← curCore).xs.queue.takeWhile fun q => q.seq != m.seq
  before.mapM fun q => do
    if q.started then return q.reads ++ q.writes
    else
      let f ← asCmd q (xFoot q.kind)
      return f.1 ++ f.2

/-- The next piece or unit of a command that has started. -/
def xHand (m : XCmd) : Op XCmd :=
  match m.kind with
  | .copy c => copyHand m c
  | .copyEnc c _ => encHand m c
  | .copyDec c tab => decHand m c tab
  | .copySt c _ => copyHand m c
  | .metaLoad _ i t => metaHand m i t
  | .gather g => gatherHand m g
  | .scatter g => scatterHand m g
  | .scatterBin v idx b => sbinHand m v idx b
  | .binApply pb _ b => bapplyHand m pb b
  | .put lk _ s pk pa => putHand m lk s pk pa
  | .get lk d pk pa => getHand m lk d pk pa
  | .mcast lk s d cores => mcastHand m lk s d cores
  | .walk w => walkHand m w
  | .permit n wn => permitHand m n wn
  | .lockSet pt l => lockSetHand m pt l
  | .alloc z zero cls t => allocHand m z zero cls t
  | .free t => do freeHand m t (← earlierUnits m)
  | .renew t => renewHand m t
  | .ringPut v _ r => rputHand m v r
  | .ringTake cur r d z => rtakeHand m cur r d z
  | .ringClose r => rcloseHand m r
  | .coll _ => holdOp

/-- Is a command one atomic, which a fault leaves with PROGRESS NONE (R326)? -/
def XKind.whole : XKind → Bool
  | .lockSet _ _ => true
  | _ => false

/-- Stores an entry of the core that acts. -/
def State.setCmd (s : State) (m : XCmd) : State := s.modCore s.cur fun r => { r with xs := r.xs.setCmd m }

/-- What a command that faults forgets: what its reads and atomics on other packages have answered, so that a replay asks again. The answer to a piece it
has handed, or to a count of one, stands. -/
def State.dropFailed (s : State) (m : XCmd) : State :=
  if s.waits.isEmpty then s
  else { s with waits := s.waits.filter fun w => !(w.core == s.cur && w.strand == .x && w.seq == m.seq && w.answer.isSome && (w.off != lockKey || m.kind.whole) &&
                  !(s.core s.cur).xs.net.any fun p => p.mem.isNone && p.tag == w.tag) }

/-- PROGRESS of a command that faults before it has handed a piece is NONE where `early` says so, else FAULT (R316, R318, R326, R416). -/
def XCmd.failed (m : XCmd) (early : Bool) : Progress := if early && m.point == 0 then .none else .fault

/-- An X command faults with a PROGRESS (R318, R416); a tile that a walk moves is moved again, and the permit it took is given back (log 16). -/
def State.cmdFault (s : State) (m : XCmd) (f : FaultInfo) (p : Progress) : State :=
  let back := match m.kind with
    | .walk w => if m.moving then some w.wn else none
    | _ => none
  let m' := { m with started := false, ready := false, moving := false, inner := 0, progress := p }
  let s := (s.dropFailed m).setCmd m'
  let s := match back with
    | some wn => s.modCore s.cur fun r => match r.xs.walkOf wn with
      | some w => { r with xs := r.xs.setPermits wn (w.permits + 1) }
      | none => r
    | none => s
  s.takeFault s.cur .x m.pc m.word f

/-- Drops what a command's reads of other packages have brought: its piece has been handed. -/
def State.dropData (s : State) (m : XCmd) : State :=
  if s.waits.isEmpty then s
  else { s with waits := s.waits.filter fun w => !(w.core == s.cur && w.strand == .x && w.seq == m.seq && (match w.answer with | some (.data _ _) => true | _ => false)) }

/-- Makes the checks of a command's start, or hands its next piece. Answers whether it acted, and the state. -/
def State.cmdStep (s : State) (m : XCmd) : Bool × State :=
  if !m.ready then
    match (asCmd m (xStart m)).run s with
    | (.ok m', t) => (true, t.setCmd { m' with fin := decide (m'.total ≤ m'.point), progress := .none })
    | (.error (.fault f), t) => (true, t.cmdFault m f (m.failed true))
    | (.error (.done f), t) => (true, t.cmdFault m f .fault)
    | (.error (.hold _), t) => (false, t)
  else
    match (asCmd m (xHand m)).run s with
    | (.ok m', t) => (true, (t.dropData m).setCmd { m' with fin := decide (m'.total ≤ m'.point) })
    | (.error (.fault f), t) | (.error (.done f), t) => (true, t.cmdFault m f (m.failed m.kind.whole))
    | (.error (.hold n), t) => (false, if m.notBefore < n then t.setCmd { m with notBefore := n } else t)

/-- `x_command_start` (R314 to R316, R416): the next command that may start does so, unless under DET its footprint meets that of
one in execution. -/
def execXCommandStart (core : BitVec 7) (s : State) : Host.Outcome State Fault Refusal :=
  let s := { s with cur := core }
  .next (if !s.coreRuns core then s
  else match (s.core core).xs.nextStart with
    | none => s
    | some m =>
      match (asCmd m (xFoot m.kind)).run s with
      | (.error _, t) => t
      | (.ok f, t) =>
        let clash := if m.det then (t.core core).xs.queue.find? fun q => q.running && footClash f (q.reads, q.writes) else none
        match clash with
        | some q => t.cmdFault m ⟨kOrder, 0, BitVec.ofNat 320 (m.seq.toNat + q.seq.toNat * 2 ^ 32), false⟩ .none
        | none =>
          let m' := { m with started := true, ready := false, reads := f.1, writes := f.2 }
          ((t.setCmd m').cmdStep m').2)

/-- Commands with something to hand: in execution; while the core is halted only a walk that moves a tile (R231, R329). -/
def State.handable (s : State) (c : BitVec 7) : List XCmd :=
  let runs := s.coreRuns c
  (s.core c).xs.queue.filter fun m => m.running && !m.fin && decide (m.notBefore ≤ s.time) && (match m.kind with
    | .walk _ => if m.moving then true else runs && !m.ready
    | .coll _ => runs && !m.ready
    | _ => runs)

/-- `piece_hand` (R317, R318, R469): the first command that can hands its next piece, with those that travel in the same packet;
one whose start checks wait makes them. -/
def execPieceHand (core : BitVec 7) (s : State) : Host.Outcome State Fault Refusal :=
  let s := { s with cur := core }
  .next (((s.handable core).foldl (fun (acc : Bool × State) m =>
    if acc.1 then acc else acc.2.cmdStep m) (false, s)).2)

/-! ### Acknowledgement, counts, stamps and retirement -/

/-- A piece of the core that acts is acknowledged. -/
def State.ackPiece (s : State) (p : Piece) : State := s.modCore s.cur (·.acked p)

/-- A request of an X command that has been answered, other than with data. -/
def State.answered (s : State) (c : BitVec 7) : Option FarReq :=
  s.waits.find? fun w => w.core == c && w.strand == .x && (match w.answer with
    | some (.ack _) | some (.badTarget _ _ _) | some (.lockFault _ _ _) => (s.core c).xs.net.any fun p => p.mem.isNone && p.tag == w.tag
    | _ => false)

/-- Is a command performed whole: all handed, acknowledged and counted? -/
def XState.settled (x : XState) (m : XCmd) : Bool := x.net.all (fun p => p.seq != m.seq) && x.counts.all fun n => n.seq != m.seq

/-- The stamp of a command that names one and has not yet written it. -/
def XCmd.owesStamp (m : XCmd) : Bool := !m.stamped && match m.kind with
  | .copySt _ _ => true
  | .put _ st _ _ _ => st.isSome
  | _ => false

/-- Writes the stamp of a command after every payload piece (R327, R423), or makes the last step of `bin.apply` (R324). -/
def stampOp (m : XCmd) : Op Unit :=
  match m.kind with
  | .copySt _ z => do
    let a ← xLoc ⟨z.slot, z.pc⟩ 8
    let pl ← placePiece .x a false
    farRoomFor [pl]
    xPerform m a (bvBytes 8 (← pr .x z.pv.toNat)) pl
  | .put _ (some pv) s pk pa => do
    let b ← xbox s
    let (r, _) ← remoteOf pk pa
    sendRemote m r b.det (r.addr + 8 * ((b.bytes + 7) / 8)) 0 (bvBytes 8 (← pr .x pv.toNat)) none
  | .binApply pb _ b => bapplyEnd m pb b
  | _ => pure ()

/-- Does a command owe a last step once its pieces are performed? -/
def XCmd.owesEnd (m : XCmd) : Bool := m.owesStamp || (!m.stamped && match m.kind with | .binApply _ _ _ => true | _ => false)

/-- A command retires (R194, R287): it posts its token, or keeps its entry with PROGRESS ALL while the counter is full; a walk gives
back its number. -/
def State.retireCmd (s : State) (m : XCmd) : State :=
  let c := s.cur
  let gone : State → State := fun s =>
    let s : State := { s with waits := s.waits.filter fun w => !(w.core == c && w.strand == Strand.x && w.seq == m.seq) }
    s.modCore c fun r => { r with xs := { r.xs with queue := r.xs.queue.filter fun q => q.seq != m.seq, walks := r.xs.walks.filter fun w => w.seq != m.seq } }
  match m.post with
  | none => (gone s).countRetired c Strand.x
  | some (i, n) =>
    if (s.core c).tokAt i + n ≤ 63 then (gone (s.modCore c fun r => r.setTok i (r.tokAt i + n))).countRetired c Strand.x
    else s.setCmd { m with progress := .all }

/-- A command whose pieces are all performed and counted: the tile of a walk is done, the stamp is due, or it retires. -/
def XState.ripe (x : XState) (m : XCmd) (tilePieces : Nat) : Bool :=
  if m.progress == .all then true
  else x.settled m && m.started && m.ready && (m.fin || (m.moving && decide (m.inner = tilePieces)))

/-- Is a command a `coll` whose participants on this package have not all had their receive buffers performed (R209)? -/
def State.collBusy (s : State) (c : BitVec 7) (m : XCmd) : Bool :=
  match m.kind, (s.core c).crew with
  | .coll a, some w => m.progress != .all && (s.members w.part a.group).any fun k => (s.core k).xs.queue.any fun q =>
      q.fin && (match q.kind with | .coll b => b.group == a.group | _ => false) && (s.core k).xs.net.any fun p => p.seq == q.seq
  | _, _ => false

/-- Pieces of the tile that a walk moves. -/
def State.tilePieces (s : State) (c : BitVec 7) (m : XCmd) : Nat :=
  match m.kind with
  | .walk w => match ((asCmd m (slotDesc w.tiles.slot)).run { s with cur := c }).1 with
    | .ok (_, d) => walkPieces d
    | .error _ => 0
  | _ => 0

/-- Settles a ripe command. Answers whether it acted. A walk whose tile ends while the core is halted becomes an entry with PART
(R439). -/
def State.settleCmd (s : State) (m : XCmd) : Bool × State :=
  if m.progress == .all then
    let t := s.retireCmd m
    (decide ((t.core t.cur).xs.queue.length < (s.core s.cur).xs.queue.length), t)
  else if m.fin then
    if m.owesEnd then
      match (asCmd m (stampOp m)).run s with
      | (.ok _, t) => (true, t.setCmd { m with stamped := true })
      | (.error (.hold _), t) => (false, t)
      | (.error (.fault f), t) | (.error (.done f), t) => (true, t.cmdFault m f .fault)
    else (true, s.retireCmd m)
  else
    let n := m.point + 1
    let m := { m with point := n, inner := 0, moving := false, fin := decide (m.total ≤ n) }
    (true, s.setCmd (if s.coreRuns s.cur then m else { m with started := false, ready := false, fin := false, progress := .part }))

/-- A handed piece, a stamp or a count that failed on its target (R423, R473): the command stops at that piece, or with the stamp unwritten, with
PROGRESS FAULT. -/
def State.pieceFault (s : State) (seq : W32) (f : FaultInfo) (back : Nat) : State :=
  match (s.core s.cur).xs.queue.find? fun q => q.seq == seq with
  | none => s
  | some m =>
    let m := if m.stamped then { m with stamped := false, fin := false } else { m with point := m.point - back, fin := false }
    s.cmdFault m f .fault

/-- `piece_ack` (R194, R208, R317, R327, R423, R469): a piece for this package is performed and acknowledged; or an answer
acknowledges the pieces of its packet; or a command whose pieces are all performed writes its stamp or retires. -/
def execPieceAck (core : BitVec 7) (s : State) : Host.Outcome State Fault Refusal :=
  let s := { s with cur := core }
  let x := (s.core core).xs
  .next (match x.net.find? fun p => p.mem.isSome with
  | some p =>
    let (pa, bs) := p.mem.getD (0, [])
    (s.bankWrite pa bs).ackPiece p
  | none =>
    match s.answered core with
    | some w =>
      let mine := x.net.filter fun p => p.mem.isNone && p.tag == w.tag
      let s := { s with waits := s.waits.filter fun v => v.tag != w.tag }
      match w.answer with
      | some (.badTarget _ kind sub) =>
        let s := mine.foldl (fun s p => s.ackPiece { p with lock := false }) s
        let s := s.modCore core fun r => { r with xs := { r.xs with net := r.xs.net.filter fun p => !(p.mem.isNone && p.tag == w.tag) } }
        s.pieceFault w.seq ⟨kind, sub, w.detail, true⟩ 1
      | some (.lockFault _ kind sub) => (mine.foldl (fun s p => s.ackPiece p) s).pieceFault w.seq ⟨kind, sub, w.detail, true⟩ 0
      | _ => mine.foldl (fun s p => s.ackPiece p) s
    | none =>
      ((x.queue.filter fun m => (m.moving || s.coreRuns core) && x.ripe m (s.tilePieces core m) && !s.collBusy core m).foldl (fun (acc : Bool × State) m =>
        if acc.1 then acc else acc.2.settleCmd m) (false, s)).2)

/-- The place of the lock word that counts a piece: that of the command, on whichever package, or of core `dest` at the same unit and offset (R424). -/
def countPlace (m : XCmd) (dest : Option Nat) : Op (Acc × (Nat ⊕ (Nat × Nat))) := do
  match m.kind.lockRef with
  | none => holdOp
  | some l =>
    let a ← xLoc l 16
    match dest, ← xPlace a with
    | none, p => return (a, p)
    | some c, .inl pa => do
      need (decide (scrBase ≤ pa)) kTensor 5 a.det
      return (a, .inl (scrPa c ((pa - scrBase) % 2 ^ 22)))
    | some _, .inr _ => flt kTensor 5 a.det

/-- Counts a performed piece in the lock word that its command names, by one atomic at the word's home (R207, R325). -/
def countOne (m : XCmd) (dest : Option Nat) (n : Nat) : Op Unit := asCmd m do
  let (a, p) ← countPlace m dest
  opLock a p (lockCounted · n) fun pa tag => .count pa n tag

/-- A count of a command of a core has ended: its request to another package, if any, goes. -/
def State.countOver (s : State) (c : BitVec 7) (seq : W32) (rest : List LockCount) : State :=
  ({ s with waits := s.waits.filter fun w => !(w.core == c && w.strand == .x && w.seq == seq && w.off == lockKey) } : State).modCore c fun r => { r with xs := { r.xs with counts := rest } }

/-- Does the count that a core makes next wait for its answer from another package? -/
def State.countWaits (s : State) (c : BitVec 7) : Bool :=
  s.waits.any fun w => w.core == c && w.strand == .x && ((s.core c).xs.counts.head?.any fun n => n.seq == w.seq) && w.off == lockKey && (match w.answer with
    | none => true
    | some (.refusal _ _) => true
    | some _ => false)

/-- `lock_word_count` (R207, R325, R473): one performed piece is counted by one atomic at the lock word's home. A lock word that
cannot be reached keeps the count waiting; one that faults stops the command, with the piece performed and not counted. -/
def execLockWordCount (core : BitVec 7) (s : State) : Host.Outcome State Fault Refusal :=
  let s := { s with cur := core }
  .next (match (s.core core).xs.counts with
  | [] => s
  | n :: rest =>
    match (s.core core).xs.queue.find? fun q => q.seq == n.seq with
    | none => s.countOver core n.seq rest
    | some m =>
      match (countOne m n.dest n.n).run s with
      | (.ok _, t) => t.countOver core n.seq rest
      | (.error (.hold _), t) => t
      | (.error (.fault f), t) | (.error (.done f), t) => (t.countOver core n.seq rest).pieceFault n.seq f 0)

/-- `walk_tile_start` (R329, R430): a walk that moves no tile takes one permit and starts its next. -/
def execWalkTileStart (core : BitVec 7) (walk : BitVec 3) (s : State) : Host.Outcome State Fault Refusal :=
  let s := { s with cur := core }
  .next (match (s.core core).xs.walkOf walk with
  | none => s
  | some w =>
    match (s.core core).xs.queue.find? fun q => q.seq == w.seq with
    | none => s
    | some m =>
      if s.coreRuns core && m.running && m.ready && !m.moving && !m.fin && decide (1 ≤ w.permits) then
        let s := s.setCmd { m with moving := true, inner := 0 }
        s.modCore core fun r => { r with xs := r.xs.setPermits walk (w.permits - 1) }
      else s)

/-! ### Work of a core's X strand -/

/-- What the X machinery of a core can do now: start, hand, acknowledge, count, start a tile. -/
def State.xWork (s : State) (c : BitVec 7) : Option Instr :=
  let x := (s.core c).xs
  if x.queue.isEmpty && x.net.isEmpty && x.counts.isEmpty then none
  else if x.net.any (fun p => p.mem.isSome) || (s.answered c).isSome then some (.pieceAck c)
  else if !x.counts.isEmpty && !s.countWaits c then some (.lockWordCount c)
  else if x.queue.any fun m => (m.moving || s.coreRuns c) && x.ripe m (s.tilePieces c m) && !s.collBusy c m then some (.pieceAck c)
  else if s.coreRuns c && x.nextStart.isSome then some (.xCommandStart c)
  else match x.walks.find? fun w => decide (1 ≤ w.permits) && s.coreRuns c && (x.queue.any fun m => m.seq == w.seq && m.running && m.ready && !m.moving && !m.fin) with
    | some w => some (.walkTileStart c w.wn)
    | none => if !(s.handable c).isEmpty then some (.pieceHand c) else none

end Sys2Proof.Machine
end

