-- ==== Sys2Proof/Machine/Transfer.lean ====
section
/-! DEFINITION. Meanings of the X forms (R416 to R438): control forms, and commands, which issue into the queue. -/

namespace Sys2Proof.Machine

/-- `nop` on X (R419). -/
def execXNop (tk : Tok) (s : State) : Host.Outcome State Fault Refusal := nx (runInstr .x 1 tk (pure ()) (pure ()) (pure .seq) s)

/-- `exit` on X (R125, R137, R419): waits for every earlier command; a stage crew's exit is a record boundary, at which a marked
crew moves. -/
def execXExit (tk : Tok) (s : State) : Host.Outcome State Fault Refusal :=
  nx (runInstr .x 1 tk (pure ()) (pure ()) (do
    holdUnless (← curCore).xs.queue.isEmpty
    boundaryOp
    if (← get).donor (← get).cur then
      let w ← curCrew
      modHeld .x fun h => { h with point := 1 }
      modify fun s => s.push (.derailleurMove w.part w.acc)
      holdOp
    exitOp .x) s)

/-- `loop` on X (R419). -/
def execXLoop (tk : Tok) (n : BitVec 5) (len : BitVec 13) (s : State) : Host.Outcome State Fault Refusal :=
  nx (runInstr .x 1 tk (loopCheck .x len.toNat) (pure ()) (loopBody .x n len.toNat) s)

/-- `region.enter` on X (R291, R419). -/
def execXRegionEnter (tk : Tok) (imm : BitVec 16) (s : State) : Host.Outcome State Fault Refusal :=
  nx (runInstr .x 1 tk (pure ()) (pure ()) (regionOp .x trEnter fun t => t.enter imm) s)

/-- `region.leave` on X (R291, R419). -/
def execXRegionLeave (tk : Tok) (s : State) : Host.Outcome State Fault Refusal :=
  nx (runInstr .x 1 tk (pure ()) (pure ()) (regionOp .x trLeave fun t => t.leave) s)

/-- `copy` (R319, R420). -/
def execCopy (tk : Tok) (c : CopyArgs) (s : State) : Host.Outcome State Fault Refusal :=
  nx (issueX (.copy c) none 3 tk s)

/-- `copy` with an ORDER word (R315). -/
def execCopyOrder (tk : Tok) (c : CopyArgs) (o : Order) (s : State) :
    Host.Outcome State Fault Refusal :=
  nx (issueX (.copy c) (some o) 4 tk s)

/-- `copy.enc` (R320, R420). -/
def execCopyEnc (tk : Tok) (c : CopyArgs) (code : BitVec 8) (s : State) : Host.Outcome State Fault Refusal :=
  nx (issueX (.copyEnc c code) none 3 tk s)

/-- `copy.enc` with an ORDER word (R315). -/
def execCopyEncOrder (tk : Tok) (c : CopyArgs) (code : BitVec 8) (o : Order) (s : State) :
    Host.Outcome State Fault Refusal :=
  nx (issueX (.copyEnc c code) (some o) 4 tk s)

/-- `copy.dec` (R320, R420). -/
def execCopyDec (tk : Tok) (c : CopyArgs) (tab : Option LockRef) (s : State) : Host.Outcome State Fault Refusal :=
  nx (issueX (.copyDec c tab) none 3 tk s)

/-- `copy.dec` with an ORDER word (R315). -/
def execCopyDecOrder (tk : Tok) (c : CopyArgs) (tab : Option LockRef) (o : Order) (s : State) :
    Host.Outcome State Fault Refusal :=
  nx (issueX (.copyDec c tab) (some o) 4 tk s)

/-- `copy.st` (R327, R420). -/
def execCopySt (tk : Tok) (c : CopyArgs) (st : StampRef) (s : State) : Host.Outcome State Fault Refusal :=
  nx (issueX (.copySt c st) none 3 tk s)

/-- `copy.st` with an ORDER word (R315). -/
def execCopyStOrder (tk : Tok) (c : CopyArgs) (st : StampRef) (o : Order) (s : State) :
    Host.Outcome State Fault Refusal :=
  nx (issueX (.copySt c st) (some o) 4 tk s)

/-- `meta.load` (R425). -/
def execMetaLoad (tk : Tok) (nslot : BitVec 5) (islot : BitVec 4) (t : TRef) (s : State) : Host.Outcome State Fault Refusal :=
  nx (issueX (.metaLoad nslot islot t) none 2 tk s)

/-- `meta.load` with an ORDER word (R315). -/
def execMetaLoadOrder (tk : Tok) (nslot : BitVec 5) (islot : BitVec 4) (t : TRef) (o : Order) (s : State) :
    Host.Outcome State Fault Refusal :=
  nx (issueX (.metaLoad nslot islot t) (some o) 3 tk s)

/-- `gather` (R321, R421). -/
def execGather (tk : Tok) (g : GatherArgs) (s : State) : Host.Outcome State Fault Refusal :=
  nx (issueX (.gather g) none 3 tk s)

/-- `gather` with an ORDER word (R315). -/
def execGatherOrder (tk : Tok) (g : GatherArgs) (o : Order) (s : State) :
    Host.Outcome State Fault Refusal :=
  nx (issueX (.gather g) (some o) 4 tk s)

/-- `scatter` (R321, R421). -/
def execScatter (tk : Tok) (g : GatherArgs) (s : State) : Host.Outcome State Fault Refusal :=
  nx (issueX (.scatter g) none 3 tk s)

/-- `scatter` with an ORDER word (R315). -/
def execScatterOrder (tk : Tok) (g : GatherArgs) (o : Order) (s : State) :
    Host.Outcome State Fault Refusal :=
  nx (issueX (.scatter g) (some o) 4 tk s)

/-- `scatter.bin` (R322, R323, R422). -/
def execScatterBin (tk : Tok) (v : TBox) (idx : LockRef) (bins : TRef) (s : State) : Host.Outcome State Fault Refusal :=
  nx (issueX (.scatterBin v idx bins) none 3 tk s)

/-- `scatter.bin` with an ORDER word (R315). -/
def execScatterBinOrder (tk : Tok) (v : TBox) (idx : LockRef) (bins : TRef) (o : Order) (s : State) :
    Host.Outcome State Fault Refusal :=
  nx (issueX (.scatterBin v idx bins) (some o) 4 tk s)

/-- `bin.apply` (R324, R422). -/
def execBinApply (tk : Tok) (pb : BitVec 5) (arr : Bool) (bins : TRef) (s : State) : Host.Outcome State Fault Refusal :=
  nx (issueX (.binApply pb arr bins) none 2 tk s)

/-- `bin.apply` with an ORDER word (R315). -/
def execBinApplyOrder (tk : Tok) (pb : BitVec 5) (arr : Bool) (bins : TRef) (o : Order) (s : State) :
    Host.Outcome State Fault Refusal :=
  nx (issueX (.binApply pb arr bins) (some o) 3 tk s)

/-- `put` (R326, R423). -/
def execPut (tk : Tok) (lk st : Option (BitVec 5)) (s0 : TBox) (ppkg paddr : BitVec 5) (s : State) : Host.Outcome State Fault Refusal :=
  nx (issueX (.put lk st s0 ppkg paddr) none 3 tk s)

/-- `put` with an ORDER word (R315). -/
def execPutOrder (tk : Tok) (lk st : Option (BitVec 5)) (s0 : TBox) (ppkg paddr : BitVec 5) (o : Order) (s : State) :
    Host.Outcome State Fault Refusal :=
  nx (issueX (.put lk st s0 ppkg paddr) (some o) 4 tk s)

/-- `get` (R326, R423). -/
def execGet (tk : Tok) (lk : Option LockRef) (d : TBox) (ppkg paddr : BitVec 5) (s : State) : Host.Outcome State Fault Refusal :=
  nx (issueX (.get lk d ppkg paddr) none 3 tk s)

/-- `get` with an ORDER word (R315). -/
def execGetOrder (tk : Tok) (lk : Option LockRef) (d : TBox) (ppkg paddr : BitVec 5) (o : Order) (s : State) :
    Host.Outcome State Fault Refusal :=
  nx (issueX (.get lk d ppkg paddr) (some o) 4 tk s)

/-- `mcast` (R328, R424). -/
def execMcast (tk : Tok) (lk : Option LockRef) (s0 d : TBox) (cores : Option (BitVec 5)) (s : State) : Host.Outcome State Fault Refusal :=
  nx (issueX (.mcast lk s0 d cores) none 3 tk s)

/-- `mcast` with an ORDER word (R315). -/
def execMcastOrder (tk : Tok) (lk : Option LockRef) (s0 d : TBox) (cores : Option (BitVec 5)) (o : Order) (s : State) :
    Host.Outcome State Fault Refusal :=
  nx (issueX (.mcast lk s0 d cores) (some o) 4 tk s)

/-- `walk` (R329, R430). -/
def execWalk (tk : Tok) (w : WalkArgs) (s : State) : Host.Outcome State Fault Refusal :=
  nx (issueX (.walk w) none 3 tk s)

/-- `walk` with an ORDER word (R315). -/
def execWalkOrder (tk : Tok) (w : WalkArgs) (o : Order) (s : State) :
    Host.Outcome State Fault Refusal :=
  nx (issueX (.walk w) (some o) 4 tk s)

/-- `permit` (R431). -/
def execPermit (tk : Tok) (n : BitVec 8) (wn : BitVec 3) (s : State) : Host.Outcome State Fault Refusal :=
  nx (issueX (.permit n wn) none 1 tk s)

/-- `permit` with an ORDER word (R315). -/
def execPermitOrder (tk : Tok) (n : BitVec 8) (wn : BitVec 3) (o : Order) (s : State) :
    Host.Outcome State Fault Refusal :=
  nx (issueX (.permit n wn) (some o) 2 tk s)

/-- `lock.set` (R325, R426). -/
def execLockSet (tk : Tok) (pt : BitVec 5) (l : TRef) (s : State) : Host.Outcome State Fault Refusal :=
  nx (issueX (.lockSet pt l) none 2 tk s)

/-- `lock.set` with an ORDER word (R315). -/
def execLockSetOrder (tk : Tok) (pt : BitVec 5) (l : TRef) (o : Order) (s : State) :
    Host.Outcome State Fault Refusal :=
  nx (issueX (.lockSet pt l) (some o) 3 tk s)

/-- `alloc` (R165, R427). -/
def execAlloc (tk : Tok) (status : LockRef) (zero : Bool) (cls : BitVec 2) (t : TBox) (s : State) : Host.Outcome State Fault Refusal :=
  nx (issueX (.alloc status zero cls t) none 2 tk s)

/-- `alloc` with an ORDER word (R315). -/
def execAllocOrder (tk : Tok) (status : LockRef) (zero : Bool) (cls : BitVec 2) (t : TBox) (o : Order) (s : State) :
    Host.Outcome State Fault Refusal :=
  nx (issueX (.alloc status zero cls t) (some o) 3 tk s)

/-- `free` (R166, R428). -/
def execFree (tk : Tok) (t : TBox) (s : State) : Host.Outcome State Fault Refusal :=
  nx (issueX (.free t) none 2 tk s)

/-- `free` with an ORDER word (R315). -/
def execFreeOrder (tk : Tok) (t : TBox) (o : Order) (s : State) :
    Host.Outcome State Fault Refusal :=
  nx (issueX (.free t) (some o) 3 tk s)

/-- `renew` (R167, R429). -/
def execRenew (tk : Tok) (t : TBox) (s : State) : Host.Outcome State Fault Refusal :=
  nx (issueX (.renew t) none 2 tk s)

/-- `renew` with an ORDER word (R315). -/
def execRenewOrder (tk : Tok) (t : TBox) (o : Order) (s : State) :
    Host.Outcome State Fault Refusal :=
  nx (issueX (.renew t) (some o) 3 tk s)

/-- `ring.put` (R433). -/
def execRingPut (tk : Tok) (verd : BitVec 2) (s0 : TRef) (ring : BitVec 5) (s : State) : Host.Outcome State Fault Refusal :=
  nx (issueX (.ringPut verd s0 ring) none 3 tk s)

/-- `ring.put` with an ORDER word (R315). -/
def execRingPutOrder (tk : Tok) (verd : BitVec 2) (s0 : TRef) (ring : BitVec 5) (o : Order) (s : State) :
    Host.Outcome State Fault Refusal :=
  nx (issueX (.ringPut verd s0 ring) (some o) 4 tk s)

/-- `ring.take` (R434). -/
def execRingTake (tk : Tok) (cur : BitVec 3) (ring : BitVec 5) (d : TRef) (status : LockRef) (s : State) : Host.Outcome State Fault Refusal :=
  nx (issueX (.ringTake cur ring d status) none 3 tk s)

/-- `ring.take` with an ORDER word (R315). -/
def execRingTakeOrder (tk : Tok) (cur : BitVec 3) (ring : BitVec 5) (d : TRef) (status : LockRef) (o : Order) (s : State) :
    Host.Outcome State Fault Refusal :=
  nx (issueX (.ringTake cur ring d status) (some o) 4 tk s)

/-- `ring.close` (R435). -/
def execRingClose (tk : Tok) (ring : BitVec 5) (s : State) : Host.Outcome State Fault Refusal :=
  nx (issueX (.ringClose ring) none 2 tk s)

/-- `ring.close` with an ORDER word (R315). -/
def execRingCloseOrder (tk : Tok) (ring : BitVec 5) (o : Order) (s : State) :
    Host.Outcome State Fault Refusal :=
  nx (issueX (.ringClose ring) (some o) 3 tk s)

/-- `coll` (R436, R437). -/
def execColl (tk : Tok) (c : CollArgs) (s : State) : Host.Outcome State Fault Refusal :=
  nx (issueX (.coll c) none 3 tk s)

/-- `coll` with an ORDER word (R315). -/
def execCollOrder (tk : Tok) (c : CollArgs) (o : Order) (s : State) :
    Host.Outcome State Fault Refusal :=
  nx (issueX (.coll c) (some o) 4 tk s)

end Sys2Proof.Machine
end

