-- ==== Sys2Proof/Machine/Elem.lean ====
section
/-! DEFINITION. The unary functions of R380 and R381. Each gives its exact result where that is a dyadic number, and
otherwise 256 bits of it with a lowest bit 1 that marks it inexact, for one rounding (log 14). -/

namespace Sys2Proof.Machine

/-- Fraction bits of the fixed-point numbers below. -/
def fxBits : Nat := 320

/-- One in fixed point. -/
def fxOne : Nat := 2 ^ fxBits

/-- The product of fixed-point numbers. -/
def fxMul (a b : Nat) : Nat := a * b / fxOne

/-- Odd series a + a³/3 + a⁵/5 + …, with alternating signs when `alt` is set, over `n` terms. -/
def fxOdd (alt : Bool) (a n : Nat) : Nat :=
  let sq := fxMul a a
  let r := (List.range n).foldl (fun (acc : Int × Nat) k =>
    let t : Int := (acc.2 / (2 * k + 1) : Nat)
    (if alt && k % 2 == 1 then acc.1 - t else acc.1 + t, fxMul acc.2 sq)) ((0 : Int), a)
  r.1.toNat

/-- ln 2 = 2 artanh(1/3). -/
def fxLn2 : Nat := 2 * fxOdd false (fxOne / 3) 110

/-- π = 16 arctan(1/5) − 4 arctan(1/239). -/
def fxPi : Nat := 16 * fxOdd true (fxOne / 5) 75 - 4 * fxOdd true (fxOne / 239) 25

/-- e^y for 0 ≤ y < 1. -/
def fxExp (y : Nat) : Nat :=
  ((List.range 70).foldl (fun (acc : Nat × Nat) k => (acc.1 + acc.2, fxMul acc.2 y / (k + 1))) (0, fxOne)).1

/-- sin and cos of an angle below π/2. -/
def fxSinCos (y : Nat) : Nat × Nat :=
  let r := (List.range 80).foldl (fun (acc : Int × Int × Nat) k =>
    let t : Int := acc.2.2
    let t := if k % 4 < 2 then t else -t
    let nxt := fxMul acc.2.2 y / (k + 1)
    if k % 2 = 0 then (acc.1, acc.2.1 + t, nxt) else (acc.1 + t, acc.2.1, nxt)) ((0 : Int), (0 : Int), fxOne)
  (r.1.toNat, r.2.1.toNat)

/-- A fixed-point magnitude known not to be exact. -/
def fxVal (neg : Bool) (n : Nat) : Val := .fin neg (2 * n + 1) (-(fxBits : Int) - 1)

/-- 1 / x (R380). -/
def Val.recip (x : Val) : Val := Val.div (.fin false 1 0) x

/-- 1 / √x (R380). -/
def Val.rsqrt (x : Val) : Val :=
  match x with
  | .nan n f => .nan n f
  | .inf true => defNan
  | .inf false => .fin false 0 0
  | .fin n m e =>
    if m = 0 then .inf n
    else if n then defNan
    else
      let (m, e) := if e % 2 = 0 then (m, e) else (2 * m, e - 1)
      let q := 2 ^ 320 / m
      let s := isqrt q
      .fin false (2 * s + if s * s * m = 2 ^ 320 then 0 else 1) (-(e / 2) - 161)

/-- 2^x (R380). -/
def Val.exp2 (x : Val) : Val :=
  match x with
  | .nan n f => .nan n f
  | .inf true => .fin false 0 0
  | .inf false => .inf false
  | .fin n m e =>
    if m = 0 then .fin false 1 0
    else if decide (m.log2 + e ≥ 12) then .fin false 1 (if n then -5000 else 5000)
    else
      let x : Int := signed n (if 0 ≤ e then m * 2 ^ e.toNat * fxOne else m * fxOne / 2 ^ (-e).toNat)
      let i := x / (fxOne : Int)
      let f := (x % (fxOne : Int)).toNat
      if f = 0 then .fin false 1 i
      else .fin false (2 * fxExp (fxMul f fxLn2) + 1) (i - fxBits - 1)

/-- log2 x (R380). -/
def Val.log2v (x : Val) : Val :=
  match x with
  | .nan n f => .nan n f
  | .inf true => defNan
  | .inf false => .inf false
  | .fin n m e =>
    if m = 0 then .inf true
    else if n then defNan
    else
      let k := m.log2
      let w : Int := k + e
      if m = 2 ^ k then Val.ofInt w
      else
        let z := (m - 2 ^ k) * fxOne / (m + 2 ^ k)
        let l := 2 * fxOdd false z 110 * fxOne / fxLn2
        let t := w * (fxOne : Int) + l
        fxVal (decide (t < 0)) t.natAbs

/-- sin or cos of a / 2^32 turns (R381). -/
def sinTurn (cosine : Bool) (a : Nat) : Val :=
  let q := (a / 2 ^ 30 + if cosine then 1 else 0) % 4
  let r := a % 2 ^ 30
  if r = 0 then
    match q with
    | 0 => .fin false 0 0
    | 1 => .fin false 1 0
    | 2 => .fin false 0 0
    | _ => .fin true 1 0
  else
    let (s, c) := fxSinCos (r * 2 * fxPi / 2 ^ 32)
    fxVal (decide (2 ≤ q)) (if q % 2 = 0 then s else c)

/-- The final rounding of R380 and R381: DITHER acts as RNE. -/
def elemMode (code : Nat) : RMode := ⟨if code = 4 then 0 else code, 0⟩

end Sys2Proof.Machine
end

