-- ==== Sys2Proof/Machine/Vector.lean ====
section
/-! DEFINITION. Meanings of the vector forms that work on registers (R371 to R386, R391, R392). -/

namespace Sys2Proof.Machine

/-! ### SHAPE, elements and masks (R281 to R283, R372) -/

/-- The fields of SHAPE (R282). -/
structure Shape where
  fmt  : Nat
  len  : Nat
  mreg : Nat
  men  : Bool
  minv : Bool
  rm   : Nat
  sat  : Bool
  deriving DecidableEq, Repr

/-- Reads SHAPE. -/
def Shape.ofWord (v : Word) : Shape := ⟨fld v 0 8, fld v 8 14, fld v 22 3, v.getLsbD 25, v.getLsbD 26, fld v 27 3, v.getLsbD 30⟩

/-- Element width in bits. -/
def fmtWidth (f : Nat) : Nat := (formatBits f).getD 8

/-- Element width w of FMT. -/
def Shape.w (s : Shape) : Nat := fmtWidth s.fmt

/-- Elements of a register, C of R372. -/
def Shape.cap (s : Shape) : Nat := 65536 / s.w

/-- The formats of R282. -/
def shapeFmt (f : Nat) : Bool :=
  decide (1 ≤ f ∧ f ≤ 5) || decide (0x11 ≤ f ∧ f ≤ 0x13) || decide (0x19 ≤ f ∧ f ≤ 0x1B)

/-- A value that R283 lets SHAPE take. -/
def shapeOk (v : Word) : Bool :=
  let s := Shape.ofWord v
  shapeFmt s.fmt && decide (s.len ≤ s.cap) && decide (s.rm ≤ 4) && fld v 32 6 == 8 && !v.getLsbD 31 && fld v 38 26 == 0

/-- The core's SHAPE. -/
def Core.shp (c : Core) : Shape := Shape.ofWord c.shape

/-- A v register. -/
def Core.vr (c : Core) (n : BitVec 6) : VReg := c.v[n.toFin]

/-- Writes a v register. -/
def Core.setV (c : Core) (n : BitVec 6) (v : VReg) : Core := { c with v := c.v.set n.toFin v }

/-- A mask register. -/
def Core.mask (c : Core) (n : BitVec 3) : MReg := c.masks[n.toFin]

/-- Writes a mask register. -/
def Core.setMask (c : Core) (n : BitVec 3) (m : MReg) : Core := { c with masks := c.masks.set n.toFin m }

/-- Element e of width w (R281). -/
def velem (v : VReg) (w e : Nat) : Nat := (v.extractLsb' (w * e) w).toNat

/-- A register with element e of width w replaced. -/
def setElem (w : Nat) (v : VReg) (e x : Nat) : VReg :=
  let m : VReg := BitVec.ofNat 65536 (2 ^ w - 1) <<< (w * e)
  (v &&& ~~~m) ||| ((BitVec.ofNat 65536 x <<< (w * e)) &&& m)

/-- The mask bit of element e, inverted under MINV. -/
def Core.maskBit (c : Core) (e : Nat) : Bool := (c.mask (BitVec.ofNat 3 c.shp.mreg)).getLsbD e != c.shp.minv

/-- Is element e active (R372)? -/
def Core.activeAt (c : Core) (e : Nat) : Bool := decide (e < c.shp.len) && (!c.shp.men || c.maskBit e)

/-- The active elements, ascending. -/
def Core.active (c : Core) : List Nat := (List.range c.shp.len).filter c.activeAt

/-- A register with the elements of a list replaced. -/
def setElems (w : Nat) (v : VReg) (es : List Nat) (f : Nat → Nat) : VReg := es.foldl (fun v e => setElem w v e (f e)) v

/-- A mask with the bits of a list replaced. -/
def setBits (m : MReg) (es : List Nat) (f : Nat → Bool) : MReg :=
  es.foldl (fun m e => if f e then m ||| ((1 : MReg) <<< e) else m &&& ~~~((1 : MReg) <<< e)) m

/-! ### Format classes (R372) -/

/-- Class F. -/
def classF (f : Nat) : Bool := f == 1 || f == 2 || f == 3

/-- Class I. -/
def classI (f : Nat) : Bool := (ifmt f).isSome

/-- Classes F and I. -/
def classFI (f : Nat) : Bool := classF f || classI f

/-- FP32, BF16 and I. -/
def classRed (f : Nat) : Bool := f == 1 || f == 3 || classI f

/-- Any format. -/
def classAny (_ : Nat) : Bool := true

/-- The check of FMT at issue (R372). -/
def fmtCheck (cls : Nat → Bool) : Op Unit := do legal (cls (← curCore).shp.fmt) .v

/-- Runs a V instruction whose FMT must lie in a class. -/
def runV (tk : Tok) (cls : Nat → Bool) (body : Op Next) (s : State) : State :=
  runInstr .v 1 tk (fmtCheck cls) (pure ()) body s

/-! ### Delivery (R373) -/

/-- The mode and threshold of element e. -/
def Shape.mode (s : Shape) (e : Nat) : RMode := rmode s.rm (e / 16) e

/-- An integer element by value. -/
def ival (f x : Nat) : Int :=
  match ifmt f with
  | some (w, sgn) => if sgn then asSigned w x else x
  | none => 0

/-- Delivers an exact integer: wrapped, or clamped under SAT (R261). -/
def Shape.putInt (s : Shape) (n : Int) : Nat :=
  match ifmt s.fmt with
  | some (w, sgn) => intBits w (if s.sat then clampInt w sgn n else n)
  | none => 0

/-- Delivers a floating result under RM and SAT (R260). -/
def Shape.putVal (s : Shape) (r : RMode) (v : Val) : Nat := encodeVal s.fmt r s.sat false v

/-- The first NaN of the operands, or the result (R262). -/
def nanFirst (ops : List Val) (v : Val) : Val := (ops.find? Val.isNan).getD v

/-! ### Element-wise forms (R378) -/

/-- b of a register form. -/
def bReg (b : BitVec 6) : Op (Shape → Nat → Nat) := do
  let c ← curCore
  return fun s e => velem (c.vr b) s.w e

/-- b of a `.s` form: the low w bits of p[vb]. -/
def bPar (n : BitVec 5) : Op (Shape → Nat → Nat) := do
  let p ← pr .v n.toNat
  return fun s _ => p.toNat % 2 ^ s.w

/-- Writes each active element of v[d] from a, b and the old c; all sources are read first (R371). -/
def elemOp (d a : BitVec 6) (b : Op (Shape → Nat → Nat)) (f : Shape → Nat → Nat → Nat → Nat → Nat) : Op Next := do
  let c ← curCore
  let s := c.shp
  let b ← b
  modCur fun k => k.setV d (setElems s.w (c.vr d) c.active fun e => f s e (velem (c.vr a) s.w e) (b s e) (velem (c.vr d) s.w e))
  return .seq

/-- An arithmetic form with a floating and an integer result; `three` when it reads c. -/
def arith (three : Bool) (ff : RMode → Val → Val → Val → Val) (fi : Int → Int → Int → Int) (s : Shape) (e a b c : Nat) : Nat :=
  if classI s.fmt then s.putInt (fi (ival s.fmt a) (ival s.fmt b) (ival s.fmt c))
  else
    let x := decodeVal s.fmt a
    let y := decodeVal s.fmt b
    let z := decodeVal s.fmt c
    s.putVal (s.mode e) (nanFirst (if three then [x, y, z] else [x, y]) (ff (s.mode e) x y z))

/-- a + b. -/
def fAdd : Shape → Nat → Nat → Nat → Nat → Nat := arith false (fun r x y _ => Val.add r x y) (fun x y _ => x + y)

/-- a − b. -/
def fSub : Shape → Nat → Nat → Nat → Nat → Nat := arith false (fun r x y _ => Val.add r x y.negate) (fun x y _ => x - y)

/-- a × b. -/
def fMul : Shape → Nat → Nat → Nat → Nat → Nat := arith false (fun _ x y _ => Val.mul x y) (fun x y _ => x * y)

/-- a × b + c, rounded once. -/
def fFma : Shape → Nat → Nat → Nat → Nat → Nat := arith true (fun r x y z => Val.add r (Val.mul x y) z) (fun x y z => x * y + z)

/-- a × b − c, rounded once. -/
def fFms : Shape → Nat → Nat → Nat → Nat → Nat :=
  arith true (fun r x y z => Val.add r (Val.mul x y) z.negate) (fun x y z => x * y - z)

/-- The lesser or greater operand with its bits, or the first NaN quieted (R378). -/
def fMinMax (mx : Bool) (s : Shape) (_e a b _c : Nat) : Nat :=
  if classI s.fmt then
    let x := ival s.fmt a
    let y := ival s.fmt b
    if mx then (if x < y then b else a) else (if y < x then b else a)
  else fminmax s.fmt mx a b

/-- a / b (R378): all ones for an integer divisor of 0. -/
def fDiv (s : Shape) (e a b c : Nat) : Nat :=
  if classI s.fmt && b == 0 then 2 ^ s.w - 1
  else arith false (fun _ x y _ => Val.div x y) (fun x y _ => x.tdiv y) s e a b c

/-- The arithmetic right shift of an element. -/
def sraBits (w a n : Nat) : Nat := intBits w (asSigned w a / (2 ^ n : Int))

/-- vand. -/
def fAnd (_ : Shape) (_e a b _c : Nat) : Nat := a &&& b
/-- vor. -/
def fOr (_ : Shape) (_e a b _c : Nat) : Nat := a ||| b
/-- vxor. -/
def fXor (_ : Shape) (_e a b _c : Nat) : Nat := a ^^^ b
/-- vshl. -/
def fShl (s : Shape) (_e a b _c : Nat) : Nat := a * 2 ^ (b % s.w) % 2 ^ s.w
/-- vshr. -/
def fShr (s : Shape) (_e a b _c : Nat) : Nat := a / 2 ^ (b % s.w)
/-- vsra. -/
def fSra (s : Shape) (_e a b _c : Nat) : Nat := sraBits s.w a (b % s.w)

/-- `vadd` (R378): a + b in each active element. -/
def execVadd (tk : Tok) (d a b : BitVec 6) (s : State) : Host.Outcome State Fault Refusal :=
  nx (runV tk classFI (elemOp d a (bReg b) fAdd) s)

/-- `vadd.s` (R378): as `vadd` with b from p[vb]. -/
def execVaddS (tk : Tok) (d a : BitVec 6) (n : BitVec 5) (s : State) : Host.Outcome State Fault Refusal :=
  nx (runV tk classFI (elemOp d a (bPar n) fAdd) s)

/-- `vsub` (R378): a − b in each active element. -/
def execVsub (tk : Tok) (d a b : BitVec 6) (s : State) : Host.Outcome State Fault Refusal :=
  nx (runV tk classFI (elemOp d a (bReg b) fSub) s)

/-- `vsub.s` (R378): as `vsub` with b from p[vb]. -/
def execVsubS (tk : Tok) (d a : BitVec 6) (n : BitVec 5) (s : State) : Host.Outcome State Fault Refusal :=
  nx (runV tk classFI (elemOp d a (bPar n) fSub) s)

/-- `vmul` (R378): a × b in each active element. -/
def execVmul (tk : Tok) (d a b : BitVec 6) (s : State) : Host.Outcome State Fault Refusal :=
  nx (runV tk classFI (elemOp d a (bReg b) fMul) s)

/-- `vmul.s` (R378): as `vmul` with b from p[vb]. -/
def execVmulS (tk : Tok) (d a : BitVec 6) (n : BitVec 5) (s : State) : Host.Outcome State Fault Refusal :=
  nx (runV tk classFI (elemOp d a (bPar n) fMul) s)

/-- `vfma` (R378): a × b + c in each active element. -/
def execVfma (tk : Tok) (d a b : BitVec 6) (s : State) : Host.Outcome State Fault Refusal :=
  nx (runV tk classFI (elemOp d a (bReg b) fFma) s)

/-- `vfma.s` (R378): as `vfma` with b from p[vb]. -/
def execVfmaS (tk : Tok) (d a : BitVec 6) (n : BitVec 5) (s : State) : Host.Outcome State Fault Refusal :=
  nx (runV tk classFI (elemOp d a (bPar n) fFma) s)

/-- `vfms` (R378): a × b − c in each active element. -/
def execVfms (tk : Tok) (d a b : BitVec 6) (s : State) : Host.Outcome State Fault Refusal :=
  nx (runV tk classFI (elemOp d a (bReg b) fFms) s)

/-- `vfms.s` (R378): as `vfms` with b from p[vb]. -/
def execVfmsS (tk : Tok) (d a : BitVec 6) (n : BitVec 5) (s : State) : Host.Outcome State Fault Refusal :=
  nx (runV tk classFI (elemOp d a (bPar n) fFms) s)

/-- `vmin` (R378): the lesser in each active element. -/
def execVmin (tk : Tok) (d a b : BitVec 6) (s : State) : Host.Outcome State Fault Refusal :=
  nx (runV tk classFI (elemOp d a (bReg b) (fMinMax false)) s)

/-- `vmin.s` (R378): as `vmin` with b from p[vb]. -/
def execVminS (tk : Tok) (d a : BitVec 6) (n : BitVec 5) (s : State) : Host.Outcome State Fault Refusal :=
  nx (runV tk classFI (elemOp d a (bPar n) (fMinMax false)) s)

/-- `vmax` (R378): the greater in each active element. -/
def execVmax (tk : Tok) (d a b : BitVec 6) (s : State) : Host.Outcome State Fault Refusal :=
  nx (runV tk classFI (elemOp d a (bReg b) (fMinMax true)) s)

/-- `vmax.s` (R378): as `vmax` with b from p[vb]. -/
def execVmaxS (tk : Tok) (d a : BitVec 6) (n : BitVec 5) (s : State) : Host.Outcome State Fault Refusal :=
  nx (runV tk classFI (elemOp d a (bPar n) (fMinMax true)) s)

/-- `vdiv` (R378): a / b in each active element. -/
def execVdiv (tk : Tok) (d a b : BitVec 6) (s : State) : Host.Outcome State Fault Refusal :=
  nx (runV tk classFI (elemOp d a (bReg b) fDiv) s)

/-- `vdiv.s` (R378): as `vdiv` with b from p[vb]. -/
def execVdivS (tk : Tok) (d a : BitVec 6) (n : BitVec 5) (s : State) : Host.Outcome State Fault Refusal :=
  nx (runV tk classFI (elemOp d a (bPar n) fDiv) s)

/-- `vand` (R378): a AND b in each active element. -/
def execVand (tk : Tok) (d a b : BitVec 6) (s : State) : Host.Outcome State Fault Refusal :=
  nx (runV tk classAny (elemOp d a (bReg b) fAnd) s)

/-- `vand.s` (R378): as `vand` with b from p[vb]. -/
def execVandS (tk : Tok) (d a : BitVec 6) (n : BitVec 5) (s : State) : Host.Outcome State Fault Refusal :=
  nx (runV tk classAny (elemOp d a (bPar n) fAnd) s)

/-- `vor` (R378): a OR b in each active element. -/
def execVor (tk : Tok) (d a b : BitVec 6) (s : State) : Host.Outcome State Fault Refusal :=
  nx (runV tk classAny (elemOp d a (bReg b) fOr) s)

/-- `vor.s` (R378): as `vor` with b from p[vb]. -/
def execVorS (tk : Tok) (d a : BitVec 6) (n : BitVec 5) (s : State) : Host.Outcome State Fault Refusal :=
  nx (runV tk classAny (elemOp d a (bPar n) fOr) s)

/-- `vxor` (R378): a XOR b in each active element. -/
def execVxor (tk : Tok) (d a b : BitVec 6) (s : State) : Host.Outcome State Fault Refusal :=
  nx (runV tk classAny (elemOp d a (bReg b) fXor) s)

/-- `vxor.s` (R378): as `vxor` with b from p[vb]. -/
def execVxorS (tk : Tok) (d a : BitVec 6) (n : BitVec 5) (s : State) : Host.Outcome State Fault Refusal :=
  nx (runV tk classAny (elemOp d a (bPar n) fXor) s)

/-- `vshl` (R378): a shifted left by b mod w in each active element. -/
def execVshl (tk : Tok) (d a b : BitVec 6) (s : State) : Host.Outcome State Fault Refusal :=
  nx (runV tk classI (elemOp d a (bReg b) fShl) s)

/-- `vshl.s` (R378): as `vshl` with b from p[vb]. -/
def execVshlS (tk : Tok) (d a : BitVec 6) (n : BitVec 5) (s : State) : Host.Outcome State Fault Refusal :=
  nx (runV tk classI (elemOp d a (bPar n) fShl) s)

/-- `vshr` (R378): a shifted right logically by b mod w in each active element. -/
def execVshr (tk : Tok) (d a b : BitVec 6) (s : State) : Host.Outcome State Fault Refusal :=
  nx (runV tk classI (elemOp d a (bReg b) fShr) s)

/-- `vshr.s` (R378): as `vshr` with b from p[vb]. -/
def execVshrS (tk : Tok) (d a : BitVec 6) (n : BitVec 5) (s : State) : Host.Outcome State Fault Refusal :=
  nx (runV tk classI (elemOp d a (bPar n) fShr) s)

/-- `vsra` (R378): a shifted right arithmetically by b mod w in each active element. -/
def execVsra (tk : Tok) (d a b : BitVec 6) (s : State) : Host.Outcome State Fault Refusal :=
  nx (runV tk classI (elemOp d a (bReg b) fSra) s)

/-- `vsra.s` (R378): as `vsra` with b from p[vb]. -/
def execVsraS (tk : Tok) (d a : BitVec 6) (n : BitVec 5) (s : State) : Host.Outcome State Fault Refusal :=
  nx (runV tk classI (elemOp d a (bPar n) fSra) s)

/-! ### Unary forms (R379 to R381) -/

/-- Writes each active element of v[d] from the element of v[a]. -/
def unaryOp (d a : BitVec 6) (f : Shape → Nat → Nat → Nat) : Op Next :=
  elemOp d a (pure fun _ _ => 0) fun s e x _ _ => f s e x

/-- `vabs` on an element. -/
def fAbs (s : Shape) (x : Nat) : Nat := if classI s.fmt then s.putInt (ival s.fmt x).natAbs else x % 2 ^ (s.w - 1)

/-- `vneg` on an element. -/
def fNeg (s : Shape) (x : Nat) : Nat := if classI s.fmt then s.putInt (-(ival s.fmt x)) else x ^^^ 2 ^ (s.w - 1)

/-- A function of R380 on an element. -/
def fUnary (f : Val → Val) (s : Shape) (x : Nat) : Nat := s.putVal (elemMode s.rm) (f (decodeVal s.fmt x))

/-- A function of R381 on an element: FP32 bits, whatever SAT holds. -/
def fTurn (cosine : Bool) (s : Shape) (x : Nat) : Nat := encodeVal 1 (elemMode s.rm) false false (sinTurn cosine x)

/-- `vabs` (R379): the magnitude. -/
def execVabs (tk : Tok) (d a : BitVec 6) (s : State) : Host.Outcome State Fault Refusal :=
  nx (runV tk classAny (unaryOp d a (fun s _ x => fAbs s x)) s)

/-- `vneg` (R379): the negated element. -/
def execVneg (tk : Tok) (d a : BitVec 6) (s : State) : Host.Outcome State Fault Refusal :=
  nx (runV tk classAny (unaryOp d a (fun s _ x => fNeg s x)) s)

/-- `vrcp` (R380): 1 / x. -/
def execVrcp (tk : Tok) (d a : BitVec 6) (s : State) : Host.Outcome State Fault Refusal :=
  nx (runV tk classF (unaryOp d a (fun s _ x => fUnary Val.recip s x)) s)

/-- `vsqrt` (R380): √x. -/
def execVsqrt (tk : Tok) (d a : BitVec 6) (s : State) : Host.Outcome State Fault Refusal :=
  nx (runV tk classF (unaryOp d a (fun s _ x => fUnary Val.sqrt s x)) s)

/-- `vrsqrt` (R380): 1 / √x. -/
def execVrsqrt (tk : Tok) (d a : BitVec 6) (s : State) : Host.Outcome State Fault Refusal :=
  nx (runV tk classF (unaryOp d a (fun s _ x => fUnary Val.rsqrt s x)) s)

/-- `vexp2` (R380): 2^x. -/
def execVexp2 (tk : Tok) (d a : BitVec 6) (s : State) : Host.Outcome State Fault Refusal :=
  nx (runV tk classF (unaryOp d a (fun s _ x => fUnary Val.exp2 s x)) s)

/-- `vlog2` (R380): log2 x. -/
def execVlog2 (tk : Tok) (d a : BitVec 6) (s : State) : Host.Outcome State Fault Refusal :=
  nx (runV tk classF (unaryOp d a (fun s _ x => fUnary Val.log2v s x)) s)

/-- `vsin` (R381): the sine of an angle in turns. -/
def execVsin (tk : Tok) (d a : BitVec 6) (s : State) : Host.Outcome State Fault Refusal :=
  nx (runV tk (· == 0x1B) (unaryOp d a (fun s _ x => fTurn false s x)) s)

/-- `vcos` (R381): the cosine of an angle in turns. -/
def execVcos (tk : Tok) (d a : BitVec 6) (s : State) : Host.Outcome State Fault Refusal :=
  nx (runV tk (· == 0x1B) (unaryOp d a (fun s _ x => fTurn true s x)) s)

/-- `vmov` (R379): the bits unchanged. -/
def execVmov (tk : Tok) (d a : BitVec 6) (s : State) : Host.Outcome State Fault Refusal :=
  nx (runV tk classAny (unaryOp d a (fun _ _ x => x)) s)

/-! ### SHAPE and masks (R374 to R377) -/

/-- `vshape` (R374). -/
def execVshape (tk : Tok) (n : BitVec 5) (s : State) : Host.Outcome State Fault Refusal :=
  nx (runInstr .v 1 tk (pure ()) (do legal (shapeOk (← pr .v n.toNat)) .v) (do
    let v ← pr .v n.toNat
    modCur fun c => { c with shape := v }
    return .seq) s)

/-- `vsetlen` (R374): LEN becomes the least of p[vb] and C. -/
def execVsetlen (tk : Tok) (n : BitVec 5) (s : State) : Host.Outcome State Fault Refusal :=
  nx (runV tk classAny (do
    let v ← pr .v n.toNat
    modCur fun c =>
      let m : Word := 0x3FFF00
      { c with shape := (c.shape &&& ~~~m) ||| ((BitVec.ofNat 14 (Nat.min v.toNat c.shp.cap)).setWidth 64 <<< 8) }
    return .seq) s)

/-- Writes bits below LEN of a mask; MEN and MINV play no part (R375). -/
def maskOp (d : BitVec 3) (f : Core → Nat → Bool) : Op Next := do
  let c ← curCore
  modCur fun k => k.setMask d (setBits (c.mask d) (List.range c.shp.len) (f c))
  return .seq

/-- `mand` (R375). -/
def execMand (tk : Tok) (d a b : BitVec 3) (s : State) : Host.Outcome State Fault Refusal :=
  nx (runV tk classAny (maskOp d fun c e => (c.mask a).getLsbD e && (c.mask b).getLsbD e) s)

/-- `mor` (R375). -/
def execMor (tk : Tok) (d a b : BitVec 3) (s : State) : Host.Outcome State Fault Refusal :=
  nx (runV tk classAny (maskOp d fun c e => (c.mask a).getLsbD e || (c.mask b).getLsbD e) s)

/-- `mxor` (R375). -/
def execMxor (tk : Tok) (d a b : BitVec 3) (s : State) : Host.Outcome State Fault Refusal :=
  nx (runV tk classAny (maskOp d fun c e => (c.mask a).getLsbD e != (c.mask b).getLsbD e) s)

/-- `mandn` (R375). -/
def execMandn (tk : Tok) (d a b : BitVec 3) (s : State) : Host.Outcome State Fault Refusal :=
  nx (runV tk classAny (maskOp d fun c e => (c.mask a).getLsbD e && !(c.mask b).getLsbD e) s)

/-- `mnot` (R375). -/
def execMnot (tk : Tok) (d a : BitVec 3) (s : State) : Host.Outcome State Fault Refusal :=
  nx (runV tk classAny (maskOp d fun c e => !(c.mask a).getLsbD e) s)

/-- `mfromv` (R375): 1 where the element's bits are not all zero. -/
def execMfromv (tk : Tok) (d : BitVec 3) (a : BitVec 6) (s : State) : Host.Outcome State Fault Refusal :=
  nx (runV tk classAny (maskOp d fun c e => velem (c.vr a) c.shp.w e != 0) s)

/-- A comparison of R376 by order -1, 0, 1. -/
def vcondHolds (c : VCond) (o : Int) : Bool :=
  match c with
  | .eq => o == 0
  | .ne => o != 0
  | .lt => decide (o < 0)
  | .le => decide (o ≤ 0)
  | .gt => decide (0 < o)
  | .ge => decide (0 ≤ o)

/-- A comparison of two elements (R376): with a NaN only `ne` holds. -/
def vcmpElem (c : VCond) (f a b : Nat) : Bool :=
  if classI f then vcondHolds c (ival f a - ival f b)
  else
    let x := decodeVal f a
    let y := decodeVal f b
    if x.isNan || y.isNan then c == .ne else vcondHolds c (x.cmp y)

/-- `vcmp` (R376). -/
def execVcmp (tk : Tok) (cond : VCond) (d : BitVec 3) (a b : BitVec 6) (s : State) : Host.Outcome State Fault Refusal :=
  nx (runV tk classAny (do
    let c ← curCore
    let w := c.shp.w
    modCur fun k => k.setMask d (setBits (c.mask d) c.active fun e => vcmpElem cond c.shp.fmt (velem (c.vr a) w e) (velem (c.vr b) w e))
    return .seq) s)

/-- `vsel` (R377): every element below LEN by the mask bit; MEN plays no part. -/
def execVsel (tk : Tok) (d a b : BitVec 6) (s : State) : Host.Outcome State Fault Refusal :=
  nx (runV tk classAny (do
    let c ← curCore
    let w := c.shp.w
    modCur fun k => k.setV d (setElems w (c.vr d) (List.range c.shp.len) fun e => velem (c.vr (if c.maskBit e then a else b)) w e)
    return .seq) s)

/-! ### Conversions and blocks (R382 to R384) -/

/-- `vcvt` (R382). -/
def execVcvt (tk : Tok) (d a : BitVec 6) (n : BitVec 5) (s : State) : Host.Outcome State Fault Refusal :=
  nx (runInstr .v 1 tk (fmtCheck classAny) (do
    let p ← pr .v n.toNat
    let s := (← curCore).shp
    legal (shapeFmt (fld p 0 8) && fld p 8 56 == 0 && decide (s.len * Nat.max (fmtWidth (fld p 0 8)) s.w ≤ 65536)) .v) (do
    let p ← pr .v n.toNat
    let src := fld p 0 8
    let c ← curCore
    let s := c.shp
    modCur fun k => k.setV d (setElems s.w (c.vr d) c.active fun e =>
      convertBits src s.fmt (s.mode e) s.sat (velem (c.vr a) (fmtWidth src) e))
    return .seq) s)

/-- The block code of `vpack` and `vunpack`, checked (R383, R384). -/
def blockCodeCheck (n : BitVec 5) : Op Unit := do
  let p ← pr .v n.toNat
  let len := (← curCore).shp.len
  let per := (blockCount (fld p 0 8)).getD 1
  legal (decide (0x81 ≤ fld p 0 8 ∧ fld p 0 8 ≤ 0x88) && fld p 8 56 == 0 && decide ((len + per - 1) / per ≤ 128)) .v

/-- Bytes of a v register. -/
def vbytes (v : VReg) (at_ n : Nat) : List Byte := leBytes n (v.extractLsb' (8 * at_) (8 * n)).toNat

/-- `vpack` (R383). -/
def execVpack (tk : Tok) (d a : BitVec 6) (n : BitVec 5) (s : State) : Host.Outcome State Fault Refusal :=
  nx (runInstr .v 1 tk (fmtCheck classAny) (blockCodeCheck n) (do
    let code := fld (← pr .v n.toNat) 0 8
    let c ← curCore
    let s := c.shp
    let per := (blockCount code).getD 1
    let block := fun (k : Nat) => leNat (encodeBlock code (fun j => s.mode (k * per + j)) s.sat
      ((List.range per).map fun j =>
        if c.activeAt (k * per + j) then decodeVal s.fmt (velem (c.vr a) s.w (k * per + j)) else .fin false 0 0))
    modCur fun r => r.setV d (setElems 512 (c.vr d) (List.range ((s.len + per - 1) / per)) block)
    return .seq) s)

/-- `vunpack` (R384): a block that the mask leaves out whole is not decoded (R254). -/
def execVunpack (tk : Tok) (d a : BitVec 6) (n : BitVec 5) (s : State) : Host.Outcome State Fault Refusal :=
  nx (runInstr .v 1 tk (fmtCheck classAny) (blockCodeCheck n) (do
    let code := fld (← pr .v n.toNat) 0 8
    let c ← curCore
    let s := c.shp
    let per := (blockCount code).getD 1
    let blocks := (List.range ((s.len + per - 1) / per)).map fun k => vbytes (c.vr a) (64 * k) 64
    match (List.range blocks.length).find? fun k => c.active.any (· / per == k) && (blocks.getD k []).getD 0 0 != BitVec.ofNat 8 code with
    | some k => flt kTensor 4 (detT 0xFFFF 0xFF 0 (64 * k))
    | none =>
      modCur fun r => r.setV d (setElems s.w (c.vr d) c.active fun e =>
        s.putVal (s.mode e) (blockElem (blocks.getD (e / per) []) [] (e % per)))
      return .seq) s)

/-! ### Reductions (R273, R385) -/

/-- One level of the tree: pairs are added, a lone node passes on (R273). -/
def treeLevel : List (Option Nat) → List (Option Nat)
  | a :: b :: r =>
    (match a, b with
      | some x, some y => some (add32 x y)
      | some x, none => some x
      | none, y => y) :: treeLevel r
  | l => l

/-- The sum of a block of 128 lanes (R273): seven levels. -/
def treeSum (l : List (Option Nat)) : Option Nat := ((List.range 7).foldl (fun l _ => treeLevel l) l).getD 0 none

/-- NP8 (R273): block sums in ascending order; `lane e` is the FP32 bits of a lane that takes part. -/
def np8 (n : Nat) (lane : Nat → Option Nat) : Option Nat :=
  (List.range ((n + 127) / 128)).foldl (fun acc b =>
    match acc, treeSum ((List.range 128).map fun j => lane (128 * b + j)) with
    | some x, some y => some (add32 x y)
    | some x, none => some x
    | none, y => y) none

/-- Writes a reduction of the active elements into element 0; with LEN 0 nothing is written (R283, R385). -/
def reduceOp (d a : BitVec 6) (f : Shape → (Nat → Nat) → List Nat → Nat) : Op Next := do
  let c ← curCore
  let s := c.shp
  if s.len ≠ 0 then
    modCur fun k => k.setV d (setElem s.w (c.vr d) 0 (f s (fun e => velem (c.vr a) s.w e) c.active))
  return .seq

/-- The sum (R385). -/
def redSum (s : Shape) (x : Nat → Nat) (es : List Nat) : Nat :=
  if classI s.fmt then s.putInt (es.foldl (fun n e => n + ival s.fmt (x e)) 0)
  else
    let lane := fun e => if es.contains e then some (if s.fmt = 1 then x e else convertBits s.fmt 1 rne false (x e)) else none
    s.putVal (s.mode 0) (decodeVal 1 ((np8 s.len lane).getD 0))

/-- The greatest or least (R385): the exact value, which RM and SAT do not touch (log 15). -/
def redMinMax (mx : Bool) (s : Shape) (x : Nat → Nat) (es : List Nat) : Nat :=
  if classI s.fmt then
    match es with
    | [] =>
      let (w, sgn) := (ifmt s.fmt).getD (8, false)
      intBits w (clampInt w sgn (if mx then -(2 ^ 64) else 2 ^ 64))
    | e :: r => r.foldl (fun m e => fMinMax mx s 0 m (x e) 0) (x e)
  else
    match es.find? fun e => (decodeVal s.fmt (x e)).isNan with
    | some e => encodeVal s.fmt rne false false (decodeVal s.fmt (x e))
    | none =>
      match es with
      | [] => encodeVal s.fmt rne false false (.inf mx)
      | e :: r => r.foldl (fun m e => fminmax s.fmt mx m (x e)) (x e)

/-- `vrsum` (R385). -/
def execVrsum (tk : Tok) (d a : BitVec 6) (s : State) : Host.Outcome State Fault Refusal :=
  nx (runV tk classRed (reduceOp d a redSum) s)

/-- `vrmax` (R385). -/
def execVrmax (tk : Tok) (d a : BitVec 6) (s : State) : Host.Outcome State Fault Refusal :=
  nx (runV tk classRed (reduceOp d a (redMinMax true)) s)

/-- `vrmin` (R385). -/
def execVrmin (tk : Tok) (d a : BitVec 6) (s : State) : Host.Outcome State Fault Refusal :=
  nx (runV tk classRed (reduceOp d a (redMinMax false)) s)

/-! ### Permutes, slides, broadcast, lookup (R386) -/

/-- Writes each active element e from v[a] as it stood at issue. -/
def permOp (d a : BitVec 6) (f : Core → Shape → (Nat → Nat) → Nat → Nat) : Op Next := do
  let c ← curCore
  let s := c.shp
  modCur fun k => k.setV d (setElems s.w (c.vr d) c.active (f c s (fun i => velem (c.vr a) s.w i)))
  return .seq

/-- `vperm` (R386). -/
def execVperm (tk : Tok) (d a b : BitVec 6) (s : State) : Host.Outcome State Fault Refusal :=
  nx (runV tk classAny (permOp d a fun c s at_ e =>
    let i := velem (c.vr b) s.w e
    if i < s.cap then at_ i else 0) s)

/-- `vlut` (R386). -/
def execVlut (tk : Tok) (d a b : BitVec 6) (s : State) : Host.Outcome State Fault Refusal :=
  nx (runV tk classAny (permOp d a fun c s at_ e => at_ (velem (c.vr b) s.w e % 256)) s)

/-- `vslup` (R386). -/
def execVslup (tk : Tok) (d a : BitVec 6) (n : BitVec 5) (s : State) : Host.Outcome State Fault Refusal :=
  nx (runV tk classAny (do
    let k := (← pr .v n.toNat).toNat
    permOp d a fun _ _ at_ e => if k ≤ e then at_ (e - k) else 0) s)

/-- `vsldn` (R386). -/
def execVsldn (tk : Tok) (d a : BitVec 6) (n : BitVec 5) (s : State) : Host.Outcome State Fault Refusal :=
  nx (runV tk classAny (do
    let k := (← pr .v n.toNat).toNat
    permOp d a fun _ s at_ e => if e + k < s.len then at_ (e + k) else 0) s)

/-- `vbcast` (R386). -/
def execVbcast (tk : Tok) (d : BitVec 6) (n : BitVec 5) (s : State) : Host.Outcome State Fault Refusal :=
  nx (runV tk classAny (do
    let v ← pr .v n.toNat
    permOp d d fun _ s _ _ => v.toNat % 2 ^ s.w) s)

/-! ### Control (R391, R392) -/

/-- `nop` on V (R391). -/
def execVNop (tk : Tok) (s : State) : Host.Outcome State Fault Refusal :=
  nx (runInstr .v 1 tk (pure ()) (pure ()) (pure .seq) s)

/-- `exit` on V (R391). -/
def execVExit (tk : Tok) (s : State) : Host.Outcome State Fault Refusal :=
  nx (runInstr .v 1 tk (pure ()) (pure ()) (exitOp .v) s)

/-- `loop` on V (R392). -/
def execVLoop (tk : Tok) (len : BitVec 12) (n : BitVec 5) (s : State) : Host.Outcome State Fault Refusal :=
  nx (runInstr .v 1 tk (loopCheck .v len.toNat) (pure ()) (loopBody .v n len.toNat) s)

/-- `region.enter` on V (R291, R391). -/
def execVRegionEnter (tk : Tok) (imm : BitVec 16) (s : State) : Host.Outcome State Fault Refusal :=
  nx (runInstr .v 1 tk (pure ()) (pure ()) (regionOp .v trEnter fun t => t.enter imm) s)

/-- `region.leave` on V (R291, R391). -/
def execVRegionLeave (tk : Tok) (s : State) : Host.Outcome State Fault Refusal :=
  nx (runInstr .v 1 tk (pure ()) (pure ()) (regionOp .v trLeave fun t => t.leave) s)

end Sys2Proof.Machine
end

