-- ==== Sys2Proof/Machine/Image.lean ====
section
/-! DEFINITION. Crew images and context blocks (R241, R244, R245, R451, R452, R472): what is written, and what is taken
back. -/

namespace Sys2Proof.Machine

/-- Pieces at rising offsets laid out from `at_` to `stop`, zeros between them. -/
def layOut (at_ stop : Nat) : List (Nat × List Byte) → List Byte
  | [] => List.replicate (stop - at_) 0
  | (o, bs) :: r => List.replicate (o - at_) 0 ++ bs ++ layOut (o + bs.length) stop r

/-- The four strands in order. -/
def strandList : List Strand := [.s, .v, .m, .x]

/-- A stop record (R235). -/
def StopRec.bytes (r : StopRec) (core : BitVec 7) (ctx : BitVec 3) : List Byte :=
  [BitVec.ofNat 8 (r.state + 16 * r.why), core.setWidth 8, ctx.setWidth 8, BitVec.ofNat 8 r.sb] ++ bvBytes 4 r.pc ++ bvBytes 4 r.word ++
    leBytes 2 r.kind ++ [BitVec.ofNat 8 r.sub, BitVec.ofNat 8 (r.rdepth + if r.lost then 128 else 0)] ++ bvBytes 4 r.region ++
    bvBytes 4 r.xseq ++ leBytes 8 r.arrive ++ List.replicate 32 0

/-- A loop stack (R472): entry k from the bottom at 16k. -/
def loopBytes (l : List LoopEnt) : List Byte :=
  layOut 0 64 [(0, (l.reverse.take 4).flatMap fun e => bvBytes 4 e.start ++ bvBytes 4 e.stop ++ bvBytes 8 e.remain)]

/-- Numbers of PROGRESS (R241). -/
def Progress.num : Progress → Nat
  | .none => 0
  | .part => 1
  | .all => 2
  | .fault => 3

/-- A scoreboard entry (R241). -/
def sbBytes (pc : W32) (point : Nat) (result discard : Bool) (progress : Progress) : List Byte :=
  leBytes 8 (point % 2 ^ 32 * 2 ^ 32 + (if result then 2 ^ 31 else 0) + (if discard then 2 ^ 30 else 0) + progress.num * 2 ^ 28) ++
    bvBytes 4 pc ++ List.replicate 4 0

/-- The PROGRESS that an X command shows (R439). -/
def XCmd.shown (m : XCmd) : Progress :=
  match m.progress with
  | .none => if 0 < m.point then .part else .none
  | p => p

/-- The scoreboard entries of a strand, in issue order (R241, R293). POINT is 0 on S and V. -/
def Core.scoreboard (c : Core) (k : Strand) : List (List Byte) :=
  let own := match (c.str k).held with
    | none => []
    | some h => [sbBytes h.pc (if k = .m then h.point else 0) (!h.results.isEmpty) h.discard (if h.results.isEmpty then h.progress else .all)]
  let own := own ++ (if k = .m then (c.ms.second.toList.map fun h => sbBytes h.pc 0 false h.discard h.progress) else [])
  if k = .x then (c.xs.queue.map fun m => sbBytes m.pc m.point false m.discard m.shown) ++ own else own

/-- First scoreboard entry of a strand among the 82 (R245). -/
def sbBase : Strand → Nat
  | .s => 0
  | .v => 8
  | .m => 16
  | .x => 18

/-- The 82 entries (R245). -/
def Core.sbImage (c : Core) : List Byte :=
  layOut 0 1312 (strandList.map fun k => (16 * sbBase k, (c.scoreboard k).flatten))

/-- A bit of a byte. -/
def bitIf (b : Bool) (n : Nat) : Nat := if b then 2 ^ n else 0

/-- The block at `0x0_0300` (R245). -/
def Core.block300 (c : Core) (pcs : List W32) : List Byte :=
  let st := strandList.map fun k => c.str k
  layOut 0x300 0x400 [
    (0x300, pcs.flatMap fun p => bvBytes 4 p),
    (0x310, bvBytes 8 c.shape),
    (0x318, c.tok.toList.map fun t => t.setWidth 8),
    (0x324, bvBytes 4 c.xs.xseq),
    (0x328, leBytes 4 (bitIf c.xs.det 0)),
    (0x32C, bvBytes 4 c.xs.binSeq),
    (0x330, st.flatMap fun t => layOut 0 16 [(0, t.region.reverse.flatMap fun r => bvBytes 2 r)]),
    (0x370, st.map fun t => BitVec.ofNat 8 (t.region.length + bitIf t.lost 7)),
    (0x374, leBytes 4 (bitIf c.yld.deadline.isSome 0 + bitIf c.yld.wake 1 + bitIf c.yld.coop 2)),
    (0x378, leBytes 8 (c.yld.deadline.getD 0)),
    (0x380, st.map fun t => BitVec.ofNat 8 t.loops.length),
    (0x3B0, loopBytes (c.str .s).loops),
    (0x3F0, bvBytes 8 c.ms.cfg),
    (0x3F8, bvBytes 2 c.ms.a0.anchor ++ bvBytes 2 c.ms.a1.anchor),
    (0x3FC, [BitVec.ofNat 8 (bitIf c.ms.a0.auto 0 + bitIf c.ms.a1.auto 1 + bitIf c.ms.a0.taken 2 + bitIf c.ms.a1.taken 3)]),
    (0x3FD, [c.ms.sampOff.setWidth 8]),
    (0x3FE, bvBytes 2 c.ms.bnd)]

/-- The elements of a tile (R245). -/
def Tile.elBytes (t : Tile) : List Byte := (List.range 8192).flatMap fun x => bvBytes 16 (SMap.get 0 t.el x)

/-- A decode table as 1,024 entries of 16 bits (R245, R288). -/
def DTab.bytes (t : DTab) (k : Strand) : List Byte :=
  (List.range 1024).flatMap fun o => bvBytes 2 (match t.changed.find? (·.1 == o) with
    | some (_, e) => e
    | none => defaultEntry k o)

/-- A decode table from 2,048 bytes (R453). -/
def DTab.ofBytes (k : Strand) (edition : BitVec 8) (bs : List Byte) : DTab :=
  ⟨edition, (List.range 1024).filterMap fun o =>
    let e : BitVec 16 := leBV 16 ((bs.drop (2 * o)).take 2)
    if e = defaultEntry k o then none else some (o, e)⟩

/-- The decode table of a strand at the context's home. -/
def Ctx.dtab (x : Ctx) (k : Strand) : DTab := x.dtabs[strandFin k]

/-- The partition-level items at their offsets (R245); `router` stands for the stage router's own layout. -/
def Ctx.items (x : Ctx) (router : List Byte) : List (Nat × List Byte) :=
  [(0x3000, strandList.flatMap fun k => (x.dtab k).bytes k),
   (0x5000, (List.range 16).flatMap fun g => let d := SMap.get {} x.gens g; bvBytes 64 d.d ++ bvBytes 256 d.f),
   (0x6400, (List.range 16).flatMap fun e => bvBytes 16 (SMap.get 0 x.caps e)),
   (0x6800, (List.range 64).flatMap fun q => bvBytes 32 (SMap.get 0 x.chunks q)),
   (0x7000, router)]

/-- Bytes whose layout the spec leaves to the implementation (R138, R245): free (log 7). -/
def State.freeBytes (s : State) (n : Nat) : List Byte × State :=
  let (v, s) := s.takeFree (8 * n)
  (bvBytes n v, s)

/-- The context block of a context (R244): 64 KiB with its partition-level items. -/
def State.ctxBlock (s : State) (p : BitVec 5) (ctx : BitVec 3) : List Byte × State :=
  let (r, s) := s.freeBytes 4096
  (layOut 0 65536 (((s.part p).ctx ctx).items r), s)

/-- The pc of a strand as the stop record and the image give it (R235): of the next instruction to issue. -/
def StrandSt.pcShown (t : StrandSt) : W32 :=
  match t.held with
  | none => t.pc
  | some h => if h.progress = .all then t.pc else h.next.getD (t.nextPc h.pc h.words.length)

/-- The same of a strand of a core: on M a command in the second entry has issued too (R294). -/
def Core.pcShown (c : Core) (k : Strand) : W32 :=
  match k, c.ms.second with
  | .m, some h => ({ (c.str .m) with held := some h } : StrandSt).pcShown
  | _, _ => (c.str k).pcShown

/-- The 1 MiB image of the crew on a core (R245): with copies of the partition-level items for `ctx.save` (R451), and zeros in
their place at a swap. -/
def State.image (s : State) (core : BitVec 7) (items : Bool) : List Byte × State :=
  let c := s.core core
  let (log, s) := s.freeBytes 16384
  let (xq, s) := s.freeBytes 1024
  let (router, s) := s.freeBytes 4096
  let its := match c.crew with
    | some w => if items then ((s.part w.part).ctx w.ctx).items router else []
    | none => []
  let ctx := (c.crew.map (·.ctx)).getD 0
  (layOut 0 0x100000 ([
    (0x0, c.x.toList.flatMap fun v => bvBytes 8 v),
    (0x200, c.p.toList.flatMap fun v => bvBytes 8 v),
    (0x300, c.block300 (strandList.map fun k => c.pcShown k)),
    (0x400, c.stops.flatMap fun r => r.bytes core ctx),
    (0x500, c.units.toList),
    (0x600, c.ev.ev.flatMap fun v => bvBytes 8 v),
    (0x640, c.ev.sel.map fun v => v.setWidth 8),
    (0x648, [c.ev.ovf]),
    (0x700, loopBytes (c.str .v).loops),
    (0x740, loopBytes (c.str .m).loops),
    (0x780, loopBytes (c.str .x).loops),
    (0x7C0, bvBytes 4 c.ms.seq),
    (0x800, (List.range 256).flatMap fun i => bvBytes 4 (SMap.get 0 c.ev.matrix i)),
    (0x1000, c.masks.toList.flatMap fun v => bvBytes 1024 v)] ++ its ++ [
    (0x8000, bvBytes 1024 c.ms.a0.ovf ++ bvBytes 1024 c.ms.a1.ovf),
    (0x10000, SMap.read 0 c.ms.index 0 65536),
    (0x20000, c.ms.a0.elBytes ++ c.ms.a1.elBytes),
    (0x60000, c.v.toList.flatMap fun v => bvBytes 8192 v),
    (0xE0000, log),
    (0xE4000, xq),
    (0xE4400, c.sbImage)]), s)

/-! ### Taking an image back -/

/-- Bytes of an image. -/
abbrev ImgRead := Nat → Nat → List Byte

/-- A tile's elements and OVF bits from an image, tile `i`. -/
def Tile.ofImg (rd : ImgRead) (i : Nat) : Tile :=
  let fl := (rd 0x3FC 1).getD 0 0
  { el := SMap.write 0 [] 0 ((chunks 16 8192 (rd (0x20000 + 0x20000 * i) 0x20000)).map (leBV 128))
    ovf := leBV 8192 (rd (0x8000 + 1024 * i) 1024), anchor := leBV 16 (rd (0x3F8 + 2 * i) 2)
    auto := fl.getLsbD i, taken := fl.getLsbD (2 + i) }

/-- The DISCARD bit of scoreboard entry `n` of an image. -/
def imgDiscard (rd : ImgRead) (n : Nat) : Bool := (leNat (rd (0xE4400 + 16 * n) 8)).testBit 30

/-- A strand with the pc and the DISCARD bit that an image gives; `n` its first scoreboard entry. -/
def StrandSt.ofImg (t : StrandSt) (rd : ImgRead) (k : Strand) (n : Nat) : StrandSt :=
  let pc : W32 := leBV 32 (rd (0x300 + 4 * (strandFin k).val) 4)
  match t.held with
  | none => { t with pc := pc }
  | some h =>
    let h := { h with discard := imgDiscard rd n }
    if h.progress = .all then { t with pc := pc, held := some h }
    else { t with held := some { h with next := if t.nextPc h.pc h.words.length = pc then none else some pc } }

/-- What `ctx.load` takes (R452). -/
def Core.ofImg (c : Core) (rd : ImgRead) : Core :=
  let w64 := fun (at_ : Nat) => (leBV 64 (rd at_ 8) : Word)
  let q := c.xs.queue.mapIdx fun i m => { m with discard := imgDiscard rd (18 + i) }
  let first := (c.str .m).held.map fun h => { h with discard := imgDiscard rd 16 }
  let second := c.ms.second
  let c := if second.isSome then c.setStr .m { (c.str .m) with held := second } else c
  let c := strandList.foldl (fun (c : Core) k =>
    c.setStr k ((c.str k).ofImg rd k (if k = .x then 18 + q.length else if k = .m && second.isSome then 17 else sbBase k))) c
  let c := if second.isSome then { c.setStr .m { (c.str .m) with held := first } with ms := { c.ms with second := (c.str .m).held } } else c
  { c with
    x := Vector.ofFn fun i => if i.val = 0 then 0 else w64 (8 * i.val)
    p := Vector.ofFn fun i => w64 (0x200 + 8 * i.val)
    shape := w64 0x310
    masks := Vector.ofFn fun i => leBV 8192 (rd (0x1000 + 1024 * i.val) 1024)
    v := Vector.ofFn fun i => leBV 65536 (rd (0x60000 + 8192 * i.val) 8192)
    xs := { c.xs with queue := q }
    ms := { c.ms with a0 := Tile.ofImg rd 0, a1 := Tile.ofImg rd 1, index := SMap.write 0 [] 0 (rd 0x10000 0x10000) } }

/-- A loop stack from an image. -/
def loopsOf (rd : ImgRead) (at_ depth : Nat) : List LoopEnt :=
  ((List.range (min depth 4)).map fun k =>
    let b := at_ + 16 * k
    (⟨leBV 32 (rd b 4), leBV 32 (rd (b + 4) 4), leBV 64 (rd (b + 8) 8)⟩ : LoopEnt)).reverse

/-- Where a strand's loop stack lies in an image (R472). -/
def loopAt : Strand → Nat
  | .s => 0x3B0
  | .v => 0x700
  | .m => 0x740
  | .x => 0x780

/-- A strand with the stacks of an image. -/
def StrandSt.stacks (t : StrandSt) (rd : ImgRead) (k : Strand) : StrandSt :=
  let n := (strandFin k).val
  let b := leNat (rd (0x370 + n) 1)
  { t with
    region := ((List.range (min (b % 16) 8)).map fun i => (leBV 16 (rd (0x330 + 16 * n + 2 * i) 2) : BitVec 16)).reverse
    lost := b.testBit 7
    loops := loopsOf rd (loopAt k) (leNat (rd (0x380 + n) 1)) }

/-- A saved crew with everything that the layout of R245 gives taken from its image (R246, R248): what has no layout there is
as it was saved. Decode tables, generators and tables of the weight path are not the crew's. -/
def Core.restored (c : Core) (rd : ImgRead) : Core :=
  let c := c.ofImg rd
  let c := strandList.foldl (fun (c : Core) k => c.setStr k ((c.str k).stacks rd k)) c
  let y := leNat (rd 0x374 4)
  { c with
    tok := Vector.ofFn fun i => leBV 6 (rd (0x318 + i.val) 1)
    xs := { c.xs with xseq := leBV 32 (rd 0x324 4), det := (leNat (rd 0x328 4)).testBit 0, binSeq := leBV 32 (rd 0x32C 4) }
    yld := { deadline := if y.testBit 0 then some (leNat (rd 0x378 8)) else none, wake := y.testBit 1, coop := y.testBit 2 }
    ms := { c.ms with cfg := leBV 64 (rd 0x3F0 8), sampOff := leBV 6 (rd 0x3FD 1), bnd := leBV 16 (rd 0x3FE 2)
                      seq := leBV 32 (rd 0x7C0 4), tabs := [], run := none, stats := List.replicate 8 0, sampled := 0, mismatch := 0 }
    units := Vector.ofFn fun i => leBV 8 (rd (0x500 + i.val) 1)
    ev := { c.ev with ev := (List.range 8).map (fun i => leBV 64 (rd (0x600 + 8 * i) 8))
                      sel := (List.range 8).map (fun i => leBV 6 (rd (0x640 + i) 1)), ovf := leBV 8 (rd 0x648 1)
                      matrix := SMap.write 0 [] 0 ((List.range 256).map fun i => leBV 32 (rd (0x800 + 4 * i) 4)) } }

/-- A context with the partition-level items of its context block (R244, R245); a capability entry that has changed since the block was written is as it
stands on chip (log 112). An edition has no place in the layout and stays
as the context holds it. -/
def Ctx.ofBlock (x : Ctx) (rd : ImgRead) : Ctx :=
  { x with
    dtabs := Vector.ofFn fun i =>
      let k := if i.val = 0 then Strand.s else if i.val = 1 then .v else if i.val = 2 then .m else .x
      DTab.ofBytes k (x.dtabs[i]).edition (rd (0x3000 + 2048 * i.val) 2048)
    gens := SMap.write {} [] 0 ((List.range 16).map fun g => ⟨leBV 512 (rd (0x5000 + 320 * g) 64), leBV 2048 (rd (0x5040 + 320 * g) 256)⟩)
    caps := SMap.write 0 [] 0 ((List.range 16).map fun e => if x.capsNew.contains e then SMap.get 0 x.caps e else leBV 128 (rd (0x6400 + 16 * e) 16))
    capsNew := []
    chunks := SMap.write 0 [] 0 ((List.range 64).map fun q => leBV 256 (rd (0x6800 + 32 * q) 32)) }

end Sys2Proof.Machine
end

