-- ==== Sys2Proof/Machine/Halt.lean ====
section
/-! DEFINITION. Halting and resuming a partition (R230 to R235, R241 to R243, R439, R463). The halt line rises in
`State.raiseLine`, to which `State.takeFault` and every other cause leads; the operations here are what the line does at each core,
how the halt completes, and how `resume` settles what was held. -/

namespace Sys2Proof.Machine

/-! ### The stop of one core -/

/-- The head word at a strand's pc (R235), read without effect; none where it cannot be read. -/
def State.wordAt (s : State) (w : Crew) (k : Strand) (pc : W32) : Option W32 :=
  let n := (strandFin k).val
  if (w.secLen.getD n 0).toNat ≤ pc.toNat then none
  else match s.linPa w.part w.ctx (w.code + (w.secOff.getD n 0).toNat + 4 * pc.toNat) 4 false with
    | .ok pa => some (leBV 32 (s.peek pa 4))
    | .error _ => none

/-- STATE of a strand (R235): 0 no crew, 1 stopped, 2 at EXIT, 3 stopped after a cooperative yield. -/
def Core.stopState (c : Core) (k : Strand) : Nat :=
  if c.crew.isNone then 0 else if !(c.str k).live then 2 else if c.yld.coop then 3 else 1

/-- The stop record of a strand (R235). WORD is free where no word can be read at PC (log 7). -/
def State.stopRec (s : State) (core : BitVec 7) (k : Strand) : StopRec × State :=
  let c := s.core core
  let t := c.str k
  let (free, s') := s.takeFree 32
  let word := (c.crew.bind fun w => s.wordAt w k (c.pcShown k)).getD free
  ({ state := c.stopState k, why := if t.fault.isSome then 1 else 0, sb := (c.scoreboard k).length, pc := c.pcShown k, word := word
     kind := (t.fault.map (·.1)).getD 0, sub := (t.fault.map (·.2)).getD 0, rdepth := t.region.length, lost := t.lost
     region := t.regionWord, xseq := if k = .x then c.xs.xseq else 0, arrive := s.time }, s')

/-- Kinds whose one step is indivisible, and `coll` (R439). -/
def XKind.oneStep : XKind → Bool
  | .alloc _ _ _ _ | .lockSet _ _ | .permit _ _ | .ringClose _ | .ringPut _ _ _ | .ringTake _ _ _ _ | .coll _ => true
  | _ => false

/-- An X command at the halt (R231, R439). A walk that moves a tile goes on with it (R329). -/
def XCmd.stopped (m : XCmd) : XCmd :=
  if m.moving then m
  else
    let p := if m.progress == .fault || m.progress == .all then m.progress
      else if m.fin && (m.kind.oneStep || m.stamped) then .all
      else if 0 < m.point then .part else .none
    { m with started := false, ready := false, fin := false, inner := 0, progress := p }

/-- The instruction that a strand holds when the line arrives (R231, R463): one that has been performed and only waits is ALL,
with the pc past it. -/
def State.stopStrand (s : State) (c : BitVec 7) (k : Strand) : State :=
  let s := s.modCore c fun r => r.setStr k { (r.str k) with armed := false }
  match ((s.core c).str k).held with
  | some h =>
    if h.performed && h.progress != .all then
      (s.pass c k h.pc h.words.length).modCore c fun r => r.setStr k { (r.str k) with held := some { h with progress := .all } }
    else s
  | none => s

/-- A trace record of a kind for every live strand of a core (R462). -/
def State.traceAll (s : State) (c : BitVec 7) (kind : Nat) : State :=
  strandList.foldl (fun s k => if ((s.core c).str k).live then s.traceEvent c k kind ((s.core c).pcShown k) else s) s

/-- The line reaches a core (R230, R231): its strands stop, the matrix engine drains, X commands become entries, and precise
stops in progress are cancelled (R292). -/
def State.stopCore (s : State) (c : BitVec 7) : State :=
  let s := { s with cur := c }
  let s := match (s.core c).ms.run with
    | some r => if r.fin && r.bad.isNone then s else ((skidMatrix r).run s).2
    | none => s
  let s := strandList.foldl (fun s k => s.stopStrand c k) s
  let s := s.modCore c fun r => { r with stopped := true, xs := { r.xs with queue := r.xs.queue.map XCmd.stopped } }
  let s := if (s.core c).crew.isSome then s.traceAll c trHalt else s
  let (recs, s) := strandList.foldl (fun (a : List StopRec × State) k =>
    let (r, t) := a.2.stopRec c k
    (a.1 ++ [r], t)) ([], s)
  s.modCore c fun r => { r with stops := recs }

/-- `halt_arrive` (R230, R231, R234): one core stops and its stop records are written. -/
def execHaltArrive (core : BitVec 7) (s : State) : Host.Outcome State Fault Refusal :=
  .next (match s.ownerOf core with
  | none => s
  | some p =>
    match (s.part p).halt with
    | none => s
    | some h =>
      if h.done || !h.left.contains core then s
      else
        let s := s.stopCore core
        let cs := (s.part p).cores
        let at_ := (s.part p).pstop.toNat + 64 + 256 * (cs.takeWhile (· != core)).length
        let ctx := ((s.core core).crew.map (·.ctx)).getD (s.part p).runctx
        let s := s.devWrite p at_ ((s.core core).stops.flatMap fun r => r.bytes core ctx)
        let s := s.modPart p fun t => { t with halt := t.halt.map fun h => { h with left := h.left.filter (· != core) } }
        if (s.core core).wcb.isEmpty then s else s.push (.ntStorePerform core))

/-- `halt_complete` (R212, R214, R230, R234): with every core stopped, its non-temporal stores performed or logged, and what it posted to other packages
performed, the header and then HSEQ are written, and the partition is halted (log 135). A pre-emption then goes on to its swap (R246). -/
def execHaltComplete (part : BitVec 5) (s : State) : Host.Outcome State Fault Refusal :=
  .next (match (s.part part).halt with
  | none => s
  | some h =>
    if h.done then s
    else if !h.left.isEmpty then { s with agenda := s.agenda ++ h.left.map .haltArrive ++ [.haltComplete part] }
    else match (s.part part).cores.find? s.ntGoes with
    | some c => { s with agenda := s.agenda ++ [.ntStorePerform c, .haltComplete part] }
    | none => if (s.part part).cores.any s.posting then s else
      let base := (s.part part).pstop.toNat
      s.needFar (opStop part) part 0 [(base, 8)] fun s =>
      let hd := [BitVec.ofNat 8 h.cause, (s.part part).runctx.setWidth 8] ++ List.replicate 6 0 ++ leBytes 8 h.time ++
        leBytes 2 (s.part part).cores.length ++ List.replicate 38 0
      let s := s.devWrite part (base + 8) hd
      let (s, q) := s.linRead64 part 0 base
      let s := match q with
        | .ok v => s.devWrite part base (bvBytes 8 (v + 1))
        | .error _ => s.logErr 0 base
      let s := s.modPart part fun t => { t with halted := true, halt := some { h with done := true } }
      (if h.cause = 2 then s.push (.contextSwap part) else s).devDone (opStop part))

/-! ### Settling (R242) -/

/-- The pc moves past an entry's instruction, or to where an image put it. -/
def State.passEntry (s : State) (c : BitVec 7) (k : Strand) (h : Held) : State :=
  let s := s.advance c k h.pc h.words.length
  match h.next with
  | some pc => s.modCore c fun r => r.setStr k { (r.str k) with pc := pc }
  | none => s

/-- One strand's entry is settled: NONE, PART and FAULT run again, a DISCARD that R242 allows and ALL end and post. An atomic whose old value has
returned runs on with it, and nothing is performed again. -/
def State.settleStrand (s : State) (c : BitVec 7) (k : Strand) : State :=
  let s := s.modCore c fun r => r.setStr k { (r.str k) with fault := none }
  match ((s.core c).str k).held with
  | none => s
  | some h =>
    match h.progress with
    | .all =>
      let s := s.modCore c fun r => h.results.foldl (fun r e => r.setX e.1 e.2) r
      s.push (.instructionFinish c k)
    | .part => s.keepHeld c k { h with discard := false, notBefore := 0 }
    | p =>
      if h.discard && h.results.isEmpty then
        let s := match (s.core c).crew with
          | some w => if k = Strand.s then s.modPart w.part fun t => { t with genQ := t.genQ.filter fun e => e.1 != c } else s
          | none => s
        let s := if k = Strand.s then { s.modCore c (·.dropFetch) with dev := s.dev.filter fun r => r.op != opSpawn c } else s
        let s := s.dropWaits c k
        let s := if (s.core c).behind k then s else s.passEntry c k h
        (s.keepHeld c k { h with progress := .all, discard := false }).push (.instructionFinish c k)
      else s.keepHeld c k { h with progress := if p = .fault && 0 < h.point then .part else .none, notBefore := 0 }

/-- The command in M's second entry is settled (R242): it has not started, so DISCARD ends it, with the pc past it. -/
def State.settleSecond (s : State) (c : BitVec 7) : State :=
  match (s.core c).ms.second with
  | some h =>
    if h.discard && h.progress == .none then
      (s.passEntry c .m h).modCore c fun r => { r with ms := { r.ms with second := some { h with progress := .all, discard := false } } }
    else s
  | none => s

/-- One X command is settled: it starts again from POINT; a discarded one has nothing left to hand and retires once what it has
handed is performed. -/
def XCmd.settledAs (m : XCmd) : XCmd :=
  match m.progress with
  | .all => m
  | .part => { m with progress := .none, discard := false }
  | _ =>
    if m.discard && !m.moving then
      { m with started := true, ready := true, fin := true, stamped := true, discard := false, progress := .none }
    else { m with progress := .none, discard := false }

/-- Is it a request that only reads? -/
def FarReq.isRead (w : FarReq) : Bool := match w.body.body with
  | .read _ _ _ | .linRead _ _ _ _ => true
  | _ => false

/-- The strands of a core are settled in the order S, V, M, X, and run again. What a replayed instruction reads elsewhere it reads anew (R214). A
yield request ends with its pre-emption (DEDUCED, log 93). -/
def State.settleCore (s : State) (c : BitVec 7) : State :=
  let s := if s.waits.isEmpty then s else { s with waits := s.waits.filter fun w => !(w.core == c && w.isRead) }
  let s := (strandList.foldl (fun s k => s.settleStrand c k) s).settleSecond c
  let asked := match (s.core c).crew with
    | some w => (s.part w.part).preempt.isSome
    | none => false
  let s := s.modCore c fun r => { r with stopped := false, stops := [], xs := { r.xs with queue := r.xs.queue.map XCmd.settledAs },
                                         yld := { r.yld with draining := false, coop := false, deadline := if asked then r.yld.deadline else none } }
  if (s.core c).crew.isSome then s.traceAll c trResume else s

/-- Cores are settled, and what they replay is issued before all else, core by core in the order S, V, M; X follows (R242). -/
def State.settleCores (s : State) (cs : List (BitVec 7)) : State :=
  let s := cs.foldl (fun s c => s.settleCore c) s
  match cs with
  | c :: _ => { s with turn := 4 * c.toNat }
  | [] => s

/-- LEAVING A HALT (R242, R450): every core is settled, the halt line falls and PSTATE.HALTED clears. -/
def State.resumePart (s : State) (p : BitVec 5) : State :=
  (s.settleCores (s.part p).cores).modPart p fun t => { t with halted := false, halt := none }

/-- May `resume` act (R243, R441, R450): halted for a fault or a STOP, and not FATAL? -/
def Part.resumable (p : Part) : Bool :=
  p.halted && !p.fatal && (match p.halt with
    | some h => h.done && (h.cause == 1 || h.cause == 3)
    | none => false)

end Sys2Proof.Machine
end

