-- ==== Sys2Proof/Machine/SideLog.lean ====
section
/-! DEFINITION. Replay of the side log (R221, R222, R226, R229). -/

namespace Sys2Proof.Machine

/-- The number under which a replayed atomic asks another package. -/
def SlogEnt.farKey (e : SlogEnt) : Nat := 2 ^ 64 + e.id

/-- The key of an entry and the place that it leads to now. -/
def SlogEnt.key (e : SlogEnt) (pa : Nat) : FarKey := ⟨e.ctx, e.tensor, e.tile, e.offset, pa, none, e.slot⟩

/-- Where an entry's access lands now: none while it must stay in the log, and whether it now waits for an invalidation, or for an earlier write to
the same place of another package. A tile
that is not present writes a new record. -/
def replayPlace (e : SlogEnt) : Op (Option (Nat ⊕ (Nat × Nat)) × Bool) := do
  let w ← curCrew
  let s ← get
  let at_ := fun (tile : Nat) => detT e.tensor.toNat e.slot tile e.offset
  match s.crewBits w e.tensor.toNat with
  | none => flt kTensor 2 (at_ e.tile)
  | some b =>
    let d := Desc.ofBits b
    let t := s.tileEntry d e.tile
    let miss := modify fun s => s.recordMiss w.part e.ctx (some s.cur) (strandFin e.strand).val e.pc e.word (strandFin e.strand).val
      (match e.op with | .atomic .. => 2 | _ => 1) e.tensor.toNat e.slot e.tile e.offset
    if !t.getLsbD 0 then
      miss
      return (none, false)
    else if t.getLsbD 3 then flt kPoison 0 (at_ e.tile)
    else if !t.getLsbD 1 || t.getLsbD 2 then flt kWriteprot 0 (at_ e.tile)
    else match (s.locate w.part e.ctx t (d.tileBytes == 65536) e.offset).under e.mem with
      | .bad => flt kTensor 5 (at_ e.tile)
      | .revoked i g _ => capFlt i g
      | .unmapped => do
        miss
        return (none, false)
      | .far pkg pa => do
        need (decide (pkg < s.fabric.packages)) kFscope 0 (detPkg pkg)
        if s.inFlight s.cur (s.fabric.posOf pkg) pa || decide (1024 ≤ s.outstanding s.cur) then return (none, true)
        else return (some (.inr (pkg, pa)), false)
      | .here pa =>
        match s.frameState pa with
        | (0, []) => return (some (.inl pa), false)
        | (2, _) => return (some (.inl pa), false)
        | (0, _) => do
          modify fun s => s.push (.invalidate w.part e.tensor e.tile)
          return (none, true)
        | _ => return (none, false)

/-- Writes what a logged atomic returned into the registers that still wait for it, each its own word (R221). -/
def Core.deliver (c : Core) (id : Nat) (bs : List Byte) : Core :=
  (c.pend.filter fun p => p.2.1 == id).foldl (fun c p => c.setX p.1 (leBV 64 ((bs.drop (8 * p.2.2)).take 8))) c

/-- The block that an entry of a core's log lies in now, with its package; none while its tile is not present. -/
def State.slogBlock (s : State) (c : BitVec 7) (e : SlogEnt) : Option (Option Nat × Nat) :=
  match (s.core c).crew with
  | none => none
  | some w => (s.backPlace c w.part e.ctx e.tensor e.tile e.offset).map fun x => (x.1, x.2 / 64)

/-- Does an entry of a core's log stand behind an earlier one of the same block, by its key or where both lie now? That one is performed first (R197). -/
def State.behind (s : State) (c : BitVec 7) (e : SlogEnt) : Bool :=
  ((s.core c).slog.takeWhile fun x => x.id != e.id).any fun x =>
    (x.hits e.ctx e.tensor (some e.tile) && x.offset / 64 == e.offset / 64) || ((s.slogBlock c x).isSome && s.slogBlock c x == s.slogBlock c e)

/-- Performs one entry; answers whether it leaves the log, and whether it now waits for an invalidation or an earlier entry. -/
def replayOne (e : SlogEnt) : Op (Bool × Bool) := do
  let (place, defer) ← if (← get).behind (← get).cur e then pure (none, true) else replayPlace e
  let det := detT e.tensor.toNat e.slot e.tile e.offset
  let fail := fun (f : Found) => match f with
    | .poison => flt kPoison 0 det
    | .stale sub => flt kStale sub det
    | .data _ => pure ()
  match place, e.op with
  | none, _ => return (false, defer)
  | some (.inl pa), .store bs =>
    modify fun s => s.bankWrite pa bs
    return (true, false)
  | some (.inl pa), .update r =>
    let (s, f) := (← get).updAt { r with lanes := r.lanes.map fun l => (pa + l.1, l.2) }
    set s
    match f with
    | some x => fail x
    | none => pure ()
    return (true, false)
  | some (.inl pa), .atomic op w cmp v =>
    let (s, f) := (← get).atomAt ⟨op, pa, w, cmp, v⟩
    set s
    match f with
    | .data bs => modCur fun c => c.deliver e.id bs
    | x => fail x
    return (true, false)
  | some (.inr (pkg, pa)), .store bs =>
    modify fun s => s.fabricWrite s.cur pkg 1 (.write [(pa, bs)] 0) (some (e.key pa))
    return (true, false)
  | some (.inr (pkg, pa)), .update r =>
    modify fun s => s.fabricWrite s.cur pkg 1 (.update { r with lanes := r.lanes.map fun l => (pa + l.1, l.2) }) (some (e.key pa))
    return (true, false)
  | some (.inr (pkg, pa)), .atomic op w cmp v =>
    match ← farCall e.strand pkg e.farKey 1 0 (fun tag => .atomic ⟨op, pa, w, cmp, v⟩ tag) det (some (e.key pa)) with
    | .data _ bs =>
      modCur fun c => c.deliver e.id bs
      modify fun s => { s with waits := s.waits.filter fun x => x.off != e.farKey }
      return (true, false)
    | _ => return (false, false)

/-- Replays, in entry order, the entries of a core that a test selects (R222). A fault is raised on the strand that issued the
access, and its entry stays. -/
def State.replayCore (s : State) (c : BitVec 7) (sel : SlogEnt → Bool) : State :=
  ((s.core c).slog.filter sel).foldl (fun s e =>
    let cur := s.cur
    let s := match (replayOne e).run { s with cur := c } with
      | (.ok (true, _), t) => t.modCore c fun r => { r with slog := r.slog.filter fun x => x.id != e.id }
      | (.ok (false, d), t) => t.modCore c fun r => { r with slog := r.slog.map (fun (x : SlogEnt) => if x.id = e.id then { x with defer := d } else x) }
      | (.error (.fault f), t) | (.error (.done f), t) => t.takeFault c e.strand e.pc e.word f
      | (.error (.hold _), t) => t
    { s with cur := cur }) s

/-- The three actions of R222 for a key, or for every tile of a tensor. -/
def State.replayKey (s : State) (p : BitVec 5) (ctx : BitVec 3) (tensor : BitVec 12) (tile : Option Nat) : State :=
  let s := s.dropKey p ctx tensor tile
  let s := s.modPart p fun t => { t with misses := t.misses.filter fun k =>
    !(k.ctx == ctx && k.tensor == tensor && (tile.isNone || tile == some k.tile)) }
  (s.part p).cores.foldl (fun s c => s.replayCore c fun e => e.hits ctx tensor tile) s

/-- Does an entry of a core have something that a deferred replay can do: an invalidation that has ended, or an answer from
another package (R229)? -/
def State.canDefer (s : State) (c : BitVec 7) (e : SlogEnt) : Bool :=
  (s.waits.any fun w => w.core == c && w.strand == e.strand && w.off == e.farKey && (match w.answer with
    | some (.refusal _ _) => decide (w.notBefore ≤ s.time)
    | some _ => true
    | none => false)) ||
  (e.defer && !s.behind c e && match (s.core c).crew with
    | none => false
    | some w => match s.crewBits w e.tensor.toNat with
      | none => true
      | some b =>
        let d := Desc.ofBits b
        let t := s.tileEntry d e.tile
        match s.locate w.part e.ctx t (d.tileBytes == 65536) e.offset with
        | .here pa => t.getLsbD 0 && !s.heldFrame pa
        | .far pkg pa => !s.inFlight c (s.fabric.posOf pkg) pa && decide (s.outstanding c < 1024)
        | _ => true)

/-- `defer_replay` (R229): a core that was notified replays what the home had deferred. -/
def execDeferReplay (core : BitVec 7) (s : State) : Host.Outcome State Fault Refusal :=
  .next (s.replayCore core fun e => s.canDefer core e)

end Sys2Proof.Machine
end

