-- ==== Sys2Proof/Machine/System.lean ====
section
/-! DEFINITION. Meanings of the system and privileged forms (R440 to R463). -/

namespace Sys2Proof.Machine

/-! ### Targets and rights (R440, R441, R446) -/

/-- Rights by bit of the mask (R446). -/
def rStop : Nat := 0
def rState : Nat := 1
def rTrace : Nat := 2
def rProfile : Nat := 3

/-- A target word with nothing in fields that the form does not use (R440). -/
def tgtOk (t : Word) (cnt core strand self : Bool) : Bool :=
  fld t 24 40 == 0 && (cnt || fld t 20 4 == 0) && fld t 18 2 == 0 && (strand || fld t 16 2 == 0) && !t.getLsbD 15 &&
  (core || fld t 8 7 == 0) && (self || !t.getLsbD 7) && fld t 4 3 == 0

/-- CORE of a target word. -/
def tgtCore (t : Word) : BitVec 7 := t.extractLsb' 8 7

/-- STRAND of a target word. -/
def tgtStrand (t : Word) : Strand :=
  match fld t 16 2 with
  | 0 => .s
  | 1 => .v
  | 2 => .m
  | _ => .x

/-- DETAIL of CAPFAULT (R240, R441): the entry, or `0xFFFF` under SELF, and a GEN. -/
def detCap (t : Word) (gen : W32) : BitVec 320 :=
  BitVec.ofNat 320 ((if t.getLsbD 7 then 0xFFFF else fld t 0 4) + gen.toNat * 2 ^ 32)

/-- The subject that a target word names: its partition and context. -/
def subjectOf (t : Word) : Op (BitVec 5 × BitVec 3) := do
  let w ← curCrew
  if t.getLsbD 7 then return (w.part, w.ctx)
  else
    let e := (((← get).part w.part).ctx w.ctx).cap (fld t 0 4)
    return (e.part, e.ctx)

/-- The rights check at issue (R92, R441 step 2). -/
def rightCheck (t : Word) (right : Nat) : Op Unit := do
  if t.getLsbD 7 then pure ()
  else
    let w ← curCrew
    let s ← get
    let e := ((s.part w.part).ctx w.ctx).cap (fld t 0 4)
    let g := if e.inuse then s.genOf e.part e.ctx else 0
    need (e.inuse && e.mask.getLsbD right && e.gen == g) kCapfault 0 (detCap t g)

/-- Raises CAPFAULT at step 3 unless the subject condition holds (R441). -/
def condition (t : Word) (b : Bool) : Op Unit := do
  let (p, c) ← subjectOf t
  need b kCapfault 0 (detCap t ((← get).genOf p c))

/-- Does a core hold a crew of a context? -/
def State.holds (s : State) (core : BitVec 7) (p : BitVec 5) (c : BitVec 3) : Bool :=
  match (s.core core).crew with
  | some w => w.part == p && w.ctx == c
  | none => false

/-- Marks the form that S holds as performed (R463). -/
def markPerformed : Op Unit := modHeld .s fun h => { h with performed := true }

/-! ### Trap, halt, waiting (R443 to R445) -/

/-- Retires the one-word S form at hand. -/
def State.retireS (s : State) : State :=
  (s.advance s.cur .s ((s.core s.cur).str .s).pc 1).countRetired s.cur .s

/-- `trap` (R443): retires, then raises TRAP with its own pc. -/
def execTrap (imm : BitVec 16) (s : State) : Host.Outcome State Fault Refusal :=
  let pc := ((s.core s.cur).str .s).pc
  nx (s.retireS.takeFault s.cur .s pc (s.ir.headD 0) ⟨kTrap, 0, imm.setWidth 320, false⟩)

/-- `halt` (R444): retires, then raises the halt line with CAUSE 3. -/
def execHalt (s : State) : Host.Outcome State Fault Refusal :=
  nx (match (s.core s.cur).crew with
  | some w => s.retireS.raiseLine w.part 3
  | none => s)

/-- `wfi` (R445). -/
def execWfi (s : State) : Host.Outcome State Fault Refusal :=
  nx (runS [] (pure ()) (do
    let y := (← curCore).yld
    holdUnless (y.wake || y.deadline.isSome)
    modCur fun c => { c with yld := { c.yld with wake := false } }
    return .seq) s)

/-! ### Stop and resume (R449, R450) -/

/-- The checks of `stop` (R441, R449). -/
def stopCheck (a b : BitVec 6) : Op Unit := do
  let t ← xr a
  let m ← xr b
  legal (fld m 1 63 == 0 && tgtOk t false (m.getLsbD 0) (m.getLsbD 0) true) .s
  rightCheck t rStop

/-- `stop` (R292, R449). -/
def execStop (a b : BitVec 6) (s : State) : Host.Outcome State Fault Refusal :=
  let c := s.core s.cur
  if ((c.str .s).held.isNone && !c.waitsOn [a, b] && (c.xr a).getLsbD 7 && !(c.xr b).getLsbD 0 &&
      (match ((stopCheck a b).run s).1 with | .ok _ => true | .error _ => false)) then
    nx (match c.crew with
    | some w => s.retireS.raiseLine w.part 3
    | none => s)
  else nx (runS [a, b] (stopCheck a b) (do
    let t ← xr a
    let precise := (← xr b).getLsbD 0
    let (p, ctx) ← subjectOf t
    if !(← heldNow .s).performed then
      let s ← get
      let q := s.part p
      let core := tgtCore t
      let k := tgtStrand t
      if q.runctx != ctx || q.halted || (precise && !s.holds core p ctx) then return .seq
      else
        markPerformed
        if precise && ((s.core core).str k).live then
          if q.halt.isNone then modify fun s => s.modCore core fun r => r.setStr k { (r.str k) with armed := true }
        else modify fun s => s.raiseLine p 3
    holdUnless ((← get).part p).halted
    return .seq) s)

/-- `resume` (R242, R450). -/
def execResume (a : BitVec 6) (s : State) : Host.Outcome State Fault Refusal :=
  nx (runS [a] (do
    let t ← xr a
    legal (tgtOk t false false false false) .s
    rightCheck t rStop) (do
    let (p, ctx) ← subjectOf (← xr a)
    let q := (← get).part p
    if q.runctx == ctx && q.resumable then modify fun s => s.resumePart p
    return .seq) s)

/-! ### Saved state (R451, R452) -/

/-- The subject condition of `ctx.save` and `ctx.load` (R441). -/
def savedCondition (t : Word) (load : Bool) : Op Unit := do
  let (p, ctx) ← subjectOf t
  let s ← get
  let q := s.part p
  let cause := (q.halt.map (·.cause)).getD 0
  condition t (q.runctx == ctx && q.halted && cause != 2 && s.holds (tgtCore t) p ctx && !(load && q.fatal))

/-- The checks of `ctx.save` and `ctx.load` at issue. -/
def savedCheck (a : BitVec 6) : Op Unit := do
  let t ← xr a
  legal (a != 63 && tgtOk t false true false false) .s
  rightCheck t rState

/-- `ctx.save` (R451). -/
def execCtxSave (a : BitVec 6) (s : State) : Host.Outcome State Fault Refusal :=
  nx (runS [a, a + 1] (savedCheck a) (do
    let t ← xr a
    savedCondition t false
    acqClear
    let acc ← sysAcc (← xr (a + 1)).toNat 0x100000 64
    let (img, s) := (← get).image (tgtCore t) true
    set s
    writeAll .s acc.d.nt false (linPieces acc img)
    return .seq) s)

/-- `ctx.load` (R452). -/
def execCtxLoad (a : BitVec 6) (s : State) : Host.Outcome State Fault Refusal :=
  nx (runS [a, a + 1] (savedCheck a) (do
    let t ← xr a
    savedCondition t true
    acqClear
    let img ← readRange .s (← sysAcc (← xr (a + 1)).toNat 0x100000 64) 0x100000
    let rd : ImgRead := fun o n => (img.drop o).take n
    legal (shapeOk (leBV 64 (rd 0x310 8))) .s
    modify fun s => s.modCore (tgtCore t) fun r => r.ofImg rd
    return .seq) s)

/-! ### Decode tables (R290, R453) -/

/-- The decode tables of a context with one replaced. -/
def Ctx.setDtab (x : Ctx) (k : Strand) (t : DTab) : Ctx := { x with dtabs := x.dtabs.set (strandFin k) t }

/-- `dtab.load` (R290, R453): performed at the home, retired once every copy has applied it. -/
def execDtabLoad (a b : BitVec 6) (s : State) : Host.Outcome State Fault Refusal :=
  nx (runS [a, b] (do
    let v ← xr a
    let y ← xr b
    legal (fld v 2 6 == 0 && fld v 17 47 == 0 && (if v.getLsbD 16 then y == 0 && fld v 8 8 == 0 else fld v 8 8 != 0)) .s) (do
    let w ← curCrew
    if !(← heldNow .s).performed then
      let v ← xr a
      let n := fld v 0 2
      let k := tgtStrand (BitVec.ofNat 64 (n * 2 ^ 16))
      let tab ← if v.getLsbD 16 then pure ({} : DTab)
        else do
          acqClear
          let bs ← readRange .s (← sysAcc (← xr b).toNat 2048 64) 2048
          pure (DTab.ofBytes k (v.extractLsb' 8 8) bs)
      markPerformed
      modify fun s =>
        let s := s.modPart w.part fun p => p.modCtx w.ctx fun x => x.setDtab k tab
        (s.part w.part).cores.foldl (fun s c =>
          (s.modCore c fun r => { r with dtabUpd := r.dtabUpd ++ [(n, tab)] }).push (.decodeTableCopyApply c)) s
    let s ← get
    holdUnless ((s.part w.part).cores.all fun c => (s.core c).dtabUpd.isEmpty)
    return .seq) s)

/-- `decode_table_copy_apply` (R290, R453): a core's copy applies the next table whole. -/
def execDecodeTableCopyApply (core : BitVec 7) (s : State) : Host.Outcome State Fault Refusal :=
  nx (match (s.core core).dtabUpd with
  | [] => s
  | (n, t) :: rest => s.modCore core fun r =>
    { r with dtabs := Vector.ofFn fun i => if i.val = n then t else r.dtabs[i], dtabUpd := rest })

/-! ### Rights (R446 to R448) -/

/-- `cap.deleg` (R446). -/
def execCapDeleg (d a b : BitVec 6) (s : State) : Host.Outcome State Fault Refusal :=
  nx (runS [a, b] (do
    let v ← xr a
    legal (fld v 3 5 == 0 && fld v 13 51 == 0 && fld (← xr b) 5 59 == 0) .s) (do
    let w ← curCrew
    let v ← xr a
    let mask : BitVec 5 := (← xr b).extractLsb' 0 5
    let tp : BitVec 5 := v.extractLsb' 8 5
    let tc : BitVec 3 := v.extractLsb' 0 3
    let s ← get
    if mask = 0 ∨ (tp = w.part ∧ tc = w.ctx) ∨ !(s.part tp).bound.getLsbD tc.toNat then
      setX d (-2)
    else
      let x := (s.part tp).ctx tc
      let names := fun (i : Nat) => (x.cap i).inuse && (x.cap i).part == w.part && (x.cap i).ctx == w.ctx
      match (firstBelow 16 names).or (firstBelow 16 fun i => !(x.cap i).inuse) with
      | none => setX d (-1)
      | some i =>
        let c : Cap := ⟨true, w.ctx, w.part, mask, s.genOf w.part w.ctx⟩
        modify fun s => s.setCap tp tc i c.bits
        setX d (BitVec.ofNat 64 i)
    return .seq) s)

/-- Increments a context's GEN (R92): from 2^32 − 1 it becomes 1 and every entry that names the context is cleared. -/
def State.bumpGen (s : State) (p : BitVec 5) (c : BitVec 3) : State :=
  let g := s.genOf p c
  if g = 0xFFFFFFFF then
    let s := s.modPart p fun t => t.modCtx c fun x => { x with gen := 1 }
    { s with parts := s.parts.map fun t => { t with ctxs := t.ctxs.map fun x =>
        let named := (List.range 16).filter fun i => (x.cap i).part == p && (x.cap i).ctx == c
        { x with caps := named.foldl (fun m i => SMap.put 0 m i 0) x.caps
                 capsNew := if x.savedImg then x.capsNew ++ named else x.capsNew } } }
  else s.modPart p fun t => t.modCtx c fun x => { x with gen := g + 1 }

/-- `cap.revoke` (R92, R447). -/
def execCapRevoke (a : BitVec 6) (s : State) : Host.Outcome State Fault Refusal :=
  nx (runS [a] (do
    let v ← xr a
    legal (v == -1 || decide (v.toNat ≤ 15)) .s) (do
    let w ← curCrew
    let v ← xr a
    if v = -1 then modify fun s => s.bumpGen w.part w.ctx
    else modify fun s => s.setCap w.part w.ctx v.toNat 0
    return .seq) s)

/-- `cap.check` (R448). -/
def execCapCheck (d a : BitVec 6) (s : State) : Host.Outcome State Fault Refusal :=
  nx (runS [a] (do legal (fld (← xr a) 4 60 == 0) .s) (do
    let w ← curCrew
    let s ← get
    let e := ((s.part w.part).ctx w.ctx).cap (fld (← xr a) 0 4)
    let ok := e.inuse && e.gen == s.genOf e.part e.ctx
    setX d (if ok then BitVec.ofNat 64 (2 ^ 31 + e.part.toNat * 2 ^ 16 + e.ctx.toNat * 2 ^ 8 + e.mask.toNat) else 0)
    return .seq) s)

/-! ### Counters and snapshots (R454 to R456) -/

/-- The subject condition of the event forms (R441); answers whether the core holds a crew of the subject. -/
def eventCondition (t : Word) : Op Bool := do
  let (p, ctx) ← subjectOf t
  let s ← get
  condition t ((s.part p).runctx == ctx && (s.part p).ownsCore (tgtCore t).toNat)
  return s.holds (tgtCore t) p ctx

/-- `ev.sel` (R454). -/
def execEvSel (a b : BitVec 6) (s : State) : Host.Outcome State Fault Refusal :=
  nx (runS [a, b] (do
    let t ← xr a
    let v ← xr b
    legal (tgtOk t true true false true && decide (fld t 20 4 ≤ 7) && fld v 6 2 == 0 && fld v 9 55 == 0) .s
    rightCheck t rProfile) (do
    let t ← xr a
    let v ← xr b
    let n := fld t 20 4
    if ← eventCondition t then
      modify fun s => s.modCore (tgtCore t) fun r =>
        let e := { r.ev with sel := listSet r.ev.sel n (v.extractLsb' 0 6) }
        { r with ev := if v.getLsbD 8 then { e with ev := listSet e.ev n 0, ovf := e.ovf &&& ~~~(1#8 <<< n) } else e }
    return .seq) s)

/-- `ev.read` (R455). -/
def execEvRead (d a : BitVec 6) (s : State) : Host.Outcome State Fault Refusal :=
  nx (runS [a] (do
    let t ← xr a
    legal (tgtOk t true true false true && decide (fld t 20 4 ≤ 8)) .s
    rightCheck t rProfile) (do
    let t ← xr a
    let here ← eventCondition t
    let e := ((← get).core (tgtCore t)).ev
    let n := fld t 20 4
    setX d (if !here then 0 else if n = 8 then e.ovf.setWidth 64 else e.ev.getD n 0)
    return .seq) s)

/-- Bytes of the snapshot buffer (R95). -/
def snapLen : Nat := 1088

/-- `snap.read` (R456). -/
def execSnapRead (d a : BitVec 6) (s : State) : Host.Outcome State Fault Refusal :=
  nx (runS [d, a] (do
    let t ← xr a
    legal (tgtOk t false true false true) .s
    rightCheck t rProfile) (do
    let t ← xr a
    if ← eventCondition t then
      let c := (← get).core (tgtCore t)
      holdUnless (!c.ev.busy)
      acqClear
      let acc ← sysAcc (← xr d).toNat snapLen 64
      writeAll .s acc.d.nt false (linPieces acc (SMap.read 0 c.ev.snap 0 snapLen))
    return .seq) s)

/-! ### Translation, side logs, migration (R457 to R459) -/

/-- The check of a key operand (R457, R458). -/
def keyCheck (a : BitVec 6) (desc : Bool) : Op Unit := do
  let v ← xr a
  legal (fld v 12 4 == 0 && (desc || !v.getLsbD 17) && fld v 18 46 == 0) .s
  let w ← curCrew
  need (decide (fld v 0 12 ≤ (((← get).part w.part).ctx w.ctx).ndesc.toNat)) kTensor 2 (detT (fld v 0 12) 0 0 0)

/-- The tile of a key operand: none for every tile. -/
def keyTile (v b : Word) : Option Nat := if v.getLsbD 16 then none else some b.toNat

/-- Is a request that a core of a partition made before another was numbered `n` still on its way (R457)? -/
def State.accessesBefore (s : State) (p : BitVec 5) (n : Nat) : Bool :=
  (s.waits ++ s.posts.filter fun w => w.live s.time).any fun w => decide (w.tag < n) && w.answer.isNone && (s.part p).ownsCore w.core.toNat

/-- Requests of a partition's cores that were translated through a removed entry and refused are translated again when they are sent again (R218). -/
def State.walkAnew (s : State) (p : BitVec 5) (ctx : BitVec 3) (tensor : BitVec 12) (tile : Option Nat) : State :=
  let f := fun (w : FarReq) => match w.key, w.answer with
    | some k, some (.refusal tag _) =>
      if (s.part p).ownsCore w.core.toNat && k.ctx == ctx && k.tensor == tensor && (tile.isNone || tile == some k.tile) then { w with answer := some (.refusal tag 1) } else w
    | _, _ => w
  { s with waits := s.waits.map f, posts := s.posts.map f }

/-- `tt.inval` (R218, R457): earlier writes are performed, the key goes from every cache, and the form waits until what was translated before has
been performed or refused. -/
def execTtInval (a b : BitVec 6) (s : State) : Host.Outcome State Fault Refusal :=
  nx (runS [a, b] (keyCheck a true) (do
    let w ← curCrew
    if (← heldNow .s).point = 0 then
      let v ← xr a
      let tensor : BitVec 12 := v.extractLsb' 0 12
      opRelease .pkg
      let tile := keyTile v (← xr b)
      modify fun s => (s.dropKey w.part w.ctx tensor tile).flushPieces
      if v.getLsbD 17 then
        modify fun s => (s.part w.part).cores.foldl (fun s c => s.modCore c fun r =>
          { r with crew := r.crew.map fun w => { w with descs := w.descs.filter fun e => e.1 != tensor.toNat } }) s
      let n := (← get).nextTag
      modHeld .s fun h => { h with point := n + 1 }
    let n := (← heldNow .s).point - 1
    let s ← get
    holdUnless (!s.accessesBefore w.part n)
    let v ← xr a
    let tile := keyTile v (← xr b)
    modify fun s => s.walkAnew w.part w.ctx (v.extractLsb' 0 12) tile
    return .seq) s)

/-- `slog.replay` (R222, R458). -/
def execSlogReplay (a b : BitVec 6) (s : State) : Host.Outcome State Fault Refusal :=
  nx (runS [a, b] (keyCheck a false) (do
    let w ← curCrew
    let v ← xr a
    let tile := keyTile v (← xr b)
    modify fun s => s.replayKey w.part w.ctx (v.extractLsb' 0 12) tile
    return .seq) s)

/-- `migrate` (R225, R228, R459): starts the migration and waits for its end. -/
def execMigrate (a b : BitVec 6) (s : State) : Host.Outcome State Fault Refusal :=
  nx (runS [a, b] (do
    let v ← xr a
    legal (fld v 12 2 != 3 && fld v 14 2 != 3 && fld v 25 7 == 0) .s) (do
    let w ← curCrew
    if !(← heldNow .s).performed then
      let v ← xr a
      let tile := (← xr b).toNat
      let s ← get
      let tn := fld v 0 12
      let op := fld v 12 2
      match ← crewDesc tn with
      | none => flt kTensor 2 (detT tn 0 tile 0)
      | some bits =>
        let d := Desc.ofBits bits
        let e := s.tileEntry d tile
        let ok := d.kind != 0 && d.kind != 2 && d.wf && descPlain bits
        need ok kTensor 2 (detT tn 0 tile 0)
        let dup := op != 1 || (d.dupok && fld v 14 2 == 0 && fld v 16 9 != fld e 16 9)
        need (!d.pinned && decide (tile < d.tiles) && e.getLsbD 0 && dup) kTensor 4 (detT tn 0 tile 0)
        let g : Migr := ⟨w.ctx, BitVec.ofNat 12 tn, tile, op, v.extractLsb' 14 2, v.extractLsb' 16 9, v.extractLsb' 32 32, some s.cur, 0, [], 0, []⟩
        modify fun s => (s.modPart w.part fun p => { p with migrs := p.migrs ++ [g] }).push (.migration w.part)
        markPerformed
    let s ← get
    holdUnless ((s.part w.part).migrs.all fun m => m.core != some s.cur)
    return .seq) s)

/-! ### Mode and system registers (R460 to R462) -/

/-- `xmode` (R460). -/
def execXmode (det : Bool) (s : State) : Host.Outcome State Fault Refusal :=
  nx (simpleS [] (fun c => { c with xs := { c.xs with det := det } }) s)

/-- PSTATE of a partition (R85). -/
def State.pstate (s : State) (p : BitVec 5) : Word :=
  let t := s.part p
  BitVec.ofNat 64 (t.bound.toNat + bitIf (s.running p) 8 + bitIf t.halted 9 + bitIf t.fatal 10 + t.runctx.toNat * 2 ^ 11)

/-- Steps by which the core clock of a die is below 4.0 GHz (R14 to R16): the package's and the die's own together. -/
def State.clockLevel (s : State) (die : Nat) : Nat := Nat.min 3 (s.power.level + s.power.therm.getD die 0)

/-- The value of a system register that can be read (R461). -/
def State.sysReg (s : State) (w : Crew) (n : Nat) : Option Word :=
  let die := s.cur.toNat / 32
  let c := s.core s.cur
  match n with
  | 0 => some (BitVec.ofNat 64 s.time)
  | 1 => some (s.tick.setWidth 64)
  | 2 => some (BitVec.ofNat 64 s.windowNow)
  | 3 => some (BitVec.ofNat 64 (s.cur.toNat + w.part.toNat * 2 ^ 8 + w.ctx.toNat * 2 ^ 16 + s.fabric.index * 2 ^ 20))
  | 4 => some (s.pstate w.part)
  | 5 => some ((s.genOf w.part w.ctx).setWidth 64)
  | 6 => some (BitVec.ofNat 64 (bitIf (s.dieHot die) 0 + bitIf s.cfgrec.pinHot 1))
  | 7 => some (BitVec.ofNat 64 ((if s.power.ps = 0 ∧ s.clockLevel die ≠ 0 then 1 else s.power.ps) + s.clockLevel die * 4))
  | 8 => some (BitVec.ofNat 64 (c.yld.deadline.getD 0))
  | 10 => some c.trace.target
  | 11 => some c.trace.buf
  | 12 => some c.trace.count
  | _ => none

/-- `sysr` (R461). -/
def execSysr (d : BitVec 6) (num : BitVec 16) (s : State) : Host.Outcome State Fault Refusal :=
  nx (runS [] (do
    let w ← curCrew
    legal ((← get).sysReg w num.toNat).isSome .s) (do
    let w ← curCrew
    setX d (((← get).sysReg w num.toNat).getD 0)
    return .seq) s)

/-- A value that a writable system register takes (R461). -/
def syswOk (n : Nat) (v : Word) : Bool :=
  match n with
  | 9 => fld v 7 57 == 0
  | 10 => tgtOk (v &&& 0x7FFFFFFFFFFFFFFF) false false false true
  | 11 => fld v 0 6 == 0 && decide (6 ≤ fld v 48 5 ∧ fld v 48 5 ≤ 20) && fld v 53 11 == 0
  | _ => false

/-- `sysw` (R445, R461, R462). -/
def execSysw (d : BitVec 6) (num : BitVec 16) (s : State) : Host.Outcome State Fault Refusal :=
  nx (runS [d] (do
    let v ← xr d
    legal (syswOk num.toNat v) .s
    if num = 10 ∧ v.getLsbD 63 then rightCheck v rTrace) (do
    let v ← xr d
    let w ← curCrew
    match num.toNat with
    | 9 =>
      let c : BitVec 7 := v.extractLsb' 0 7
      let s ← get
      if s.holds c w.part (s.part w.part).runctx then
        modify fun s => s.modCore c fun r => { r with yld := { r.yld with wake := true } }
    | 10 =>
      let (p, ctx) ← subjectOf v
      let g := (← get).genOf p ctx
      modCur fun c => { c with trace := if v.getLsbD 63 then { c.trace with target := v, count := 0, gen := g } else { c.trace with target := v } }
    | _ => modCur fun c => { c with trace := { c.trace with buf := v } }
    return .seq) s)

end Sys2Proof.Machine
end

