-- ==== Sys2Proof/Machine/Banks.lean ====
section
/-! DEFINITION. What memory does by itself: accesses at a bank and at a home (R155 to R157), soft errors (R18), retention (R159
to R170), table walks and refusals (R217 to R223), non-temporal stores (R212), and fabric-scope releases (R215). -/

namespace Sys2Proof.Machine

/-! ### Banks and homes -/

/-- The bytes that a read found; none where it found no data. -/
def Found.bytes : Found → List Byte
  | .data bs => bs
  | _ => []

/-- `bank_access` (R155, R160, R161, R18): one access of up to 64 bytes within one row. A faded row holds no codes: what it held counts for nothing. -/
def execBankAccess (req : BankReq) (s : State) : Host.Outcome State Fault Refusal :=
  .next (
    let n := match req.write with
      | some bs => bs.length
      | none => req.n
    if n = 0 ∨ 64 < n ∨ 2048 < req.pa % 2048 + n then s
    else
      let s := if s.expired req.pa then s else s.eccFound req.pa req.ecc
      match req.write with
      | some bs => { s.bankWrite req.pa bs with reply := [] }
      | none =>
        let (t, f) := s.bankRead req.pa n
        { t with reply := f.bytes })

/-- Widths in bytes at which a home performs an operation (R156). -/
def atomWidths : AtomOp → List Nat
  | .cas => [4, 8, 16]
  | .faddBF16 => [2]
  | .faddF32 | .fminF32 | .fmaxF32 => [4]
  | _ => [4, 8]

/-- `home_atomic` (R156, R157): one atomic at its home; the old value is returned. -/
def execHomeAtomic (req : AtomReq) (s : State) : Host.Outcome State Fault Refusal :=
  .next (if (atomWidths req.op).contains req.w && req.pa % req.w == 0 then
    let (t, f) := s.atomAt req
    { t with reply := f.bytes }
  else s)

/-- `element_wise_update` (R156): lane by lane, in one aligned 64-byte block of shared memory. -/
def execElementWiseUpdate (req : UpdReq) (s : State) : Host.Outcome State Fault Refusal :=
  let block := ((req.lanes.map (·.1)).headD 0) / 64
  .next (if req.lanes.all fun l => decide (shmBase ≤ l.1 ∧ l.1 < scrBase ∧ l.1 / 64 = block) && l.1 % updBytes req.kind == 0
    then { (s.updAt req).1 with reply := [] } else s)

/-! ### Table walks and refusals -/

/-- The context in which a port of a core translates: its crew's, or the one that runs on its partition (R216). -/
def State.portCtx (s : State) (core : BitVec 7) : Option (BitVec 5 × BitVec 3) :=
  match (s.core core).crew with
  | some w => some (w.part, w.ctx)
  | none => (s.ownerOf core).map fun p => (p, (s.part p).runctx)

/-- `tile_walk` (R216, R217, R219): reads the tile table entry and fills the port's cache, or records the miss. Port 4 is the
network interface's. -/
def execTileWalk (core : BitVec 7) (port : BitVec 3) (tensor : BitVec 12) (tile : Nat) (s : State) : Host.Outcome State Fault Refusal :=
  .next (if h : port.toNat < 5 then
    match s.portCtx core with
    | none => s
    | some (p, ctx) =>
      match s.bitsFor core p ctx tensor.toNat with
      | none => s
      | some b =>
        let d := Desc.ofBits b
        let e := s.tileEntry d tile
        if !d.wf || !descPlain b || s.badEntry d tile || d.kind == 2 || d.kind == 0 || !decide (tile < d.tiles) then s
        else if e.getLsbD 0 && !(s.part p).misses.contains ⟨ctx, tensor, tile⟩ then
          let known := (s.core core).tcs[port.toNat].any fun e => e.ctx == ctx && e.tensor == tensor && e.tile == tile
          if known then s
          else
            let s := s.modCore core fun c => c.putTc ⟨port.toNat, h⟩ s.freeN ⟨ctx, tensor, tile, e⟩
            { s with freeN := s.freeN + 1 }
        else
          let strand := if port.toNat < 4 then port.toNat else 7
          let pc := if port.toNat < 4 then ((s.core core).strands.toList.getD port.toNat {}).pc else 0
          s.recordMiss p ctx (some core) strand pc 0 port.toNat 0 tensor.toNat 0 tile 0
  else s)

/-- Is there room in the fault queue of a partition, or no header to write through (R236, R237)? -/
def State.recordRoom (s : State) (p : BitVec 5) : Bool :=
  match (s.faultHeader p).2 with
  | .error _ => true
  | .ok (w, r, ls, _, _) => decide (w - r < 2 ^ ls)

/-- `tile_miss_record_write` (R219, R237): a TILE_MISS record that waited for a slot is written once one frees; any record that waited for the header of a
fault queue on another package, once that has come (log 110). -/
def execTileMissRecordWrite (part : BitVec 5) (s : State) : Host.Outcome State Fault Refusal :=
  .next (match (s.part part).missWait with
  | [] => s
  | r :: rest =>
    let q := (s.part part).pfaultq.toNat
    s.needFar (opFault part) part 0 ((q, 24) :: if isFatal r then [(q + 64, 1)] else []) fun s =>
      let u := s.modPart part fun t => { t with missWait := rest }
      (if isFatal r then u.fatalSlot part r
      else if s.recordRoom part || fld r 16 16 != kMiss then u.writeRecord part r
      else s).devDone (opFault part))

/-- Is a request due to be sent again (R223)? -/
def FarReq.due (w : FarReq) (now : Nat) : Bool := match w.answer with
  | some (.refusal _ _) => decide (w.notBefore ≤ now)
  | _ => false

/-- Was a load or atomic refused at a retired frame (R226)? -/
def FarReq.rewalks (w : FarReq) : Bool := match w.answer, w.body.body with
  | some (.refusal _ 1), .read _ _ _ | some (.refusal _ 1), .atomic _ _ | some (.refusal _ 1), .count _ _ _ | some (.refusal _ 1), .lockSet _ _ _
  | some (.refusal _ 1), .swapIf _ _ _ _ _ => true
  | _, _ => false

/-- Tells the home of a place that a table entry leads there: a retired frame is in use again (R225, R226; DESIGN CHOICE, log 124). -/
def State.tellReuse (s : State) (core : BitVec 7) (p : BitVec 5) (k : FarKey) (pos : Nat × Nat × Nat) : State :=
  s.sendPkt pos (s.pkt 0 0 false pos core 0 (.frame k.pa 16384 5 0 p k.tensor k.tile 0))

/-- A load or atomic that met a retired frame is made anew by its instruction (R226): its key leaves the caches; a place where its tile still lies learns that
it is in use. -/
def State.rewalkRead (s : State) (w : FarReq) : State :=
  let s : State := { s with waits := s.waits.filter fun v => v.tag != w.tag }
  match w.key, s.ownerOf w.core with
  | some k, some p =>
    let t := s.dropKey p k.ctx k.tensor (some k.tile)
    match t.backPlace w.core p k.ctx k.tensor k.tile k.off with
    | some (some pkg, pa) => if pa = k.pa ∧ s.fabric.posOf pkg = pktPos w.body then t.tellReuse w.core p k (pktPos w.body) else t
    | _ => t
  | _, _ => s

/-- The place of a listed core that has the unit and offset of another (R424). -/
def FarKey.at_ (k : FarKey) (pa : Nat) : Nat := match k.dest with
  | some c => scrPa c ((pa - scrBase) % 2 ^ 22)
  | none => pa

/-- A body with its addresses moved from one place to another. -/
def pktMoved (a b : Nat) : PktBody → PktBody
  | .write bl tag => .write (bl.map fun x => (x.1 - a + b, x.2)) tag
  | .update r => .update { r with lanes := r.lanes.map fun l => (l.1 - a + b, l.2) }
  | .posted tag x => .posted tag (pktMoved a b x)
  | x => x

/-- A write or update performed at a place of this package. -/
def State.perform (s : State) : PktBody → State
  | .write bl _ => bl.foldl (fun s b => s.bankWrite b.1 b.2) s
  | .update r => (s.updAt r).1
  | .posted _ b => s.perform b
  | _ => s

/-- Sends a packet of a core on its way: one at fabric scope through its window (R52). -/
def State.resend (s : State) (core : BitVec 7) (pk : Packet) : State :=
  if pktField pk 8 1 = 1 then
    match s.fabric.egress (pktPos pk) with
    | some port => s.rollWindow.charge core port pk
    | none => s
  else s.fromCore core.toNat pk

/-- A write that met a retired frame walks again (R226): it goes to where its tile lies now, or waits for the tile's mapping. -/
def State.rewalkWrite (s : State) (p : BitVec 5) (w : FarReq) (k : FarKey) : State :=
  let s := s.dropKey p k.ctx k.tensor (some k.tile)
  let set := fun (s : State) (f : FarReq → FarReq) =>
    { s with waits := s.waits.map (fun v => if v.tag == w.tag then f v else v), posts := s.posts.map (fun v => if v.tag == w.tag then f v else v) }
  match s.backPlace w.core p k.ctx k.tensor k.tile k.off with
  | none => set (s.recordMiss p k.ctx (some w.core) (strandFin w.strand).val ((s.core w.core).str w.strand).pc 0 (strandFin w.strand).val 1 k.tensor.toNat 0 k.tile k.off)
      fun v => { v with notBefore := s.time + 16 * 256 }
  | some (none, base) =>
    let pa := k.at_ base
    if s.heldFrame pa then set (s.startInvalidate pa) fun v => { v with notBefore := s.time + 4 * 256 }
    else
      let s := set (s.perform (pktMoved k.pa pa w.body.body)) fun v => { v with answer := some (.ack w.tag) }
      { s with posts := s.posts.filter fun v => v.tag != w.tag }
  | some (some pkg, pa) =>
    let s := if pa = k.pa ∧ s.fabric.posOf pkg = pktPos w.body then s.tellReuse w.core p k (pktPos w.body) else s
    let pk := s.pkt (pktLen w.body) (pktField w.body 6 2) (pktField w.body 8 1 == 1) (s.fabric.posOf pkg) w.core s.windowNow (pktMoved k.pa pa w.body.body)
    (set s fun v => { v with answer := none, body := pk, key := some { k with pa := pa }, admitted := v.admitted && (match w.body.body with | .posted _ _ => false | _ => true) }).resend w.core pk

/-- `retry_resend` (R223): a refused request of a core is sent again, not before its time; one that met a retired frame walks again first (R226): a load or
atomic is dropped, and its instruction makes it anew. With core 0 stand the accesses of the I/O die that wait (log 110). -/
def execRetryResend (core : BitVec 7) (s : State) : Host.Outcome State Fault Refusal :=
  .next (match (s.waits ++ s.posts).find? fun w => w.core == core && w.due s.time with
  | none => if core = 0 then (match s.dev.find? s.devReady with
    | some r => s.devGo r
    | none => s) else s
  | some w =>
    if w.rewalks then s.rewalkRead w
    else
      let clear := fun (ok : Bool) (v : FarReq) => if v.tag == w.tag then { v with answer := none, admitted := ok } else v
      match w.key, w.answer, s.ownerOf core with
      | some k, some (.refusal _ 1), some p => s.rewalkWrite p w k
      | _, _, _ => ({ s with waits := s.waits.map (clear true), posts := s.posts.map (clear false) } : State).resend core w.body)

/-! ### Non-temporal stores and releases -/

/-- `nt_store_perform` (R212, R221): the oldest non-temporal store of a core is performed at its home, or goes to the side log
where its tile is not present. -/
def execNtStorePerform (core : BitVec 7) (s : State) : Host.Outcome State Fault Refusal :=
  let cur := s.cur
  .next (match (s.core core).wcb, (s.core core).crew with
  | [], _ => s
  | e :: rest, some _ =>
    let drop := fun (s : State) => s.modCore core fun r => { r with wcb := rest }
    let le : SlogEnt := ⟨s.nextTag, e.ctx, e.tensor, e.tile, e.offset, .store e.bytes, e.strand, e.pc, .core, .rlx, false, e.slot, e.word, e.mem⟩
    let t := match (replayPlace le).run { s with cur := core } with
      | (.ok (some (.inl pa), _), t) => drop (t.bankWrite pa e.bytes)
      | (.ok (some (.inr (pkg, pa)), _), t) => drop (t.fabricWrite core pkg 1 (.write [(pa, e.bytes)] 0) (some (le.key pa)))
      | (.ok (none, d), t) =>
        if (t.core core).slog.length < 128 then
          let t := drop { t with nextTag := t.nextTag + 1 }
          t.modCore core fun r => ({ r with slog := r.slog ++ [{ le with defer := d }] } : Core).count 31 1
        else t
      | (.error (.fault f), t) | (.error (.done f), t) => (drop t).takeFault core e.strand e.pc e.word f
      | (.error (.hold _), t) => t
    let t := { t with cur := cur }
    if decide ((t.core core).wcb.length < (s.core core).wcb.length) && !(t.core core).wcb.isEmpty then
      t.push (.ntStorePerform core) else t
  | e :: rest, none =>
    match s.ownerOf core with
    | none => s.modCore core fun r => { r with wcb := rest }
    | some p =>
      let u := s.modCore core fun r => { r with wcb := rest }
      let fail := fun (kind sub : Nat) => (u.note p e.ctx ⟨kind, sub, detT e.tensor.toNat e.slot e.tile e.offset, false⟩).raiseLine p 1
      match s.ntPlace p e with
      | .error .absent => s.recordMiss p e.ctx (some core) (strandFin e.strand).val e.pc e.word (strandFin e.strand).val 1 e.tensor.toNat e.slot e.tile e.offset
      | .error .poison => fail kPoison 0
      | .error .writeprot => fail kWriteprot 0
      | .error .bounds => fail kTensor 2
      | .error _ => fail kTensor 5
      | .ok (.inl pa) => if s.heldFrame pa then s.startInvalidate pa else u.bankWrite pa e.bytes
      | .ok (.inr (pkg, pa)) =>
        if s.fabric.packages ≤ pkg then (u.note p e.ctx ⟨kFscope, 0, detPkg pkg, false⟩).raiseLine p 1
        else if 1024 ≤ s.outstanding core then s
        else u.fabricWrite core pkg 1 (.write [(pa, e.bytes)] 0) (some ⟨e.ctx, e.tensor, e.tile, e.offset, pa, none, e.slot⟩))

/-- `fabric_release_complete` (R215): visibility times that have been reached no longer hold a release. -/
def execFabricReleaseComplete (core : BitVec 7) (s : State) : Host.Outcome State Fault Refusal :=
  .next (s.modCore core fun r => { r with posted := r.posted.filter fun v => decide (s.time < v) })

/-! ### Retention -/

/-- Rows with EXP clear that a test selects, at or past an age, oldest first and then in ascending row address (R168). -/
def State.rowsAged (s : State) (age : Nat) (sel : Nat → Bool) : List Nat :=
  let rows := (s.rowLive.filter fun e => e.2 && sel (2048 * e.1) && !s.expired (2048 * e.1) && decide (age ≤ s.rowAge e.1)).map (·.1)
  sortBy (fun a b => decide (s.rowAge b < s.rowAge a) || (s.rowAge a == s.rowAge b && decide (a ≤ b))) rows

/-- The renewal point of a die (R168). -/
def State.renewPoint (s : State) (die : Nat) : Nat := if s.dieHot die then 192 else 224

/-- Rows that the lock-keeper of a core must renew (R168). -/
def State.coreDue (s : State) (core : Nat) : List Nat :=
  s.rowsAged (s.renewPoint (core / 32)) fun pa => decide (scrBase ≤ pa ∧ scrCore pa = core) && s.unitClass pa == 1

/-- Is a shared-memory number in a stripe that some partition owns (R154)? -/
def State.stripeOwned (s : State) (pa : Nat) : Bool :=
  let k := (pa - shmBase) % 2 ^ 27 / 2 ^ 19
  s.parts.toList.any fun p => (SMap.get 0 p.pstripe (stripeIdx (dieOf pa) k)).getLsbD 3

/-- Is a shared-memory number in a shadow stripe (R153)? -/
def isShadow (pa : Nat) : Bool := decide (192 ≤ (pa - shmBase) % 2 ^ 27 / 2 ^ 19)

/-- Rows that the shared-memory lock-keeper of a die must renew, from its two budgets (R169). -/
def State.shmDue (s : State) (die : Nat) : List Nat :=
  let on := fun (pa : Nat) => decide (shmBase ≤ pa ∧ pa < scrBase) && dieOf pa == die
  (s.rowsAged (s.renewPoint die) fun pa => on pa && !isShadow pa && s.stripeOwned pa).take 3072 ++
    (s.rowsAged (s.renewPoint die) fun pa => on pa && isShadow pa).take 1024

/-- `lock_keeper_renewal` (R168, R170): one microsecond's renewals of a scratchpad, 32 rows at most, with the errors that they meet. -/
def execLockKeeperRenewal (core : BitVec 7) (s : State) : Host.Outcome State Fault Refusal :=
  .next (((s.coreDue core.toNat).take 32).foldl (fun s row => s.renewRow (2048 * row) 6 58) s)

/-- `shm_lock_keeper_renewal` (R169, R170): one microsecond's renewals of a die's shared memory, with the errors that they meet. -/
def execShmLockKeeperRenewal (die : BitVec 2) (s : State) : Host.Outcome State Fault Refusal :=
  .next ((s.shmDue die.toNat).foldl (fun s row => (s.scrub (2048 * row) 2048).freshen row) s)

/-- `sweep` (R162): every row of a memory die whose age is 32,000 µs or more gets EXP. -/
def execSweep (die : BitVec 2) (s : State) : Host.Outcome State Fault Refusal :=
  .next ((s.rowLive.filter fun e => e.2 && dieOf (2048 * e.1) == die.toNat && decide (32000 ≤ s.rowAge e.1)).foldl
    (fun s e => s.expireRow e.1) s)

/-- Core cycles of so many microseconds, counted at each core whose counters select source 63, at the clock of its die (R13, R15, R93; log 46); none while
the core clock is off. -/
def State.countCycles (s : State) (us : Nat) : State :=
  if 2 ≤ s.power.ps then s
  else ((List.range 128).filter fun c => (s.core (BitVec.ofNat 7 c)).ev.sel.any fun v => v.toNat == 63).foldl (fun s c =>
    s.modCore (BitVec.ofNat 7 c) (·.count 63 (us * (4000 - 1000 * s.clockLevel (c / 32))))) s

/-- `retention_tick` (R159, R13): the next microsecond of the time-keeper begins; what is due in it follows: the lock-keepers, the
token refill of R113 each 1,000 ticks, and a sweep of every die each 16,384. The time-keeper slews by 1 ns (R49). A tick that stands behind this one
for the same microsecond goes with it; one whose microsecond has been seen does nothing. -/
def execRetentionTick (s : State) : Host.Outcome State Fault Refusal :=
  .next (
    if s.time / 1000 ≤ s.tickSeen then s
    else
    let now := s.time / 1000
    let crossed := fun (n : Nat) => decide (s.tickSeen / n < now / n)
    let keepers := ((List.range 128).filter fun c => !(s.coreDue c).isEmpty).map fun c => Instr.lockKeeperRenewal (BitVec.ofNat 7 c)
    let shm := ((List.range 4).filter fun d => !(s.shmDue d).isEmpty).map fun d => Instr.shmLockKeeperRenewal (BitVec.ofNat 2 d)
    let sweeps := if crossed 16384 then (List.range 4).map fun d => Instr.sweep (BitVec.ofNat 2 d) else []
    let refill := if crossed 1000 then [Instr.tokenRefill] else []
    let f := { s.fabric with offset := s.fabric.offset - s.fabric.offset.sign }
    let s := s.countCycles (now - s.tickSeen)
    { s with tickSeen := now, fabric := f, agenda := s.agenda.filter (· != .retentionTick) ++ keepers ++ shm ++ sweeps ++ refill })

/-! ### The patrol scrub -/

/-- `hbm_patrol_scrub` (R18, R87): the patrol reads the next block. The time between two blocks is not modelled. -/
def execHbmPatrolScrub (ecc : Ecc) (s : State) : Host.Outcome State Fault Refusal :=
  .next (
    let pa := s.power.scrubAt
    let pw := { s.power with scrubAt := (pa + 64) % shmBase }
    (({ s with power := pw } : State).scrub pa 64).scrubFound pa ecc)

/-! ### Faults of the I/O die -/

/-- Partitions that firmware has defined. -/
def State.defined (s : State) : List (BitVec 5) :=
  ((List.range 32).map fun p => BitVec.ofNat 5 p).filter fun p => (s.part p).pquads != 0 || (s.part p).bound != 0

/-- A device-wide fatal fault (R16, R87): every partition halts, with a fatal record in its reserved slot. -/
def State.deviceFatal (s : State) (f : FaultInfo) : State :=
  s.defined.foldl (fun s p => s.fatalRecord p (faultRec 3 f (s.part p).runctx none 7 s.time 0 0)) s

/-- `iodie_fault` (R87, R238). -/
def execIodieFault (sub : BitVec 3) (s : State) : Host.Outcome State Fault Refusal :=
  .next (s.deviceFatal ⟨33, sub.toNat, 0, false⟩)

end Sys2Proof.Machine
end

