-- ==== Sys2Proof/Machine/Migration.lean ====
section
/-! DEFINITION. Migration and read duplication (R225 to R229), step by step. -/

namespace Sys2Proof.Machine

/-- The tile of a migration. -/
structure MigTile where
  d    : Desc
  e    : BitVec 64
  src  : Option Nat
  deriving DecidableEq, Repr

/-- The descriptor of a migration's tensor: its core's crew goes by its own copy (R141). -/
def State.migBits (s : State) (p : BitVec 5) (g : Migr) : Option (BitVec 512) :=
  match g.core with
  | some c => s.bitsFor c p g.ctx g.tensor.toNat
  | none => s.descBits p g.ctx g.tensor.toNat

/-- The tile that a migration names, with the place of its source on this package if it is here. -/
def State.migTile (s : State) (p : BitVec 5) (g : Migr) : Option MigTile :=
  match s.migBits p g with
  | none => none
  | some b =>
    let d := Desc.ofBits b
    let e := s.tileEntry d g.tile
    let src := if !e.getLsbD 0 then none else match s.locate p g.ctx e (d.tileBytes == 65536) 0 with
      | .here pa => some pa
      | _ => none
    some ⟨d, e, src⟩

/-- The 16 KiB frames of a tile at a place. -/
def framesAt (pa bytes : Nat) : List Nat := (List.range (bytes / 16384)).map (pa / 16384 + ·)

/-- Retired frames are in use again once an entry leads there (R225, R226). -/
def State.reuse (s : State) (pa bytes : Nat) : State :=
  { s with frames := s.frames.filter (fun (f : Nat × Nat × List Nat) => !(f.2.1 == 2 && (framesAt pa bytes).contains f.1)) }

/-- Sets the state and sharers of the frames of a tile (R225, R228): 0 normal, 1 MIGRATING, 2 retired. -/
def State.setFrames (s : State) (pa bytes st : Nat) (sharers : List Nat) : State :=
  let fs := framesAt pa bytes
  let rest := s.frames.filter fun f => !fs.contains f.1
  { s with frames := if st = 0 ∧ sharers = [] then rest else (fs.map fun f => (f, st, sharers)) ++ rest }

/-- Notes which tile the copies of its frames are of (R228, R229). -/
def State.setDups (s : State) (pa bytes : Nat) (part : BitVec 5) (tensor : BitVec 12) (tile : Nat) : State :=
  let fs := framesAt pa bytes
  { s with dups := fs.map (fun (i : Nat) => (i, part, tensor, tile)) ++ s.dups.filter (fun (x : Nat × BitVec 5 × BitVec 12 × Nat) => !fs.contains x.1) }

/-- A package's list of sharers with one more. -/
def withSharer (sharers : List Nat) (pkg : Nat) : List Nat := if sharers.contains pkg then sharers else pkg :: sharers

/-- The entry that a migration writes: present, writable as before, not a copy (R225), or a read copy (R228). -/
def Migr.entry (g : Migr) (old : BitVec 64) (dup : Bool) : BitVec 64 :=
  BitVec.ofNat 64 (1 + (if dup then 4 else fld old 1 1 * 2) + g.loc.toNat * 2 ^ 4 + g.pkg.toNat * 2 ^ 16 + g.frame.toNat * 2 ^ 32)

/-- Changes the first migration of a partition. -/
def State.modMig (s : State) (p : BitVec 5) (f : Migr → Migr) : State :=
  s.modPart p fun t => { t with migrs := match t.migrs with
    | [] => []
    | g :: r => f g :: r }

/-- Ends the first migration: held-back writes of its tile replay (R226). -/
def State.endMig (s : State) (p : BitVec 5) (g : Migr) : State :=
  let s := s.modPart p fun t => { t with migrs := t.migrs.drop 1 }
  ((s.part p).cores.foldl (fun s c => s.replayCore c fun e => e.hits g.ctx g.tensor (some g.tile) && !e.defer) s).kickHost

/-- Where the source of a tile lies on another package of the domain (R225). -/
def State.farSource (s : State) (p : BitVec 5) (g : Migr) (t : MigTile) : Option (Nat × Nat) :=
  if !t.e.getLsbD 0 then none else match s.locate p g.ctx t.e (t.d.tileBytes == 65536) 0 with
  | .far pkg pa => if pkg < s.fabric.packages then some (pkg, pa) else none
  | _ => none

/-- Asks the home of a tile's frames on another package for a change of their state (R225, R228): 0 normal, 1 MIGRATING, 2 retired, 3 a new sharer, 4 whether
the sharer is listed, 5 back in use, 6 the sharer's copy invalidated. -/
def Migr.frameAsk (g : Migr) (p : BitVec 5) (bytes pa act tag : Nat) : PktBody := .frame pa bytes act g.pkg p g.tensor g.tile tag

/-- Tells the home of a tile's frames on another package their state; nothing waits for the answer. -/
def State.tellFrames (s : State) (p : BitVec 5) (g : Migr) (t : MigTile) (pkg pa act : Nat) : State :=
  s.sendPkt (s.fabric.posOf pkg) (s.pkt 0 0 false (s.fabric.posOf pkg) (g.core.getD 0) 0 (g.frameAsk p t.d.tileBytes pa act 0))

/-- MIGRATE_ABORT (R227): the source frame returns to its normal state, a sharer that was listed for the copy goes, and the record is written. -/
def State.abortMig (s : State) (p : BitVec 5) (g : Migr) (reason : Nat) : State :=
  let s := match s.migTile p g with
    | some ⟨d, _, some pa⟩ => if (s.frameState pa).1 = 1 then s.setFrames pa d.tileBytes 0 (s.frameState pa).2 else s
    | some t => match s.farSource p g t with
      | some (pkg, pa) => if g.step < 2 then s else s.tellFrames p g t pkg pa (if g.op = 0 then 0 else 6)
      | none => s
    | none => s
  let s := s.note p g.ctx ⟨24, reason, detT g.tensor.toNat 0 g.tile 0, false⟩
  s.endMig p g

/-- Reads the blocks of a tile in order, each once: the data, or the reason to abort. -/
def State.readTile (s : State) (pa bytes : Nat) : State × Except Nat (List (Nat × List Byte)) :=
  let (t, xs) := (List.range (bytes / 64)).foldl (fun (a : State × List (Nat × Found)) i =>
    let (s, f) := a.1.bankRead (pa + 64 * i) 64
    (s, a.2 ++ [(i, f)])) (s, [])
  let good := xs.filterMap fun x => match x.2 with
    | .data bs => some (x.1, bs)
    | _ => none
  if good.length = xs.length then (t, .ok good)
  else if xs.all fun x => x.2 == .poison then (t, .error 2)
  else (t, .error 1)

/-- Payload flits of an answer: the data that it returns (R26). -/
def pktData : PktBody → Nat
  | .data _ v => Nat.min 8 ((v.length + 63) / 64)
  | _ => 0

/-- A message to a package from a unit that is no core (R26): SRCNONCORE set. -/
def State.unitPkt (s : State) (cls : Nat) (pos : Nat × Nat × Nat) (body : PktBody) : Packet :=
  let p := s.pkt (pktData body) cls false pos 0 0 body
  { p with hdr := p.hdr ||| (1 <<< 112) }

/-- Tells every other package of the domain to drop a key (R225). -/
def State.dropEverywhere (s : State) (p : BitVec 5) (g : Migr) : State :=
  let s := s.dropKey p g.ctx g.tensor (some g.tile)
  (List.range s.fabric.packages).foldl (fun s i =>
    if i = s.fabric.index then s
    else s.sendPkt (s.fabric.posOf i) (s.unitPkt 3 (s.fabric.posOf i) (.invalidate p g.tensor g.tile 0xFFFFFFFF))) s

/-- Writes the blocks of a tile at a place (R225): on this package, or as fabric-scope packets of eight blocks. -/
def State.writeTile (s : State) (core : BitVec 7) (place : Place) (xs : List (Nat × List Byte)) : State :=
  match place with
  | .here pa => xs.foldl (fun s x => s.bankWrite (pa + 64 * x.1) x.2) s
  | .far pkg pa => (List.range ((xs.length + 7) / 8)).foldl (fun s i =>
      let part := (xs.drop (8 * i)).take 8
      s.fabricWrite core pkg part.length (.write (part.map fun x => (pa + 64 * x.1, x.2)) 0)) s
  | _ => s

/-- A request of a migration to another package, known by a number (R225): sent once; its answer, when it has come, is taken. -/
def State.migCall (s : State) (g : Migr) (pkg key : Nat) (body : Nat → PktBody) : State × Option PktBody :=
  let core := g.core.getD 0
  let key := 2 ^ 66 + key
  match s.waits.find? fun w => w.core == core && w.off == key with
  | none =>
    let pos := s.fabric.posOf pkg
    let pk := s.pkt 0 0 false pos core s.windowNow (body s.nextTag)
    let rq : FarReq := { tag := s.nextTag, core := core, strand := .s, seq := 0xFFFFFFFF, off := key, body := pk }
    (({ s with nextTag := s.nextTag + 1, waits := rq :: s.waits } : State).fromCore core.toNat pk, none)
  | some w => match w.answer with
    | none | some (.refusal _ _) => (s, none)
    | some b => ({ s with waits := s.waits.filter fun v => v.tag != w.tag }, some b)

/-- The copy of a tile from another package (R225): one block more; the state, and once all have been read the data, or the reason to abort. -/
def State.readFar (s : State) (p : BitVec 5) (g : Migr) (pkg pa bytes : Nat) : State × Option (Except Nat (List (Nat × List Byte))) :=
  let i := g.got.length / 64
  if bytes ≤ g.got.length then
    (s, some (if g.bad = 0 then .ok ((List.range (bytes / 64)).map fun k => (k, (g.got.drop (64 * k)).take 64))
      else .error (if g.bad = bytes / 64 then 2 else 1)))
  else match s.migCall g pkg (16 + i) (fun tag => .read (pa + 64 * i) 64 tag) with
    | (t, some (.data _ v)) => (t.modMig p fun g => { g with got := g.got ++ v }, none)
    | (t, some _) => (t.modMig p fun g => { g with got := g.got ++ List.replicate 64 0, bad := g.bad + 1 }, none)
    | (t, none) => (t, none)

/-- Where the destination of a migration lies. -/
def State.migDest (s : State) (p : BitVec 5) (g : Migr) (t : MigTile) : Place :=
  s.locate p g.ctx (g.entry t.e false) (t.d.tileBytes == 65536) 0

/-- Is a place of this package one of the partition's own stripes or cores (R459)? Of HBM frames see log 111. -/
def State.ownPlace (s : State) (p : BitVec 5) (ctx : BitVec 3) (pa : Nat) : Bool :=
  if pa < shmBase then true
  else if pa < scrBase then (s.part p).ownsStripe ctx (dieOf pa) ((pa - shmBase) % 2 ^ 27 / 2 ^ 19)
  else (s.part p).ownsCore (scrCore pa)

/-- Does a tile fit the partition's quota of HBM frames or of shared-memory units (R86, R154, R227), beside what it has in use? -/
def State.quotaFits (s : State) (p : BitVec 5) (pa bytes : Nat) : Bool :=
  if pa < shmBase then (s.hbmFrames p).contains (pa / 65536) || decide ((s.hbmFrames p).length < (s.part p).pframes.toNat)
  else if pa < scrBase then
    let used := s.shmUnits p (dieOf pa)
    decide (used.length + ((framesAt pa bytes).filter fun u => !used.contains u).length ≤ fld (s.part p).pshm (16 * dieOf pa) 16)
  else true

/-- Is the destination of a migration one that may hold the tile (R227, R459)? What another package's partitions own is not this package's to check. -/
def State.migFits (s : State) (p : BitVec 5) (g : Migr) (t : MigTile) : Bool :=
  match s.migDest p g t with
  | .bad | .unmapped | .revoked _ _ _ => false
  | .far pkg _ => decide (pkg < s.fabric.packages)
  | .here q => s.ownPlace p g.ctx q && s.quotaFits p q t.d.tileBytes && decide (t.src ≠ some q)

/-- Makes the destination of a migration ready: frames retired there are in use again (R225, R226). Says whether that is done. -/
def State.readyDest (s : State) (p : BitVec 5) (g : Migr) (t : MigTile) : State × Bool :=
  match s.migDest p g t with
  | .here q => (s.reuse q t.d.tileBytes, true)
  | .far pkg q => match s.migCall g pkg 5 fun tag => g.frameAsk p t.d.tileBytes q 5 tag with
    | (u, some _) => (u, true)
    | (u, none) => (u, false)
  | _ => (s, true)

/-- The entry of a migrated tile is written, on the package of the copy for a duplicate, and the key leaves the caches (R225, R228). -/
def State.putEntry (s : State) (p : BitVec 5) (g : Migr) (t : MigTile) : State :=
  let n := bvBytes 8 (g.entry t.e (g.op == 1))
  let at_ := t.d.ttptr + 8 * g.tile
  if g.op = 0 then (s.bankWrite at_ n).dropEverywhere p g
  else if g.pkg.toNat = s.fabric.index then (s.bankWrite at_ n).dropKey p g.ctx g.tensor (some g.tile)
  else s.fabricWrite (g.core.getD 0) g.pkg.toNat 1 (.write [(at_, n)] 0)

/-- Packages that had copies of a moved tile have copies of it at its new place (R228). -/
def State.keepSharers (s : State) (p : BitVec 5) (g : Migr) (t : MigTile) (sharers : List Nat) : State :=
  match s.migDest p g t with
  | .here q => if sharers.isEmpty then s else (s.setFrames q t.d.tileBytes 0 sharers).setDups q t.d.tileBytes p g.tensor g.tile
  | .far pkg q => sharers.foldl (fun s x => s.tellFrames p { g with pkg := BitVec.ofNat 9 x } t pkg q 3) s
  | _ => s

/-- A duplication has ended: writes to its frames that it held up ask for the copies (R229). -/
def State.endDup (s : State) (p : BitVec 5) (g : Migr) (pa bytes : Nat) : State :=
  let s : State := { s.endMig p g with dev := s.dev.map fun (r : DevReq) => { r with asked := false } }
  let waits := (List.range 128).any fun i =>
    let c := BitVec.ofNat 7 i
    (s.core c).slog.any fun e => e.defer && (match s.slogBlock c e with
      | some (none, b) => (framesAt pa bytes).contains (b / 256)
      | _ => false)
  if waits then s.push (.invalidate p g.tensor g.tile) else s

/-- The next step of a migration whose source lies on another package (R225, R228): the destination is made ready; the frames there are marked, or take a
sharer; the blocks are read and written; the entry is written, once what was posted is visible; the source is retired. A copy on a third package is
looked at once more: one that was asked for meanwhile is made again. -/
def State.migFar (s : State) (p : BitVec 5) (g : Migr) (t : MigTile) (pkg pa : Nat) : State :=
  let next := fun (s : State) => s.modMig p fun g => { g with step := g.step + 1 }
  let frame := fun (act : Nat) => s.migCall g pkg act fun tag => g.frameAsk p t.d.tileBytes pa act tag
  match g.op, g.step with
  | 2, 0 => match frame 6 with
    | (u, some _) => next u
    | (u, none) => u
  | 2, _ => match frame 4 with
    | (u, some (.badTarget _ _ _)) => u.endMig p g
    | (u, _) => u
  | _, 0 =>
    if !s.migFits p g t || t.e.getLsbD 3 then s.abortMig p g (if t.e.getLsbD 3 then 2 else 3)
    else match s.readyDest p g t with
      | (u, true) => next u
      | (u, false) => u
  | op, 1 => match frame (if op = 0 then 1 else 3) with
    | (u, some (.data _ v)) => next (u.modMig p fun g => { g with shar := (List.range (v.length / 2)).map fun i => leNat ((v.drop (2 * i)).take 2) })
    | (u, some (.ack _)) => next u
    | (u, some _) => u.abortMig p g 3
    | (u, none) => u
  | _, 2 => match s.readFar p g pkg pa t.d.tileBytes with
    | (u, some (.ok xs)) => next (u.writeTile (g.core.getD 0) (u.migDest p g t) xs)
    | (u, some (.error r)) => u.abortMig p g r
    | (u, none) => u
  | 0, _ =>
    if s.posting (g.core.getD 0) then s
    else (((s.putEntry p g t).keepSharers p g t g.shar).tellFrames p g t pkg pa 2).endMig p g
  | _, 3 =>
    if s.posting (g.core.getD 0) then s
    else
      let s := s.putEntry p g t
      if g.pkg.toNat = s.fabric.index then s.endMig p g else next s
  | _, _ =>
    if s.posting (g.core.getD 0) then s
    else match frame 4 with
      | (u, some (.ack _)) => u.endMig p g
      | (u, some _) => (u.fabricWrite (g.core.getD 0) g.pkg.toNat 1 (.write [(t.d.ttptr + 8 * g.tile, bvBytes 8 t.e)] 0)).modMig p fun g =>
          { g with step := 1, got := [], bad := 0 }
      | (u, none) => u

/-- The next step of a migration whose source lies on this package (R225 to R229). -/
def State.migHere (s : State) (p : BitVec 5) (g : Migr) (t : MigTile) (pa : Nat) : State :=
  let next := fun (s : State) => s.modMig p fun g => { g with step := g.step + 1 }
  let sh := (s.frameState pa).2
  let by_ := g.core.getD 0
  let bytes := t.d.tileBytes
  match g.op, g.step with
  | 2, 0 =>
    if !sh.contains g.pkg.toNat then s.endMig p g
    else
      let pos := s.fabric.posOf g.pkg.toNat
      next (s.sendPkt pos (s.unitPkt 3 pos (.invalidate p g.tensor g.tile (BitVec.ofNat 32 (pa / 16384)))))
  | 2, _ => if sh.contains g.pkg.toNat then s else s.endMig p g
  | op, 0 =>
    let dup := g.loc == 0 && t.d.dupok && decide (g.pkg.toNat < s.fabric.packages) && (sh.contains g.pkg.toNat || decide (sh.length < 3))
    if t.e.getLsbD 3 then s.abortMig p g 2
    else if !s.migFits p g t || (op == 1 && !dup) then s.abortMig p g 3
    else match s.readyDest p g t with
      | (u, true) => next (if op = 0 then u.flushPieces.setFrames pa bytes 1 sh else u)
      | (u, false) => u
  | op, 1 =>
    if t.e.getLsbD 3 then s.abortMig p g 2
    else match (if op = 1 then s.flushPieces else s).readTile pa bytes with
      | (u, .error r) => u.abortMig p g r
      | (u, .ok xs) =>
        let u := u.writeTile by_ (u.migDest p g t) xs
        next (if op = 0 then u else (u.setFrames pa bytes 0 (withSharer sh g.pkg.toNat)).setDups pa bytes p g.tensor g.tile)
  | 0, _ => if s.posting by_ then s else ((((s.putEntry p g t).setFrames pa bytes 2 []).keepSharers p g t sh)).endMig p g
  | _, 2 => if s.posting by_ then s else next (s.putEntry p g t)
  | _, _ => if s.posting by_ then s else s.endDup p g pa bytes

/-- `migration` (R225 to R228): the next step of the partition's first migration. -/
def execMigration (part : BitVec 5) (s : State) : Host.Outcome State Fault Refusal :=
  .next (match (s.part part).migrs with
  | [] => s
  | g :: _ => match s.migTile part g with
    | none => s.abortMig part g 2
    | some t => match t.src with
      | some pa => s.migHere part g t pa
      | none => match s.farSource part g t with
        | some (pkg, pa) => s.migFar part g t pkg pa
        | none => s.abortMig part g 2)

/-- Is a copy of a frame of this package being made from here? Its sharers are asked once it stands (R228, R229). -/
def State.copying (s : State) (pa : Nat) : Bool :=
  (List.range 32).any fun i =>
    let p := BitVec.ofNat 5 i
    match (s.part p).migrs.head? with
    | some g => g.op == 1 && decide (0 < g.step) && (match (s.migTile p g).bind (·.src) with
      | some q => q / 16384 == pa / 16384
      | none => false)
    | none => false

/-- `invalidate` (R229): the home asks every sharer of a tile's frame to drop its copy. -/
def execInvalidate (part : BitVec 5) (tensor : BitVec 12) (tile : Nat) (s : State) : Host.Outcome State Fault Refusal :=
  let ctx := (s.part part).runctx
  .next (match s.migTile part ⟨ctx, tensor, tile, 2, 0, 0, 0, none, 0, [], 0, []⟩ with
  | some ⟨_, _, some pa⟩ => if s.copying pa then s else (s.frameState pa).2.foldl (fun s pkg =>
      let pos := s.fabric.posOf pkg
      s.sendPkt pos (s.unitPkt 3 pos (.invalidate part tensor tile (BitVec.ofNat 32 (pa / 16384))))) s
  | _ => s)

/-- The frames of the tile that a frame belongs to: all that are noted for its copies (R229). -/
def State.tileFrames (s : State) (frame : Nat) : List Nat :=
  match s.dups.find? (·.1 == frame) with
  | some x => (s.dups.filter fun y => y.2 == x.2).map (·.1)
  | none => [frame]

/-- `invalidate_ack` (R229): a sharer has dropped its copy; after the last one every deferring core is notified. -/
def execInvalidateAck (pkg : BitVec 9) (frame : BitVec 32) (s : State) : Host.Outcome State Fault Refusal :=
  .next (
    let fs := s.tileFrames frame.toNat
    let drop := fun (f : Nat × Nat × List Nat) => if fs.contains f.1 then (f.1, f.2.1, f.2.2.filter (· != pkg.toNat)) else f
    let s := { s with frames := (s.frames.map drop).filter fun f => f.2.1 != 0 || !f.2.2.isEmpty }
    if (s.frameState (frame.toNat * 16384)).2.isEmpty then
      let cs := ((List.range 128).map fun c => BitVec.ofNat 7 c).filter fun c => (s.core c).slog.any fun e => e.defer
      ({ s with agenda := s.agenda ++ cs.map .deferReplay } : State).kickHost
    else s)

end Sys2Proof.Machine
end

