-- ==== Sys2Proof/Machine/Torus.lean ====
section
/-! DEFINITION. The torus, fabric time and windows (02_fabric.md, R41 to R56), and what a network interface or memory target does with
a packet that arrives (R27, R28, R223, R226, R229, R423, R469). -/

namespace Sys2Proof.Machine

/-! ### Torus ports -/

/-- The partition that owns the source core of a packet of this package (R27, R44). -/
def State.sourcePart (s : State) (p : Packet) : Option (BitVec 5) :=
  let own : Bool := match p.body with
    | .outside x y z _ => decide (s.fabric.pos = (x, y, z))
    | _ => decide (pktField p 113 1 = 0 ∧ pktField p 96 9 = s.fabric.index)
  if own && pktField p 112 1 == 0 then s.ownerOf (BitVec.ofNat 7 (pktField p 105 7)) else none

/-- A record of a kind for the source of a packet: of its partition, or in the I/O die error log. The log also takes what R27 and R44 give no place:
a LINK_DOWN whose source is another package, and either record where the source is no core (DESIGN CHOICE, log 106). -/
def State.notePkt (s : State) (p : Packet) (kind : Nat) (det : BitVec 320) : State :=
  match s.sourcePart p with
  | some q => s.note q (s.part q).runctx ⟨kind, 0, det, false⟩
  | none => s.logErr kind det.toNat

/-! ### Input ports (R42, R43) -/

/-- How a packet from some coordinates to others reaches this package in dimension order (R42): the input port, and whether it has crossed the
dateline of the dimension of its last hop. -/
def Fabric.arrival (f : Fabric) (src dst : Nat × Nat × Nat) : Nat × Bool :=
  let last := fun (dim a b d n : Nat) =>
    let up := (hops a d n).2
    (2 * dim + (if up then 1 else 0), if up then decide (b < a) else decide (a < b))
  if f.pos.2.2 ≠ src.2.2 then last 2 src.2.2 f.pos.2.2 dst.2.2 f.size.2.2
  else if f.pos.2.1 ≠ src.2.1 then last 1 src.2.1 f.pos.2.1 dst.2.1 f.size.2.1
  else last 0 src.1 f.pos.1 dst.1 f.size.1

/-- Coordinates of the package a packet comes from (R26; log 51). -/
def Fabric.srcPos (f : Fabric) (p : Packet) : Nat × Nat × Nat :=
  match p.body with
  | .outside x y z _ => (x, y, z)
  | _ => f.posOf (pktField p 96 9)

/-- Is it a control flit (R26)? -/
def isCtl (p : Packet) : Bool := decide (pktField p 6 2 = 3)

/-- Flits of a transit packet that have yet to leave this package. -/
def State.flitsLeft (s : State) (p : Packet) : Nat :=
  (s.ports.toList.findSome? fun t => match t.onLine with
    | some (q, k) => if q = p then some k else none
    | none => none).getD (pktLen p + 1)

/-- Free shared slots of an input port (R34, R43). -/
def State.inFree (s : State) (i : Nat) : Nat :=
  192 - sumL (((s.ports.toList.getD i {}).slots.filter fun e => !e.2.2 && !isCtl e.1).map fun e => s.flitsLeft e.1)

/-- Where a packet in transit is admitted at an input port: the shared pool, or the free escape channel of its VC (true), or not yet (R34, R43); a control
flit takes one of two slots of its own. -/
def State.admitIn (s : State) (i : Nat) (p : Packet) (vc1 : Bool) : Option Bool :=
  let l := (s.ports.toList.getD i {}).slots
  if isCtl p then (if (l.filter fun e => isCtl e.1).length < 2 then some false else none)
  else if pktLen p + 1 ≤ s.inFree i then some false
  else if l.any fun e => e.2.2 && e.2.1 == vc1 then none
  else some true

/-- A packet in transit reaches an input port: admitted, it waits for the line of its next hop; else it waits at the neighbour. -/
def State.takeIn (s : State) (i : Nat) (e : Packet × Bool) : State :=
  match s.admitIn i e.1 e.2, s.fabric.egress (pktPos e.1) with
  | some esc, some out =>
    (s.modPort i fun t => { t with slots := t.slots ++ [(e.1, e.2, esc)] }).modPort out fun t =>
      if isCtl e.1 then { t with ctl := t.ctl ++ [e.1] } else { t with through := t.through ++ [e.1] }
  | _, _ => s.modPort i fun t => { t with heads := t.heads ++ [e] }

/-- Slots of packets that have left are free again, and heads that waited for them are tried in order (R34). -/
def State.settleIn (s : State) : State :=
  let here := s.ports.toList.flatMap fun t => t.ctl ++ t.through ++ t.onLine.toList.map (·.1)
  let s : State := { s with ports := s.ports.map fun (t : TorusPort) => { t with slots := t.slots.filter fun e => here.contains e.1 } }
  (List.range 6).foldl (fun (s : State) i =>
    (s.ports.toList.getD i {}).heads.foldl (fun s e => s.takeIn i e) (s.modPort i fun t => { t with heads := [] })) s

/-- All packets that a port holds for the line are discarded with LINK_DOWN records (R44). -/
def State.discardPort (s : State) (i : Nat) : State :=
  let t := s.ports.toList.getD i {}
  let ps := (t.onLine.toList.map (·.1)) ++ t.through ++ t.queue ++ t.ctl
  (ps.foldl (fun s p => s.notePkt p 23 (BitVec.ofNat 320 i))
    (s.modPort i fun t => { t with queue := [], through := [], ctl := [], onLine := none })).settleIn

/-- The next packet of a list of waiting ones: a CLASS 2 message lets fabric-scope writes pass (R53). -/
def nextOut (l : List Packet) : Option Packet :=
  match l with
  | [] => none
  | p :: r => if pktField p 6 2 = 2 then some ((r.find? fun q => pktField q 8 1 == 1).getD p) else some p

/-- The packet that takes the line next: in transit and local injection in turn (R35, R43); a fabric-scope write of either side passes a CLASS 2
message of the other (R53). -/
def TorusPort.choose (t : TorusPort) : Option (Bool × Packet) :=
  let l := (nextOut t.queue).map fun p => (true, p)
  let r := (nextOut t.through).map fun p => (false, p)
  match if t.turn then r.or l else l.or r with
  | none => none
  | some (own, p) =>
    if pktField p 6 2 = 2 then
      some (((if own then t.through else t.queue).find? fun q => pktField q 8 1 == 1).elim (own, p) fun q => (!own, q))
    else some (own, p)

/-- A sync flit that leaves is corrected for its residence (R47): while it waits its time is held relative to this time-keeper's. -/
def pktStamp (p : Packet) (f : Nat → Nat) : Packet :=
  match p.body with
  | .sync t => { p with body := .sync (f t % 2 ^ 64) }
  | .outside x y z (.sync t) => { p with body := .outside x y z (.sync (f t % 2 ^ 64)) }
  | _ => p

/-- A packet's last flit goes over the line: it is kept for replay among the last 512 flits (R44). -/
def TorusPort.finish (t : TorusPort) (p : Packet) : TorusPort :=
  { t with sent := t.sent + 1, replay := (t.replay.filter fun e => decide (t.sent + 1 < e.1 + 512)) ++ [(t.sent + 1, p)] }

/-- One flit moves to the line (R41, R43): control flits first, then the packet that holds the line, then the next packet. -/
def TorusPort.flit (now : Nat) (a : TorusPort × List Packet) : TorusPort × List Packet :=
  let t := a.1
  match t.ctl with
  | p :: r =>
    let p := pktStamp p (· + now)
    (({ t with ctl := r } : TorusPort).finish p, a.2 ++ [p])
  | [] =>
    let go := fun (t : TorusPort) (p : Packet) (k : Nat) =>
      if k ≤ 1 then (({ t with onLine := none } : TorusPort).finish p, a.2 ++ [p])
      else ({ t with onLine := some (p, k - 1), sent := t.sent + 1 }, a.2)
    match t.onLine with
    | some (p, k) => go t p k
    | none =>
      match t.choose with
      | some (true, p) => go { t with queue := t.queue.erase p, turn := true } p (pktLen p + 1)
      | some (false, p) => go { t with through := t.through.erase p, turn := false } p (pktLen p + 1)
      | none => a

/-- `torus_flit_transfer` (R41 to R44): up to four flits go over the line; a port that is down discards what is queued to it, and so does one that
was never brought up (DESIGN CHOICE, log 106). -/
def execTorusFlitTransfer (port : BitVec 3) (s : State) : Host.Outcome State Fault Refusal :=
  .next (match s.ports.toList[port.toNat]? with
  | none => s
  | some t =>
    if t.training then s
    else if t.down || !t.up then s.discardPort port.toNat
    else
      let (t', out) := iter 4 (TorusPort.flit s.time) (t, [])
      ({ s.modPort port.toNat fun _ => t' with outbox := s.outbox ++ out } : State).settleIn)

/-- Packets of a port's replay store from a flit on, in their original order (R44). -/
def TorusPort.resend (t : TorusPort) (flit : Nat) : List Packet := (t.replay.filter fun e => decide (flit < e.1)).map (·.2)

/-- `replay_request` (R44): the flit sent `back` flits ago failed at the receiver; it and all after it are sent again. After
16 failed replays of one flit the link retrains. -/
def execReplayRequest (port : BitVec 3) (back : Nat) (s : State) : Host.Outcome State Fault Refusal :=
  .next (match s.ports.toList[port.toNat]? with
  | none => s
  | some t =>
    if back = 0 ∨ 512 < back ∨ t.sent < back ∨ t.training ∨ t.down then s
    else
      let at_ := t.sent - back
      let n := if t.failAt = at_ then t.replays + 1 else 1
      let s := s.modPort port.toNat fun t => { t with failAt := at_, replays := n, training := decide (16 < n) }
      if 16 < n then s else { s with outbox := s.outbox ++ t.resend at_ })

/-- `link_retrain_end` (R44): traffic resumes from the failed flit, or the port is marked down and what is queued to it is discarded, with what
the receiver has not taken from the failed flit on. -/
def execLinkRetrainEnd (port : BitVec 3) (ok : Bool) (s : State) : Host.Outcome State Fault Refusal :=
  .next (match s.ports.toList[port.toNat]? with
  | none => s
  | some t =>
    if !t.training then s
    else if ok then
      let s := s.modPort port.toNat fun t => { t with training := false, replays := 0 }
      { s with outbox := s.outbox ++ t.resend t.failAt }
    else ((t.resend t.failAt).foldl (fun s p => s.notePkt p 23 (BitVec.ofNat 320 port.toNat))
      (s.modPort port.toNat fun t => { t with training := false, down := true })).discardPort port.toNat)

/-! ### Bring-up, time and windows -/

/-- The greatest number of hops in one dimension of a domain (R42, R53). -/
def farthest (d n : Nat) : Nat := ((List.range d).map fun k => (hops 0 k n).1).foldl max 0

/-- HMAX of a domain (R53). -/
def hopMax (dom size : Nat × Nat × Nat) : Nat := farthest dom.1 size.1 + farthest dom.2.1 size.2.1 + farthest dom.2.2 size.2.2

/-- The transit bound of a domain in nanoseconds (R53). -/
def transitBound (dom size : Nat × Nat × Nat) : Nat := 110 + 20 * hopMax dom size

/-- Are coordinates, sizes and the domain box within R41 and R45, with this package inside the box? -/
def bringUpOk (b : BringUp) : Bool :=
  let dim := fun (v n o d : Nat) => decide (1 ≤ n ∧ n ≤ 32 ∧ v < n ∧ o < n ∧ 1 ≤ d ∧ d ≤ 8 ∧ d ≤ n ∧ (v + n - o) % n < d)
  dim b.x b.nx b.ox b.dx && dim b.y b.ny b.oy b.dy && dim b.z b.nz b.oz b.dz

/-- `fabric_bring_up` (R41, R44, R45, R49, R53): coordinates, torus size, domain and ports; a package with no port in use stands alone. A set-up
whose transit bound exceeds the window in force, or one that waits to be in force, is not accepted. The time-keeper may step once, before any partition is defined. -/
def execFabricBringUp (b : BringUp) (s : State) : Host.Outcome State Fault Refusal :=
  let alone := b.ports = 0
  let f : Fabric := { s.fabric with
    pos := if alone then (0, 0, 0) else (b.x, b.y, b.z), size := if alone then (1, 1, 1) else (b.nx, b.ny, b.nz)
    domOrg := if alone then (0, 0, 0) else (b.ox, b.oy, b.oz), domSize := if alone then (1, 1, 1) else (b.dx, b.dy, b.dz)
    master := alone || b.master }
  let short := fun (wexp : BitVec 3) => decide (250 * 2 ^ wexp.toNat < transitBound f.domSize f.size)
  .next (if !alone && (!bringUpOk b || short (s.fabric.at_ s.time).wexp || short ((s.fabric.at_ s.time).pending.getD (0, (s.fabric.at_ s.time).wexp)).2) then s
  else
    let s := { s with fabric := f, ports := Vector.ofFn fun i => { s.ports[i] with up := b.ports.getLsbD i.val, down := false, training := false } }
    match b.timeStep with
    | some t => if s.fabric.stepped || !s.defined.isEmpty then s
      else { s with time := t, tickSeen := t / 1000, agenda := s.agenda.filter (fun i => i != .retentionTick && i != .windowBoundary), fabric := { s.fabric with stepped := true, lastSync := t } }
    | none => s)

/-- Packages of the torus other than this one. -/
def Fabric.others (f : Fabric) : List (Nat × Nat × Nat) :=
  ((List.range f.size.1).flatMap fun x => (List.range f.size.2.1).flatMap fun y => (List.range f.size.2.2).map fun z => (x, y, z)).filter (· != f.pos)

/-- `sync_send` (R47): the grandmaster sends its time to every package of the torus in CLASS 3 flits. -/
def execSyncSend (s : State) : Host.Outcome State Fault Refusal :=
  .next (if !s.fabric.master then s
  else s.fabric.others.foldl (fun s pos => s.sendPkt pos (s.unitPkt 3 pos (.sync 0))) { s with fabric := { s.fabric with lastSync := s.time } })

/-- `ptp_sync` (R47 to R49): a sync brings a new offset estimate, which the time-keeper removes by slewing only. HOLDOVER is set while the
estimate exceeds 25 ns and clears at the first sync within it. -/
def execPtpSync (offset : Int) (s : State) : Host.Outcome State Fault Refusal :=
  let f := { s.fabric with lastSync := s.time, offset := offset, holdover := decide (25 < offset.natAbs) }
  .next (let s := { s with fabric := f }
    if f.holdover then s else (List.range 6).foldl State.admitWaiting s.rollWindow)

/-- Is HOLDOVER due (R48)? The grandmaster keeps its own time. -/
def State.holdoverDue (s : State) : Bool :=
  !s.fabric.master && !s.fabric.holdover && (decide (s.fabric.lastSync + 10000000 ≤ s.time) || decide (25 < s.fabric.offset.natAbs))

/-- `holdover_set` (R48). -/
def execHoldoverSet (s : State) : Host.Outcome State Fault Refusal :=
  .next (if s.holdoverDue then { s with fabric := { s.fabric with holdover := true } } else s)

/-- WINCFG as it reads (R51): the fields last written. -/
def Fabric.wincfg (f : Fabric) : Word :=
  let (b, w) := f.pending.getD (f.budget, f.wexp)
  BitVec.ofNat 64 (w.toNat + b.toNat * 2 ^ 8 + if f.holdover then 2 ^ 16 else 0)

/-- `wincfg_write` (R51): the physical function writes BUDGET and WEXP; a value that is out of range leaves its field. The change waits for the
next multiple of 8 µs. -/
def execWincfgWrite (func : BitVec 6) (value : BitVec 64) (s : State) : Host.Outcome State Fault Refusal :=
  let f := s.fabric.at_ s.time
  let (b0, w0) := f.pending.getD (f.budget, f.wexp)
  let b := value.extractLsb' 8 4
  let w := value.extractLsb' 0 3
  let b' := if b = 0 ∨ 8 < b.toNat then b0 else b
  let w' := if 6 ≤ w.toNat ∨ 250 * 2 ^ w.toNat < transitBound f.domSize f.size then w0 else w
  .next (if func ≠ 0 then s
  else let s := s.rollWindow
    { s with fabric := { s.fabric with pending := some (b', w'), pendAt := (s.time / 8000 + 1) * 8000 } })

/-- `wincfg_take_effect` (R51, R54): from its multiple of 8 µs on, the new window length and budget are in force. -/
def execWincfgTakeEffect (s : State) : Host.Outcome State Fault Refusal := .next s.rollWindow

/-- Active steal domains of this package with the iterations that remain in them (R55, R107): those of the queues of running contexts in which iterations
remain; the counts of queues of one domain add up (DESIGN CHOICE, log 107). -/
def State.domains (s : State) : List (BitVec 16 × BitVec 48) :=
  let all := (List.range 32).flatMap fun p =>
    let t := s.part (BitVec.ofNat 5 p)
    let c := t.ctx t.runctx
    (c.chunks.map fun e => Chunk.ofBits e.2).filter fun k => k.conf && decide (0 < k.remain)
  ((all.map (·.sdom)).eraseDups).map fun d => (d, BitVec.ofNat 48 (min (2 ^ 48 - 1) (sumL ((all.filter (·.sdom == d)).map (·.remain)))))

/-- Sends this window's advertisements (R55): one flit on each port that is up, at most seven domains, round-robin. -/
def State.advertise (s : State) : State :=
  let ds := s.domains
  let n := ds.length
  let pick := if n ≤ 7 then ds else (List.range 7).map fun i => ds.getD ((s.fabric.advNext + i) % n) (0, 0)
  let s' := (List.range 6).foldl (fun (s : State) i =>
    let t := s.ports.toList.getD i {}
    if t.up && !t.down then
      let pos := s.fabric.neighbour i
      s.modPort i fun t => { t with ctl := t.ctl ++ [s.unitPkt 3 pos (.advert (BitVec.ofNat 32 s.fabric.window) (BitVec.ofNat 32 s.fabric.index) pick)] }
    else s) s
  { s' with fabric := { s'.fabric with advAt := s.fabric.window, advNext := if n ≤ 7 then 0 else (s.fabric.advNext + 7) % n } }

/-- `window_boundary` (R50, R52, R55): a new window: budgets start afresh, writes that waited are admitted, advertisements go out. Posted
writes that have become visible need no further care. -/
def execWindowBoundary (s : State) : Host.Outcome State Fault Refusal :=
  let s := s.rollWindow
  let s := { s with posts := s.posts.filter (fun (w : FarReq) => w.live s.time) }
  .next (if s.fabric.advAt = s.fabric.window then s else s.advertise)

/-- `advertisement_receive` (R56): the newest entry for each steal domain replaces the one kept for the neighbour. Window numbers compare as serial
numbers of 32 bits; under another window length an entry that comes is newer (DEDUCED, log 108). -/
def execAdvertisementReceive (port : BitVec 3) (window : BitVec 32) (entries : List (BitVec 16 × BitVec 48)) (s : State) :
    Host.Outcome State Fault Refusal :=
  let wexp := (s.fabric.at_ s.time).wexp
  let put := fun (l : List Advert) (e : BitVec 16 × BitVec 48) =>
    match l.find? (·.dom == e.1) with
    | some a =>
      if a.wexp = wexp ∧ (window - a.window).msb then l else ⟨e.1, e.2, window, wexp, s.time⟩ :: l.filter (·.dom != e.1)
    | none => ⟨e.1, e.2, window, wexp, s.time⟩ :: l
  .next (s.modPort port.toNat fun t => { t with adverts := (entries.filter fun e => e != (0, 0)).foldl put t.adverts })

/-! ### Packets that arrive -/

/-- Is a packet malformed (R4, R26)? -/
def pktBad (p : Packet) : Bool :=
  decide (8 < pktField p 0 4 ∨ pktField p 4 2 = 3 ∨ pktField p 9 6 ≠ 0 ∨ pktField p 57 7 ≠ 0 ∨ pktField p 114 14 ≠ 0)

/-- A remote access that faults is noted in the target package's I/O die error log, with the source package (R87). -/
def State.noteRemote (s : State) (p : Packet) (a : PktBody) : State :=
  if pktField p 113 1 = 0 ∧ pktField p 96 9 = s.fabric.index then s
  else match a with
  | .badTarget _ k _ | .lockFault _ k _ => s.logErr k (pktField p 96 9)
  | _ => s

/-- Sends an answer from the unit that the request named to where it came from (R26, R28): its package and core, or, from outside the domain, the coordinates that its payload
carries, as a CLASS 2 message (R45). -/
def State.answerTo (s : State) (p : Packet) (from_ : Option (Nat × Nat × Nat)) (body : PktBody) : State :=
  let core := pktField p 105 7
  let toCore := fun (q : Packet) =>
    let q := if pktField p 112 1 = 1 then q else { q with hdr := q.hdr &&& ~~~(0x1FFFF#128 <<< 15) ||| BitVec.ofNat 128 (core * 2 ^ 16) }
    if pktField p 15 1 = 1 then q else { q with hdr := q.hdr &&& ~~~(0xFF#128 <<< 105) ||| BitVec.ofNat 128 (pktField p 16 7 * 2 ^ 105) }
  match from_ with
  | some pos => s.sendPkt pos (toCore (s.unitPkt 2 pos body))
  | none =>
    let pkg := pktField p 96 9
    if pkg ≠ s.fabric.index then
      let pos := s.fabric.posOf pkg
      s.sendPkt pos (toCore (s.unitPkt 1 pos body))
    else
      let (x, y, z) := s.fabric.pos
      let here := pktField p 16 7
      let q : Packet := ⟨BitVec.ofNat 128 (pktData body + 2 ^ 6 + core * 2 ^ 16 + x * 2 ^ 32 + y * 2 ^ 41 + z * 2 ^ 49 + s.fabric.index * 2 ^ 96 + here * 2 ^ 105), body⟩
      if pktField p 15 1 = 0 then s.fromCore here q else s.push (.packetReceive q)

/-- The hint with which a home turns a request to a place away (R223, R226, R229); none when it may be performed. A linear-space request is translated here, by
the table as it stands: a retired frame that it leads to is in use again. -/
def State.turnAway (s : State) (pa : Nat) (write : Bool) : Option Nat :=
  match s.frameState pa with
  | (2, _) => some 1
  | (1, _) => if write then some 8 else none
  | (_, _ :: _) => if write then some 4 else none
  | _ => none

/-- The first hint of a list of places. -/
def State.turnAwayAny (s : State) (pas : List Nat) (write : Bool) : Option (Nat × Nat) :=
  pas.findSome? fun pa => (s.turnAway pa write).map fun h => (h, pa)

/-- A linear-space access fails at the target (R422, R423): the answer, and the machine after a TILE_MISS record (R219, R220). -/
def State.linFail (s : State) (part : BitVec 5) (addr tag akind : Nat) : LinErr → State × PktBody
  | .absent =>
    let tb := match s.descBits part 0 0 with
      | some b => (Desc.ofBits b).tileBytes
      | none => 16384
    (s.recordMiss part 0 none 7 0 0 4 akind 0 0 (addr / tb) (addr % tb), .refusal tag 16)
  | .away _ _ => (s, .refusal tag 16)
  | .bounds => (s, .badTarget tag kTensor 3)
  | .poison => (s, .badTarget tag kPoison 0)
  | .writeprot => (s, .badTarget tag kWriteprot 0)
  | .stale c => (s, .badTarget tag kStale c)

/-- A linear-space access of another package whose tile lies on a third: the I/O die asks there, and the request is refused with a hint until the answer
has come (log 110). -/
def State.linThird (s : State) (part : BitVec 5) (addr tag : Nat) (act : DevAct) : State × PktBody :=
  match s.devAnswer part 0 addr act with
  | some (.refusal _ _) | none => (s.devAsk opServe part 0 addr act, .refusal tag 16)
  | some a =>
    ({ s with dev := s.dev.filter fun r => !(r.op == opServe && r.part == part && r.addr == addr && decide (r.act = act)) }, match a with
      | .data _ v => .data tag v
      | .badTarget _ k c => .badTarget tag k c
      | _ => .ack tag)

/-- A fault of a lock word's count is told apart from one of the piece (R473). -/
def lockSide : PktBody → PktBody
  | .badTarget g k c => .lockFault g k c
  | b => b

/-- The count of a linear-space write of another package in the lock word that it names (R325, R423), once the write is performed (`t`); a lock word
that cannot be reached now turns the whole write away (`s`). -/
def State.lockServe (s t : State) (part : BitVec 5) (la n tag : Nat) : State × PktBody :=
  match s.linPa part 0 la 16 true with
  | .error .absent => s.linFail part la tag 2 .absent
  | .error (.away _ _) => ((t.linThird part la tag (.count n)).1, lockSide (t.linThird part la tag (.count n)).2)
  | .error e => ((t.linFail part la tag 2 e).1, lockSide (t.linFail part la tag 2 e).2)
  | .ok pa =>
    match (s.reuse pa 16384).turnAway pa true with
    | some h => (if h = 4 then s.startInvalidate pa else s, .refusal tag h)
    | none => ((t.lockAt pa (lockCounted · n)).1, match (t.lockAt pa (lockCounted · n)).2 with
      | .data _ => .ack tag
      | f => lockSide (foundBody tag f))

/-- Performs a write to linear space for another package (R422, R423), with its lock word's count (R325). A write whose count is asked of a third package
is not performed again. -/
def State.linServe (s : State) (part : BitVec 5) (addr : Nat) (bs : List Byte) (lock : Option Nat) (tag : Nat) : State × PktBody :=
  let counting := match lock with
    | some la => s.dev.any fun r => r.op == opServe && r.part == part && r.addr == la && decide (r.act = .count bs.length)
    | none => false
  let after := fun (t : State) => match lock with
    | none => (t, PktBody.ack tag)
    | some la => s.lockServe t part la bs.length tag
  if counting = true then after s
  else match s.linPa part 0 addr bs.length true with
  | .error (.away _ _) => match s.linThird part addr tag (.write bs) with
    | (t, .ack _) => match lock with
      | none => (t, .ack tag)
      | some la => t.lockServe t part la bs.length tag
    | r => r
  | .error e => s.linFail part addr tag 1 e
  | .ok pa =>
    match (s.reuse pa 16384).turnAway pa true with
    | some h => (if h = 4 then s.startInvalidate pa else s, .refusal tag h)
    | none => after ((s.reuse pa 16384).bankWrite pa bs)

/-- The answer to a request of this package has come (R223): it is kept for the requester. The old value of an atomic that a strand holds marks its entry
(R241). -/
def State.answered' (s : State) (tag : Nat) (b : PktBody) : State :=
  let hit := fun (w : FarReq) => if w.tag = tag then
    { w with answer := some b, notBefore := match b with | .refusal _ h => s.time + 256 * h | _ => w.notBefore } else w
  let s := match b, (s.waits ++ s.posts).find? (fun w => w.tag == tag) with
    | .refusal _ _, some w => s.modCore w.core fun c => (c.count 32 1).count 43 1
    | _, _ => s
  let s := match b, s.posts.find? (fun w => w.tag == tag) with
    | .badTarget _ k c, some w => ({ s with posts := s.posts.filter fun v => v.tag != tag } : State).takeFault w.core w.strand
        ((s.core w.core).str w.strand).pc 0 ⟨k, c, w.detail, true⟩
    | _, _ => s
  let s := match b, s.waits.find? fun w => w.tag == tag && decide (w.off < 2 ^ 64) with
    | .data _ v, some w => match w.body.body with
      | .atomic _ _ => s.modCore w.core fun c =>
          let st : StrandSt := c.str w.strand
          c.setStr w.strand { st with held := st.held.map fun (h : Held) => { h with results := [(0, leBV 64 (v.take 8))] } }
      | _ => s
    | _, _ => s
  let s : State := { s with waits := s.waits.map hit, posts := s.posts.map hit }
  match s.dev.find? fun r => r.tag == tag, b with
  | some r, .refusal _ h =>
    { s with dev := s.dev.map (fun (q : DevReq) => if q.tag = r.tag then { q with answer := some b, notBefore := s.time + 256 * h } else q) }
  | some r, _ => s.devEnd r b
  | none, _ => s

/-- The entry that maps a place of a package: present and writable (R147, R148). -/
def homeEntry (pkg pa : Nat) : BitVec 64 :=
  BitVec.ofNat 64 (3 + pkg * 2 ^ 16 +
    if scrBase ≤ pa then 2 * 2 ^ 4 + (pa - scrBase) % 2 ^ 22 / 16384 * 2 ^ 32 + scrCore pa * 2 ^ 40
    else if shmBase ≤ pa then 2 ^ 4 + (pa - shmBase) % 2 ^ 27 / 16384 * 2 ^ 32 + dieOf pa * 2 ^ 45
    else pa / 16384 * 2 ^ 32)

/-- A copy that is being made here from another package is made again: its home no longer lists it (R228, R229). -/
def State.redoCopy (s : State) (part : BitVec 5) (tensor : BitVec 12) (tile : Nat) : State :=
  match (s.part part).migrs with
  | g :: _ =>
    if g.op = 1 ∧ g.tensor = tensor ∧ g.tile = tile ∧ g.pkg.toNat = s.fabric.index ∧ 0 < g.step then
      let mine := fun (w : FarReq) => w.core == g.core.getD 0 && decide (2 ^ 66 < w.off ∧ w.off < 2 ^ 67)
      ({ s with waits := s.waits.filter fun w => !mine w } : State).modMig part fun g => { g with step := 0, got := [], bad := 0 }
    else s
  | [] => s

/-- Drops the copy of a tile, or only its key (R225, R229): the copy's entry becomes the home's mapping. -/
def State.dropCopy (s : State) (p : Packet) (part : BitVec 5) (tensor : BitVec 12) (tile : Nat) (frame : BitVec 32) : State × Option PktBody :=
  let ctx := (s.part part).runctx
  let t := (s.dropKey part ctx tensor (some tile)).redoCopy part tensor tile
  if frame = 0xFFFFFFFF then (t, none)
  else
    let t := match s.descBits part ctx tensor.toNat with
      | none => t
      | some b =>
        let d := Desc.ofBits b
        let e := s.tileEntry d tile
        if e.getLsbD 0 && e.getLsbD 2 then
          t.bankWrite (d.ttptr + 8 * tile) (bvBytes 8 (homeEntry (pktField p 96 9) (16384 * frame.toNat)))
        else t
    (t, some (.invalidateAck (BitVec.ofNat 9 s.fabric.index) frame))

/-- Performs an atomic on a lock word for another package (R207, R326). -/
def State.serveLock (s : State) (ans : State → PktBody → State) (pa tag : Nat) (f : BitVec 128 → BitVec 128) : State :=
  match s.turnAway pa true with
  | some h => ans (if h = 4 then s.startInvalidate pa else s) (.refusal tag h)
  | none => ans (s.lockAt pa f).1 (match (s.lockAt pa f).2 with
    | .data _ => .ack tag
    | x => foundBody tag x)

/-- What a target does with a packet's body (R27, R28, R45, R52, R223, R226, R229, R423): `ans` sends an answer; `ls` says whether
loads and stores may come from there. -/
def State.serve (s : State) (p : Packet) (ls : Bool) (ans : State → PktBody → State) : PktBody → State
  | .empty => s
  | .read pa n tag =>
    if !ls then s else match s.turnAway pa false with
    | some h => ans s (.refusal tag h)
    | none => let (t, f) := s.bankRead pa n
      ans t (foundBody tag f)
  | .write blocks tag =>
    if !ls then s else match s.turnAwayAny (blocks.map (·.1)) true with
    | some (h, pa) => ans (if h = 4 then s.startInvalidate pa else s) (.refusal tag h)
    | none =>
      let t := blocks.foldl (fun s b => s.bankWrite b.1 b.2) s
      if tag = 0 then t else ans t (.ack tag)
  | .atomic r tag =>
    if !ls then s else match s.turnAway r.pa true with
    | some h => ans (if h = 4 then s.startInvalidate r.pa else s) (.refusal tag h)
    | none => let (t, f) := s.atomAt r
      ans t (foundBody tag f)
  | .update r =>
    if !ls then s else match s.turnAwayAny (r.lanes.map (·.1)) true with
    | some (h, pa) => ans (if h = 4 then s.startInvalidate pa else s) (.refusal 0 h)
    | none => match s.updAt r with
      | (t, some .poison) => ans t (.badTarget 0 kPoison 0)
      | (t, some (.stale sub)) => ans t (.badTarget 0 kStale sub)
      | (t, _) => t
  | .count pa n tag => if !ls then s else s.serveLock ans pa tag (lockCounted · n)
  | .lockSet pa target tag => if !ls then s else s.serveLock ans pa tag (lockSetUp · target)
  | .swapIf pa old new blocks tag =>
    if !ls then s else match s.turnAwayAny (pa :: blocks.map (·.1)) true with
    | some (h, pa) => ans (if h = 4 then s.startInvalidate pa else s) (.refusal tag h)
    | none => let (t, f) := s.swapAt pa old new blocks
      ans t (foundBody tag f)
  | .linWrite part addr bytes lock tag =>
    if (s.part part).bound = 0 then ans s (.badTarget tag kTensor 5)
    else let (t, a) := s.linServe part addr bytes lock tag
      ans t a
  | .linRead part addr n tag =>
    if (s.part part).bound = 0 then ans s (.badTarget tag kTensor 5)
    else match s.linPa part 0 addr n false with
    | .error (.away _ _) => let (t, a) := s.linThird part addr tag (.read n)
      ans t a
    | .error e => let (t, a) := s.linFail part addr tag 0 e
      ans t a
    | .ok pa => match (s.reuse pa 16384).turnAway pa false with
      | some h => ans s (.refusal tag h)
      | none => let (t, f) := (s.reuse pa 16384).bankRead pa n
        ans t (foundBody tag f)
  | .frame pa bytes act pkg part tensor tile tag =>
    if !ls then s
    else
      let sh := (s.frameState pa).2
      match act with
      | 0 => ans (s.setFrames pa bytes 0 sh) (.ack tag)
      | 1 => ans (s.flushPieces.setFrames pa bytes 1 sh) (.data tag (sh.flatMap fun x => leBytes 2 x))
      | 2 => ans (s.setFrames pa bytes 2 []) (.ack tag)
      | 3 =>
        if 3 ≤ sh.length ∧ !sh.contains pkg.toNat then ans s (.badTarget tag 0 3)
        else ans ((s.flushPieces.setFrames pa bytes (s.frameState pa).1 (withSharer sh pkg.toNat)).setDups pa bytes part tensor tile) (.ack tag)
      | 4 => ans s (if sh.contains pkg.toNat then .ack tag else .badTarget tag 0 3)
      | 5 => ans (s.reuse pa bytes) (.ack tag)
      | _ =>
        let pos := s.fabric.posOf pkg.toNat
        ans (if sh.contains pkg.toNat then s.sendPkt pos (s.unitPkt 3 pos (.invalidate part tensor tile (BitVec.ofNat 32 (pa / 16384)))) else s) (.ack tag)
  | .renewRow pa tag => if !ls then s else ans (s.renewRow pa 3 59) (.ack tag)
  | .data tag v => s.answered' tag (.data tag v)
  | .ack tag => s.answered' tag (.ack tag)
  | .refusal tag h => s.answered' tag (.refusal tag h)
  | .badTarget tag k c => s.answered' tag (.badTarget tag k c)
  | .lockFault tag k c => s.answered' tag (.lockFault tag k c)
  | .notify q v => s.push (.notifyMessage q v)
  | .steal sdom pkg core => s.push (.stealRequest sdom pkg core)
  | .grant core start n => s.push (.stealGrant core start n)
  | .advert w _ es => s.push (.advertisementReceive (BitVec.ofNat 3 ((firstBelow 6 fun i => s.fabric.neighbour i == s.fabric.posOf (pktField p 96 9)).getD 0)) w es)
  | .sync t => s.push (.ptpSync ((t : Int) - s.time))
  | .invalidate part tensor tile frame =>
    match s.dropCopy p part tensor tile frame with
    | (t, some a) => ans t a
    | (t, none) => t
  | .invalidateAck pkg frame => s.push (.invalidateAck pkg frame)
  | .posted tag b => s.serve p ls (fun s a => match a with
    | .refusal _ h => ans s (.refusal tag h)
    | .badTarget _ k c => ans s (.badTarget tag k c)
    | _ => s) b
  | .outside _ _ _ _ => s

/-- `packet_receive` (R27, R28, R42, R43): a malformed packet is discarded with a record; one for another package goes on to its next
port once its input port admits it; any other is performed or answered at once. In PS3 the fabric is off (R14), and nothing is received. -/
def execPacketReceive (p : Packet) (s : State) : Host.Outcome State Fault Refusal :=
  .next (
    if s.power.ps = 3 then s
    else if pktBad p then s.notePkt p 22 (p.hdr.setWidth 320)
    else match s.fabric.egress (pktPos p) with
    | some _ =>
      let a := s.fabric.arrival (s.fabric.srcPos p) (pktPos p)
      s.takeIn a.1 (if isCtl p then pktStamp p fun t => t + 2 ^ 64 - s.time % 2 ^ 64 else p, a.2)
    | none =>
      match p.body with
      | .outside x y z (.steal sdom _ core) => s.serveSteal sdom (x, y, z) core
      | .outside x y z (.advert w _ es) =>
        s.push (.advertisementReceive (BitVec.ofNat 3 ((firstBelow 6 fun i => s.fabric.neighbour i == (x, y, z)).getD 0)) w es)
      | .outside x y z b => s.serve p false (fun s a => (s.noteRemote p a).answerTo p (some (x, y, z)) a) b
      | b => (s.countFlits p 41 (BitVec.ofNat 7 (pktField p 16 7))).serve p true (fun s a => (s.noteRemote p a).answerTo p none a) b)

end Sys2Proof.Machine
end

