-- ==== Sys2Proof/Machine/CmdProc.lean ====
section
/-! DEFINITION. The command processor (R64 to R82, R105, R106): queues, the checks of packets, acceptance of launches, copies, signals
and waits, and completion signals (R80, R81, R471). -/

namespace Sys2Proof.Machine

/-! ### Queues -/

/-- A field of a packet, in bytes. -/
def pf (bs : List Byte) (off n : Nat) : Nat := leNat ((bs.drop off).take n)

/-- Bits of bytes 2 and 3, and the packet's CTX (R70). -/
def pktCtx (bs : List Byte) : BitVec 3 := BitVec.ofNat 3 (pf bs 2 2 / 2 ^ 11)

/-- KIND of a packet (R70). -/
def pktKind (bs : List Byte) : Nat := pf bs 0 1 % 16

/-- The linear address of a queue's slot (R64). -/
def Queue.slotAt (q : Queue) (i : Nat) : Nat := q.header.toNat + 64 + 64 * (i % 2 ^ q.logslots.toNat)

/-- Writes a queue's STATUS (R65): 1 ACTIVE, 2 WAITING, 4 BLOCKED. -/
def State.setStatus (s : State) (q : BitVec 10) (v : Nat) : State :=
  let k := s.queue q
  match s.linWrite k.part 0 (k.header.toNat + 16) (leBytes 4 v) with
  | .ok t => t
  | .error _ => s

/-- READ of a queue (R65); none when the header cannot be read. -/
def State.queueRead (s : State) (q : BitVec 10) : Option Nat :=
  let k := s.queue q
  match (s.linRead64 k.part 0 (k.header.toNat + 8)).2 with
  | .ok v => some v.toNat
  | .error _ => none

/-- The bytes of a slot; none when it cannot be read. -/
def State.slotBytes (s : State) (q : BitVec 10) (i : Nat) : Option (List Byte) :=
  let k := s.queue q
  match (s.linRead k.part 0 (k.slotAt i) 64).2 with
  | .ok bs => some bs
  | .error _ => none

/-- The head of a queue as R68 reads it: the index, the packet and, for a LAUNCH with REGCONT, the next slot; none while a slot that is
needed is not yet notified or not VALID. -/
def State.queueHead (s : State) (q : BitVec 10) : Option (Nat × List Byte × Option (List Byte)) := do
  let k := s.queue q
  let i ← s.queueRead q
  guard (k.enable && decide (i < k.notified.toNat))
  let bs ← s.slotBytes q i
  guard (decide (128 ≤ pf bs 0 1))
  if pktKind bs = 1 ∧ (pf bs 1 1).testBit 3 then
    guard (decide (i + 1 < k.notified.toNat))
    let b2 ← s.slotBytes q (i + 1)
    guard (decide (128 ≤ pf b2 0 1))
    return (i, bs, some b2)
  else return (i, bs, none)

/-- What reading the head of a queue leaves: an expired row or an error that the reads meet is noted where it stands (R18, R160, R164). -/
def State.headMet (s : State) (q : BitVec 10) : State :=
  let k := s.queue q
  match s.linRead64 k.part 0 (k.header.toNat + 8) with
  | (s, .error _) => s
  | (s, .ok i) =>
    if !k.enable || decide (k.notified.toNat ≤ i.toNat) then s
    else match s.linRead k.part 0 (k.slotAt i.toNat) 64 with
      | (s, .error _) => s
      | (s, .ok bs) =>
        if pf bs 0 1 / 128 = 1 ∧ pktKind bs = 1 ∧ (pf bs 1 1).testBit 3 ∧ i.toNat + 1 < k.notified.toNat then
          (s.linRead k.part 0 (k.slotAt (i.toNat + 1)) 64).1
        else s

/-- Runs an action on a queue once what it reads of it on other packages has been answered: READ, the head slot and the next (R68). -/
def State.withHead (s : State) (q : BitVec 10) (f : State → State) : State :=
  let k := s.queue q
  s.needFar (opQueue q) k.part 0 [(k.header.toNat + 8, 8)] fun s =>
    match s.queueRead q with
    | none => f (s.headMet q)
    | some i => s.needFar (opQueue q) k.part 0 [(k.slotAt i, 64), (k.slotAt (i + 1), 64)] fun s => f (s.headMet q)

/-- Consumes slots from index `i` on (R68): 0 to byte 0 of each, then READ advances. -/
def State.consume (s : State) (q : BitVec 10) (i n : Nat) : State :=
  let k := s.queue q
  let put := fun (s : State) (a : Nat) (bs : List Byte) => match s.linWrite k.part 0 a bs with
    | .ok t => t
    | .error _ => s
  let s := (List.range n).foldl (fun s j => put s (k.slotAt (i + j)) [0]) s
  let s := put s (k.header.toNat + 8) (leBytes 8 (i + n))
  (s.modQueue q fun k => { k with headAcc := none, met := none, spawned := k.spawned.filter fun e => decide (i + n ≤ e.1) }).setStatus q 0

/-- The context that a record of a packet names: its CTX if bound. -/
def State.recCtx (s : State) (p : BitVec 5) (ctx : BitVec 3) : BitVec 3 := if (s.part p).bound.getLsbD ctx.toNat then ctx else 0

/-- Where a packet names its completion signal (R72, R76, R78, R79): address and offset of the field. -/
def sigOf (bs : List Byte) : Nat × Nat :=
  match pktKind bs with
  | 1 | 2 | 5 => (pf bs 24 6, 24)
  | 4 => (pf bs 56 6, 56)
  | _ => (0, 24)

/-- INTR and VECTOR of a packet where they are valid (R70, R81). -/
def intrOf (func : Nat) (bs : List Byte) : Option (Nat × Nat) :=
  let v := pf bs 2 2 % 2 ^ 11
  if (pf bs 1 1).testBit 0 && v != 0 && vecOk func v then some (func, v) else none

/-- A fresh acceptance number of a partition, used for signal updates as well. -/
def State.nextNum (s : State) (p : BitVec 5) : Nat × State :=
  ((s.part p).nextAcc, s.modPart p fun t => { t with nextAcc := t.nextAcc + 1 })

/-- Must the completion signal of a packet be aligned: of a LAUNCH or a WAIT (R72, R78)? -/
def sigAligned (bs : List Byte) : Bool := pktKind bs == 1 || pktKind bs == 4

/-- A packet's completion signal is owed the error value (R71). -/
def State.errSignal (s : State) (q : BitVec 10) (index : Nat) (bs : List Byte) (intr : Bool) : State :=
  let k := s.queue q
  let (a, off) := sigOf bs
  let ctx := pktCtx bs
  if (sigAligned bs ∧ a % 8 ≠ 0) ∨ a = 0 ∨ (s.part k.part).bound.getLsbD ctx.toNat = false then s
  else
    let (n, s) := s.nextNum k.part
    s.oweSignal k.part { id := n, ctx := ctx, addr := a, add := none, intr := if intr then intrOf k.func.toNat bs else none
                         queue := q, index := BitVec.ofNat 64 index, off := off }

/-- A malformed or refused packet (R71): the record, the error value, and the slots consumed. -/
def State.badPacket (s : State) (q : BitVec 10) (index : Nat) (bs : List Byte) (slots : Nat) (f : FaultInfo) : State :=
  let p := (s.queue q).part
  let s := s.note p (s.recCtx p (pktCtx bs)) f
  (s.errSignal q index bs true).consume q index slots

/-- PACKET_MALFORMED at a field (R71, R240). -/
def malformed (q : BitVec 10) (index off : Nat) : FaultInfo := ⟨18, 0, detQ q.toNat index off, false⟩

/-- The subcode by which an access fails (R240, R471). -/
def linSub : LinErr → Nat
  | .absent | .bounds | .away _ _ => 1
  | .poison => 2
  | .writeprot => 3
  | .stale _ => 4

/-- Records a tile of the linear space that the command processor found not present (R219, R471). -/
def State.linMiss (s : State) (p : BitVec 5) (ctx : BitVec 3) (addr akind : Nat) : State :=
  let tb := match s.descBits p ctx 0 with
    | some b => (Desc.ofBits b).tileBytes
    | none => 16384
  s.recordMiss p ctx none 7 0 0 4 akind 0 0 (addr / tb) (addr % tb)

/-! ### Checks (R70 to R79) -/

/-- The offset of a field, if a rule about it is broken. -/
def bad (b : Bool) (off : Nat) : List Nat := if b then [off] else []

/-- Bytes that must be zero. -/
def zeros (bs : List Byte) (off n : Nat) : List Nat := bad (pf bs off n != 0) off

/-- Fields of R70 that fail; `used` is the mask of the bits of byte 1 that the kind uses. -/
def State.commonBad (s : State) (q : BitVec 10) (bs : List Byte) (used : Nat) : List Nat :=
  let k := s.queue q
  let w := pf bs 2 2
  let v := w % 2 ^ 11
  let i := (pf bs 1 1).testBit 0
  bad (pf bs 0 1 / 16 % 8 != 0) 0 ++ bad (pf bs 1 1 &&& (255 - used) != 0) 1 ++
    bad ((!i && v != 0) || (i && !(v != 0 && vecOk k.func.toNat v))) 2 ++
    bad (w / 2 ^ 14 != 0 || !(s.part k.part).bound.getLsbD (pktCtx bs).toNat) 3

/-- The first failing field. -/
def firstBad (l : List Nat) : Option Nat := if l.isEmpty then none else some (l.foldl min 255)

/-- A region declaration (R74) before its bounds are clamped. -/
def rawRegion (bs : List Byte) : Region :=
  ⟨BitVec.ofNat 12 (pf bs 0 2), (pf bs 0 2).testBit 12, pf bs 2 2, pf bs 4 2, pf bs 6 2, pf bs 8 2⟩

/-- Is a declaration well formed (R74)? -/
def State.regionOk (s : State) (p : BitVec 5) (ctx : BitVec 3) (bs : List Byte) : Bool :=
  let r := rawRegion bs
  pf bs 0 2 / 2 ^ 13 == 0 && pf bs 10 2 == 0 && decide (r.loA ≤ r.hiA ∧ r.loB ≤ r.hiB) &&
    match s.descBits p ctx r.tensor.toNat with
    | none => false
    | some b => let d := Desc.ofBits b
      d.kind != 0 && descPlain b && (d.rank != 1 || (r.loB == 0 && r.hiB == 0))

/-- The declaration with bounds beyond the last tile at the last tile (R74). -/
def State.clampRegion (s : State) (p : BitVec 5) (ctx : BitVec 3) (bs : List Byte) : Region :=
  let r := rawRegion bs
  match s.descBits p ctx r.tensor.toNat with
  | none => r
  | some b =>
    let d := Desc.ofBits b
    let last := fun (i : Nat) => d.tileCounts.getD i 1 - 1
    let la := last (d.rank - 1)
    let lb := if d.rank = 1 then 0 else last (d.rank - 2)
    { r with loA := min r.loA la, hiA := min r.hiA la, loB := min r.loB lb, hiB := min r.hiB lb }

/-- Group indices of a LAUNCH with their offsets (R72). -/
def launchGroups (bs : List Byte) : List (Nat × BitVec 8) :=
  ([30, 31, 38, 39].map fun o => (o, BitVec.ofNat 8 (pf bs o 1))).take (pf bs 1 1 / 32)

/-- Inline regions of a LAUNCH with their offsets (R72). -/
def inlineRegions (bs : List Byte) : List (Nat × List Byte) :=
  if (pf bs 1 1).testBit 4 then ([40, 52].map fun o => (o, (bs.drop o).take 12)).take (pf bs 5 1 / 8 % 4) else []

/-- Regions of a REGIONS packet with their offsets from the LAUNCH slot (R75, R240). -/
def contRegions (b2 : List Byte) : List (Nat × List Byte) :=
  (List.range (pf b2 4 1 % 8)).map fun i => (72 + 12 * i, (b2.drop (8 + 12 * i)).take 12)

/-- Fields of a LAUNCH, and of its REGIONS packet, that break R72 to R75. -/
def State.launchBad (s : State) (q : BitVec 10) (bs : List Byte) (b2 : Option (List Byte)) : List Nat :=
  let p := (s.queue q).part
  let ctx := pktCtx bs
  let b1 := pf bs 1 1
  let area := b1.testBit 4
  let gc := b1 / 32
  let nreg := pf bs 5 1 / 8 % 4
  let gs := launchGroups bs
  let gang := pf bs 4 1 % 64
  let cont := (b2.map contRegions).getD []
  s.commonBad q bs 255 ++ bad (decide (4 < gc)) 1 ++ bad (decide (gang = 0 ∨ 32 < gang) || pf bs 4 1 / 64 == 3) 4 ++
    bad (pf bs 5 1 / 32 != 0 || nreg == 3 || (!area && nreg != 0)) 5 ++
    bad ((pf bs 7 1).testBit 7 || ((pf bs 7 1).testBit 6 && !(((s.part p).ctx ctx).chunk (pf bs 7 1 % 64)).conf)) 7 ++
    bad (pf bs 8 2 % 2 ^ 12 != 0) 8 ++ bad ((bs.drop 16).take 8 == List.replicate 8 0xFF) 16 ++ bad (pf bs 24 1 % 8 != 0) 24 ++
    bad (pf bs 32 1 % 64 != 0) 32 ++
    (([30, 31, 38, 39].drop gc).flatMap fun o => zeros bs o 1) ++
    (gs.zipIdx.flatMap fun e =>
      let g := (s.part p).group e.1.2
      bad (!g.inuse || g.ctx != ctx || ((gs.take e.2).map (·.2)).contains e.1.2) e.1.1) ++
    (if area then ([40, 52].drop nreg).flatMap fun o => zeros bs o 12 else []) ++
    ((inlineRegions bs ++ cont).flatMap fun e => bad (!s.regionOk p ctx e.2) e.1) ++
    match b2 with
    | none => []
    | some r =>
      let n := pf r 4 1 % 8
      bad (pf r 0 1 / 16 % 8 != 0) 64 ++ bad (pf r 1 3 != 0) 65 ++
        bad (pf r 4 1 / 8 != 0 || n == 0 || decide (4 < n ∨ 4 < nreg + n)) 68 ++ bad (pf r 5 3 != 0) 69 ++ bad (pf r 56 8 != 0) 120 ++
        bad (pf r (8 + 12 * n) (48 - 12 * n) != 0) (72 + 12 * n)

/-- Fields of a COPY that break R76. -/
def State.copyBad (s : State) (q : BitVec 10) (bs : List Byte) : List Nat :=
  let src := pf bs 8 6
  let dst := pf bs 16 6
  let len := pf bs 32 4
  s.commonBad q bs 7 ++ zeros bs 4 4 ++ zeros bs 14 2 ++ bad ((pf bs 1 1).testBit 2 && dst % 8 != 0) 16 ++ zeros bs 22 2 ++
    zeros bs 30 2 ++ zeros bs 36 4 ++ zeros bs 48 16 ++
    bad (decide (src < dst + len ∧ dst < src + len)) 8

/-- Fields of a SIGNAL that break R77. -/
def State.signalBad (s : State) (q : BitVec 10) (bs : List Byte) : List Nat :=
  s.commonBad q bs 3 ++ zeros bs 4 4 ++ zeros bs 14 2 ++ zeros bs 24 40

/-- Fields of a WAIT that break R78. -/
def State.waitBad (s : State) (q : BitVec 10) (bs : List Byte) : List Nat :=
  let n := pf bs 4 1 % 8
  s.commonBad q bs 3 ++ bad (pf bs 4 1 / 8 != 0 || n == 0 || decide (4 < n)) 4 ++ zeros bs 5 3 ++
    ((List.range 4).flatMap fun i => if i < n then zeros bs (14 + 8 * i) 2 else zeros bs (8 + 8 * i) 8 ++ zeros bs (40 + 4 * i) 4) ++
    bad (pf bs 56 1 % 8 != 0) 56 ++ zeros bs 62 2

/-! ### Completion signals -/

/-- Queues of a partition with a WAIT at their head. -/
def State.waiters (s : State) (p : BitVec 5) : List (BitVec 10) :=
  (s.queues.filter fun e => e.2.part == p && e.2.met.isSome).map fun e => BitVec.ofNat 10 e.1

/-- A partition's update of a signal is over: its packet no longer holds BARRIERs, its launch no dependents, and WAITs are read again (R78, R82, R106,
R210). -/
def State.jobOver (s : State) (p : BitVec 5) (id : Nat) : State :=
  let s := ((s.modPart p fun t => { t with jobs := t.jobs.filter (·.id != id) }).workDone p id)
  let s := if ((s.part p).launch id).any fun l => l.life == .finished then s.launchDone p id else s
  { s with agenda := s.agenda ++ (s.waiters p).map .waitRecheck }

/-- Writes the stamp that a COPY still owes, once its payload has been performed (R76); on a failing access the copy ends with COPY_FAULT. -/
def State.payStamp (s : State) (p : BitVec 5) (j : SigJob) : State :=
  match j.stamp with
  | none => s
  | some (a, bs) =>
    let set := fun (s : State) (f : SigJob → SigJob) => s.modPart p fun t => { t with jobs := t.jobs.map fun i => if i.id == j.id then f i else i }
    match s.linWrite p j.ctx a bs with
    | .ok t => set t fun i => { i with stamp := none, after := t.nextTag }
    | .error e => set (s.note p j.ctx ⟨21, linSub e, detQ j.queue.toNat j.index.toNat 0 (addr := a), false⟩) fun i =>
      { i with stamp := none, add := none, intr := none }

/-- Makes an update of a signal (R71, R77, R80, R81, R471): the addition, or the error value, at its home, and the interrupt. A tile
not present is recorded and the update tried again later; any other failure ends it with a PACKET_ACCESS record. It waits for the writes of the I/O die
that it releases, and for the answer of a home on another package. -/
def State.performJob (s : State) (p : BitVec 5) (id : Nat) : State :=
  match (s.part p).jobs.find? fun j => j.id == id with
  | none => if ((s.part p).launch id).any fun l => l.life != .finished then s else s.jobOver p id
  | some j =>
    let later := fun (s : State) (h : Nat) => s.modPart p fun t =>
      { t with jobs := t.jobs.map (fun (i : SigJob) => if i.id = id then { i with notBefore := s.time + 256 * h } else i) }
    let fail := fun (s : State) (e : LinErr) =>
      match e with
      | .absent => later (s.linMiss p j.ctx j.addr 2) 16
      | e => (s.note p j.ctx ⟨26, linSub e, detQ j.queue.toNat j.index.toNat j.off (addr := j.addr), false⟩).jobOver p id
    let done := fun (s : State) (new : Word) =>
      let s := match j.intr with
        | some (f, v) => if j.add.isNone || new == 0 then s.sendMsix f v else s
        | none => s
      (s.jobOver p id).devDone (opJob p id)
    let value := fun (old : List Byte) => match j.add with
      | some v => leBV 64 old + v
      | none => 0x8000000000000000
    if s.dev.any fun r => r.isWrite && r.part == p && decide (r.tag < j.after) then s
    else if j.stamp.isSome then s.payStamp p j
    else if j.addr = 0 then s.jobOver p id
    else match s.linPa p j.ctx j.addr 8 true with
    | .error (.away _ _) =>
      let act := match j.add with
        | some v => DevAct.atomic .add 8 0 (v.setWidth 128)
        | none => .atomic .swap 8 0 0x8000000000000000
      match s.devAnswer p j.ctx j.addr act with
      | some (.data _ old) => done s (value old)
      | some (.badTarget _ k c) => (fail s (if k = kPoison then .poison else .stale c)).devDone (opJob p id)
      | _ => s.devAsk (opJob p id) p j.ctx j.addr act
    | _ => match s.linRead p j.ctx j.addr 8 with
    | (s, .error e) => fail s e
    | (s, .ok bs) =>
      match s.linPa p j.ctx j.addr 1 true with
      | .error e => fail s e
      | .ok pa =>
        match s.turnAway pa true with
        | some h => later (if h = 4 then s.startInvalidate pa else s) h
        | none =>
          match s.linWrite p j.ctx j.addr (bvBytes 8 (value bs)) with
          | .error e => fail s e
          | .ok s => done s (value bs)

/-- `completion_signal_decrement` (R80, R81, R471). -/
def execCompletionSignalDecrement (part : BitVec 5) (acc : Nat) (s : State) : Host.Outcome State Fault Refusal :=
  .next (s.performJob part acc)

/-! ### Taking packets -/

/-- May the head be dispatched under BARRIER (R82)? -/
def Queue.clear (k : Queue) (bs : List Byte) : Bool := !(pf bs 1 1).testBit 1 || k.busy.isEmpty

/-- What the command processor does with the head of a queue: the event of its kind. -/
def headEvent (q : BitVec 10) (bs : List Byte) : Option Instr :=
  match pktKind bs with
  | 1 => some (.launchPacket q)
  | 2 => some (.copyPacket q)
  | 3 => some (.signalPacket q)
  | 4 => some (.waitPacket q)
  | 5 => some (.stagesPacket q)
  | 6 => some (.regionsPacket q)
  | _ => none

/-- `queue_poll` (R68): byte 0 of the head slot is read again; a VALID head is taken up by the event of its kind, one of no kind is
malformed (R70). A queue that has been served comes after its peers of one level (R68, R105). -/
def execQueuePoll (queue : BitVec 10) (s : State) : Host.Outcome State Fault Refusal :=
  let k := s.queue queue
  .next (if k.headAcc.isSome || k.met.isSome then s
  else s.withHead queue fun s =>
    match s.queueHead queue with
    | none => (if (s.queueRead queue).any fun i => decide (i < k.notified.toNat) then s.setStatus queue 1 else s).devDone (opQueue queue)
    | some (i, bs, _) =>
      let s : State := { s with nextQ := listSet s.nextQ k.prio.toNat (queue.toNat + 1) }
      match headEvent queue bs with
      | some e => s.push e
      | none => (s.badPacket queue i bs 1 (malformed queue i 0)).devDone (opQueue queue))

/-- Runs an action on the head of a queue if it is a packet of a kind that is not yet taken up. -/
def State.onHead (s : State) (q : BitVec 10) (kind : Nat) (f : State → Nat → List Byte → Option (List Byte) → State) : State :=
  let k := s.queue q
  if k.headAcc.isSome || k.met.isSome then s
  else (s.withHead q fun s => match s.queueHead q with
    | none => s
    | some (i, bs, b2) =>
      if pktKind bs ≠ kind then s
      else if (k.spawned.find? fun e => e.1 == i).any (·.2.2) then s.badPacket q i bs 1 (malformed q i 0)
      else f s i bs b2).devDone (opQueue q)

/-- Do two regions conflict (R106)? -/
def Region.meets (a b : Region) : Bool :=
  a.tensor == b.tensor && decide (a.loA ≤ b.hiA ∧ b.loA ≤ a.hiA ∧ a.loB ≤ b.hiB ∧ b.loB ≤ a.hiB) && (a.w || b.w)

/-- Launches that a new one of a context depends on (R106). -/
def Part.depends (p : Part) (ctx : BitVec 3) (rs : List Region) : List Nat :=
  (p.launches.filter fun l => l.ctx == ctx && l.regions.any fun a => rs.any a.meets).map (·.acc)

/-- Claims on a group (R104): crews of launches that are accepted and not placed, or REQUEUED. -/
def Part.claims (p : Part) (g : BitVec 8) : Nat :=
  sumL ((p.launches.filter fun l => l.groups.contains g && (l.life == .depwait || l.life == .placewait || l.life == .requeued)).map (·.gang))

/-- The die of a place: of the HBM stack's controller, the shared memory or the scratchpad (R11). -/
def homeDie (pa : Nat) : Nat := if pa < shmBase then pa / 2 ^ 37 else dieOf pa

/-- Candidate positions of a gang on a die, by the first core (R97, R98): runs of stops of one ring, or whole rings. Of ring sets with the same first core the
one that is first in lexicographic order comes first (DESIGN CHOICE, log 127). -/
def shapes (gang die : Nat) : List (List Nat) :=
  if gang ≤ 8 then
    (List.range 4).flatMap fun r => (List.range (9 - gang)).map fun st => (List.range gang).map fun i => 32 * die + 8 * r + st + i
  else
    let k := (gang + 7) / 8
    (pickRings k [0, 1, 2, 3]).map fun rs => rs.flatMap fun r => (List.range 8).map fun i => 32 * die + 8 * r + i
where
  /-- All ways to take `k` rings in ascending order. -/
  pickRings : Nat → List Nat → List (List Nat)
    | 0, _ => [[]]
    | _ + 1, [] => []
    | k + 1, r :: rs => (pickRings k rs).map (r :: ·) ++ pickRings (k + 1) rs

/-- Could a gang ever be placed, with every owned core idle (R99)? `die` restricts it to one die. -/
def Part.fits (p : Part) (gang : Nat) (die : Option Nat) : Bool :=
  ((List.range 4).filter fun d => die.isNone || die == some d).any fun d => (shapes gang d).any fun cs => cs.all p.ownsCore

/-- The producer's die of a launch under SAME_DIE (R98): of the crew that spawned it or notified its last slot, or of the code object's home. -/
def State.producerDie (s : State) (q : BitVec 10) (index slots : Nat) (bs : List Byte) : Option Nat :=
  let k := s.queue q
  match k.spawned.find? fun e => e.1 == index + slots - 1 with
  | some (_, d, _) => some d.toNat
  | none =>
    match s.linPa k.part (pktCtx bs) (pf bs 8 6) 1 false with
    | .ok pa => some (homeDie pa)
    | .error _ => none

/-- Is a group full for a gang (R104)? Answers the first, with its offset. -/
def State.fullGroup (s : State) (p : BitVec 5) (gang : Nat) (gs : List (Nat × BitVec 8)) : Option (Nat × BitVec 8) :=
  gs.find? fun e => let g := (s.part p).group e.2
    decide (g.size < g.joined + (s.part p).claims e.2 + gang)

/-- The accepted launch (R72, R73, R105, R106). -/
def State.makeLaunch (s : State) (q : BitVec 10) (index : Nat) (bs : List Byte) (rs : List Region) (slots : Nat) (die : Option Nat) : Launch :=
  let k := s.queue q
  let p := s.part k.part
  let ctx := pktCtx bs
  let b1 := pf bs 1 1
  let deps := p.depends ctx rs
  let inline := (List.range 4).map fun i => (BitVec.ofNat 48 (pf bs (40 + 6 * i) 6)).signExtend 64
  { acc := p.nextAcc, queue := q, index := BitVec.ofNat 64 index, ctx := ctx
    life := if deps.isEmpty then .placewait else .depwait, gang := pf bs 4 1 % 64, place := pf bs 4 1 / 64
    prio := min (pf bs 5 1 % 8) k.prio.toNat, tokens := pf bs 6 1
    chunkq := if (pf bs 7 1).testBit 6 then some (BitVec.ofNat 6 (pf bs 7 1)) else none
    est := pf bs 14 2, code := pf bs 8 6, entries := (List.range 4).map fun i => BitVec.ofNat 16 (pf bs (16 + 2 * i) 2)
    signal := pf bs 24 6, intr := intrOf k.func.toNat bs, groups := (launchGroups bs).map (·.2)
    restart := b1.testBit 2, barrier := b1.testBit 1, params := if b1.testBit 4 then [] else inline, param := pf bs 32 6, area := b1.testBit 4
    slots := slots, regions := rs, deps := deps, dieHint := if pf bs 4 1 / 64 = 1 then die else none, since := s.time }

/-- `launch_packet` (R68, R72 to R75, R99, R104 to R106): the LAUNCH at READ is checked, and accepted with the next acceptance number or
refused. It waits, not accepted, while the dependence unit is full. A slot after REGCONT that holds another kind is malformed as well (R75). -/
def execLaunchPacket (queue : BitVec 10) (s : State) : Host.Outcome State Fault Refusal :=
  .next (s.onHead queue 1 fun s i bs b2 =>
    let k := s.queue queue
    let p := k.part
    let slots := if b2.isSome then 2 else 1
    if b2.any (fun r => pktKind r != 6) then
      let r := b2.getD []
      let s := s.note p (s.recCtx p (pktCtx bs)) (malformed queue i 255)
      ((s.errSignal queue i bs true).note p (s.recCtx p (pktCtx r)) (malformed queue (i + 1) 0)).errSignal queue (i + 1) r true |>.consume queue i 2
    else match firstBad (s.launchBad queue bs b2) with
    | some off => s.badPacket queue i bs slots (malformed queue i off)
    | none =>
      let ctx := pktCtx bs
      let gang := pf bs 4 1 % 64
      let rs := ((inlineRegions bs ++ (b2.map contRegions).getD []).map fun e => s.clampRegion p ctx e.2)
      let die := s.producerDie queue i slots bs
      if !(s.part p).fits gang (if pf bs 4 1 / 64 = 1 then die else none) then
        s.badPacket queue i bs slots ⟨19, 0, detQ queue.toNat i 4, false⟩
      else if !rs.isEmpty && decide (256 ≤ ((s.part p).launches.filter fun l => !l.regions.isEmpty).length) then s.setStatus queue 5
      else match s.fullGroup p gang (launchGroups bs) with
      | some (off, g) => s.badPacket queue i bs slots ⟨20, 0, detQ queue.toNat i off g.toNat, false⟩
      | none =>
          let l := s.makeLaunch queue i bs rs slots die
          let s := s.modPart p fun t => { t with nextAcc := t.nextAcc + 1, launches := t.launches ++ [l] }
          (s.modQueue queue fun k => { k with headAcc := some l.acc }).setStatus queue 5)

/-- `regions_packet` (R75): a REGIONS packet that stands in no slot after a LAUNCH with REGCONT is malformed. -/
def execRegionsPacket (queue : BitVec 10) (s : State) : Host.Outcome State Fault Refusal :=
  .next (s.onHead queue 6 fun s i bs _ => s.badPacket queue i bs 1 (malformed queue i 0))

/-- Pieces of a copy that cross no 64-byte boundary on either side: source, destination, length (R76). -/
def copyPieces : Nat → Nat → Nat → Nat → List (Nat × Nat × Nat)
  | 0, _, _, _ => []
  | fuel + 1, a, b, n =>
    if n = 0 then []
    else
      let m := min n (min (64 - a % 64) (64 - b % 64))
      (a, b, m) :: copyPieces fuel (a + m) (b + m) (n - m)

/-- Moves the bytes of a copy, block by block; answers the failing access and address if one fails (R76). -/
def State.copyBytes (s : State) (p : BitVec 5) (ctx : BitVec 3) (src dst len : Nat) : State × Option (LinErr × Nat) :=
  (copyPieces (len / 32 + 3) src dst len).foldl (fun acc e =>
    match acc with
    | (s, some f) => (s, some f)
    | (s, none) =>
      let (a, b, n) := e
      match s.linRead p ctx a n with
      | (s, .error f) => (s, some (f, a))
      | (s, .ok bs) =>
        match s.linWrite p ctx b bs with
        | .ok t => (t, none)
        | .error f => (s, some (f, b))) (s, none)

/-- `copy_packet` (R76, R80, R471): LEN bytes move, then the stamp; or COPY_FAULT, and the signal receives the error value. -/
def execCopyPacket (queue : BitVec 10) (s : State) : Host.Outcome State Fault Refusal :=
  .next (s.onHead queue 2 fun s i bs _ =>
    let k := s.queue queue
    let p := k.part
    let ctx := pktCtx bs
    match firstBad (s.copyBad queue bs) with
    | some off => s.badPacket queue i bs 1 (malformed queue i off)
    | none =>
      if !k.clear bs then s.setStatus queue 5
      else s.needFar (opQueue queue) p ctx ((copyPieces (pf bs 32 4 / 32 + 3) (pf bs 8 6) (pf bs 16 6) (pf bs 32 4)).map fun e => (e.1, e.2.2)) fun s =>
        let dst := pf bs 16 6
        let len := pf bs 32 4
        let stamp := if (pf bs 1 1).testBit 2 then some (dst + 8 * ((len + 7) / 8), (bs.drop 40).take 8) else none
        let waiting := s.dev.length
        let fail := fun (s : State) (e : LinErr) (a : Nat) =>
          ((s.note p ctx ⟨21, linSub e, detQ queue.toNat i 0 (addr := a), false⟩).errSignal queue i bs false).consume queue i 1
        let moved := fun (s : State) (late : Option (Nat × List Byte)) =>
          let after := if waiting < s.dev.length then s.nextTag else 0
          let (n, s) := s.nextNum p
          ((s.modQueue queue fun k => { k with busy := ⟨BitVec.ofNat 64 i, n⟩ :: k.busy }).consume queue i 1).oweSignal p
            { id := n, ctx := ctx, addr := pf bs 24 6, add := some (-1), intr := intrOf k.func.toNat bs
              queue := queue, index := BitVec.ofNat 64 i, off := 24, after := after, stamp := late }
        match s.copyBytes p ctx (pf bs 8 6) dst len with
        | (s, some (e, a)) => fail s e a
        | (s, none) => match stamp with
          | none => moved s none
          | some (a, v) => if waiting < s.dev.length then moved s stamp else (match s.linWrite p ctx a v with
            | .ok t => moved t none
            | .error e => fail s e a))

/-- `signal_packet` (R77, R81, R471): VALUE is added to the target by one atomic. -/
def execSignalPacket (queue : BitVec 10) (s : State) : Host.Outcome State Fault Refusal :=
  .next (s.onHead queue 3 fun s i bs _ =>
    let k := s.queue queue
    match firstBad (s.signalBad queue bs) with
    | some off => s.badPacket queue i bs 1 (malformed queue i off)
    | none =>
      if !k.clear bs then s.setStatus queue 5
      else
        let (n, s) := s.nextNum k.part
        let j : SigJob := { id := n, ctx := pktCtx bs, addr := pf bs 8 6, add := some (BitVec.ofNat 64 (pf bs 16 8)), intr := intrOf k.func.toNat bs
                            queue := queue, index := BitVec.ofNat 64 i, off := 8 }
        let s := s.modPart k.part fun t => { t with jobs := t.jobs ++ [j] }
        let s := (s.modQueue queue fun k => { k with busy := ⟨BitVec.ofNat 64 i, n⟩ :: k.busy }).consume queue i 1
        s.performJob k.part n)

/-- Reads the unmet conditions of the WAIT at a queue's head; completes it when all have been met (R78). -/
def State.recheck (s : State) (q : BitVec 10) : State :=
  let k := s.queue q
  match k.met, s.queueHead q with
  | some (met, err), some (i, bs, _) =>
    let ctx := pktCtx bs
    let asks := (met.zipIdx.filter fun e => !e.1).map fun e => (pf bs (8 + 8 * e.2) 6, 8)
    s.needFar (opQueue q) k.part ctx asks fun s =>
    let (s, met, err) := met.zipIdx.foldl (fun (acc : State × List Bool × Bool) e =>
      let (s, m, er) := acc
      if e.1 then (s, m ++ [true], er)
      else
        let a := pf bs (8 + 8 * e.2) 6
        let th : Int := (BitVec.ofNat 32 (pf bs (40 + 4 * e.2) 4)).toInt
        match s.linRead64 k.part ctx a with
        | (s, .ok v) => (s, m ++ [decide (v.toInt ≤ th)], er || (decide (v.toInt ≤ th) && v == 0x8000000000000000))
        | (s, .error .absent) => (s.linMiss k.part ctx a 0, m ++ [false], er)
        | (s, .error f) => (s.note k.part ctx ⟨26, linSub f, detQ q.toNat i (8 + 8 * e.2) (addr := a), false⟩, m ++ [true], true)) (s, [], err)
    let s := s.modQueue q fun k => { k with met := some (met, err) }
    if met.all id then
      let (n, s) := s.nextNum k.part
      ((s.modQueue q fun k => { k with busy := ⟨BitVec.ofNat 64 i, n⟩ :: k.busy }).consume q i 1).oweSignal k.part
        { id := n, ctx := ctx, addr := pf bs 56 6, add := if err then none else some (-1), intr := if err then none else intrOf k.func.toNat bs
          queue := q, index := BitVec.ofNat 64 i, off := 56 }
    else s
  | _, _ => s

/-- `wait_packet` (R78): the WAIT at READ is checked and its conditions are read. -/
def execWaitPacket (queue : BitVec 10) (s : State) : Host.Outcome State Fault Refusal :=
  .next (s.onHead queue 4 fun s i bs _ =>
    match firstBad (s.waitBad queue bs) with
    | some off => s.badPacket queue i bs 1 (malformed queue i off)
    | none =>
      if !(s.queue queue).clear bs then s.setStatus queue 7
      else
        let s := s.modQueue queue fun k => { k with met := some (List.replicate (pf bs 4 1 % 8) false, false) }
        (s.setStatus queue 3).recheck queue)

/-- `wait_recheck` (R78). -/
def execWaitRecheck (queue : BitVec 10) (s : State) : Host.Outcome State Fault Refusal :=
  .next ((s.withHead queue fun s => s.recheck queue).devDone (opQueue queue))

/-- `token_refill` (R113). -/
def execTokenRefill (s : State) : Host.Outcome State Fault Refusal :=
  let add := fun (q : Queue) => { q with balance := min (q.balance + q.budget.toNat) (4 * q.budget.toNat) }
  .next { s with queues := (s.queues.map fun e => (e.1, add e.2)).filter fun e => !decide (e.2 = {}) }

/-- `notify_register_write` (R58, R67): the physical function names a global number, a virtual function a local one. -/
def execNotifyRegisterWrite (func : BitVec 6) (queue : BitVec 10) (value : BitVec 64) (s : State) : Host.Outcome State Fault Refusal :=
  .next (if func = 0 then (if (s.queue queue).enable then s.notifyQueue queue value else s)
  else if s.cfgrec.nvf < func.toNat then s
  else match s.localQueue (BitVec.ofNat 5 (func.toNat - 1)) queue.toNat with
    | some q => s.notifyQueue q value
    | none => s)

/-- `notify_message` (R366): a notify of another package; for a queue that is not enabled it is discarded and logged. -/
def execNotifyMessage (queue : BitVec 10) (value : BitVec 64) (s : State) : Host.Outcome State Fault Refusal :=
  .next (if (s.queue queue).enable then s.notifyQueue queue value else s.logErr kQueuefault queue.toNat)

end Sys2Proof.Machine
end

