-- ==== Sys2Proof/Machine/Power.lean ====
section
/-! DEFINITION. Power, clocks and thermal response (R13 to R17), reset and boot (R19 to R25). -/

namespace Sys2Proof.Machine

/-! ### Power states and the power limit -/

/-- Has an interval passed since a time, or never begun? -/
def passed (since : Option Nat) (n now : Nat) : Bool := match since with
  | none => true
  | some t => decide (t + n ≤ now)

/-- The hottest reading of the pair of dies `die` (R16). -/
def Power.hottest (p : Power) (die : Nat) : Nat := ((p.sensors.drop (12 * die)).take 12).foldl max 0

/-- Is the mean of the last millisecond of samples above the limit (R15)? Compared exactly, without a division. Until ten samples have been taken
since a reset, the mean is that of the samples there are (DESIGN CHOICE, log 62). -/
def Power.over_ (p : Power) : Bool := decide (p.limit * p.samples.length < sumL p.samples)

/-- Is that mean below 90 % of the limit (R15)? -/
def Power.under (p : Power) : Bool := decide (sumL p.samples * 10 < p.limit * 9 * p.samples.length)

/-- The package steps down one level (R15). No die steps below 1.0 GHz (R14), so thermal steps that would lie below it end. -/
def Power.down (p : Power) (now : Nat) : Power :=
  { p with level := p.level + 1, therm := p.therm.map fun n => min n (2 - p.level), stepped := some now, lowSince := none }

/-- The clock steps up one level (R15, R16). Where the package level and thermal steps both hold it down, the package level rises first, and the
thermal steps of the dies below 100 °C after it: the spec does not order them (DESIGN CHOICE, log 102). -/
def Power.up (p : Power) : Power :=
  if 0 < p.level then { p with level := p.level - 1 }
  else { p with therm := p.therm.mapIdx fun d n => if p.hottest d < 100 then n - 1 else n }

/-- `power_sample` (R15): a sample enters the running mean; above the limit the clock steps down, at most once per millisecond;
below 90 % of it for 10 ms the clock steps up one level. -/
def execPowerSample (watts : Nat) (s : State) : Host.Outcome State Fault Refusal :=
  let p := { s.power with samples := (watts :: s.power.samples).take 10 }
  let p :=
    if p.over_ then
      if passed p.stepped 1000000 s.time && decide (p.level < 3) then p.down s.time
      else { p with lowSince := none }
    else if p.under then
      match p.lowSince with
      | none => { p with lowSince := some s.time }
      | some t => if t + 10000000 ≤ s.time then ({ p with lowSince := some s.time } : Power).up else p
    else { p with lowSince := none }
  .next { s with power := p }

/-- Is every partition idle (R14)? What makes one idle the spec does not say: here, that no crew is resident, and that the command processor has
accepted no launch, owes no signal and moves no tile for it (DESIGN CHOICE, log 103). -/
def State.allIdle (s : State) : Bool :=
  ((List.range 128).all fun c => (s.core (BitVec.ofNat 7 c)).crew.isNone) &&
    (List.range 32).all fun p =>
      let t := s.part (BitVec.ofNat 5 p)
      t.launches.isEmpty && t.jobs.isEmpty && t.migrs.isEmpty

/-- `ps2_entry` (R14): firmware gates the cores while every partition is idle. -/
def execPs2Entry (s : State) : Host.Outcome State Fault Refusal :=
  let p := { s.power with ps := 2 }
  .next (if s.power.ps = 0 ∧ s.allIdle = true then { s with power := p } else s)

/-- `ps2_exit` (R14). -/
def execPs2Exit (s : State) : Host.Outcome State Fault Refusal :=
  let p := { s.power with ps := 0 }
  .next (if s.power.ps = 2 then { s with power := p } else s)

/-- Gain-cell contents are lost (R14, R19): bytes, row tags and poison of the gain-cell arrays. -/
def State.loseGain (s : State) : State :=
  { s with mem := s.mem.filter (fun e => decide (e.1 < shmBase)), rowTick := [], rowLive := []
           poison := s.poison.filter (fun e => decide (e.1 < shmBase / 64)) }

/-- `ps3_entry` (R14, R19): the package is off and rests until a reset. -/
def execPs3Entry (s : State) : Host.Outcome State Fault Refusal :=
  let p := { s.power with ps := 3 }
  .next ({ s with power := p, agenda := [] } : State).loseGain

/-! ### Sensors -/

/-- What a reading does to the record of a die's memory sensors below 80 °C (R17) and of all sensors below 90 °C (R19). -/
def Power.track (p : Power) (die now : Nat) : Power :=
  let mems := (p.sensors.drop (12 * die)).take 4
  let cool := if mems.all (fun c => decide (c < 80)) then some (((p.coolSince.getD die none)).getD now) else none
  let low := if p.sensors.all (fun c => decide (c < 90)) then some (p.below90.getD now) else none
  { p with coolSince := listSet p.coolSince die cool, below90 := low }

/-- `sensor_reading` (R16, R17): a memory sensor at 85 °C or more makes its die HOT; any sensor at 110 °C or more trips the device: a
device-wide fatal fault, the error interrupt, then PS3. In PS3 such a reading raises nothing more, and the next reset holds as after a trip: R16 has the
sensors powered there and says no more (DESIGN CHOICE, log 104). -/
def execSensorReading (die : BitVec 2) (memory : Bool) (idx : BitVec 3) (celsius : Nat) (s : State) : Host.Outcome State Fault Refusal :=
  let d := die.toNat
  let i := 12 * d + (if memory then idx.toNat % 4 else 4 + idx.toNat)
  let p := { s.power with sensors := listSet s.power.sensors i celsius }
  let p := p.track d s.time
  let p := { p with hot := if memory && decide (85 ≤ celsius) then listSet p.hot d true else p.hot
                    tripped := p.tripped || decide (110 ≤ celsius) }
  let s' : State := { s with power := p }
  .next (if 110 ≤ celsius ∧ s.power.ps ≠ 3 then
    ((s'.deviceFatal ⟨34, 0, BitVec.ofNat 320 d, false⟩).sendMsix 0 0).push .ps3Entry
  else s')

/-- `class_to_cool` (R17): all four sensors of the memory die have read below 80 °C for 1 ms. -/
def execClassToCool (die : BitVec 2) (s : State) : Host.Outcome State Fault Refusal :=
  let d := die.toNat
  let p := { s.power with hot := listSet s.power.hot d false }
  .next (match s.power.coolSince.getD d none with
  | some t => if t + 1000000 ≤ s.time then { s with power := p } else s
  | none => s)

/-- Is a thermal throttle step of a die due (R16)? None is below 1.0 GHz (R14). -/
def State.throttleDue (s : State) (die : Nat) : Bool :=
  decide (100 ≤ s.power.hottest die ∧ s.power.hottest die < 110 ∧ s.power.level + s.power.therm.getD die 0 < 3) &&
    passed (s.power.thermStepped.getD die none) 1000000 s.time

/-- `thermal_throttle_step` (R16): the die's core clock steps down one level. -/
def execThermalThrottleStep (die : BitVec 2) (s : State) : Host.Outcome State Fault Refusal :=
  let d := die.toNat
  let p := { s.power with therm := listSet s.power.therm d (s.power.therm.getD d 0 + 1)
                          thermStepped := listSet s.power.thermStepped d (some s.time) }
  .next (if s.throttleDue d then { s with power := p } else s)

/-! ### Reset -/

/-- HBM bytes after a reset: their values are not guaranteed (R19). -/
def scramble : Nat → SMap Byte → SMap Byte
  | _, [] => []
  | n, (a, _) :: r =>
    if a < shmBase then
      let b := Config.free 8 n
      if b = 0 then scramble (n + 1) r else (a, b) :: scramble (n + 1) r
    else scramble n r

/-- The machine after a reset (R19, R22): everything clear but for the junction sensors, a failed memory test across a
warm reset, and what lies outside the device. BOOT_STATUS shows ROM; a reset after a thermal trip holds there. -/
def State.afterReset (s : State) (warm : Bool) : State :=
  let p : Power := { sensors := s.power.sensors, hot := s.power.hot, tripped := s.power.tripped
                     below90 := s.power.below90.map fun _ => 0, coolSince := s.power.coolSince.map fun t => t.map fun _ => 0 }
  let bad := warm && s.boot.memFail
  let b : Boot := { reason := if bad then 5 else 0, memFail := bad, hold := s.power.tripped, helper := if warm then s.boot.helper else none }
  { State.reset with
    mem := scramble s.freeN s.mem, freeN := s.freeN + s.mem.length, hostLog := s.hostLog, outbox := s.outbox, nextTag := s.nextTag
    power := p, boot := b }

/-- `cold_reset` (R19). -/
def execColdReset (s : State) : Host.Outcome State Fault Refusal := .next (s.afterReset false)

/-- `warm_reset` (R19): as a cold reset, with the device key kept. -/
def execWarmReset (s : State) : Host.Outcome State Fault Refusal := .next (s.afterReset true)

/-- `thermal_hold_end` (R19): every sensor has read below 90 °C for 100 ms: the boot sequence goes on. -/
def execThermalHoldEnd (s : State) : Host.Outcome State Fault Refusal :=
  let b := { s.boot with hold := false }
  let p := { s.power with tripped := false }
  .next (match s.power.below90 with
  | some t => if s.boot.hold ∧ t + 100000000 ≤ s.time then { s with boot := b, power := p } else s
  | none => s)

/-! ### Boot -/

/-- The largest image (R20). -/
def imageMax : Nat := 2 ^ 24

/-- The bytes of an image in the boot window. -/
def Boot.bytes (b : Boot) (len : Nat) : List Byte := SMap.read 0 b.image 0 len

/-- Is a configuration record within its ranges (R23)? -/
def recordOk (r : List Byte) : Bool :=
  decide (Config.recordLimit r ≤ 2400 ∧ 1 ≤ Config.recordFuncs r ∧ Config.recordFuncs r ≤ 32) && Config.helperOk (Config.recordHelper r)

/-- The reason code that an image of some length meets (R20, R22); 0 when it is accepted. -/
def Boot.check (b : Boot) (len : Nat) : Nat :=
  if imageMax < len then 3
  else
    let img := b.bytes len
    let key := Config.imageKey img
    let rec_ := Config.imageRecord img
    if (Config.shake256 key).toList ≠ Config.romDigest.toList then 1
    else if !Config.falconVerify key (Config.shake256 (Config.imageBody img ++ rec_)).toList (Config.imageSig img) then 2
    else if !recordOk rec_ then 4 else 0

/-- What an image of some length comes to (R20 to R23): its verification, then the memory test. -/
def Boot.tried (b : Boot) (len : Nat) (memOk : Bool) : BootTrial :=
  let img := b.bytes len
  let r := Config.imageRecord img
  { reason := if b.check len = 0 ∧ memOk = false then 5 else b.check len, secver := Config.imageSecver img, meas := (Config.shake256 img).toList
    cfgMeas := (Config.shake256 r).toList
    record := ⟨Config.recordLimit r, Config.recordPin r, Config.recordFuncs r, Config.recordQuads r, Config.recordHelper r⟩ }

/-- `boot_len_write` (R19 to R23): step 5 begins with the image as it stands, and the steps from there go on by themselves (`State.bootGoes`). It acts while
an image is awaited. -/
def execBootLenWrite (len : BitVec 32) (memOk : Bool) (s : State) : Host.Outcome State Fault Refusal :=
  .next (if (s.boot.state ≠ 1 ∧ s.boot.state ≠ 3) ∨ s.boot.memFail ∨ s.power.ps = 3 then s
  else
    let b := { s.boot with len := len, state := 2, reason := 0, trial := some (s.boot.tried len.toNat memOk) }
    { s with boot := b })

/-- READY (R20 to R24): the measurements and the configuration record of the image are in force, and after a cold reset the device key is derived. -/
def State.bootReady (s : State) (t : BootTrial) : State :=
  let b := { s.boot with state := 5, reason := 0, secver := t.secver, image := [], meas := t.meas, cfgMeas := t.cfgMeas, trial := none
                         helper := some (s.boot.helper.getD t.record.helper) }
  let p := { s.power with limit := t.record.limit }
  { s with boot := b, power := p, cfgrec := t.record }

/-- The boot sequence goes on by itself (R19, R20, R22): from ROM through steps 1 to 3 to WAIT_IMAGE, unless a reset holds; from VERIFYING to TRAINING, or to
FAILED with the image discarded; from TRAINING to READY, or to FAILED with a failed memory test, which stays until a cold reset; from FAILED back to step 4,
with REASON as it stands (log 3). -/
def State.bootGoes (s : State) : State :=
  let fail := fun (n : Nat) => { s.boot with state := 3, reason := n, image := [], trial := none, memFail := n == 5 }
  if s.boot.hold then s
  else if s.boot.memFail then { s with boot := { s.boot with state := 3 } }
  else match s.boot.state, s.boot.trial with
  | 0, _ | 3, _ => { s with boot := { s.boot with state := 1 } }
  | 2, some t => { s with boot := if t.reason = 0 ∨ t.reason = 5 then { s.boot with state := 4 } else fail t.reason }
  | 4, some t => if t.reason = 0 then s.bootReady t else { s with boot := fail t.reason }
  | _, _ => s

/-- BOOT_STATUS as it reads (R22). -/
def Boot.status (b : Boot) : Word :=
  BitVec.ofNat 64 (b.state + b.reason * 2 ^ 4 + (if b.state = 5 then b.secver.toNat else 0) * 2 ^ 8)

end Sys2Proof.Machine
end

