-- ==== Sys2Proof/Machine/Stages.lean ====
section
/-! DEFINITION. Stage pipelines (06_stages.md): the STAGES packet and its table, the stage router and the derailleur. -/

namespace Sys2Proof.Machine

/-! ### Declaring a pipeline -/

/-- Fields of a STAGES packet that break R70 or R79. -/
def State.stagesBad (s : State) (q : BitVec 10) (bs : List Byte) : List Nat :=
  let n := pf bs 4 1
  let first := pf bs 5 1 % 16
  let clen := pf bs 5 1 / 16
  s.commonBad q bs 3 ++ bad (decide (n = 0 ∨ 16 < n)) 4 ++ bad (decide (clen = 1 ∨ 8 < clen ∨ (clen ≠ 0 ∧ n < first + clen))) 5 ++
    bad (decide (32 ≤ pf bs 6 1)) 6 ++ zeros bs 7 1 ++ bad (pf bs 8 1 % 64 != 0) 8 ++ zeros bs 14 2 ++ zeros bs 18 6 ++
    zeros bs 30 2 ++ zeros bs 32 32

/-- Is a stage in the set that a STAGES packet declares: the set's first stage and length? -/
def inRange (first len j : Nat) : Bool := decide (len ≠ 0 ∧ first ≤ j ∧ j < first + len)

/-- Does a tensor have kind RING, with a cursor enabled where one is named (R121)? A descriptor that is not well formed is of no kind (DESIGN CHOICE, log 131). -/
def State.ringOk (s : State) (p : BitVec 5) (ctx : BitVec 3) (tensor : Nat) (cursor : Option Nat) : Bool :=
  match s.descBits p ctx tensor with
  | none => false
  | some b => let d := Desc.ofBits b
    d.kind == 3 && d.wf && descPlain b && (match cursor with | some c => d.cursors.testBit c | none => true)

/-- Fields of a stage table that break R119 to R121, as byte offsets in the table. -/
def State.tableBad (s : State) (p : BitVec 5) (ctx : BitVec 3) (bs tab : List Byte) : List Nat :=
  let n := pf bs 4 1
  let first := pf bs 5 1 % 16
  let clen := pf bs 5 1 / 16
  let det := (pf bs 6 1).testBit 4
  let at_ := fun (j : Nat) => 64 + 32 * j
  let pool := pf tab 2 2
  let mins := sumL ((List.range n).map fun j => pf tab (at_ j + 28) 1)
  let maxs := sumL ((List.range n).map fun j => pf tab (at_ j + 29) 1)
  let entry := fun (j : Nat) =>
    let o := at_ j
    let inset := inRange first clen j
    let gives := !inset || j == first
    let ends := !inset || j + 1 == first + clen
    let mn := pf tab (o + 28) 1
    let mx := pf tab (o + 29) 1
    let fl := pf tab (o + 30) 1
    let noout := fl.testBit 1
    let inr := pf tab (o + 24) 2
    let cur := pf tab (o + 31) 1
    let prev := if j = 0 then none else some (pf tab (at_ (j - 1) + 26) 2)
    bad (pf tab o 2 % 2 ^ 12 != 0) o ++ bad (pf tab (o + 6) 2 != 0) (o + 6) ++ bad (pf tab (o + 16) 1 % 64 != 0) (o + 16) ++
      bad (pf tab (o + 22) 2 != 0) (o + 22) ++
      bad (if gives then decide (4096 ≤ inr) || !s.ringOk p ctx inr none || prev.any (· != inr) else inr != 0) (o + 24) ++
      bad (if ends then decide (4096 ≤ pf tab (o + 26) 2) || (if noout then pf tab (o + 26) 2 != 0 else !s.ringOk p ctx (pf tab (o + 26) 2) none)
        else pf tab (o + 26) 2 != 0) (o + 26) ++
      bad (decide (mn = 0 ∨ 32 < mn)) (o + 28) ++ bad (decide (mx < mn ∨ 32 < mx)) (o + 29) ++
      bad (decide (4 ≤ fl) || (noout && (!ends || j + 1 != n)) || (det && !inset && !fl.testBit 0)) (o + 30) ++
      bad (if gives then decide (8 ≤ cur) || !s.ringOk p ctx inr (some cur) else cur != 0) (o + 31)
  bad (decide (8 ≤ pf tab 0 1)) 0 ++ bad (decide (2 ≤ pf tab 1 1)) 1 ++ bad (decide (pool = 0 ∨ 128 < pool ∨ pool < mins ∨ maxs < pool)) 2 ++
    bad (pf tab 6 58 != 0) 6 ++ (List.range n).flatMap entry

/-- The stages of a table (R120). -/
def tableStages (n : Nat) (tab : List Byte) : List Stage :=
  (List.range n).map fun j =>
    let o := 64 + 32 * j
    { code := pf tab o 6, entries := (List.range 4).map (fun i => BitVec.ofNat 16 (pf tab (o + 8 + 2 * i) 2)), param := pf tab (o + 16) 6
      inring := BitVec.ofNat 12 (pf tab (o + 24) 2), outring := BitVec.ofNat 12 (pf tab (o + 26) 2), min := pf tab (o + 28) 1
      max := pf tab (o + 29) 1, inorder := (pf tab (o + 30) 1).testBit 0, noout := (pf tab (o + 30) 1).testBit 1, cursor := BitVec.ofNat 3 (pf tab (o + 31) 1) }

/-- The window of verdicts at declaration (R129): alternating, the oldest a DROP. -/
def firstWindow : List Bool := (List.range 256).map fun i => i % 2 == 1

/-- The pipeline that a STAGES packet and its table declare. -/
def makePipe (bs tab : List Byte) : Pipeline :=
  let clen := pf bs 5 1 / 16
  let seed := BitVec.ofNat 16 (pf bs 16 2)
  { stages := tableStages (pf bs 4 1) tab, cfirst := pf bs 5 1 % 16, clen := clen, dweight := pf bs 6 1 % 16
    det := (pf bs 6 1).testBit 4, fixed := (pf tab 1 1).testBit 0, pool := pf tab 2 1, counts := List.replicate (pf bs 4 1) 0
    queues := List.replicate clen [], windows := List.replicate clen firstWindow, lottery := if seed = 0 then 1 else seed }

/-- `stages_packet` (R79, R119 to R122, R471): the packet and its table are checked, and the pipeline accepted or refused. -/
def execStagesPacket (queue : BitVec 10) (s : State) : Host.Outcome State Fault Refusal :=
  .next (s.onHead queue 5 fun s i bs _ =>
    let k := s.queue queue
    let p := k.part
    let ctx := pktCtx bs
    match firstBad (s.stagesBad queue bs) with
    | some off => s.badPacket queue i bs 1 (malformed queue i off)
    | none =>
      let table := pf bs 8 6
      s.needFar (opQueue queue) p ctx [(table, 64 + 32 * pf bs 4 1)] fun s => match s.linRead p ctx table (64 + 32 * pf bs 4 1) with
      | (s, .error .absent) =>
        let n := 64 + 32 * pf bs 4 1
        (s.linMiss p ctx ((s.firstAbsent p ctx (pieces64 (n / 64 + 2) table n)).getD table) 0).setStatus queue 5
      | (s, .error e) => s.badPacket queue i bs 1 ⟨26, linSub e, detQ queue.toNat i 8 (addr := table), false⟩
      | (s, .ok tab) =>
        let bads := s.tableBad p ctx bs tab
        if !bads.isEmpty then
          s.badPacket queue i bs 1 ⟨18, 0, detQ queue.toNat i 8 (w44 := bads.foldl min (bads.headD 0)), false⟩
        else if (s.part p).cores.length < pf tab 2 1 then s.badPacket queue i bs 1 ⟨19, 0, detQ queue.toNat i 8 (w44 := 2), false⟩
        else
          let l : Launch :=
            { acc := (s.part p).nextAcc, queue := queue, index := BitVec.ofNat 64 i, ctx := ctx, life := .placewait, gang := pf tab 2 1
              prio := min (pf tab 0 1 % 8) k.prio.toNat, est := pf tab 4 2, signal := pf bs 24 6, intr := intrOf k.func.toNat bs
              barrier := (pf bs 1 1).testBit 1, pipe := some (makePipe bs tab), since := s.time }
          let s := s.modPart p fun t => { t with nextAcc := t.nextAcc + 1, launches := t.launches ++ [l] }
          (s.modQueue queue fun k => { k with headAcc := some l.acc }).setStatus queue 5)

/-! ### The stage router -/

/-- May the device work for a pipeline: its launch is resident and its partition runs? -/
def State.pipeRuns (s : State) (p : BitVec 5) (acc : Nat) : Bool :=
  let t := s.part p
  (t.launch acc).any fun l => l.life == .resident && t.halt.isNone && !t.halted && t.runctx == l.ctx

/-- The pipeline that the router works for, and the first stage of its set. -/
def State.routing (s : State) (p : BitVec 5) (acc : Nat) : Option (Launch × Pipeline × Stage) :=
  if !s.pipeRuns p acc then none
  else match (s.part p).launch acc with
    | none => none
    | some l => match l.pipe with
      | none => none
      | some g => if g.clen = 0 then none else (g.stages[g.cfirst]?).map fun st => (l, g, st)

/-- The slot of a record in a ring (R123, R146). -/
def State.ringSlot (s : State) (p : BitVec 5) (ctx : BitVec 3) (tensor : BitVec 12) (seq : Nat) : Nat :=
  128 + 64 * (seq % 2 ^ (Desc.ofBits ((s.descBits p ctx tensor.toNat).getD 0)).logslots)

/-- `router_admit` (R127): the next record of the set's input enters the set, with DONE 0. With none in the set it is the one at the router's cursor. -/
def execRouterAdmit (part : BitVec 5) (acc : Nat) (s : State) : Host.Outcome State Fault Refusal :=
  .next (match s.routing part acc with
  | none => s
  | some (l, g, st) =>
    if 256 ≤ (g.recs.filter fun r => !r.gone).length then s
    else match s.ringRead (opRing part acc 0) part l.ctx st.inring 0 8 with
      | (s, .error e) => s.routerFail (opRing part acc 0) part l.ctx st.inring 0 0 e
      | (s, .ok bs) =>
        let cur := 16 + 8 * st.cursor.toNat
        match s.ringRead (opRing part acc 0) part l.ctx st.inring cur 8 with
        | (s, .error e) => s.routerFail (opRing part acc 0) part l.ctx st.inring cur 0 e
        | (s, .ok cb) =>
          let next := if g.recs.isEmpty then leNat cb else g.admitted
          if leNat bs ≤ next then s.devDone (opRing part acc 0)
          else
            let at_ := s.ringSlot part l.ctx st.inring next + 4
            match s.ringWrite part l.ctx st.inring at_ [0] with
            | .error e => s.routerFail (opRing part acc 0) part l.ctx st.inring at_ 1 e
            | .ok s => (s.modPart part fun t => t.modPipe acc fun g => { g with recs := g.recs ++ [{ seq := next }], admitted := next + 1 }).devDone
                (opRing part acc 0))

/-- A record leaves the set. -/
def Pipeline.leave (g : Pipeline) (q : Nat) : Pipeline :=
  { g with recs := g.recs.map (fun r => if r.seq = q then { r with gone := true } else r), exitQ := g.exitQ.filter (· != q) }

/-- The least enabled cursor of a ring, for the router. -/
def State.ringMin (s : State) (p : BitVec 5) (ctx : BitVec 3) (tensor : BitVec 12) (op : Nat) : State × Except LinErr Nat :=
  let d := Desc.ofBits ((s.descBits p ctx tensor.toNat).getD 0)
  ((List.range 8).filter fun c => d.cursors.testBit c).foldl (fun acc c =>
    match acc with
    | (s, .error e) => (s, .error e)
    | (s, .ok m) => match s.ringRead op p ctx tensor (16 + 8 * c) 8 with
      | (s, .ok bs) => (s, .ok (min m (leNat bs)))
      | (s, .error e) => (s, .error e)) (s, .ok (2 ^ 64))

/-- One record goes from the set to its output ring, by a put as R123 gives it, with every DONE bit set (R124, R128). -/
def State.routerExit (s : State) (p : BitVec 5) (acc : Nat) (l : Launch) (g : Pipeline) (st : Stage) (q : Nat) : State :=
  let gone := fun (s : State) => s.modPart p fun t => t.modPipe acc fun g => g.leave q
  match g.stages[g.cfirst + g.clen - 1]? with
  | none => s
  | some last =>
    if last.noout then gone s
    else
      let out := last.outring
      match s.ringRead (opRing p acc 4) p l.ctx st.inring (s.ringSlot p l.ctx st.inring q) 64 with
      | (s, .error e) => s.routerFail (opRing p acc 4) p l.ctx st.inring (s.ringSlot p l.ctx st.inring q) 0 e
      | (s, .ok bs) =>
        match s.ringRead (opRing p acc 4) p l.ctx out 0 8 with
        | (s, .error e) => s.routerFail (opRing p acc 4) p l.ctx out 0 0 e
        | (s, .ok pb) =>
          let put := leNat pb
          match s.ringMin p l.ctx out (opRing p acc 4) with
          | (s, .error e) => s.routerFail (opRing p acc 4) p l.ctx out 16 0 e
          | (s, .ok low) =>
            let d := Desc.ofBits ((s.descBits p l.ctx out.toNat).getD 0)
            if 2 ^ d.logslots ≤ put - low then s.devDone (opRing p acc 4)
            else
              let at_ := s.ringSlot p l.ctx out put
              match s.ringWrite p l.ctx out at_ (leBytes 4 put ++ BitVec.ofNat 8 (2 ^ g.clen - 1) :: bs.drop 5) with
              | .error e => s.routerFail (opRing p acc 4) p l.ctx out at_ 1 e
              | .ok s => match s.ringWrite p l.ctx out 0 (leBytes 8 (put + 1)) with
                | .error e => s.routerFail (opRing p acc 4) p l.ctx out 0 1 e
                | .ok s => (gone s).devDone (opRing p acc 4)

/-- The router's cursor advances over the longest prefix of records that have left (R128). -/
def State.routerFree (s : State) (p : BitVec 5) (acc : Nat) (l : Launch) (st : Stage) : State :=
  match (s.part p).pipeOf acc with
  | none => s
  | some g =>
    let n := (g.recs.takeWhile (·.gone)).length
    if n = 0 then s
    else
      let next := ((g.recs[n]?).map (·.seq)).getD g.admitted
      let at_ := 16 + 8 * st.cursor.toNat
      match s.ringWrite p l.ctx st.inring at_ (leBytes 8 next) with
      | .error e => s.routerFail (opRing p acc 4) p l.ctx st.inring at_ 1 e
      | .ok s => s.modPart p fun t => t.modPipe acc fun g => { g with recs := g.recs.drop n }

/-- The depth of a set stage (R127): records routed to it and not yet finished there. -/
def Pipeline.depth (g : Pipeline) (j : Nat) : Nat := (g.recs.filter fun r => r.stage == some j).length

/-- PASSCNT of set stage `i` (R129). -/
def Pipeline.passes (g : Pipeline) (i : Nat) : Nat := ((g.windows.getD i []).filter id).length

/-- Stages that a record may go to: DONE bit 0 and dispatch queue not full (R130); with DET only the lowest whose DONE bit is 0 (R132). -/
def Pipeline.candidates (g : Pipeline) (r : SetRec) : List Nat :=
  let todo := (List.range g.clen).filter fun i => !r.done.getLsbD i
  let todo := if g.det then todo.take 1 else todo
  todo.filter fun i => decide ((g.queues.getD i []).length < 32)

/-- One step of the lottery register (R131). -/
def lotteryStep (l : BitVec 16) : BitVec 16 := if l.getLsbD 0 then (l >>> 1) ^^^ 0xB400 else l >>> 1

/-- The routing decision on a record (R130 to R132): the set stage that wins, and the lottery register after it. -/
def Pipeline.decide (g : Pipeline) (r : SetRec) : Option (Nat × BitVec 16) :=
  let cs := g.candidates r
  let score := fun (i : Nat) => g.passes i + g.dweight * g.depth (g.cfirst + i)
  match cs with
  | [] => none
  | c :: _ =>
    let best := cs.foldl (fun m i => Nat.min m (score i)) (score c)
    let ties := cs.filter fun i => score i == best
    if ties.length ≤ 1 then ties.head?.map fun i => (i, g.lottery)
    else (ties[g.lottery.toNat % ties.length]?).map fun i => (i, lotteryStep g.lottery)

/-- The record that is routed next (R130): the lowest sequence number among those waiting. -/
def Pipeline.waiting (g : Pipeline) : Option SetRec :=
  g.recs.find? fun r => !r.gone && r.stage.isNone && r.done != BitVec.ofNat 8 (2 ^ g.clen - 1)

/-- Routes the next waiting record, if a stage can take it. -/
def Pipeline.route (g : Pipeline) : Pipeline :=
  match g.waiting with
  | none => g
  | some r =>
    match g.decide r with
    | none => g
    | some (i, lot) =>
      { g with lottery := lot, queues := g.queues.mapIdx (fun k l => if k = i then l ++ [r.seq] else l)
               recs := g.recs.map fun x => if x.seq = r.seq then { x with stage := some (g.cfirst + i) } else x }

/-- The router routes the next waiting record, lets one that has every DONE bit exit, and frees the slots of those that have left (R128, R130 to R133). -/
def State.routeStep (s : State) (p : BitVec 5) (acc : Nat) : State :=
  match s.routing p acc with
  | none => s
  | some (l, g, st) =>
    let s := s.modPart p fun t => t.modPipe acc Pipeline.route
    let s := match g.nextExit with
      | some q => s.routerExit p acc l g st q
      | none => s
    if (s.part p).halt.isSome then s else s.routerFree p acc l st

/-- The stage whose output ring closes next (R126): that of a set once no record can leave it any more. -/
def Pipeline.nextClose (g : Pipeline) : Option Nat := g.toClose.find? fun k => !g.inSet k || g.nextExit.isNone

/-- Has a pipeline whose crews have all exited nothing left to do: no record to let go, no slot to free and no ring to close (R126, R128)? -/
def Pipeline.over (g : Pipeline) : Bool := g.toClose.isEmpty && g.nextExit.isNone && !(g.recs.head?.any (·.gone))

/-- The next ring of a pipeline closes; the pipeline is complete once that is all (R126). -/
def State.closeStep (s : State) (p : BitVec 5) (acc : Nat) : State :=
  match (s.part p).launch acc with
  | none => s
  | some l =>
    match l.pipe with
    | none => s
    | some g =>
      match g.nextClose with
      | some k =>
        match s.closeRing p acc l.ctx (((g.stages[k]?).map (·.outring)).getD 0) with
        | (t, true) => t.modPart p fun t => t.modPipe acc fun g => { g with toClose := g.toClose.filter (· != k) }
        | (t, false) => t
      | none => if g.over && decide (l.cores.length ≤ l.exited.length) then s.finishLaunch p acc else s

/-- `router_decision` (R126, R128, R130 to R133): a record that has every DONE bit exits, the cursor frees the slots of those that have left, and
the next waiting record is routed; the rings of stages whose crews have all exited close, and the pipeline is completed. -/
def execRouterDecision (part : BitVec 5) (acc : Nat) (s : State) : Host.Outcome State Fault Refusal :=
  .next (
    let s := s.routeStep part acc
    if s.pipeRuns part acc then s.closeStep part acc else s)

/-! ### The derailleur -/

/-- Records waiting at a stage (R135): none yet while a ring of another package has not answered. A ring that cannot be read counts as 0, with nothing
recorded (DESIGN CHOICE, log 123). -/
def State.waitingAt (s : State) (p : BitVec 5) (acc : Nat) (ctx : BitVec 3) (g : Pipeline) (j : Nat) : State × Option Nat :=
  let word := fun (s : State) (t : BitVec 12) (at_ : Nat) => match s.ringRead (opRing p acc 3) p ctx t at_ 8 with
    | (s, .ok b) => (s, some (some (leNat b)))
    | (s, .error (.away _ _)) => (s, none)
    | (s, .error _) => (s, some none)
  if g.inSet j then (s, some (g.queues.getD (j - g.cfirst) []).length)
  else match g.stages[j]? with
    | none => (s, some 0)
    | some st =>
      let (s, a) := word s st.inring 0
      let (s, b) := word s st.inring (16 + 8 * st.cursor.toNat)
      (s, match a, b with
        | some (some a), some (some b) => some (a - b)
        | some _, some _ => some 0
        | _, _ => none)

/-- The measures of a stage: its number, N, Q, BP, MIN and MAX (R135). -/
structure Measure where
  j  : Nat
  n  : Nat
  q  : Nat
  bp : Bool
  mn : Nat
  mx : Nat
  deriving DecidableEq, Repr

/-- The receiver of R136: the highest Q / N, ties to the lower stage. -/
def receiver (ms : List Measure) : Option Measure :=
  (ms.filter fun m => decide (m.n < m.mx ∧ 2 * m.n ≤ m.q) && !m.bp).foldl (fun best m =>
    match best with
    | none => some m
    | some b => if b.q * m.n < m.q * b.n then some m else some b) none

/-- The donor of R136: BP first, then the lowest Q / N, then the higher stage. -/
def donorStage (ms : List Measure) (r : Measure) : Option Measure :=
  (ms.filter fun m => m.j != r.j && decide (m.mn < m.n) && (m.bp || m.q == 0)).foldl (fun best m =>
    match best with
    | none => some m
    | some b =>
      let better := if m.bp != b.bp then m.bp else decide (m.q * b.n ≤ b.q * m.n)
      if better then some m else some b) none

/-- The crew of a stage on the highest core. -/
def State.topCrew (s : State) (p : BitVec 5) (acc j : Nat) : Option (BitVec 7) :=
  (((s.residents p).filter fun e => e.2.acc == acc && e.2.stage == some j).getLast?).map (·.1)

/-- `derailleur_evaluate` (R135, R136): every 2,048 fabric cycles, a receiver and a donor stage, and a move marked. -/
def execDerailleurEvaluate (part : BitVec 5) (acc : Nat) (s : State) : Host.Outcome State Fault Refusal :=
  .next (match (s.part part).launch acc with
  | none => s
  | some l =>
    match l.pipe with
    | none => s
    | some g =>
      if g.fixed || s.time < g.nextEval || l.life != .resident || (s.part part).halt.isSome then s
      else
        let (s, qs) := (List.range g.stages.length).foldl (fun (a : State × List (Option Nat)) j =>
          let (s, q) := a.1.waitingAt part acc l.ctx g j
          (s, a.2 ++ [q])) (s, [])
        if qs.any (·.isNone) then s
        else
        let ms := g.stages.zipIdx.map fun e =>
          (⟨e.2, g.counts.getD e.2 0, (qs.getD e.2 none).getD 0, g.bp.contains e.2, e.1.min, e.1.max⟩ : Measure)
        let mv := match g.move with
          | some m => some m
          | none => (receiver ms).bind fun r => (donorStage ms r).bind fun d => (s.topCrew part acc d.j).map fun c => (c, r.j)
        (s.modPart part fun t => t.modPipe acc fun g => { g with bp := [], nextEval := s.time + 1024, move := mv }).devDone (opRing part acc 3))

/-- A stage crew (R120, R122). -/
def stageCrew (p : BitVec 5) (l : Launch) (g : Pipeline) (st : Stage) (j rank : Nat) : Crew :=
  { part := p, ctx := l.ctx, acc := l.acc, rank := rank, size := g.pool, code := st.code, slots := [], stage := some j }

/-- Does a take wait for a move at its record boundary (R125, R137)? -/
def XCmd.leaving (m : XCmd) : Bool := m.started && m.inner == 2 && match m.kind with
  | .ringTake _ _ _ _ => true
  | _ => false

/-- Is the X strand of a crew at its record boundary, with its commands retired (R125, R137)? At a take, those that wait for the take behind it are left out. -/
def Core.atBoundary (c : Core) : Bool :=
  let x := c.xs
  x.net.isEmpty && x.counts.isEmpty && c.slog.isEmpty &&
    if x.queue.isEmpty then (c.heldOf .x).point == 1
    else x.queue.any (·.leaving) && x.queue.all (fun m => m.leaving || (!m.started && m.progress != .all)) && x.nextStart.isNone

/-- `derailleur_move` (R137): at the donor crew's record boundary, a take or the exit of X, with its X commands retired, its core starts again as a crew of the receiver
stage. A donor stage that has fallen to MIN keeps its crew. -/
def execDerailleurMove (part : BitVec 5) (acc : Nat) (s : State) : Host.Outcome State Fault Refusal :=
  .next (match (s.part part).launch acc with
  | none => s
  | some l =>
    match l.pipe.bind fun g => g.move.map fun m => (g, m) with
    | none => s
    | some (g, c, r) =>
      let cancel := fun (s : State) => s.modPart part fun t => t.modPipe acc fun g => { g with move := none }
      match (s.core c).crew with
      | none => cancel s
      | some w =>
        let j := w.stage.getD 0
        match g.stages[j]?, g.stages[r]? with
        | some dst, some rst =>
          if g.counts.getD j 0 ≤ dst.min then cancel s
          else if !(s.core c).atBoundary || !s.coreRuns c then s
          else
            let n := g.counts.getD r 0 + 1
            let counts := listSet (listSet g.counts j (g.counts.getD j 0 - 1)) r n
            let s := s.modPart part fun t => t.modPipe acc fun g => { g with move := none, counts := counts }
            let s := { s with waits := s.waits.filter fun w => w.core != c }
            s.startCrew c (stageCrew part l g rst r w.rank) rst.entries rst.params r n
        | _, _ => cancel s)

end Sys2Proof.Machine
end

