-- ==== Sys2Proof/Machine/Place.lean ====
section
/-! DEFINITION. Placement (R97, R98, R102, R112, R118, R122), the choice of a context (R112) and pre-emption (R115 to R117). -/

namespace Sys2Proof.Machine

/-- Idle owned cores of a die. -/
def State.idleOn (s : State) (p : BitVec 5) (die : Nat) : Nat := ((s.part p).cores.filter fun c => decide (c.toNat / 32 = die) && s.idle p c).length

/-- The dies that a launch tries, in order (R98). -/
def State.dieOrder (s : State) (p : BitVec 5) (l : Launch) : List Nat :=
  match l.place, l.dieHint with
  | 1, some d => [d]
  | 2, _ => sortBy (fun a b => decide (s.idleOn p b ≤ s.idleOn p a)) [0, 1, 2, 3]
  | _, _ => [0, 1, 2, 3]

/-- Where a launch would be placed now: the cores of the first fitting candidate, or the lowest idle cores for a pipeline (R97, R98,
R122). -/
def State.position (s : State) (p : BitVec 5) (l : Launch) : Option (List (BitVec 7)) :=
  let ok := fun (c : Nat) => (s.part p).ownsCore c && s.idle p (BitVec.ofNat 7 c)
  if l.pipe.isSome then
    let cs := (s.part p).cores.filter fun c => s.idle p c
    if l.gang ≤ cs.length then some (cs.take l.gang) else none
  else
    ((s.dieOrder p l).findSome? fun d => (shapes l.gang d).find? fun cs => cs.all ok).map fun cs => cs.map (BitVec.ofNat 7)

/-- May cores be given out now: their clock is not gated (R14), the partition runs, and neither a pre-emption nor a swap is under way? -/
def State.placing (s : State) (p : BitVec 5) : Bool :=
  let t := s.part p
  s.power.ps != 2 && !t.fatal && !t.halted && t.halt.isNone && t.preempt.isNone && t.swap.isNone

/-- Does the partition's reservation leave cores to a launch (R102)? It withholds them from equal and lower priorities, and from saved gangs of such. -/
def Part.roomFor (t : Part) (l : Launch) : Bool := match t.reserve.bind t.launch with
  | some h => h.acc == l.acc || decide (h.prio < l.prio)
  | none => true

/-- Do the rules of R102 and R112 let a launch be placed before the others? SAVED and REQUEUED gangs come first, in order of acceptance. -/
def Part.mayPlace (t : Part) (l : Launch) : Bool :=
  let older := t.launches.filter fun m => m.ctx == l.ctx && (m.life == .saved || m.life == .requeued)
  let turn := match l.life with
    | .placewait => older.isEmpty
    | .saved | .requeued => older.all fun m => decide (l.acc ≤ m.acc)
    | _ => false
  turn && t.roomFor l && t.bound.getLsbD l.ctx.toNat && t.runctx == l.ctx

/-- Does BARRIER hold a launch at the head of its queue (R82)? -/
def State.barred (s : State) (l : Launch) : Bool :=
  l.barrier && (s.queue l.queue).headAcc == some l.acc && !(s.queue l.queue).busy.isEmpty

/-- Could a launch be placed now? -/
def State.placeable (s : State) (p : BitVec 5) (l : Launch) : Bool :=
  s.placing p && (s.part p).mayPlace l && !s.barred l && (s.position p l).isSome

/-- The decode tables, generators and pending copies of a core as its context has them. -/
def Core.adopt (c : Core) (x : Ctx) : Core := { c with dtabs := x.dtabs, gens := x.gens, genUpd := [], dtabUpd := [] }

/-- A launch gives up what it held at the head of its queue: READ advances (R68, R105), and the packet counts as outstanding (R82). -/
def State.leaveHead (s : State) (l : Launch) : State :=
  if (s.queue l.queue).headAcc == some l.acc then
    (s.modQueue l.queue fun k => { k with busy := ⟨l.index, l.acc⟩ :: k.busy }).consume l.queue l.index.toNat l.slots
  else s

/-- The words of a parameter block (R73). -/
def wordsOf (bs : List Byte) : List Word := (chunks 8 (bs.length / 8) bs).map (leBV 64)

/-- What reading a launch's parameters gives: done, still waiting, or a failing access with its address. -/
inductive Loaded where
  | ok (s : State) (l : Launch)
  | wait (s : State)
  | fail (s : State) (e : LinErr) (addr : Nat)

/-- What placing a launch reads: the header of its code objects, and the parameter blocks that it has still to read (R73, R120, R275). -/
def Launch.blocks (l : Launch) : List (Nat × Nat) :=
  let codes := match l.pipe with
    | none => [l.code]
    | some g => g.stages.map fun (e : Stage) => e.code
  codes.map (fun a => (a, 128)) ++ if l.loaded then []
  else (match l.pipe with
    | none => [(l.param, if l.area then 256 else 224)]
    | some g => g.stages.map fun (e : Stage) => (e.param, 256)).filter fun e => e.1 != 0

/-- Reads the parameter block of a launch (R73), or those of a pipeline's stages (R120). -/
def State.loadParams (s : State) (p : BitVec 5) (l : Launch) : Loaded :=
  let read := fun (s : State) (a n : Nat) (k : State → List Word → Loaded) =>
    if a = 0 then k s (List.replicate (n / 8) 0)
    else match s.linRead p l.ctx a n with
      | (s, .ok bs) => k s (wordsOf bs)
      | (s, .error .absent) => .wait (s.linMiss p l.ctx ((s.firstAbsent p l.ctx (pieces64 (n / 64 + 2) a n)).getD a) 0)
      | (s, .error e) => .fail s e a
  if l.loaded then .ok s l
  else match l.pipe with
    | none => read s l.param (if l.area then 256 else 224) fun s ws => .ok s { l with params := l.params ++ ws, loaded := true }
    | some g =>
      g.stages.zipIdx.foldl (fun acc e =>
        match acc with
        | .ok s l => read s e.1.param 256 fun s ws => .ok s { l with pipe := l.pipe.map fun g =>
            { g with stages := listSet g.stages e.2 { e.1 with params := ws } } }
        | r => r) (.ok s { l with loaded := true })

/-- The stages of a pool's crews in the order in which they are handed out (R122): MIN crews for each stage, then one at a time for the stages in turn
that are below their MAX. -/
def handOrder (stages : List Stage) (pool : Nat) : List Nat :=
  (List.range (32 * stages.length)).foldl (fun l i =>
    let j := i % stages.length
    if l.length < pool ∧ (l.filter (· == j)).length < ((stages[j]?).map (·.max)).getD 0 then l ++ [j] else l)
    (stages.zipIdx.flatMap fun e => List.replicate e.1.min e.2)

/-- How many crews each stage receives (R122). -/
def handOut (stages : List Stage) (pool : Nat) : List Nat :=
  (List.range stages.length).map fun j => ((handOrder stages pool).filter (· == j)).length

/-- Starts a new launch's crews on cores (R97, R104, R107, R277). -/
def State.startLaunch (s : State) (p : BitVec 5) (l : Launch) (all : List (BitVec 7)) : State :=
  let cs := all.take l.gang
  let s := s.modPart p fun t =>
    { t.modLaunch l.acc (fun _ => { l with life := .resident, cores := cs, reserved := all.drop l.gang, exited := [], placed := s.time, policy := none }) with
      reserve := if t.reserve = some l.acc then none else t.reserve }
  let s := s.leaveHead l
  let s := l.groups.foldl (fun s g => s.modPart p fun t => t.modGroup g fun e => { e with joined := e.joined + l.gang }) s
  let s := match l.chunkq with
    | some q => s.modPart p fun t => t.modChunk l.ctx q.toNat fun k => { k with workers := k.workers + l.gang }
    | none => s
  let x := (s.part p).ctx l.ctx
  let s := cs.foldl (fun s c => s.modCore c fun r => r.adopt x) s
  cs.zipIdx.foldl (fun s e =>
    s.startCrew e.1 { part := p, ctx := l.ctx, acc := l.acc, rank := e.2, size := l.gang, code := l.code, groups := l.groups, chunkq := l.chunkq }
      l.entries l.params e.2 l.gang) s

/-- Starts a pipeline's stage crews (R122). -/
def State.startPipe (s : State) (p : BitVec 5) (l : Launch) (g : Pipeline) (cs : List (BitVec 7)) : State :=
  let counts := handOut g.stages g.pool
  let g := { g with counts := counts, nextEval := s.time + 1024 }
  let s := s.modPart p fun t =>
    { t.modLaunch l.acc (fun _ => { l with life := .resident, cores := cs, exited := [], placed := s.time, policy := none, pipe := some g }) with
      reserve := if t.reserve = some l.acc then none else t.reserve }
  let s := s.leaveHead l
  let x := (s.part p).ctx l.ctx
  let s := cs.foldl (fun s c => s.modCore c fun r => r.adopt x) s
  (cs.zip (handOrder g.stages g.pool)).zipIdx.foldl (fun s e =>
    match g.stages[e.1.2]? with
    | some st => s.startCrew e.1.1 (stageCrew p l g st e.1.2 e.2) st.entries st.params e.1.2 (counts.getD e.1.2 0)
    | none => s) s

/-- A launch whose parameters cannot be read is treated as malformed, with a PACKET_ACCESS record (R471). -/
def State.dropLaunch (s : State) (p : BitVec 5) (l : Launch) (e : LinErr) (addr : Nat) : State :=
  let s := s.note p l.ctx ⟨26, linSub e, detQ l.queue.toNat l.index.toNat (if l.pipe.isSome then 8 else 32) (addr := addr), false⟩
  let s := ((s.oweSignal p { l.job false with intr := l.intr }).launchDone p l.acc).modPart p fun t =>
    { t with reserve := if t.reserve = some l.acc then none else t.reserve }
  if (s.queue l.queue).headAcc == some l.acc then s.consume l.queue l.index.toNat l.slots else s

/-! ### The running context and pre-emption -/

/-- The earliest accepted launch that has waited 100 µs for placement (R102); a STAGES pipeline is one as well, and waits behind a reservation (DESIGN CHOICE,
log 128). -/
def Part.overdue (t : Part) (now : Nat) : Option Launch :=
  (t.launches.filter fun l => l.life == .placewait && decide (l.since + 100000 ≤ now)).head?

/-- `placement_reservation` (R102): that launch reserves cores, unless one already does. -/
def execPlacementReservation (part : BitVec 5) (s : State) : Host.Outcome State Fault Refusal :=
  .next (if (s.part part).reserve.isSome then s
  else match (s.part part).overdue s.time with
    | some l => s.modPart part fun t => { t with reserve := some l.acc }
    | none => s)

/-- The highest priority of a context's pending work (R112); none without any. -/
def Part.pending (t : Part) (c : BitVec 3) : Option Nat :=
  let ls := t.launches.filter fun l => l.ctx == c && (l.life == .placewait || l.life == .requeued || l.life == .saved)
  if ls.isEmpty then none else some (ls.foldl (fun m l => max m l.prio) 0)

/-- The context that R112 chooses, where another than the running one is to run: no crew is resident, and the running one has nothing that
could be placed. -/
def State.chooseCtx (s : State) (p : BitVec 5) : Option (BitVec 3) :=
  let t := s.part p
  if s.running p || t.launches.any (·.life == .resident) || !s.placing p || t.cores.isEmpty || (t.launches.any fun l => s.placeable p l) || !t.migrs.isEmpty then none
  else
    let cs := ((List.range 8).map fun c => BitVec.ofNat 3 c).filter fun c => c != t.runctx && t.bound.getLsbD c.toNat && (t.pending c).isSome
    cs.foldl (fun best c =>
      match best with
      | none => some c
      | some b => if (t.pending b).getD 0 < (t.pending c).getD 0 then some c else some b) none

/-- `context_select` (R112, R246): the chosen context is swapped in. -/
def execContextSelect (part : BitVec 5) (s : State) : Host.Outcome State Fault Refusal :=
  .next (match s.chooseCtx part with
  | none => s
  | some c => (s.modPart part fun t => { t with swap := some { outCtx := t.runctx, inCtx := c, step := 2 } }).push (.contextSwap part))

/-- The running priority (R113). -/
def Part.runPrio (t : Part) : Nat :=
  (t.launches.filter fun l => l.life == .resident && l.ctx == t.runctx).foldl (fun m l => max m l.prio) 0

/-- TCOST of a priority (R114). -/
def Part.tcost (t : Part) (k : Nat) : Nat := fld t.ptcost (8 * k) 8

/-- Fields of PPOLICY (R114). -/
def Part.drainMax (t : Part) : Nat := fld t.ppolicy 0 16
def Part.killMax (t : Part) : Nat := fld t.ppolicy 16 16
def Part.yDead (t : Part) : Nat := fld t.ppolicy 32 16

/-- May a launch start a pre-emption (R115)? -/
def State.preempts (s : State) (p : BitVec 5) (l : Launch) : Bool :=
  let t := s.part p
  l.life == .placewait && l.pipe.isNone && l.ctx != t.runctx && t.bound.getLsbD l.ctx.toNat && s.running p && s.placing p &&
    decide (t.runPrio < l.prio) && t.tcost l.prio != 255 && decide (t.tcost l.prio ≤ l.tokens ∧ l.tokens ≤ (s.queue l.queue).balance)

/-- How many queues of its level are served before a queue, from the next one on (R68). -/
def State.turnOf (s : State) (q : BitVec 10) : Nat := (q.toNat + 1024 - s.nextQ.getD (s.queue q).prio.toNat 0 % 1024) % 1024

/-- The launch that starts a pre-emption: highest PRIO, then queue order: the queue's PRIO, then round-robin (R68, R115). -/
def State.preemptor (s : State) (p : BitVec 5) : Option Launch :=
  ((s.part p).launches.filter fun l => s.preempts p l).foldl (fun best l =>
    match best with
    | none => some l
    | some b =>
      let q := fun (m : Launch) => (s.queue m.queue).prio.toNat
      if b.prio < l.prio ∨ (b.prio = l.prio ∧ (q b < q l ∨ (q b = q l ∧ s.turnOf l.queue < s.turnOf b.queue))) then some l else some b) none

/-- Microseconds that a gang has been resident (R116, R118). -/
def Launch.elapsed (l : Launch) (now : Nat) : Nat := (l.ranFor + (now - l.placed)) / 1000

/-- The policy for a gang (R116). -/
def Part.policyFor (t : Part) (l : Launch) (now : Nat) : Policy :=
  let e := l.elapsed now
  if l.est ≠ 0 ∧ l.est - e ≤ t.drainMax then .drain
  else if e ≤ t.killMax && (l.restart || t.ppolicy.getLsbD 48) then .kill
  else .checkpoint

/-- `preempt_decision` (R115 to R117): the tokens are deducted, each resident gang gets a policy, and the crews of DRAIN gangs see a yield
request; without a DRAIN gang the halt line rises at once. Pending moves are cancelled (R137). -/
def execPreemptDecision (part : BitVec 5) (s : State) : Host.Outcome State Fault Refusal :=
  .next (match s.preemptor part with
  | none => s
  | some n =>
    let t := s.part part
    let dead := s.time + 1000 * t.yDead
    let s := s.modQueue n.queue fun k => { k with balance := k.balance - n.tokens }
    let mark := fun (l : Launch) => if l.life == .resident then
      { l with policy := some (t.policyFor l s.time), pipe := l.pipe.map fun g => { g with move := none } } else l
    let s := s.modPart part fun t => { t with launches := t.launches.map mark, preempt := some { newCtx := n.ctx, newAcc := n.acc, deadline := dead } }
    let drains := ((s.part part).launches.filter fun l => l.policy == some Policy.drain && l.life == .resident).map (·.acc)
    let s := (s.residents part).foldl (fun s e =>
      if drains.contains e.2.acc then s.modCore e.1 fun r => { r with yld := { r.yld with deadline := some dead } } else s) s
    if drains.isEmpty then s.raiseLine part 2 else s)

/-- Has every crew of every DRAIN gang yielded or exited (R117)? -/
def State.drained (s : State) (p : BitVec 5) : Bool :=
  (s.residents p).all fun e =>
    match (s.part p).launch e.2.acc with
    | some l => l.policy != some Policy.drain || (s.core e.1).yld.coop
    | none => true

/-- Is a pre-emption to raise the halt line now (R117)? -/
def State.yieldDue (s : State) (p : BitVec 5) : Bool :=
  match (s.part p).preempt with
  | some e => (s.part p).halt.isNone && (s.drained p || decide (e.deadline ≤ s.time))
  | none => false

/-- `yield_deadline` (R117): at the deadline, or once every DRAIN gang is cooperative, the halt line rises. -/
def execYieldDeadline (part : BitVec 5) (s : State) : Host.Outcome State Fault Refusal :=
  .next (if s.yieldDue part then s.raiseLine part 2 else s)

end Sys2Proof.Machine
end

