-- ==== Sys2Proof/Machine/Swap.lean ====
section
/-! DEFINITION. Saving, restoring and placing gangs: the swap of contexts (R246, R247), the scratchpad's courses (R173, R174) and
placement (R97, R112, R118, R122, R138). -/

namespace Sys2Proof.Machine

/-! ### Storage of a swap -/

/-- The shadow slot of a core (R245). -/
def slotPa (c : BitVec 7) : Nat := shmPa (c.toNat / 32) ((192 + 2 * (c.toNat % 32)) * 2 ^ 19)

/-- Writes whole rows. -/
def State.putRows (s : State) (pa : Nat) (bs : List Byte) : State :=
  ((chunks 2048 (bs.length / 2048) bs).zipIdx).foldl (fun s e => s.bankWrite (pa + 2048 * e.2) e.1) s

/-- Reads rows, or answers the first that cannot be read. -/
def State.getRows (s : State) (pa rows : Nat) : Except Nat (List Byte) :=
  (List.range rows).foldl (fun acc i => match acc with
    | .error a => .error a
    | .ok bs => match (s.bankRead (pa + 2048 * i) 2048).2 with
      | .data b => .ok (bs ++ b)
      | _ => .error (pa + 2048 * i)) (.ok [])

/-- Copies one row with the poison of its blocks (R18). -/
def State.copyRow (s : State) (src dst : Nat) : State :=
  let t := s.bankWrite dst (s.peek src 2048)
  (List.range 32).foldl (fun t i => if s.poisoned (src + 64 * i) then t.poisonBlock (dst + 64 * i) else t) t

/-- The address that a CTXSAVE or SCRSAVE register names; 0 for none (R172, R244). -/
def areaBase (regs : SMap Word) (ctx : BitVec 3) : Nat := fld (SMap.get 0 regs ctx.toNat) 16 32 * 65536

/-- Is an area of `n` bytes present: named, and in HBM? -/
def areaOk (base n : Nat) : Bool := decide (base ≠ 0 ∧ base + n ≤ shmBase)

/-- SWAP_FAULT (R247): a FATAL record; the swap goes no further. A slot or an area has no linear address: DETAIL names it by the model's number (DESIGN CHOICE,
log 132). -/
def State.swapFault (s : State) (p : BitVec 5) (addr : Nat) : State :=
  let s := s.modPart p fun t => { t with swap := none, preempt := none }
  s.fatalRecord p (faultRec 3 ⟨32, 0, detA addr, false⟩ (s.part p).runctx none 7 s.time 0 0)

/-- SAVE_AREA (R172, R247). -/
def State.saveArea (s : State) (p : BitVec 5) (ctx : BitVec 3) (sub : Nat) : State :=
  s.note p ctx ⟨25, sub, BitVec.ofNat 320 ctx.toNat, false⟩

/-! ### Scratchpads (R173, R174) -/

/-- The rows of a partition's cores that are copied out: not expired, and of TAGGED and RENEWED units; one that is not USED is as TAGGED (R163). Row r of the
j-th core is 2048 j + r. -/
def State.rowsToSave (s : State) (cs : List (BitVec 7)) : List Nat :=
  cs.zipIdx.flatMap fun e =>
    let first := rowOf (scrPa e.1.toNat 0)
    (s.rowLive.filter fun x => x.2 && decide (first ≤ x.1 ∧ x.1 < first + 2048) && !s.expired (2048 * x.1) &&
      (let u := (s.core e.1).units.toList.getD ((x.1 - first) / 8) 0
       !u.getLsbD 0 || !u.getLsbD 2)).map fun x => 2048 * e.2 + (x.1 - first)

/-- Has a core a unit whose rows are to be copied? -/
def Core.mustSave (c : Core) : Bool := c.units.toList.any fun u => u.getLsbD 0 && !u.getLsbD 2

/-- The swap-out of the scratchpads (R172, R173): rows to the save area, then every row of the partition's scratchpads is set
EXP. What belongs to the context in each core is kept with it. -/
def State.rowsOut (s : State) (p : BitVec 5) : State :=
  let cs := (s.part p).cores
  let ctx := (s.part p).runctx
  let base := areaBase (s.part p).scrsave ctx
  let rows := s.rowsToSave cs
  let need := !rows.isEmpty || cs.any fun c => (s.core c).mustSave
  let ok := areaOk base (2 ^ 22 * cs.length)
  let rows := if ok then rows else []
  let saved : List (BitVec 7 × Core) := cs.map fun c => (c, { units := (s.core c).units, ev := (s.core c).ev })
  let s := rows.foldl (fun s n => s.copyRow (scrPa ((cs.getD (n / 2048) 0).toNat) (n % 2048 * 2048)) (base + 2048 * n)) s
  let s := if need && !ok then s.saveArea p ctx 1 else s
  let s := s.modPart p fun t => t.modCtx ctx fun x => { x with savedCores := saved, savedRows := rows }
  cs.foldl (fun s c => s.expireRows (rowOf (scrPa c.toNat 0)) 2048) s

/-- The tiles of a context whose entries name a unit of a core of this package (R148). -/
def State.namesUnit (s : State) (p : BitVec 5) (ctx : BitVec 3) (core unit : Nat) : List (Nat × Nat × Desc) :=
  (List.range (((s.part p).ctx ctx).ndesc.toNat + 1)).flatMap fun t =>
    match s.descBits p ctx t with
    | none => []
    | some b =>
      let d := Desc.ofBits b
      if d.kind = 2 ∨ !d.wf then []
      else
        let same := fun (u : Nat) => if d.tileBytes = 65536 then u / 4 == unit / 4 else u == unit
        ((List.range d.tiles).filter fun i =>
          let e := s.tileEntry d i
          e.getLsbD 0 && decide (fld e 4 2 = 2 ∧ fld e 16 9 = s.fabric.index ∧ fld e 40 7 = core) && same (fld e 32 8)).map fun i => (t, i, d)

/-- A saved unit whose core the partition no longer owns (R174): its tiles are poisoned and QUADS_CHANGED is recorded. -/
def State.loseUnit (s : State) (p : BitVec 5) (ctx : BitVec 3) (core unit : Nat) : State :=
  let hits := s.namesUnit p ctx core unit
  let first := match hits with
    | h :: _ => detT h.1 0 h.2.1 0
    | [] => 0
  let s := hits.foldl (fun s h => s.bankWrite (h.2.2.ttptr + 8 * h.2.1) (bvBytes 8 (s.tileEntry h.2.2 h.2.1 ||| 8))) s
  s.note p ctx ⟨24, 4, first, false⟩

/-- The swap-in of the scratchpads (R173, R174): rows that were saved live are rewritten and are fresh. A core that is gone loses every unit that was USED, of
whatever class (DESIGN CHOICE, logs 74 and 91). -/
def State.rowsIn (s : State) (p : BitVec 5) : State :=
  let ctx := (s.part p).runctx
  let x := (s.part p).ctx ctx
  let base := areaBase (s.part p).scrsave ctx
  x.savedCores.zipIdx.foldl (fun s e =>
    let core := e.1.1.toNat
    if (s.part p).ownsCore core then
      (x.savedRows.filter fun n => n / 2048 == e.2).foldl (fun s n => s.copyRow (base + 2048 * n) (scrPa core (n % 2048 * 2048))) s
    else
      ((List.range 256).filter fun u => (e.1.2.units.toList.getD u 0).getLsbD 0).foldl (fun s u => s.loseUnit p ctx core u) s) s

/-! ### Out -/

/-- A context's partition-level items as at bind (R247). -/
def Ctx.unsaved (x : Ctx) : Ctx :=
  { key := x.key, ttable := x.ttable, ndesc := x.ndesc, gen := x.gen, savedCores := x.savedCores, savedRows := x.savedRows }

/-- The partition-level items of a slot, as a context block (R244). -/
def blockOf (slot : List Byte) : List Byte :=
  List.replicate 0x3000 0 ++ (slot.drop 0x3000).take 0x5000 ++ List.replicate 0x8000 0

/-- An image as a swap writes it: zeros for the partition-level items (R245). -/
def imageOf (slot : List Byte) : List Byte := slot.take 0x3000 ++ List.replicate 0x5000 0 ++ slot.drop 0x8000

/-- The crews of the resident gangs leave the counts of their chunk queues, before these are saved with the context (R107). -/
def State.unbind (s : State) (p : BitVec 5) : State :=
  (s.residents p).foldl (fun s e => match e.2.chunkq with
    | some q => s.modPart p fun t => t.modChunk e.2.ctx q.toNat fun k => { k with workers := k.workers - 1 }
    | none => s) s

/-- Updates that the generator home has not performed are taken back at a swap-out: the instruction makes them again (R189). -/
def State.dropGen (s : State) (p : BitVec 5) : State :=
  ((s.part p).genQ.foldl (fun s e => s.modCore e.1 fun r =>
    r.setStr .s { (r.str .s) with held := ((r.str .s).held).map fun h => { h with point := 0 } }) s).modPart p fun t => { t with genQ := [] }

/-- Step 3 of R246: images and the context block go to the shadow slots. -/
def State.toShadow (s : State) (p : BitVec 5) : State :=
  let s := s.dropGen p
  let first := (s.part p).cores.headD 0
  let res := s.residents p
  let s := s.unbind p
  let s := if res.any (fun e => e.1 == first) then s
    else
      let (b, s) := s.ctxBlock p (s.part p).runctx
      s.putRows (slotPa first) b
  let s := s.modPart p fun t => t.modCtx t.runctx fun x => { x with capsNew := [] }
  res.foldl (fun s e =>
    let (im, s) := s.image e.1 (e.1 == first)
    s.putRows (slotPa e.1) im) s

/-- A resident gang becomes SAVED (R105): its crews leave their cores. -/
def State.saveGang (s : State) (p : BitVec 5) (l : Launch) : State :=
  let crews := ((s.residents p).zipIdx.filter fun e => e.1.2.acc == l.acc).map fun e =>
    (⟨e.2, e.1.1, e.1.1, s.core e.1.1, s.waits.filter fun w => w.core == e.1.1⟩ : SavedCrew)
  s.modPart p fun t => t.modLaunch l.acc fun l =>
    { l with life := .saved, reserved := [], since := s.time, ranFor := l.ranFor + (s.time - l.placed), policy := none, saved := crews }

/-- The resident gangs of a partition. -/
def Part.gangs (t : Part) : List Launch := t.launches.filter fun l => l.life == .resident

/-- Step 4 of R246, R247: the slots go to the state area, and the gangs are saved; without an area nothing is kept and the gangs are
treated as under KILL. -/
def State.toArea (s : State) (p : BitVec 5) : State :=
  let out := (s.part p).runctx
  let base := areaBase (s.part p).ctxsave out
  let res := s.residents p
  if base = 0 then
    let s := s.saveArea p out 2
    let s := (s.part p).gangs.foldl (fun s l => s.discardGang p l.acc true) s
    s.modPart p fun t => t.modCtx out Ctx.unsaved
  else if !areaOk base (2 ^ 16 + 2 ^ 20 * res.length) then s.swapFault p base
  else
    let write := fun (acc : Except Nat State) (slot rows at_ : Nat) (f : List Byte → List Byte) => match acc with
      | .error a => .error a
      | .ok s => match s.getRows slot rows with
        | .error a => .error a
        | .ok bs => .ok (s.putRows at_ (f bs))
    let r := write (.ok s) (slotPa ((s.part p).cores.headD 0)) 32 base blockOf
    match res.zipIdx.foldl (fun acc e => write acc (slotPa e.1.1) 512 (base + 2 ^ 16 + 2 ^ 20 * e.2) imageOf) r with
    | .error a => s.swapFault p a
    | .ok s =>
      let s := (s.part p).gangs.foldl (fun s l => s.saveGang p l) s
      let s := s.modPart p fun t => t.modCtx out fun x => { x with savedImg := true }
      res.foldl (fun s e => s.vacate e.1) s

/-! ### In -/

/-- The crew's rank and stage in a saved crew. -/
def SavedCrew.rank (c : SavedCrew) : Nat := (c.state.crew.map (·.rank)).getD 0
def SavedCrew.stage (c : SavedCrew) : Nat := (c.state.crew.bind (·.stage)).getD 0

/-- A saved gang placed on cores: by rank (R97), or for a pipeline stage by stage with the saved counts (R138). The cores are reserved until its
crews are loaded. -/
def Launch.seat (l : Launch) (cs : List (BitVec 7)) : Launch :=
  let core := fun (c : SavedCrew) => match l.pipe with
    | none => cs.getD c.rank 0
    | some g =>
      let before := (l.saved.filter fun d => d.stage == c.stage && decide (d.old < c.old)).length
      cs.getD (sumL (g.counts.take c.stage) + before) 0
  let saved := l.saved.map fun c => { c with core := core c }
  let moved := fun (c : BitVec 7) => ((saved.find? fun d => d.old == c).map (·.core)).getD c
  { l with saved := saved, reserved := cs
           cores := (List.range l.gang).map fun r => ((saved.find? fun c => c.rank == r).map (·.core)).getD (cs.getD r 0)
           pipe := l.pipe.map fun g => { g with takes := g.takes.map fun t => { t with core := moved t.core } } }

/-- Step 5 of R246 for one gang: the images of its crews go to the slots of their cores. -/
def State.toSlots (s : State) (p : BitVec 5) (l : Launch) : Except Nat State :=
  let base := areaBase (s.part p).ctxsave l.ctx
  l.saved.foldl (fun acc c => match acc with
    | .error a => .error a
    | .ok s => match s.getRows (base + 2 ^ 16 + 2 ^ 20 * c.image) 512 with
      | .error a => .error a
      | .ok bs => .ok (s.putRows (slotPa c.core) bs)) (.ok s)

/-- A crew whose copies of descriptors are gone: it reads each again at the first use (R141). -/
def Crew.reread (w : Crew) : Crew := { w with descs := [] }

/-- Step 7 of R246 for one gang: each slot is loaded into its core. A crew that lands on another core than it left finds the unit table of that core, whose
rows those are (DEDUCED, log 74); descriptors are read again (R141). -/
def State.loadGang (s : State) (p : BitVec 5) (l : Launch) : Except Nat State :=
  let x := (s.part p).ctx l.ctx
  let r : Except Nat State := l.saved.foldl (fun acc c => match acc with
    | .error a => .error a
    | .ok (s : State) => match s.getRows (slotPa c.core) 512 with
      | .error a => .error a
      | .ok bs =>
        let k := (c.state.restored fun o n => (bs.drop o).take n).adopt x
        let k := { k with crew := k.crew.map Crew.reread }
        let k := { k with units := if c.core = c.old then k.units else (s.core c.core).units, tcs := Vector.replicate 5 [], steal := none }
        let s := s.setCore c.core k
        let s := { s with waits := s.waits ++ (c.reqs.filter fun w => !w.isRead).map fun (w : FarReq) => { w with core := c.core } }
        .ok s) (.ok s)
  match r with
  | .error a => .error a
  | .ok s =>
    let s := match l.chunkq with
      | some q => s.modPart p fun t => t.modChunk l.ctx q.toNat fun k => { k with workers := k.workers + l.saved.length }
      | none => s
    .ok (s.modPart p fun t => t.modLaunch l.acc fun l =>
      { l with life := .resident, placed := s.time, saved := [], reserved := if l.pipe.isSome then [] else l.reserved.drop l.gang })

/-- Gangs of the running context that are to be placed in step 5: the SAVED ones before the first REQUEUED one, in order of acceptance
(R112, R246). -/
def Part.returning (t : Part) : List Launch :=
  (sortBy (fun a b => decide (a.acc ≤ b.acc)) (t.launches.filter fun l => l.ctx == t.runctx && (l.life == .saved || l.life == .requeued))).takeWhile
    fun l => l.life == .saved

/-- Step 5 of R246: the saved gangs are placed in order, as far as they fit, and their images and the context block are read into the
slots. -/
def State.fromArea (s : State) (p : BitVec 5) : State :=
  let x := (s.part p).ctx (s.part p).runctx
  if !x.savedImg then s
  else
    let base := areaBase (s.part p).ctxsave (s.part p).runctx
    let r := (s.part p).returning.foldl (fun (acc : Except Nat State × Bool) l => match acc with
      | (.ok s, true) => match if (s.part p).roomFor l then s.position p l else none with
        | none => (.ok s, false)
        | some cs =>
          let l := l.seat cs
          ((s.modPart p fun t => t.modLaunch l.acc fun _ => l).toSlots p l, true)
      | r => r) (.ok s, true)
    match r.1 with
    | .error a => s.swapFault p a
    | .ok s => match s.getRows base 32 with
      | .error a => s.swapFault p a
      | .ok bs => s.putRows (slotPa ((s.part p).cores.headD 0) + 0x3000) ((bs.drop 0x3000).take 0x5000)

/-- Step 7 of R246: the context block, the unit tables and counters, and the crews are loaded; the entries are settled and the strands
start. -/
def State.fromShadow (s : State) (p : BitVec 5) : State :=
  let ctx := (s.part p).runctx
  let x := (s.part p).ctx ctx
  let cs := (s.part p).cores
  let block := if x.savedImg then s.getRows (slotPa (cs.headD 0)) 32 else .ok []
  match block with
  | .error a => s.swapFault p a
  | .ok bs =>
    let x := if x.savedImg then x.ofBlock fun o n => (bs.drop o).take n else x
    let s := s.modPart p fun t => t.modCtx ctx fun _ => { x with savedCores := [], savedRows := [] }
    let s := cs.foldl (fun s c => s.modCore c fun r =>
      let own := ((x.savedCores.find? fun e => e.1 == c).map (·.2)).getD {}
      ({ r with units := own.units, ev := own.ev } : Core).adopt x) s
    let seated := (s.part p).launches.filter fun l => l.life == .saved && !l.reserved.isEmpty
    match seated.foldl (fun (acc : Except Nat State) l => match acc with
        | .error a => .error a
        | .ok s => s.loadGang p l) (.ok s) with
    | .error a => s.swapFault p a
    | .ok s =>
      (s.modPart p fun t => { t with halted := false, halt := none, preempt := none, swap := none }).settleCores cs

/-! ### The swap -/

/-- Step 2 of R246: what was handed over has been acknowledged, what other packages were asked has been answered, posted writes are visible (R214, R215),
every copy has its descriptors and decode tables (R189), and no migration is in progress. -/
def State.swapQuiet (s : State) (p : BitVec 5) : Bool :=
  (s.part p).migrs.isEmpty && (s.part p).cores.all fun c =>
    let r := s.core c
    r.xs.net.isEmpty && r.xs.counts.isEmpty && r.steal.all (fun t => t.left.isEmpty) && r.wcb.isEmpty && r.xs.queue.all (fun m => !m.moving) && r.genUpd.isEmpty && r.dtabUpd.isEmpty && !s.posting c &&
      s.waits.all fun w => w.core != c || w.answer.isSome

/-- `context_swap` (R117, R246, R247): the next step of a swap. A pre-emption's swap begins once its halt is complete, with the fates of
R117. -/
def execContextSwap (part : BitVec 5) (s : State) : Host.Outcome State Fault Refusal :=
  .next (
    let t := s.part part
    let go := fun (s : State) (n : Nat) => s.modPart part fun t => { t with swap := t.swap.map fun w => { w with step := n } }
    if t.fatal then s
    else match t.swap with
    | none => match t.preempt, t.halt with
      | some e, some h =>
        if h.done && h.cause == 2 then
          s.modPart part fun t => { t with swap := some { outCtx := t.runctx, inCtx := e.newCtx, step := 1 } }
        else s
      | _, _ => s
    | some w =>
      match w.step with
      | 1 => go ((t.gangs.filter fun l => l.policy == some Policy.kill).foldl (fun s l => s.discardGang part l.acc true) s) 2
      | 2 => if s.swapQuiet part then go s 3 else s
      | 3 => if t.bound.getLsbD w.outCtx.toNat then go ((s.toShadow part).rowsOut part) 4
        else go (t.cores.foldl (fun s c => s.expireRows (rowOf (scrPa c.toNat 0)) 2048) s) 5
      | 4 => go (s.toArea part) 5
      | 5 => go ((s.modPart part fun t => { t with runctx := w.inCtx }).fromArea part) 6
      | 6 => go (s.rowsIn part) 7
      | _ => s.fromShadow part)

/-! ### Placement -/

/-- A SAVED gang that did not return with its context's swap is placed and its crews loaded (R118). -/
def State.restoreGang (s : State) (p : BitVec 5) (l : Launch) (cs : List (BitVec 7)) : State :=
  let l := l.seat cs
  let s := s.modPart p fun t => t.modLaunch l.acc fun _ => l
  match s.toSlots p l with
  | .error a => s.swapFault p a
  | .ok t => match t.loadGang p l with
    | .error a => s.swapFault p a
    | .ok t => t.settleCores (l.saved.map (·.core))

/-- What placing a launch does once it fits. -/
def State.placeLaunch (s : State) (p : BitVec 5) (l : Launch) (cs : List (BitVec 7)) : State :=
  if l.life == .saved then s.restoreGang p l cs
  else (s.needFar (opPart p) p l.ctx l.blocks fun s => match s.loadParams p l with
    | .wait s => s
    | .fail s e a => s.dropLaunch p l e a
    | .ok s l => match l.pipe with
      | none => s.startLaunch p l cs
      | some g => s.startPipe p l g cs).devDone (opPart p)

/-- `launch_placement` (R97 to R102, R105, R112, R118): a gang is placed all at once, where the first fitting candidate is. -/
def execLaunchPlacement (part : BitVec 5) (acc : Nat) (s : State) : Host.Outcome State Fault Refusal :=
  .next (match (s.part part).launch acc with
  | none => s
  | some l => match s.position part l with
    | some cs => if s.placeable part l && l.pipe.isNone then s.placeLaunch part l cs else s
    | none => s)

/-- `pipeline_placement` (R122, R138): a pipeline is placed on the POOL lowest-indexed idle cores. -/
def execPipelinePlacement (part : BitVec 5) (acc : Nat) (s : State) : Host.Outcome State Fault Refusal :=
  .next (match (s.part part).launch acc with
  | none => s
  | some l => match s.position part l with
    | some cs => if s.placeable part l && l.pipe.isSome then s.placeLaunch part l cs else s
    | none => s)

end Sys2Proof.Machine
end

