-- ==== Sys2Proof/Machine/Regs.lean ====
section
/-! DEFINITION. Registers of the host and of firmware: partition definitions and contexts (R84 to R89, R114, R154, R172, R238, R244),
BAR 0 (R59, R60) as it is written and as it reads. -/

namespace Sys2Proof.Machine

/-! ### Partition definitions -/

/-- PSTATE.FATAL clears once every BOUND bit and PQUADS are zero (R238). -/
def Part.refreshed (t : Part) : Part :=
  if t.fatal && t.bound == 0 && t.pquads == 0 then { t with fatal := false, halted := false, halt := none, preempt := none, swap := none } else t

/-- May firmware change a partition's definition now (R85, R238)? -/
def State.mayDefine (s : State) (p : BitVec 5) : Bool := !s.running p || (s.part p).fatal

/-- A field of a quota register, by die (R85, R86). -/
def quota (v : Word) (die : Nat) : Nat := fld v (16 * die) 16

/-- Does a register that holds four quotas keep the sums of R86, with every quota at most the limit? -/
def State.sumsOk (s : State) (p : BitVec 5) (reg : Part → Word) (v : Word) (limit : Nat) : Bool :=
  (List.range 4).all fun d =>
    decide (quota v d + sumL (((List.range 32).filter fun q => q != p.toNat).map fun q => quota (reg (s.part (BitVec.ofNat 5 q))) d) ≤ limit)

/-- Has the partition a quad on the die (R10, R86)? -/
def Part.onDie (quads : BitVec 32) (die : Nat) : Bool := fld quads (8 * die) 8 != 0

/-- Cores whose owner changes become clean, and their stores that are still under way stay (R84, R88). -/
def State.changeQuads (s : State) (p : BitVec 5) (v : BitVec 32) : State :=
  let old := s.part p
  let cs := ((List.range 128).filter fun c => old.ownsCore c != v.getLsbD (c / 4)).map fun c => BitVec.ofNat 7 c
  let s := cs.foldl (fun s c => s.modCore c fun r => { wcb := r.wcb, posted := r.posted, clearing := r.clearing }) s
  s.modPart p fun t => ({ t with pquads := v } : Part).refreshed

/-- `pquads_write` (R23, R84 to R86, R238). -/
def execPquadsWrite (part : BitVec 5) (value : BitVec 64) (s : State) : Host.Outcome State Fault Refusal :=
  let v : BitVec 32 := value.setWidth 32
  let t := s.part part
  let taken := (List.range 32).any fun q => q != part.toNat && (s.part (BitVec.ofNat 5 q)).pquads &&& v != 0
  let noWalks := (List.range 4).any fun d => Part.onDie v d && (quota t.pwalks d == 0 || quota t.pxwalks d == 0)
  .next (if !s.mayDefine part || taken || noWalks || v &&& s.cfgrec.quadsOff != 0 then s else s.changeQuads part v)

/-- `pshm_write` (R85, R86). -/
def execPshmWrite (part : BitVec 5) (value : BitVec 64) (s : State) : Host.Outcome State Fault Refusal :=
  .next (if !s.running part && s.sumsOk part (·.pshm) value 6144 then s.modPart part fun t => { t with pshm := value } else s)

/-- `pframes_write` (R85, R86). -/
def execPframesWrite (part : BitVec 5) (value : BitVec 64) (s : State) : Host.Outcome State Fault Refusal :=
  let others := sumL (((List.range 32).filter fun q => q != part.toNat).map fun q => (s.part (BitVec.ofNat 5 q)).pframes.toNat)
  .next (if !s.running part && decide (fld value 0 24 + others ≤ 2 ^ 23) then s.modPart part fun t => { t with pframes := value.setWidth 24 } else s)

/-- `pqueues_write` (R85, R86). -/
def execPqueuesWrite (part : BitVec 5) (value : BitVec 64) (s : State) : Host.Outcome State Fault Refusal :=
  let others := sumL (((List.range 32).filter fun q => q != part.toNat).map fun q => (s.part (BitVec.ofNat 5 q)).pqueues.toNat)
  .next (if !s.running part && decide (fld value 0 11 + others ≤ 1024) then s.modPart part fun t => { t with pqueues := value.setWidth 11 } else s)

/-- Would the quotas leave a die where the partition owns a quad without walks (R86)? -/
def Part.starves (t : Part) (v : Word) : Bool := (List.range 4).any fun d => Part.onDie t.pquads d && quota v d == 0

/-- `pwalks_write` (R85, R86, R328). -/
def execPwalksWrite (part : BitVec 5) (value : BitVec 64) (s : State) : Host.Outcome State Fault Refusal :=
  .next (if !s.running part && s.sumsOk part (·.pwalks) value 256 && !(s.part part).starves value then
    s.modPart part fun t => { t with pwalks := value } else s)

/-- `pxwalks_write` (R85, R86, R217). -/
def execPxwalksWrite (part : BitVec 5) (value : BitVec 64) (s : State) : Host.Outcome State Fault Refusal :=
  .next (if !s.running part && s.sumsOk part (·.pxwalks) value 256 && !(s.part part).starves value then
    s.modPart part fun t => { t with pxwalks := value } else s)

/-- PPOLICY as a write stores it (R114). -/
def policyStored (v : Word) : Word :=
  let y := fld v 32 16
  BitVec.ofNat 64 (fld v 0 32 + (if y = 0 then 1 else min y 10000) * 2 ^ 32 + fld v 48 1 * 2 ^ 48)

/-- `ppolicy_write` (R114). -/
def execPpolicyWrite (part : BitVec 5) (value : BitVec 64) (s : State) : Host.Outcome State Fault Refusal :=
  .next (s.modPart part fun t => { t with ppolicy := policyStored value })

/-- The stripes of a die that a partition owns (R154). -/
def Part.stripes (t : Part) (die : Nat) : Nat := ((List.range 192).filter fun k => (SMap.get 0 t.pstripe (stripeIdx die k)).getLsbD 3).length

/-- `pstripe_write` (R154, R169): one nibble. Clearing OWN sets EXP on the stripe's rows. -/
def execPstripeWrite (part : BitVec 5) (die : BitVec 2) (stripe : BitVec 8) (own : Bool) (ctx : BitVec 3) (s : State) :
    Host.Outcome State Fault Refusal :=
  let k := stripeIdx die.toNat stripe.toNat
  let t := s.part part
  let had := (SMap.get 0 t.pstripe k).getLsbD 3
  let taken := (List.range 32).any fun q => q != part.toNat && (SMap.get 0 (s.part (BitVec.ofNat 5 q)).pstripe k).getLsbD 3
  let t' := { t with pstripe := SMap.put 0 t.pstripe k ((if own then (1 : BitVec 1) else 0) ++ ctx) }
  .next (if 192 ≤ stripe.toNat ∨ s.running part ∨ (own ∧ (taken ∨ (quota t.pshm die.toNat + 31) / 32 < t'.stripes die.toNat)) then s
  else
    let s := s.setPart part t'
    if had && !own then s.expireRows (rowOf (shmPa die.toNat (stripe.toNat * 2 ^ 19))) 256 else s)

/-! ### Contexts (R89, R238) -/

/-- Is a context entry one that can be bound (R89)? -/
def Ctx.bindable (x : Ctx) : Bool := x.key != 0 && x.ttable.toNat % 64 == 0 && x.resv == 0

/-- `context_bind` (R89): BOUND is set, unless the entry is refused. The context starts with its partition-level items as R247 lists them,
and no key of it stands in the partition's translation caches. -/
def execContextBind (part : BitVec 5) (ctx : BitVec 3) (s : State) : Host.Outcome State Fault Refusal :=
  let t := s.part part
  let x := t.ctx ctx
  .next (if t.bound.getLsbD ctx.toNat || !x.bindable then s
  else
    let s := t.cores.foldl (fun s c => s.modCore c fun r => { r with tcs := r.tcs.map fun l => l.filter fun e => e.ctx != ctx }) s
    s.modPart part fun t =>
      { t.modCtx ctx fun x => { key := x.key, ttable := x.ttable, ndesc := x.ndesc, gen := x.gen } with bound := t.bound ||| (1 <<< ctx.toNat) })

/-- Does the context run, with a crew, or has it gangs that have run (R89)? -/
def State.inUse (s : State) (p : BitVec 5) (ctx : BitVec 3) : Bool :=
  let t := s.part p
  (t.runctx == ctx && s.running p) || t.launches.any fun l => l.ctx == ctx && (l.life == .saved || l.life == .requeued)

/-- `context_unbind` (R89, R238): BOUND is cleared; under FATAL the context's gangs are discarded for good. -/
def execContextUnbind (part : BitVec 5) (ctx : BitVec 3) (s : State) : Host.Outcome State Fault Refusal :=
  let t := s.part part
  .next (if !t.bound.getLsbD ctx.toNat || (s.inUse part ctx && !t.fatal) then s
  else
    let gangs := t.launches.filter fun l => l.ctx == ctx && (l.life == .resident || l.life == .saved || l.life == .requeued)
    let s := if t.fatal then gangs.foldl (fun s l => s.discardGang part l.acc false) s else s
    let s := if t.runctx == ctx then t.cores.foldl (fun s c => s.modCore c fun r => { r with units := Vector.replicate 256 0, ev := {} }) s else s
    s.modPart part fun t => ({ t with bound := t.bound &&& ~~~(1#8 <<< ctx.toNat) } : Part).refreshed)

/-! ### BAR 0 -/

/-- Bits held at zero below the BAR 2 size (R59). -/
def Func.window (f : Func) (v : Word) : Word := (v >>> f.logsize) <<< f.logsize

/-- The functions that the device presents (R58). -/
def State.hasFunc (s : State) (f : BitVec 6) : Bool := decide (f.toNat ≤ s.cfgrec.nvf)

/-- MBCMD (R63): while BUSY it is ignored; else the data in is taken and the command runs. -/
def State.mailboxCmd (s : State) (f : BitVec 6) (v : W32) : State :=
  let m := (s.func f.toNat).mbox
  if m.stat.getLsbD 0 then s
  else
    (s.modFunc f.toNat fun g => { g with mbox := { m with stat := 1, inp := m.buf, code := v } }).push (mailEvent f v)

/-- A write of the mailbox region (R63). -/
def State.mailboxWrite (s : State) (f : BitVec 6) (off : Nat) (bs : List Byte) : State :=
  if 0x100 ≤ off ∧ off + bs.length ≤ 0x1000 then
    s.modFunc f.toNat fun g => { g with mbox := { g.mbox with buf := SMap.write 0 g.mbox.buf off bs } }
  else if off = 0 then s.mailboxCmd f (leBV 32 (bs.take 4))
  else s

/-- A write of an MSI-X table (R62, R81): a vector that is unmasked while its bit is pending sends its message. -/
def State.msixWrite (s : State) (f : Nat) (off : Nat) (bs : List Byte) : State :=
  let s := s.modFunc f fun g => { g with msix := SMap.write 0 g.msix off bs }
  let v := off / 16
  if (s.func f).pba.getLsbD v && !(SMap.get 0 (s.func f).msix (16 * v + 12)).getLsbD 0 then
    (s.modFunc f fun g => { g with pba := g.pba &&& ~~~(1#64 <<< v) }).sendMsix f v
  else s

/-- Writes bytes of the boot window (R19). -/
def State.bootWrite (s : State) (off : Nat) (bs : List Byte) : State :=
  if off + bs.length ≤ imageMax then { s with boot := { s.boot with image := SMap.write 0 s.boot.image off bs } } else s

/-- A 64-bit write of the physical function's BAR 0 (R60), at a multiple of 8. Partition registers, QBASE and QCTL ignore it. -/
def State.pfWrite (s : State) (off : Nat) (v : Word) : State :=
  if off = 8 then
    let (ok, s) := s.takeFree 1
    s.push (.bootLenWrite (v.setWidth 32) (ok == 1))
  else if 0x1000 ≤ off ∧ off < 0x2000 then s.mailboxWrite 0 (off - 0x1000) (bvBytes 8 v)
  else if 0x100000 ≤ off ∧ off < 0x101000 then
    let g : BitVec 4 := BitVec.ofNat 4 ((off - 0x100000) / 0x100)
    match off % 0x100 with
    | 0 => s.push (.fctlWrite 0 g v)
    | 0x90 => s.push (.fdirWrite 0 g v)
    | _ => s
  else if off = 0x110000 then s.push (.wincfgWrite 0 v)
  else if off = 0x120000 then s.modFunc 0 fun g => { g with wbase := g.window v }
  else if 0x200000 ≤ off ∧ off < 0x202000 then s.push (.notifyRegisterWrite 0 (BitVec.ofNat 10 ((off - 0x200000) / 8)) v)
  else if 0x400000 ≤ off ∧ off < 0x408000 then s.msixWrite 0 (off - 0x400000) (bvBytes 8 v)
  else if 0x1000000 ≤ off ∧ off < 0x2000000 then s.bootWrite (off - 0x1000000) (bvBytes 8 v)
  else s

/-- A 64-bit write of a virtual function's BAR 0 (R59), at a multiple of 8. -/
def State.vfWrite (s : State) (f : BitVec 6) (off : Nat) (v : Word) : State :=
  if off < 0x2000 then s.push (.notifyRegisterWrite f (BitVec.ofNat 10 (off / 8)) v)
  else if 0x4000 ≤ off ∧ off < 0x43E0 then s.msixWrite f.toNat (off - 0x4000) (bvBytes 8 v)
  else if 0x8000 ≤ off ∧ off < 0x9000 then s.mailboxWrite f (off - 0x8000) (bvBytes 8 v)
  else if off = 0xC000 then s.modFunc f.toNat fun g => { g with wbase := g.window v }
  else s

/-- A partition register as it reads (R85, R89, R114, R154, R172, R244); reserved bits read as zero (R4). -/
def State.partRead (s : State) (p : BitVec 5) (off : Nat) : Word :=
  let t := s.part p
  if off = 0 then s.pstate p
  else if off = 0x08 then t.pquads.setWidth 64
  else if off = 0x10 then t.pshm
  else if off = 0x18 then BitVec.ofNat 64 (t.pframes.toNat + (s.hbmFrames p).length * 2 ^ 32)
  else if off = 0x20 then t.pqueues.setWidth 64
  else if off = 0x28 then t.pwalks
  else if off = 0x30 then t.pfaultq.setWidth 64
  else if off = 0x38 then t.pstop.setWidth 64
  else if off = 0x40 then t.ppolicy
  else if off = 0x48 then t.ptcost
  else if off = 0x50 then t.pxwalks
  else if 0x80 ≤ off ∧ off < 0xC0 then SMap.get 0 t.scrsave ((off - 0x80) / 8)
  else if 0xC0 ≤ off ∧ off < 0x100 then SMap.get 0 t.ctxsave ((off - 0xC0) / 8)
  else if 0x100 ≤ off ∧ off < 0x200 then
    let x := t.ctx (BitVec.ofNat 3 ((off - 0x100) / 32))
    let e : BitVec 256 := (0 : BitVec 96) ++ x.gen ++ ((0 : BitVec 4) ++ x.ndesc ++ x.ttable) ++ x.key
    e.extractLsb' (off % 32 / 8 * 64) 64
  else if 0x200 ≤ off ∧ off < 0x400 then
    BitVec.ofNat 64 ((List.range 16).foldl (fun n i => n + (SMap.get 0 t.pstripe ((off - 0x200) / 8 * 16 + i)).toNat * 16 ^ i) 0)
  else 0

/-- QBASE and QCTL (R64). -/
def Queue.qbase (q : Queue) : Word := q.header.setWidth 64
def Queue.qctl (q : Queue) : Word :=
  BitVec.ofNat 64 (bitIf q.enable 0 + q.logslots.toNat * 2 ^ 4 + q.prio.toNat * 2 ^ 9 + q.func.toNat * 2 ^ 12 + q.budget.toNat * 2 ^ 18 +
    q.notified.toNat % 2 ^ 32 * 2 ^ 32)

/-- The mailbox region as it reads (R63): MBCMD is write-only. -/
def Mailbox.read (m : Mailbox) (off : Nat) : Word :=
  if off = 8 then m.stat.setWidth 64 else if 0x100 ≤ off then leBV 64 (SMap.read 0 m.buf off 8) else 0

/-- A 64-bit read of the physical function's BAR 0 (R60), at a multiple of 8. -/
def State.pfRead (s : State) (off : Nat) : Word :=
  if off = 0 then s.boot.status
  else if 0x1000 ≤ off ∧ off < 0x2000 then (s.func 0).mbox.read (off - 0x1000)
  else if 0x100000 ≤ off ∧ off < 0x101000 then
    let r := s.ring ((off - 0x100000) / 0x100)
    let o := off % 0x100
    if o = 0 then r.fctl else if o = 0x90 then r.sdir.setWidth 64 else if o < 0x88 then r.stat ((o - 8) / 8) else 0
  else if off = 0x110000 then s.fabric.wincfg
  else if off = 0x120000 then (s.func 0).wbase
  else if 0x300000 ≤ off ∧ off < 0x304000 then
    let q := s.queue (BitVec.ofNat 10 ((off - 0x300000) / 16))
    if off % 16 = 0 then q.qbase else q.qctl
  else if 0x400000 ≤ off ∧ off < 0x408000 then leBV 64 (SMap.read 0 (s.func 0).msix (off - 0x400000) 8)
  else if off = 0x408000 then (s.func 0).pba
  else if 0x500000 ≤ off ∧ off < 0x600000 then s.partRead (BitVec.ofNat 5 ((off - 0x500000) / 0x8000)) ((off - 0x500000) % 0x8000)
  else if 0x1000000 ≤ off ∧ off < 0x2000000 then leBV 64 (SMap.read 0 s.boot.image (off - 0x1000000) 8)
  else 0

/-- A 64-bit read of a virtual function's BAR 0 (R59). -/
def State.vfRead (s : State) (f : BitVec 6) (off : Nat) : Word :=
  let g := s.func f.toNat
  if 0x4000 ≤ off ∧ off < 0x43E0 then leBV 64 (SMap.read 0 g.msix (off - 0x4000) 8)
  else if off = 0x4800 then g.pba
  else if 0x8000 ≤ off ∧ off < 0x9000 then g.mbox.read (off - 0x8000)
  else if off = 0xC000 then g.wbase
  else 0

/-- A 64-bit read of BAR 0 of a function that the device presents. -/
def State.bar0Read (s : State) (f : BitVec 6) (off : Nat) : Word := if f = 0 then s.pfRead off else s.vfRead f off

/-! ### Registers without a row of their own -/

/-- An address register: bits [47:6] (R85). -/
def addr48 (v : Word) : BitVec 48 := v.extractLsb' 6 42 ++ (0 : BitVec 6)

/-- BASE of a save area register (R172, R244): bits [47:16]. -/
def baseOf (v : Word) : Word := BitVec.ofNat 64 (fld v 16 32 * 65536)

/-- `register_write` (R7, R15, R59, R60, R63, R85, R89, R114, R172, R244): a register without a row of its own stores its writable
fields. -/
def execRegisterWrite (w : RegWrite) (s : State) : Host.Outcome State Fault Refusal :=
  .next (match w with
  | .bar0 f off v =>
    let o := off.toNat / 8 * 8
    if !s.hasFunc f || s.boot.hold then s else if f = 0 then s.pfWrite o v else s.vfWrite f o v
  | .bootWindow f off bs => if f = 0 ∧ s.boot.hold = false then s.bootWrite off.toNat bs else s
  | .mailboxData f off bs => if s.hasFunc f && !s.boot.hold && decide (0x100 ≤ off.toNat) then s.mailboxWrite f off.toNat bs else s
  | .pfaultq p v => s.modPart p fun t => { t with pfaultq := addr48 v }
  | .pstop p v => s.modPart p fun t => { t with pstop := addr48 v }
  | .ptcost p v => s.modPart p fun t => { t with ptcost := v }
  | .scrsave p c v => s.modPart p fun t => { t with scrsave := SMap.put 0 t.scrsave c.toNat (baseOf v) }
  | .ctxsave p c v => s.modPart p fun t => { t with ctxsave := SMap.put 0 t.ctxsave c.toNat (baseOf v) }
  | .ctxEntry p c v =>
    if (s.part p).bound.getLsbD c.toNat then s
    else s.modPart p fun t => t.modCtx c fun x =>
      { x with key := v.extractLsb' 0 64, ttable := v.extractLsb' 64 48, ndesc := v.extractLsb' 112 12, gen := v.extractLsb' 128 32
               resv := v.extractLsb' 160 96 ++ v.extractLsb' 124 4 }
  | .powerLimit n =>
    let q := { s.power with limit := min n 2400 }
    { s with power := q }
  | .barSize f n =>
    if 30 ≤ n ∧ n ≤ (if f = 0 then 40 else 38) ∧ s.hasFunc f then
      s.modFunc f.toNat fun g => { g with logsize := n, wbase := ({ g with logsize := n } : Func).window g.wbase }
    else s)

end Sys2Proof.Machine
end

