-- ==== Sys2Proof/Machine/HostIf.lean ====
section
/-! DEFINITION. The host's accesses through BAR 2 (R57, R59, R61, R213) and the mailbox commands (R25, R63, R243). -/

namespace Sys2Proof.Machine

/-! ### BAR 2 -/

/-- The end of the device's physical memory space that is backed (R59). -/
def physTop : Nat := shmBase + 2 ^ 29

/-- The partition that a virtual function serves (R58). -/
def partOf (f : BitVec 6) : BitVec 5 := BitVec.ofNat 5 (f.toNat - 1)

/-- Where a piece of a host access lies (R59): a physical number, nowhere above the memories, or a reason why not. -/
def State.hostPlace (s : State) (f : BitVec 6) (a n : Nat) (write : Bool) : Except LinErr (Option Nat) :=
  if f = 0 then .ok (if a + n ≤ physTop then some a else none)
  else match s.linPa (partOf f) 0 a n write with
    | .ok pa => .ok (some pa)
    | .error e => .error e

/-- What the host receives. -/
def State.toHost (s : State) (e : HostEv) : State := { s with hostLog := e :: s.hostLog }

/-- HOST_ACCESS (R61): in the partition's fault queue, or for the physical function in the error log. -/
def State.hostFail (s : State) (f : BitVec 6) (sub a : Nat) : State :=
  if f = 0 then s.logErr 17 a else s.note (partOf f) 0 ⟨17, sub, detA a, false⟩

/-- Subcode of HOST_ACCESS for a place that cannot be reached (R61, R240). -/
def hostSub : LinErr → Nat
  | .poison => 2
  | .stale _ => 3
  | _ => 1

/-- The pieces of an access, with their places. -/
def State.hostPieces (s : State) (f : BitVec 6) (a n : Nat) (write : Bool) : List (Nat × Nat × Except LinErr (Option Nat)) :=
  (pieces64 (n / 64 + 2) a n).map fun p => (p.1, p.2, s.hostPlace f p.1 p.2 write)

/-- Does the function exist, does the access lie in its BAR 2, and is there a link to bring it (R19), and a fabric (R14; log 109)? -/
def State.inBar2 (s : State) (f : BitVec 6) (addr n : Nat) : Bool :=
  s.hasFunc f && !s.boot.hold && s.power.ps != 3 && decide (addr + n ≤ 2 ^ (s.func f.toNat).logsize)

/-- An address of BAR 2 as the window places it (R59). -/
def State.bar2At (s : State) (f : BitVec 6) (addr : Nat) : Nat := (s.func f.toNat).wbase.toNat + addr

/-- Runs a host access in its turn (R213): behind those that wait. `f` answers whether it is over; if not it waits and is called up again. -/
def State.hostRun (s : State) (i : Instr) (f : State → State × Bool) : State :=
  match s.hostQ with
  | [] => match f s with
    | (t, true) => t.devDone opHost
    | (t, false) => { t with hostQ := [(i, false)] }
  | (j, called) :: rest =>
    if called && decide (j = i) then match f s with
      | (t, true) => (({ t with hostQ := rest } : State).devDone opHost).kickHost
      | (t, false) => { t with hostQ := (i, false) :: rest }
    else { s with hostQ := s.hostQ ++ [(i, false)] }

/-- Asks for the pieces of a host access that lie on other packages (R57, R61); none when all have been answered. -/
def State.hostAsk (s : State) (f : BitVec 6) (ps : List (Nat × Nat × Except LinErr (Option Nat))) (act : Nat → Nat → DevAct) : Option State :=
  let far := ps.filter fun p => match p.2.2 with
    | .error (.away _ _) => (s.devAnswer (partOf f) 0 p.1 (act p.1 p.2.1)).isNone
    | _ => false
  if far.isEmpty then none else some (far.foldl (fun s p => s.devAsk opHost (partOf f) 0 p.1 (act p.1 p.2.1)) s)

/-- Is it an access that cannot be made, for another reason than poison? -/
def notThere : Except LinErr (Option Nat) → Bool
  | .error .poison | .error (.away _ _) | .ok _ => false
  | .error _ => true

/-- `host_read` (R61): the data; all ones where a tile is not present; EP on poison or an expired row. Beyond the extent of descriptor 0 it is as where a
tile is not present; in PS3, with the fabric off, it reads as outside the BAR (DESIGN CHOICE, log 109). -/
def execHostRead (func : BitVec 6) (addr : Nat) (size : Nat) (s : State) : Host.Outcome State Fault Refusal :=
  let ones := HostEv.data (List.replicate size 0xFF)
  .next (s.hostRun (.hostRead func addr size) fun s =>
    if !s.inBar2 func addr size then (s.toHost ones, true)
    else
      let ps := s.hostPieces func (s.bar2At func addr) size false
      match ps.find? fun p => notThere p.2.2 with
      | some p => ((s.hostFail func 1 p.1).toHost ones, true)
      | none => match s.hostAsk func ps (fun _ n => .read n) with
        | some t => (t, false)
        | none =>
          let step := fun (acc : State × List Byte × Option (Nat × Nat)) (p : Nat × Nat × Except LinErr (Option Nat)) =>
            let (s, bs, bad) := acc
            match p.2.2 with
            | .error (.away _ _) => match (s.devAnswer (partOf func) 0 p.1 (.read p.2.1)).bind devFound with
              | some (.ok d) => (s, bs ++ d, bad)
              | some (.error .poison) => (s, bs, some (bad.getD (2, p.1)))
              | _ => (s, bs, some (bad.getD (3, p.1)))
            | .error _ => (s, bs, some (bad.getD (2, p.1)))
            | .ok none => (s, bs ++ List.replicate p.2.1 0, bad)
            | .ok (some pa) => match s.bankRead pa p.2.1 with
              | (t, .data d) => (t, bs ++ d, bad)
              | (t, .poison) => (t, bs, some (bad.getD (2, p.1)))
              | (t, .stale _) => (t, bs, some (bad.getD (3, p.1)))
          match ps.foldl step (s, [], none) with
          | (t, bs, none) => (t.toHost (.data bs), true)
          | (t, _, some (sub, a)) => ((t.hostFail func sub a).toHost .ep, true))

/-- Holds the frame of one of these places writes back (R198, R226)? The copies of shared ones are asked for (R229). -/
def State.heldBack (s : State) (pas : List Nat) : Option State :=
  if pas.any s.heldFrame then
    some (pas.foldl (fun s pa => if (s.frameState pa).1 != 1 && !(s.frameState pa).2.isEmpty then s.startInvalidate pa else s) s)
  else none

/-- `host_write` (R61, R198, R213): performed at its home, or dropped where a tile cannot be written. -/
def execHostWrite (func : BitVec 6) (addr : Nat) (bytes : List Byte) (s : State) : Host.Outcome State Fault Refusal :=
  .next (s.hostRun (.hostWrite func addr bytes) fun s =>
    if !s.inBar2 func addr bytes.length then (s, true)
    else
      let a := s.bar2At func addr
      let part := fun (x n : Nat) => (bytes.drop (x - a)).take n
      let ps := s.hostPieces func a bytes.length true
      let bad := ps.findSome? fun p => match p.2.2 with
        | .error (.away _ _) => none
        | .error e => some (hostSub e, p.1)
        | .ok _ => none
      match bad with
      | some (sub, at_) => (s.hostFail func sub at_, true)
      | none =>
        let pas := ps.filterMap fun p => match p.2.2 with
          | .ok (some pa) => some (pa, part p.1 p.2.1)
          | _ => none
        match s.heldBack (pas.map (·.1)) with
        | some t => (t, false)
        | none => match s.hostAsk func ps (fun x n => .write (part x n)) with
          | some t => (t, false)
          | none => (pas.foldl (fun s e => s.bankWrite e.1 e.2) s, true))

/-- What the host receives of an AtomicOp that has been performed, or of one that met poison or an expired row (R61). -/
def State.hostOld (s : State) (func : BitVec 6) (a : Nat) : Found → State
  | .data bs => s.toHost (.data bs)
  | .poison => (s.hostFail func 2 a).toHost .ep
  | .stale _ => (s.hostFail func 3 a).toHost .ep

/-- A PCI Express AtomicOp of `w` bytes (R57, R61): performed at its home as an acq_rel atomic at SYSTEM scope. One whose address is no multiple of its width
changes nothing, answers all ones and makes no record (DESIGN CHOICE, log 120). -/
def State.hostAtomic (s : State) (func : BitVec 6) (addr w : Nat) (op : AtomOp) (cmp v : BitVec 128) (i : Instr) : State :=
  let ones := HostEv.data (List.replicate w 0xFF)
  s.hostRun i fun s =>
    if !s.inBar2 func addr w || addr % w != 0 then (s.toHost ones, true)
    else
      let a := s.bar2At func addr
      match s.hostPlace func a w true with
      | .error .poison => ((s.hostFail func 2 a).toHost .ep, true)
      | .error (.away _ _) => match s.devAnswer (partOf func) 0 a (.atomic op w cmp v) with
        | some (.data _ bs) => (s.hostOld func a (.data bs), true)
        | some (.badTarget _ k _) => (s.hostOld func a (if k = kPoison then .poison else .stale 1), true)
        | _ => (s.devAsk opHost (partOf func) 0 a (.atomic op w cmp v), false)
      | .error e => ((s.hostFail func (hostSub e) a).toHost ones, true)
      | .ok none => (s.toHost (.data (List.replicate w 0)), true)
      | .ok (some pa) =>
        match s.heldBack [pa] with
        | some t => (t, false)
        | none => let (t, f) := s.atomAt ⟨op, pa, w, cmp, v⟩
          (t.hostOld func a f, true)

/-- `host_fetchadd` (R57, R61). -/
def execHostFetchadd (func : BitVec 6) (addr : Nat) (wide : Bool) (operand : BitVec 64) (s : State) : Host.Outcome State Fault Refusal :=
  .next (s.hostAtomic func addr (if wide then 8 else 4) .add 0 (operand.setWidth 128) (.hostFetchadd func addr wide operand))

/-- `host_swap` (R57, R61). -/
def execHostSwap (func : BitVec 6) (addr : Nat) (wide : Bool) (operand : BitVec 64) (s : State) : Host.Outcome State Fault Refusal :=
  .next (s.hostAtomic func addr (if wide then 8 else 4) .swap 0 (operand.setWidth 128) (.hostSwap func addr wide operand))

/-- `host_cas` (R57, R61). -/
def execHostCas (func : BitVec 6) (addr : Nat) (wide : Bool) (comparand operand : BitVec 128) (s : State) : Host.Outcome State Fault Refusal :=
  .next (s.hostAtomic func addr (if wide then 16 else 8) .cas comparand operand (.hostCas func addr wide comparand operand))

/-! ### The mailbox -/

/-- Bytes of the data in. -/
def Mailbox.input (m : Mailbox) (off n : Nat) : List Byte := SMap.read 0 m.inp off n

/-- Answers a command (R63): the status, and with OK the data out. -/
def State.answer (s : State) (f : BitVec 6) (st : Nat) (out : List (Nat × List Byte)) : State :=
  s.modFunc f.toNat fun g => { g with mbox :=
    { buf := out.foldl (fun b e => SMap.write 0 b e.1 e.2) g.mbox.buf, stat := BitVec.ofNat 32 (st * 2 ^ 8) } }

/-- Runs the command in progress of a mailbox (R25, R63): NOT_READY before READY, BAD_ARGUMENT where a byte outside the command's
fields is not zero. -/
def State.mailbox (s : State) (f : BitVec 6) (fields : List (Nat × Nat)) (run : Mailbox → State) : State :=
  let m := (s.func f.toNat).mbox
  if !m.stat.getLsbD 0 then s
  else if s.boot.state ≠ 5 then s.answer f 1 []
  else if m.inp.any fun e => decide (0x100 ≤ e.1) && fields.all fun r => decide (e.1 < r.1 ∨ r.1 + r.2 ≤ e.1) then s.answer f 3 []
  else run m

/-- The partition byte, of the physical function only (R63). -/
def partField (f : BitVec 6) : List (Nat × Nat) := if f = 0 then [(0x10C, 1)] else []

/-- The partition that a command acts on (R58, R63); none where firmware has not defined it. -/
def State.mailPart (s : State) (f : BitVec 6) (m : Mailbox) : Option (BitVec 5) :=
  if f ≠ 0 then some (partOf f)
  else
    let n := leNat (m.input 0x10C 1)
    if n < 32 ∧ s.defined.contains (BitVec.ofNat 5 n) then some (BitVec.ofNat 5 n) else none

/-- The device's public key (R24): derived once after a cold reset and used again after a warm one (R19). -/
def State.deviceKey (s : State) : List Byte := (Config.deriveKey Config.sramPuf (s.boot.helper.getD [])).toList

/-- The device's private key, with which the management processor signs (R24; log 136). -/
def State.secretKey (s : State) : List Byte := Config.deriveSecret Config.sramPuf (s.boot.helper.getD [])

/-- `attest` (R25, R63). -/
def execAttest (func : BitVec 6) (s : State) : Host.Outcome State Fault Refusal :=
  .next (s.mailbox func [(0x100, 0x20), (0x108, 0x20), (0x128, 0x40), (0x168, 0x40), (0x1A8, 4), (0x1B0, 0x40), (0x1F0, 0x500), (0x700, 1793)]
    fun m =>
      let nonce := m.input 0x100 32
      let sec := bvBytes 4 s.boot.secver
      let keyDigest := (Config.shake256 s.deviceKey).toList
      let fields := nonce ++ s.boot.meas ++ s.boot.cfgMeas ++ sec ++ keyDigest
      let sig := (Config.falconSign s.secretKey (Config.shake256 fields).toList).take 1280
      s.answer func 0 [(0x100, leBytes 4 sig.length), (0x108, nonce ++ s.boot.meas ++ s.boot.cfgMeas ++ sec), (0x1B0, keyDigest),
        (0x1F0, sig ++ List.replicate (1280 - sig.length) 0), (0x700, s.deviceKey)])

/-- `queue_create` (R58, R63, R64, R113): the lowest free local and global numbers. -/
def execQueueCreate (func : BitVec 6) (s : State) : Host.Outcome State Fault Refusal :=
  .next (s.mailbox func (partField func ++ [(0x100, 8), (0x108, 4), (0x110, 4)]) fun m =>
    let hdr := leNat (m.input 0x100 8)
    let slots := leNat (m.input 0x108 1)
    let prio := leNat (m.input 0x109 1)
    let budget := leNat (m.input 0x10A 2)
    match s.mailPart func m with
    | none => s.answer func 3 []
    | some p =>
      if 2 ^ 48 ≤ hdr ∨ hdr % 64 ≠ 0 ∨ slots < 4 ∨ 16 < slots ∨ 8 ≤ prio ∨ 1024 ≤ budget then s.answer func 3 []
      else
        let mine := s.queues.filter fun e => e.2.enable && e.2.part == p
        match (List.range 1024).find? (fun q => !(SMap.get {} s.queues q).enable), (List.range 1024).find? (fun n => mine.all fun e => e.2.local_ != n) with
        | some q, some n =>
          if (s.part p).pqueues.toNat ≤ mine.length then s.answer func 2 []
          else
            let k : Queue := { header := BitVec.ofNat 48 hdr, budget := BitVec.ofNat 10 budget, func := func, prio := BitVec.ofNat 3 prio
                               logslots := BitVec.ofNat 5 slots, enable := true, part := p, local_ := n, balance := budget }
            (s.modQueue (BitVec.ofNat 10 q) fun _ => k).answer func 0 [(0x110, leBytes 2 n), (0x112, leBytes 2 q)]
        | _, _ => s.answer func 2 [])

/-- READ of a queue and how many slots stand between READ and WRITE (R65); none where the header cannot be read. -/
def State.queueSpan (s : State) (q : BitVec 10) : State × Option (Nat × Nat) :=
  let k := s.queue q
  match s.linRead64 k.part 0 (k.header.toNat + 8) with
  | (s, .error _) => (s, none)
  | (s, .ok r) => match s.linRead64 k.part 0 k.header.toNat with
    | (s, .error _) => (s, none)
    | (s, .ok w) => (s, some (r.toNat, min (w.toNat - r.toNat) (2 ^ k.logslots.toNat)))

/-- Discards the packets of a queue that have not been dispatched (R63): each with VALID between READ and WRITE, its signal set as in R71. An
accepted launch at the head is discarded with them. -/
def State.discardPackets (s : State) (q : BitVec 10) : State :=
  let k := s.queue q
  match s.queueSpan q with
  | (s, none) => s
  | (s, some (r, n)) =>
    let s := match k.headAcc with
      | some acc => (s.launchDone k.part acc).modPart k.part fun t => { t with reserve := if t.reserve = some acc then none else t.reserve }
      | none => s
    (List.range n).foldl (fun s i =>
      match s.linRead k.part 0 (k.slotAt (r + i)) 64 with
      | (s, .error _) => s
      | (s, .ok bs) =>
        if pf bs 0 1 < 128 then s
        else
          let s := s.errSignal q (r + i) bs true
          match s.linWrite k.part 0 (k.slotAt (r + i)) [0] with
          | .ok t => t
          | .error _ => s) s

/-- Runs a command on a queue that the data in names, once what it reads of the queue on other packages has been answered. -/
def State.mailQueue (s : State) (f : BitVec 6) (run : State → BitVec 10 → State) : State :=
  s.mailbox f (partField f ++ [(0x100, 2)]) fun m =>
    match (s.mailPart f m).bind fun p => s.localQueue p (leNat (m.input 0x100 2)) with
    | none => s.answer f 3 []
    | some q =>
      let k := s.queue q
      s.needFar (opMail f) k.part 0 [(k.header.toNat, 8), (k.header.toNat + 8, 8)] fun s =>
        s.needFar (opMail f) k.part 0 (match (s.queueSpan q).2 with
          | some (r, n) => (List.range n).map fun i => (k.slotAt (r + i), 64)
          | none => []) fun s => ((run (s.discardPackets q) q).answer f 0 []).devDone (opMail f)

/-- `queue_destroy` (R63). -/
def execQueueDestroy (func : BitVec 6) (s : State) : Host.Outcome State Fault Refusal :=
  .next (s.mailQueue func fun s q => s.modQueue q fun _ => {})

/-- `queue_reset` (R63): both indices take the value of READ. -/
def execQueueReset (func : BitVec 6) (s : State) : Host.Outcome State Fault Refusal :=
  .next (s.mailQueue func fun s q =>
    let k := s.queue q
    let s := match s.queueRead q with
      | some r => (match s.linWrite k.part 0 k.header.toNat (leBytes 8 r) with
        | .ok t => t
        | .error _ => s)
      | none => s
    (s.modQueue q fun k => { k with met := none, headAcc := none, spawned := [] }).setStatus q 0)

/-- Runs a command on the halted context that the data in names (R243). -/
def State.mailHalt (s : State) (f : BitVec 6) (run : BitVec 5 → BitVec 3 → State) : State :=
  s.mailbox f (partField f ++ [(0x100, 1)]) fun m =>
    let c := leNat (m.input 0x100 1)
    match s.mailPart f m with
    | none => s.answer f 3 []
    | some p =>
      let t := s.part p
      if 8 ≤ c ∨ !t.bound.getLsbD c then s.answer f 3 []
      else if !t.resumable ∨ t.runctx.toNat ≠ c then s.answer f 2 []
      else (run p (BitVec.ofNat 3 c)).answer f 0 []

/-- `mailbox_resume` (R243). -/
def execMailboxResume (func : BitVec 6) (s : State) : Host.Outcome State Fault Refusal :=
  .next (s.mailHalt func fun p _ => s.resumePart p)

/-- `abandon` (R243): every resident gang of the context is discarded as under KILL, and the partition goes on. -/
def execAbandon (func : BitVec 6) (s : State) : Host.Outcome State Fault Refusal :=
  .next (s.mailHalt func fun p ctx =>
    (((s.part p).gangs.filter fun l => l.ctx == ctx).foldl (fun s l => s.discardGang p l.acc true) s).resumePart p)

/-- `unlisted_mailbox_code` (R63): BAD_ARGUMENT for an unlisted code or a reserved bit of MBCMD. -/
def execUnlistedMailboxCode (func : BitVec 6) (_cmd : BitVec 32) (s : State) : Host.Outcome State Fault Refusal :=
  .next (s.mailbox func [(0x100, 0xF00)] fun _ => s.answer func 3 [])

end Sys2Proof.Machine
end

