-- ==== Sys2Proof/Machine/Scalar.lean ====
section
/-! DEFINITION. Meanings of the scalar arithmetic, constant, parameter and control-flow forms (R347 to R354). -/

namespace Sys2Proof.Machine

/-- An RRR form: x[d] from x[a] and x[b] under the width rule (R348). -/
def rrr (d a b : BitVec 6) (w : Bool) (f : Word → Word → Word) (g : W32 → W32 → W32) (s : State) : State :=
  simpleS [a, b] (fun c => c.setX d (widthRule w f g (c.xr a) (c.xr b))) s

/-- A one-operand RRR form (R348). -/
def rr (d a : BitVec 6) (w : Bool) (f : Word → Word) (g : W32 → W32) (s : State) : State :=
  simpleS [a] (fun c => c.setX d (widthRule w (fun x _ => f x) (fun x _ => g x) (c.xr a) 0)) s

/-- An RRI form: x[d] from x[a] and an extended immediate (R350). -/
def rri (d a : BitVec 6) (f : Word → Word) (s : State) : State :=
  simpleS [a] (fun c => c.setX d (f (c.xr a))) s

/-- `add` (R348): x[d] ← a + b, under the width rule. -/
def execAdd (d a b : BitVec 6) (w : Bool) (s : State) : Host.Outcome State Fault Refusal :=
  nx (rrr d a b w (· + ·) (· + ·) s)

/-- `sub` (R348): x[d] ← a − b, under the width rule. -/
def execSub (d a b : BitVec 6) (w : Bool) (s : State) : Host.Outcome State Fault Refusal :=
  nx (rrr d a b w (· - ·) (· - ·) s)

/-- `mul` (R348): x[d] ← a × b, under the width rule. -/
def execMul (d a b : BitVec 6) (w : Bool) (s : State) : Host.Outcome State Fault Refusal :=
  nx (rrr d a b w (· * ·) (· * ·) s)

/-- `mulh` (R348): x[d] ← the high half of the signed product, under the width rule. -/
def execMulh (d a b : BitVec 6) (w : Bool) (s : State) : Host.Outcome State Fault Refusal :=
  nx (rrr d a b w mulHigh mulHigh s)

/-- `mulhu` (R348): x[d] ← the high half of the unsigned product, under the width rule. -/
def execMulhu (d a b : BitVec 6) (w : Bool) (s : State) : Host.Outcome State Fault Refusal :=
  nx (rrr d a b w mulHighU mulHighU s)

/-- `div` (R348): x[d] ← the signed quotient, under the width rule. -/
def execDiv (d a b : BitVec 6) (w : Bool) (s : State) : Host.Outcome State Fault Refusal :=
  nx (rrr d a b w divS divS s)

/-- `divu` (R348): x[d] ← the unsigned quotient, under the width rule. -/
def execDivu (d a b : BitVec 6) (w : Bool) (s : State) : Host.Outcome State Fault Refusal :=
  nx (rrr d a b w divU divU s)

/-- `rem` (R348): x[d] ← the signed remainder, under the width rule. -/
def execRem (d a b : BitVec 6) (w : Bool) (s : State) : Host.Outcome State Fault Refusal :=
  nx (rrr d a b w remS remS s)

/-- `remu` (R348): x[d] ← the unsigned remainder, under the width rule. -/
def execRemu (d a b : BitVec 6) (w : Bool) (s : State) : Host.Outcome State Fault Refusal :=
  nx (rrr d a b w remU remU s)

/-- `and` (R348): x[d] ← a AND b, under the width rule. -/
def execAnd (d a b : BitVec 6) (w : Bool) (s : State) : Host.Outcome State Fault Refusal :=
  nx (rrr d a b w (· &&& ·) (· &&& ·) s)

/-- `or` (R348): x[d] ← a OR b, under the width rule. -/
def execOr (d a b : BitVec 6) (w : Bool) (s : State) : Host.Outcome State Fault Refusal :=
  nx (rrr d a b w (· ||| ·) (· ||| ·) s)

/-- `xor` (R348): x[d] ← a XOR b, under the width rule. -/
def execXor (d a b : BitVec 6) (w : Bool) (s : State) : Host.Outcome State Fault Refusal :=
  nx (rrr d a b w (· ^^^ ·) (· ^^^ ·) s)

/-- `andn` (R348): x[d] ← a AND NOT b, under the width rule. -/
def execAndn (d a b : BitVec 6) (w : Bool) (s : State) : Host.Outcome State Fault Refusal :=
  nx (rrr d a b w (fun x y => x &&& ~~~y) (fun x y => x &&& ~~~y) s)

/-- `min` (R348): x[d] ← the signed minimum, under the width rule. -/
def execMin (d a b : BitVec 6) (w : Bool) (s : State) : Host.Outcome State Fault Refusal :=
  nx (rrr d a b w minS minS s)

/-- `max` (R348): x[d] ← the signed maximum, under the width rule. -/
def execMax (d a b : BitVec 6) (w : Bool) (s : State) : Host.Outcome State Fault Refusal :=
  nx (rrr d a b w maxS maxS s)

/-- `minu` (R348): x[d] ← the unsigned minimum, under the width rule. -/
def execMinu (d a b : BitVec 6) (w : Bool) (s : State) : Host.Outcome State Fault Refusal :=
  nx (rrr d a b w minU minU s)

/-- `maxu` (R348): x[d] ← the unsigned maximum, under the width rule. -/
def execMaxu (d a b : BitVec 6) (w : Bool) (s : State) : Host.Outcome State Fault Refusal :=
  nx (rrr d a b w maxU maxU s)

/-- `shl` (R348): x[d] ← a shifted left by the low bits of b. -/
def execShl (d a b : BitVec 6) (w : Bool) (s : State) : Host.Outcome State Fault Refusal :=
  nx (rrr d a b w (fun x y => x <<< amount 64 y) (fun x y => x <<< amount 32 y) s)

/-- `shr` (R348): x[d] ← a shifted right logically by the low bits of b. -/
def execShr (d a b : BitVec 6) (w : Bool) (s : State) : Host.Outcome State Fault Refusal :=
  nx (rrr d a b w (fun x y => x >>> amount 64 y) (fun x y => x >>> amount 32 y) s)

/-- `sra` (R348): x[d] ← a shifted right arithmetically by the low bits of b. -/
def execSra (d a b : BitVec 6) (w : Bool) (s : State) : Host.Outcome State Fault Refusal :=
  nx (rrr d a b w (fun x y => x.sshiftRight (amount 64 y)) (fun x y => x.sshiftRight (amount 32 y)) s)

/-- `rotr` (R348): x[d] ← a rotated right by the low bits of b. -/
def execRotr (d a b : BitVec 6) (w : Bool) (s : State) : Host.Outcome State Fault Refusal :=
  nx (rrr d a b w (fun x y => x.rotateRight (amount 64 y)) (fun x y => x.rotateRight (amount 32 y)) s)

/-- `bext` (R348): bits [p + n − 1 : p] of a, zero-extended. -/
def execBext (d a b : BitVec 6) (w : Bool) (s : State) : Host.Outcome State Fault Refusal :=
  nx (rrr d a b w (bitExt 7) (bitExt 6) s)

/-- `bins` (R348): x[d] with bits [p + n − 1 : p] replaced by the low bits of a. -/
def execBins (d a b : BitVec 6) (w : Bool) (s : State) : Host.Outcome State Fault Refusal :=
  nx (simpleS [d, a, b] (fun c => c.setX d (widthRule w (bitIns 7 (c.xr d)) (bitIns 6 ((c.xr d).setWidth 32)) (c.xr a) (c.xr b))) s)

/-- `cmp` (R349): x[d] ← 1 when the condition holds, else 0. -/
def execCmp (cond : Cond) (d a b : BitVec 6) (s : State) : Host.Outcome State Fault Refusal :=
  nx (simpleS [a, b] (fun c => c.setX d (boolWord (condHolds cond (c.xr a) (c.xr b)))) s)

/-- `sel` (R348): x[d] as the condition selects x[a] or x[b]. -/
def execSel (d a b : BitVec 6) (s : State) : Host.Outcome State Fault Refusal :=
  nx (simpleS [d, a, b] (fun c => c.setX d (if c.xr d ≠ 0 then c.xr a else c.xr b)) s)

/-- `clz` (R348): x[d] ← leading zeros. -/
def execClz (d a : BitVec 6) (w : Bool) (s : State) : Host.Outcome State Fault Refusal :=
  nx (rr d a w countLead countLead s)

/-- `ctz` (R348): x[d] ← trailing zeros. -/
def execCtz (d a : BitVec 6) (w : Bool) (s : State) : Host.Outcome State Fault Refusal :=
  nx (rr d a w countTrail countTrail s)

/-- `popc` (R348): x[d] ← set bits. -/
def execPopc (d a : BitVec 6) (w : Bool) (s : State) : Host.Outcome State Fault Refusal :=
  nx (rr d a w countOnes countOnes s)

/-- `brev` (R348): x[d] ← a with its bits reversed. -/
def execBrev (d a : BitVec 6) (w : Bool) (s : State) : Host.Outcome State Fault Refusal :=
  nx (rr d a w BitVec.reverse BitVec.reverse s)

/-- `addi` (R332, R350): x[a] and the sign-extended immediate. -/
def execAddi (d a : BitVec 6) (imm : BitVec 10) (s : State) : Host.Outcome State Fault Refusal :=
  nx (rri d a (fun x => x + imm.signExtend 64) s)

/-- `andi` (R332, R350): x[a] and the zero-extended immediate. -/
def execAndi (d a : BitVec 6) (imm : BitVec 10) (s : State) : Host.Outcome State Fault Refusal :=
  nx (rri d a (fun x => x &&& imm.setWidth 64) s)

/-- `ori` (R332, R350): x[a] and the zero-extended immediate. -/
def execOri (d a : BitVec 6) (imm : BitVec 10) (s : State) : Host.Outcome State Fault Refusal :=
  nx (rri d a (fun x => x ||| imm.setWidth 64) s)

/-- `xori` (R332, R350): x[a] and the zero-extended immediate. -/
def execXori (d a : BitVec 6) (imm : BitVec 10) (s : State) : Host.Outcome State Fault Refusal :=
  nx (rri d a (fun x => x ^^^ imm.setWidth 64) s)

/-- `muli` (R332, R350): x[a] and the sign-extended immediate. -/
def execMuli (d a : BitVec 6) (imm : BitVec 10) (s : State) : Host.Outcome State Fault Refusal :=
  nx (rri d a (fun x => x * imm.signExtend 64) s)

/-- `shli` (R350): x[a] shifted by imm10[5:0]. -/
def execShli (d a sh : BitVec 6) (s : State) : Host.Outcome State Fault Refusal :=
  nx (rri d a (fun x => x <<< sh.toNat) s)

/-- `shri` (R350): x[a] shifted by imm10[5:0]. -/
def execShri (d a sh : BitVec 6) (s : State) : Host.Outcome State Fault Refusal :=
  nx (rri d a (fun x => x >>> sh.toNat) s)

/-- `srai` (R350): x[a] shifted by imm10[5:0]. -/
def execSrai (d a sh : BitVec 6) (s : State) : Host.Outcome State Fault Refusal :=
  nx (rri d a (fun x => x.sshiftRight sh.toNat) s)

/-- `cmpi` (R349): x[a] against the sign-extended immediate. -/
def execCmpi (cond : Cond) (d a : BitVec 6) (imm : BitVec 10) (s : State) : Host.Outcome State Fault Refusal :=
  nx (rri d a (fun x => boolWord (condHolds cond x (imm.signExtend 64))) s)

/-- `li` (R351): the sign-extended immediate. -/
def execLi (d : BitVec 6) (imm : BitVec 16) (s : State) : Host.Outcome State Fault Refusal :=
  nx (simpleS [] (fun c => c.setX d (imm.signExtend 64)) s)

/-- `lsi` (R351): x[d] shifted left by 16, with the immediate below. -/
def execLsi (d : BitVec 6) (imm : BitVec 16) (s : State) : Host.Outcome State Fault Refusal :=
  nx (simpleS [d] (fun c => c.setX d ((c.xr d <<< 16) ||| imm.setWidth 64)) s)

/-- `pmov p, a` (R280, R352): the parameter register takes x[a]. -/
def execPmovToP (p : BitVec 5) (a : BitVec 6) (s : State) : Host.Outcome State Fault Refusal :=
  nx (simpleS [a] (fun c => { c with p := c.p.set p.toFin (c.xr a) }) s)

/-- `pmov d, p` (R352): x[d] takes the parameter register. -/
def execPmovFromP (d : BitVec 6) (p : BitVec 5) (s : State) : Host.Outcome State Fault Refusal :=
  nx (simpleS [] (fun c => c.setX d c.p[p.toFin]) s)

/-- `beq` (R353): to PC + offset10 when the condition holds. -/
def execBeq (a b : BitVec 6) (off : BitVec 10) (s : State) : Host.Outcome State Fault Refusal :=
  nx (branchS [a, b] (fun c pc => if condHolds .eq (c.xr a) (c.xr b) then some (pc + off.signExtend 32) else none) (fun c _ => c) s)

/-- `bne` (R353): to PC + offset10 when the condition holds. -/
def execBne (a b : BitVec 6) (off : BitVec 10) (s : State) : Host.Outcome State Fault Refusal :=
  nx (branchS [a, b] (fun c pc => if condHolds .ne (c.xr a) (c.xr b) then some (pc + off.signExtend 32) else none) (fun c _ => c) s)

/-- `blt` (R353): to PC + offset10 when the condition holds. -/
def execBlt (a b : BitVec 6) (off : BitVec 10) (s : State) : Host.Outcome State Fault Refusal :=
  nx (branchS [a, b] (fun c pc => if condHolds .lt (c.xr a) (c.xr b) then some (pc + off.signExtend 32) else none) (fun c _ => c) s)

/-- `bge` (R353): to PC + offset10 when the condition holds. -/
def execBge (a b : BitVec 6) (off : BitVec 10) (s : State) : Host.Outcome State Fault Refusal :=
  nx (branchS [a, b] (fun c pc => if condHolds .ge (c.xr a) (c.xr b) then some (pc + off.signExtend 32) else none) (fun c _ => c) s)

/-- `bltu` (R353): to PC + offset10 when the condition holds. -/
def execBltu (a b : BitVec 6) (off : BitVec 10) (s : State) : Host.Outcome State Fault Refusal :=
  nx (branchS [a, b] (fun c pc => if condHolds .ltu (c.xr a) (c.xr b) then some (pc + off.signExtend 32) else none) (fun c _ => c) s)

/-- `bgeu` (R353): to PC + offset10 when the condition holds. -/
def execBgeu (a b : BitVec 6) (off : BitVec 10) (s : State) : Host.Outcome State Fault Refusal :=
  nx (branchS [a, b] (fun c pc => if condHolds .geu (c.xr a) (c.xr b) then some (pc + off.signExtend 32) else none) (fun c _ => c) s)

/-- `j` (R353): to PC + offset22. -/
def execJ (off : BitVec 22) (s : State) : Host.Outcome State Fault Refusal :=
  nx (branchS [] (fun _ pc => some (pc + off.signExtend 32)) (fun c _ => c) s)

/-- `call` (R353): lk ← PC + 1, then to PC + offset22. -/
def execCall (off : BitVec 22) (s : State) : Host.Outcome State Fault Refusal :=
  nx (branchS [] (fun _ pc => some (pc + off.signExtend 32)) (fun c pc => c.setX 63 ((pc + 1).setWidth 64)) s)

/-- `jr` (R353): to x[a][31:0]. -/
def execJr (a : BitVec 6) (s : State) : Host.Outcome State Fault Refusal :=
  nx (branchS [a] (fun c _ => some ((c.xr a).setWidth 32)) (fun c _ => c) s)

/-- `callr` (R353): to the x[a] read before lk ← PC + 1. -/
def execCallr (a : BitVec 6) (s : State) : Host.Outcome State Fault Refusal :=
  nx (branchS [a] (fun c _ => some ((c.xr a).setWidth 32)) (fun c pc => c.setX 63 ((pc + 1).setWidth 64)) s)

/-- `loop` on S (R354): the body is the `len` words that follow, x[a] the count. A fifth loop raises ILLOP. Skipping a body
at the end of an enclosing body passes to that body's end test. -/
def execSLoop (a : BitVec 6) (len : BitVec 10) (s : State) : Host.Outcome State Fault Refusal :=
  let c := s.core s.cur
  let st := c.str .s
  nx (if c.waitsOn [a] then s
    else if st.loops.length ≥ 4 then s.takeFault s.cur .s st.pc (s.ir.headD 0) (s.illop .s)
    else if c.xr a = 0 then (s.advance s.cur .s st.pc (len.toNat + 1)).countRetired s.cur .s
    else
      let e : LoopEnt := ⟨st.pc + 1, st.pc + len.setWidth 32, c.xr a - 1⟩
      (s.modCore s.cur fun c => c.setStr .s { st with loops := e :: st.loops, pc := st.pc + 1 }).countRetired s.cur .s)

/-- `nop` on S (R368). -/
def execSNop (s : State) : Host.Outcome State Fault Refusal := nx (simpleS [] id s)

end Sys2Proof.Machine
end

