-- ==== Sys2Proof/Machine/VecMem.lean ====
section
/-! DEFINITION. Meanings of the vector accesses (R387 to R390). -/

namespace Sys2Proof.Machine

/-- What a vector access is. -/
inductive VAcc where
  | load | store | gather | scatter | upd
  deriving DecidableEq, Repr

/-- A form that writes memory. -/
def VAcc.writes : VAcc → Bool
  | .load | .gather => false
  | _ => true

/-- A form with an index register. -/
def VAcc.indexed : VAcc → Bool
  | .gather | .scatter => true
  | _ => false

/-- Is the tensor used in element mode by this SHAPE (R387)? -/
def elemMode? (s : Shape) (d : Desc) : Bool := decide (2 ^ d.elog = s.w)

/-- The checks of a vector access at issue (R387, R389, R390): SHAPE, slot, descriptor, kind, register indices, mode and
format. -/
def vaccCheck (v : VAcc) (slot : BitVec 5) (n : BitVec 5) : Op Unit := do
  let s := (← curCore).shp
  legal ((v != .upd || s.fmt == 0x13 || s.fmt == 1 || s.fmt == 3) && (!v.indexed || decide (s.len ≤ 2048))) .v
  slotBound slot
  let (t, d) ← slotDesc slot
  let det := detT t slot.toNat 0 0
  if v.writes then
    need (d.kind != 2) kGenwrite 0 det
    need (d.kind != 3) kRingwrite 0 det
  need (v.indexed || decide (n.toNat + d.rank ≤ 32)) kTensor 4 det
  if elemMode? s d then
    need (if v == .upd then d.format == s.fmt else d.format == 0 || d.format == s.fmt) kTensor 4 det
  else need ((v == .load || v == .store) && d.elog == 9) kTensor 4 det

/-- Elements in one run of bytes within a 64-byte block: the elements in order, the access of the first, and whether it is
in bounds. -/
structure VRun where
  es  : List Nat
  acc : Acc
  ok  : Bool
  deriving DecidableEq, Repr

/-- Puts an element before a list of runs of elements of `wb` bytes. -/
def addRun (wb : Nat) (e : Nat) (a : Acc) (ok : Bool) : List VRun → List VRun
  | [] => [⟨[e], a, ok⟩]
  | r :: rs =>
    if ok && r.ok && a.tile == r.acc.tile && r.acc.off == a.off + wb && a.off / 64 == r.acc.off / 64 then
      ⟨e :: r.es, a, true⟩ :: rs
    else ⟨[e], a, ok⟩ :: r :: rs

/-- The runs of elements with their coordinates. -/
def vruns (wb slot t : Nat) (d : Desc) (es : List Nat) (coords : Nat → List Nat) : List VRun :=
  es.foldr (fun e rs =>
    let (tile, bits) := d.place (coords e)
    addRun wb e ⟨slot, t, d, tile, bits / 8⟩ (d.inBounds (coords e)) rs) []

/-- The elements that a block-mode access moves: pieces of 64 bytes (R387). -/
def blockRuns (slot : BitVec 5) (t : Nat) (d : Desc) (n : Nat) (c : List Nat) : List VRun :=
  (List.range n).map fun k =>
    let c' := (c.getD 0 0 + k) :: c.drop 1
    if d.kind = 3 then ⟨[k], ringAcc slot t d (128 + 64 * c'.getD 0 0), decide (c'.getD 0 0 < 2 ^ d.logslots)⟩
    else
      let (tile, bits) := d.place c'
      ⟨[k], ⟨slot.toNat, t, d, tile, bits / 8⟩, d.inBounds c'⟩

/-- TENSORFAULT BOUNDS for a run that is out of bounds. -/
def VRun.need (r : VRun) : Op Unit := Machine.need r.ok kTensor 3 r.acc.det

/-- Entries that `vgather` and `vscatter` may reach: the core's own scratchpad (R389). -/
def ownScratch (s : State) (e : BitVec 64) : Bool :=
  fld e 4 2 == 2 && fld e 16 9 == s.fabric.index && fld e 40 7 == s.cur.toNat

/-- Raises TENSORFAULT TILE where a present tile is not of the kind a form may reach. -/
def placeCheck (a : Acc) (akind : Nat) (ok : State → BitVec 64 → Bool) : Op Unit := do
  match ← translate .v a akind with
  | some e => do need (ok (← get) e) kTensor 5 a.det
  | none => pure ()

/-- Reads every run before anything is written (R388): its elements and their bytes. -/
def readRuns (wb : Nat) (ok : State → BitVec 64 → Bool) (rs : List VRun) : Op (List (Nat × Nat)) := do
  let parts ← tryAll (rs.map fun r => do
    r.need
    placeCheck r.acc 0 ok
    let bs ← opRead .v r.acc (wb * r.es.length)
    return r.es.mapIdx fun i e => (e, leNat ((bs.drop (wb * i)).take wb)))
  return parts.flatten

/-- Writes values into a v register. -/
def putElems (d : BitVec 6) (w : Nat) (xs : List (Nat × Nat)) : Op Unit :=
  modCur fun c => c.setV d (xs.foldl (fun v x => setElem w v x.1 x.2) (c.vr d))

/-- Writes every run, all of them checked first (R388). -/
def writeRuns (nt : Bool) (ok : State → BitVec 64 → Bool) (rs : List (VRun × List Byte)) : Op Unit := do
  let rs ← unsent .v rs
  let placed ← tryAll (rs.map fun r => do
    r.1.need
    placeCheck r.1.acc 1 ok
    let p ← placePiece .v r.1.acc true
    return (r, p))
  let logged := (placed.filter fun p => p.2.1.isNone).length
  if !nt then
    holdUnless (decide ((← curCore).slog.length + logged ≤ 128))
  performAll .v (fun p => !nt && isFar p.2) (fun p => performPiece .v p.1.1.acc p.1.2 nt p.2) placed

/-- Any tile. -/
def anyTile (_ : State) (_ : BitVec 64) : Bool := true

/-- `vld` (R387, R388). -/
def vloadOp (d : BitVec 6) (slot n : BitVec 5) : Op Next := do
  let c ← curCore
  let s := c.shp
  let (t, ds) ← slotDesc slot
  let cs ← coordsAt .v n.toNat ds.rank
  let at_ := fun e => (cs.getD 0 0 + e) :: cs.drop 1
  if elemMode? s ds then
    if ds.kind = 2 then
      let vs ← tryAll (c.active.map fun e => do return (e, ← genRead slot.toNat t ds (at_ e)))
      putElems d s.w vs
    else
      putElems d s.w (← readRuns (s.w / 8) anyTile (vruns (s.w / 8) slot.toNat t ds c.active at_))
  else
    putElems d 512 (← readRuns 64 anyTile (blockRuns slot t ds ((s.len * s.w + 511) / 512) cs))
  return .seq

/-- `vst` and `vst.nt` (R212, R387, R388). -/
def vstoreOp (nt : Bool) (d : BitVec 6) (slot n : BitVec 5) : Op Next := do
  let c ← curCore
  let s := c.shp
  let (t, ds) ← slotDesc slot
  let cs ← coordsAt .v n.toNat ds.rank
  let (w, rs) :=
    if elemMode? s ds then
      (s.w, vruns (s.w / 8) slot.toNat t ds c.active fun e => (cs.getD 0 0 + e) :: cs.drop 1)
    else (512, blockRuns slot t ds ((s.len * s.w + 511) / 512) cs)
  writeRuns (nt || ds.nt) anyTile (rs.map fun r => (r, r.es.flatMap fun e => leBytes (w / 8) (velem (c.vr d) w e)))
  return .seq

/-- `vld` (R387). -/
def execVld (tk : Tok) (d : BitVec 6) (slot n : BitVec 5) (s : State) : Host.Outcome State Fault Refusal :=
  nx (runInstr .v 1 tk (vaccCheck .load slot n) (pure ()) (vloadOp d slot n) s)

/-- `vst` (R387). -/
def execVst (tk : Tok) (d : BitVec 6) (slot n : BitVec 5) (s : State) : Host.Outcome State Fault Refusal :=
  nx (runInstr .v 1 tk (vaccCheck .store slot n) (pure ()) (vstoreOp false d slot n) s)

/-- `vst.nt` (R387). -/
def execVstNt (tk : Tok) (d : BitVec 6) (slot n : BitVec 5) (s : State) : Host.Outcome State Fault Refusal :=
  nx (runInstr .v 1 tk (vaccCheck .store slot n) (pure ()) (vstoreOp true d slot n) s)

/-- The coordinates that an index register names (R178, R389); an index past the last element is out of bounds. -/
def indexCoords (ds : Desc) (ix : VReg) (e : Nat) : List Nat :=
  let l := velem ix 32 e
  if l < ds.count then ds.coordsOf l else [ds.ext.getD 0 0]

/-- `vgather` (R388, R389). -/
def execVgather (tk : Tok) (d : BitVec 6) (slot : BitVec 5) (i : BitVec 6) (s : State) : Host.Outcome State Fault Refusal :=
  nx (runInstr .v 1 tk (vaccCheck .gather slot 0) (pure ()) (do
    let c ← curCore
    let (t, ds) ← slotDesc slot
    let w := c.shp.w
    let at_ := indexCoords ds (c.vr i)
    if ds.kind = 2 then
      let vs ← tryAll (c.active.map fun e => do return (e, ← genRead slot.toNat t ds (at_ e)))
      putElems d w vs
    else putElems d w (← readRuns (w / 8) ownScratch (vruns (w / 8) slot.toNat t ds c.active at_))
    return .seq) s)

/-- `vscatter` (R388, R389): pieces in the order of e, so that the greatest e is the one stored. -/
def execVscatter (tk : Tok) (d : BitVec 6) (slot : BitVec 5) (i : BitVec 6) (s : State) : Host.Outcome State Fault Refusal :=
  nx (runInstr .v 1 tk (vaccCheck .scatter slot 0) (pure ()) (do
    let c ← curCore
    let (t, ds) ← slotDesc slot
    let w := c.shp.w
    let rs := vruns (w / 8) slot.toNat t ds c.active (indexCoords ds (c.vr i))
    writeRuns ds.nt ownScratch (rs.map fun r => (r, r.es.flatMap fun e => leBytes (w / 8) (velem (c.vr d) w e)))
    return .seq) s)

/-- The kind of an element-wise update for a format (R390). -/
def updKindOf (f : Nat) : UpdKind := if f = 1 then .fp32 else if f = 3 then .bf16 else .s32

/-- What the bank of an update finds before any lane is added (R388). -/
def updReadable (a : Acc) (n : Nat) (place : Option (Nat ⊕ (Nat × Nat)) × Bool) : Op Unit := do
  match place.1 with
  | some (.inl pa) =>
    let (s', f) := (← get).bankRead pa n
    set s'
    match f with
    | .poison => flt kPoison 0 a.det
    | .stale sub => flt kStale sub a.det
    | .data _ => pure ()
  | _ => pure ()

/-- One element-wise update of the lanes of a run, at its place (R156, R215, R221). In the side log the lanes stand by
their offset from the entry's. -/
def performUpd (k : Strand) (kind : UpdKind) (a : Acc) (vals : List Nat) (place : Option (Nat ⊕ (Nat × Nat)) × Bool) :
    Op Unit := do
  let w ← curCrew
  let lanes := fun (base : Nat) => vals.mapIdx fun i v => (base + (updBytes kind) * i, BitVec.ofNat 32 v)
  match place with
  | (none, defer) => logOp k a (.update ⟨kind, lanes 0⟩) .core .rlx defer
  | (some (.inl pa), _) => modify fun s => (s.updAt ⟨kind, lanes pa⟩).1
  | (some (.inr (pkg, pa)), _) => modify fun s => s.fabricWrite s.cur pkg 1 (.update ⟨kind, lanes pa⟩) (some (a.key w.ctx pa))

/-- Adds the elements of v[d] at every run, once all places have been checked and the side log has room (R388, R390). -/
def updateRuns (c : Core) (d : BitVec 6) (rs : List VRun) : Op Unit := do
  let rs ← unsent .v rs
  let w := c.shp.w
  let placed ← tryAll (rs.map fun r => do
    r.need
    placeCheck r.acc 2 fun _ e => fld e 4 2 == 1
    let p ← storePlace .v r.acc 2
    updReadable r.acc (w / 8 * r.es.length) p
    return (r, p))
  let logged := (placed.filter fun p => p.2.1.isNone).length
  holdUnless (decide (c.slog.length + logged ≤ 128))
  performAll .v (fun p => isFar p.2) (fun p => performUpd .v (updKindOf c.shp.fmt) p.1.acc (p.1.es.map fun e => velem (c.vr d) w e) p.2) placed

/-- `vupd` (R388, R390). -/
def execVupd (tk : Tok) (d : BitVec 6) (slot n : BitVec 5) (s : State) : Host.Outcome State Fault Refusal :=
  nx (runInstr .v 1 tk (vaccCheck .upd slot n) (pure ()) (do
    let c ← curCore
    let (t, ds) ← slotDesc slot
    let cs ← coordsAt .v n.toNat ds.rank
    updateRuns c d (vruns (c.shp.w / 8) slot.toNat t ds c.active fun e => (cs.getD 0 0 + e) :: cs.drop 1)
    return .seq) s)

end Sys2Proof.Machine
end

