-- ==== Sys2Proof/Machine/Dispatch.lean ====
section
/-! DEFINITION. The dispatch: one arm per instruction or event, each a direct call of its meaning. -/

namespace Sys2Proof.Machine

def exec (i : Instr) (s : State) : Host.Outcome State Fault Refusal :=
  match i with
  | .coldReset => Sys2Proof.Machine.execColdReset s
  | .warmReset => Sys2Proof.Machine.execWarmReset s
  | .thermalHoldEnd => Sys2Proof.Machine.execThermalHoldEnd s
  | .bootLenWrite len memOk => Sys2Proof.Machine.execBootLenWrite len memOk s
  | .powerSample watts => Sys2Proof.Machine.execPowerSample watts s
  | .ps2Entry => Sys2Proof.Machine.execPs2Entry s
  | .ps2Exit => Sys2Proof.Machine.execPs2Exit s
  | .ps3Entry => Sys2Proof.Machine.execPs3Entry s
  | .sensorReading die memory idx celsius => Sys2Proof.Machine.execSensorReading die memory idx celsius s
  | .classToCool die => Sys2Proof.Machine.execClassToCool die s
  | .thermalThrottleStep die => Sys2Proof.Machine.execThermalThrottleStep die s
  | .hbmPatrolScrub ecc => Sys2Proof.Machine.execHbmPatrolScrub ecc s
  | .ringFlitTransfer ring => Sys2Proof.Machine.execRingFlitTransfer ring s
  | .packetReceive p => Sys2Proof.Machine.execPacketReceive p s
  | .dieSwitchTransfer die => Sys2Proof.Machine.execDieSwitchTransfer die s
  | .torusFlitTransfer port => Sys2Proof.Machine.execTorusFlitTransfer port s
  | .replayRequest port back => Sys2Proof.Machine.execReplayRequest port back s
  | .linkRetrainEnd port ok => Sys2Proof.Machine.execLinkRetrainEnd port ok s
  | .fabricBringUp b => Sys2Proof.Machine.execFabricBringUp b s
  | .syncSend => Sys2Proof.Machine.execSyncSend s
  | .ptpSync offset => Sys2Proof.Machine.execPtpSync offset s
  | .holdoverSet => Sys2Proof.Machine.execHoldoverSet s
  | .fctlWrite func ring value => Sys2Proof.Machine.execFctlWrite func ring value s
  | .fdirWrite func ring value => Sys2Proof.Machine.execFdirWrite func ring value s
  | .wincfgWrite func value => Sys2Proof.Machine.execWincfgWrite func value s
  | .wincfgTakeEffect => Sys2Proof.Machine.execWincfgTakeEffect s
  | .windowBoundary => Sys2Proof.Machine.execWindowBoundary s
  | .advertisementReceive port window entries => Sys2Proof.Machine.execAdvertisementReceive port window entries s
  | .hostRead func addr size => Sys2Proof.Machine.execHostRead func addr size s
  | .hostWrite func addr bytes => Sys2Proof.Machine.execHostWrite func addr bytes s
  | .hostFetchadd func addr wide operand => Sys2Proof.Machine.execHostFetchadd func addr wide operand s
  | .hostSwap func addr wide operand => Sys2Proof.Machine.execHostSwap func addr wide operand s
  | .hostCas func addr wide comparand operand => Sys2Proof.Machine.execHostCas func addr wide comparand operand s
  | .notifyRegisterWrite func queue value => Sys2Proof.Machine.execNotifyRegisterWrite func queue value s
  | .notifyMessage queue value => Sys2Proof.Machine.execNotifyMessage queue value s
  | .attest func => Sys2Proof.Machine.execAttest func s
  | .queueCreate func => Sys2Proof.Machine.execQueueCreate func s
  | .queueDestroy func => Sys2Proof.Machine.execQueueDestroy func s
  | .queueReset func => Sys2Proof.Machine.execQueueReset func s
  | .mailboxResume func => Sys2Proof.Machine.execMailboxResume func s
  | .abandon func => Sys2Proof.Machine.execAbandon func s
  | .unlistedMailboxCode func cmd => Sys2Proof.Machine.execUnlistedMailboxCode func cmd s
  | .queuePoll queue => Sys2Proof.Machine.execQueuePoll queue s
  | .launchPacket queue => Sys2Proof.Machine.execLaunchPacket queue s
  | .regionsPacket queue => Sys2Proof.Machine.execRegionsPacket queue s
  | .copyPacket queue => Sys2Proof.Machine.execCopyPacket queue s
  | .signalPacket queue => Sys2Proof.Machine.execSignalPacket queue s
  | .waitPacket queue => Sys2Proof.Machine.execWaitPacket queue s
  | .waitRecheck queue => Sys2Proof.Machine.execWaitRecheck queue s
  | .stagesPacket queue => Sys2Proof.Machine.execStagesPacket queue s
  | .launchPlacement part acc => Sys2Proof.Machine.execLaunchPlacement part acc s
  | .pipelinePlacement part acc => Sys2Proof.Machine.execPipelinePlacement part acc s
  | .completionSignalDecrement part acc => Sys2Proof.Machine.execCompletionSignalDecrement part acc s
  | .tokenRefill => Sys2Proof.Machine.execTokenRefill s
  | .placementReservation part => Sys2Proof.Machine.execPlacementReservation part s
  | .contextSelect part => Sys2Proof.Machine.execContextSelect part s
  | .preemptDecision part => Sys2Proof.Machine.execPreemptDecision part s
  | .yieldDeadline part => Sys2Proof.Machine.execYieldDeadline part s
  | .routerAdmit part acc => Sys2Proof.Machine.execRouterAdmit part acc s
  | .routerDecision part acc => Sys2Proof.Machine.execRouterDecision part acc s
  | .derailleurEvaluate part acc => Sys2Proof.Machine.execDerailleurEvaluate part acc s
  | .derailleurMove part acc => Sys2Proof.Machine.execDerailleurMove part acc s
  | .bankAccess req => Sys2Proof.Machine.execBankAccess req s
  | .homeAtomic req => Sys2Proof.Machine.execHomeAtomic req s
  | .elementWiseUpdate req => Sys2Proof.Machine.execElementWiseUpdate req s
  | .tileWalk core port tensor tile => Sys2Proof.Machine.execTileWalk core port tensor tile s
  | .tileMissRecordWrite part => Sys2Proof.Machine.execTileMissRecordWrite part s
  | .retryResend core => Sys2Proof.Machine.execRetryResend core s
  | .retentionTick => Sys2Proof.Machine.execRetentionTick s
  | .sweep die => Sys2Proof.Machine.execSweep die s
  | .lockKeeperRenewal core => Sys2Proof.Machine.execLockKeeperRenewal core s
  | .shmLockKeeperRenewal die => Sys2Proof.Machine.execShmLockKeeperRenewal die s
  | .genHomeUpdate part => Sys2Proof.Machine.execGenHomeUpdate part s
  | .genCopyApply core => Sys2Proof.Machine.execGenCopyApply core s
  | .ntStorePerform core => Sys2Proof.Machine.execNtStorePerform core s
  | .fabricReleaseComplete core => Sys2Proof.Machine.execFabricReleaseComplete core s
  | .migration part => Sys2Proof.Machine.execMigration part s
  | .invalidate part tensor tile => Sys2Proof.Machine.execInvalidate part tensor tile s
  | .invalidateAck pkg frame => Sys2Proof.Machine.execInvalidateAck pkg frame s
  | .deferReplay core => Sys2Proof.Machine.execDeferReplay core s
  | .iodieFault sub => Sys2Proof.Machine.execIodieFault sub s
  | .haltArrive core => Sys2Proof.Machine.execHaltArrive core s
  | .haltComplete part => Sys2Proof.Machine.execHaltComplete part s
  | .contextSwap part => Sys2Proof.Machine.execContextSwap part s
  | .coreClear core => Sys2Proof.Machine.execCoreClear core s
  | .instructionFinish core strand => Sys2Proof.Machine.execInstructionFinish core strand s
  | .phaseAdvance part group => Sys2Proof.Machine.execPhaseAdvance part group s
  | .mwaitWake core => Sys2Proof.Machine.execMwaitWake core s
  | .stealRequest sdom thiefPkg thiefCore => Sys2Proof.Machine.execStealRequest sdom thiefPkg thiefCore s
  | .stealGrant core start count => Sys2Proof.Machine.execStealGrant core start count s
  | .xCommandStart core => Sys2Proof.Machine.execXCommandStart core s
  | .pieceHand core => Sys2Proof.Machine.execPieceHand core s
  | .pieceAck core => Sys2Proof.Machine.execPieceAck core s
  | .lockWordCount core => Sys2Proof.Machine.execLockWordCount core s
  | .walkTileStart core walk => Sys2Proof.Machine.execWalkTileStart core walk s
  | .matrixCycle core => Sys2Proof.Machine.execMatrixCycle core s
  | .bRowLoadDone core => Sys2Proof.Machine.execBRowLoadDone core s
  | .tableArrival core => Sys2Proof.Machine.execTableArrival core s
  | .snapshotDone core => Sys2Proof.Machine.execSnapshotDone core s
  | .collInstanceComplete part group remote => Sys2Proof.Machine.execCollInstanceComplete part group remote s
  | .contextBind part ctx => Sys2Proof.Machine.execContextBind part ctx s
  | .contextUnbind part ctx => Sys2Proof.Machine.execContextUnbind part ctx s
  | .pquadsWrite part value => Sys2Proof.Machine.execPquadsWrite part value s
  | .pshmWrite part value => Sys2Proof.Machine.execPshmWrite part value s
  | .pframesWrite part value => Sys2Proof.Machine.execPframesWrite part value s
  | .pqueuesWrite part value => Sys2Proof.Machine.execPqueuesWrite part value s
  | .pwalksWrite part value => Sys2Proof.Machine.execPwalksWrite part value s
  | .pxwalksWrite part value => Sys2Proof.Machine.execPxwalksWrite part value s
  | .ppolicyWrite part value => Sys2Proof.Machine.execPpolicyWrite part value s
  | .pstripeWrite part die stripe own ctx => Sys2Proof.Machine.execPstripeWrite part die stripe own ctx s
  | .registerWrite w => Sys2Proof.Machine.execRegisterWrite w s
  | .decodeTableCopyApply core => Sys2Proof.Machine.execDecodeTableCopyApply core s
  | .add d a b w => Sys2Proof.Machine.execAdd d a b w s
  | .sub d a b w => Sys2Proof.Machine.execSub d a b w s
  | .mul d a b w => Sys2Proof.Machine.execMul d a b w s
  | .mulh d a b w => Sys2Proof.Machine.execMulh d a b w s
  | .mulhu d a b w => Sys2Proof.Machine.execMulhu d a b w s
  | .div d a b w => Sys2Proof.Machine.execDiv d a b w s
  | .divu d a b w => Sys2Proof.Machine.execDivu d a b w s
  | .rem d a b w => Sys2Proof.Machine.execRem d a b w s
  | .remu d a b w => Sys2Proof.Machine.execRemu d a b w s
  | .and d a b w => Sys2Proof.Machine.execAnd d a b w s
  | .or d a b w => Sys2Proof.Machine.execOr d a b w s
  | .xor d a b w => Sys2Proof.Machine.execXor d a b w s
  | .andn d a b w => Sys2Proof.Machine.execAndn d a b w s
  | .shl d a b w => Sys2Proof.Machine.execShl d a b w s
  | .shr d a b w => Sys2Proof.Machine.execShr d a b w s
  | .sra d a b w => Sys2Proof.Machine.execSra d a b w s
  | .rotr d a b w => Sys2Proof.Machine.execRotr d a b w s
  | .min d a b w => Sys2Proof.Machine.execMin d a b w s
  | .max d a b w => Sys2Proof.Machine.execMax d a b w s
  | .minu d a b w => Sys2Proof.Machine.execMinu d a b w s
  | .maxu d a b w => Sys2Proof.Machine.execMaxu d a b w s
  | .cmp cond d a b => Sys2Proof.Machine.execCmp cond d a b s
  | .sel d a b => Sys2Proof.Machine.execSel d a b s
  | .clz d a w => Sys2Proof.Machine.execClz d a w s
  | .ctz d a w => Sys2Proof.Machine.execCtz d a w s
  | .popc d a w => Sys2Proof.Machine.execPopc d a w s
  | .brev d a w => Sys2Proof.Machine.execBrev d a w s
  | .bext d a b w => Sys2Proof.Machine.execBext d a b w s
  | .bins d a b w => Sys2Proof.Machine.execBins d a b w s
  | .addi d a imm => Sys2Proof.Machine.execAddi d a imm s
  | .andi d a imm => Sys2Proof.Machine.execAndi d a imm s
  | .ori d a imm => Sys2Proof.Machine.execOri d a imm s
  | .xori d a imm => Sys2Proof.Machine.execXori d a imm s
  | .shli d a sh => Sys2Proof.Machine.execShli d a sh s
  | .shri d a sh => Sys2Proof.Machine.execShri d a sh s
  | .srai d a sh => Sys2Proof.Machine.execSrai d a sh s
  | .muli d a imm => Sys2Proof.Machine.execMuli d a imm s
  | .cmpi cond d a imm => Sys2Proof.Machine.execCmpi cond d a imm s
  | .li d imm => Sys2Proof.Machine.execLi d imm s
  | .lsi d imm => Sys2Proof.Machine.execLsi d imm s
  | .pmovToP p a => Sys2Proof.Machine.execPmovToP p a s
  | .pmovFromP d p => Sys2Proof.Machine.execPmovFromP d p s
  | .beq a b off => Sys2Proof.Machine.execBeq a b off s
  | .bne a b off => Sys2Proof.Machine.execBne a b off s
  | .blt a b off => Sys2Proof.Machine.execBlt a b off s
  | .bge a b off => Sys2Proof.Machine.execBge a b off s
  | .bltu a b off => Sys2Proof.Machine.execBltu a b off s
  | .bgeu a b off => Sys2Proof.Machine.execBgeu a b off s
  | .j off => Sys2Proof.Machine.execJ off s
  | .call off => Sys2Proof.Machine.execCall off s
  | .jr a => Sys2Proof.Machine.execJr a s
  | .callr a => Sys2Proof.Machine.execCallr a s
  | .sLoop a len => Sys2Proof.Machine.execSLoop a len s
  | .ldS8 d r slot imm => Sys2Proof.Machine.execLdS8 d r slot imm s
  | .ldN8 d r slot imm => Sys2Proof.Machine.execLdN8 d r slot imm s
  | .ldS16 d r slot imm => Sys2Proof.Machine.execLdS16 d r slot imm s
  | .ldN16 d r slot imm => Sys2Proof.Machine.execLdN16 d r slot imm s
  | .ldS32 d r slot imm => Sys2Proof.Machine.execLdS32 d r slot imm s
  | .ldN32 d r slot imm => Sys2Proof.Machine.execLdN32 d r slot imm s
  | .ld64 d r slot imm => Sys2Proof.Machine.execLd64 d r slot imm s
  | .st8 d r slot imm => Sys2Proof.Machine.execSt8 d r slot imm s
  | .st16 d r slot imm => Sys2Proof.Machine.execSt16 d r slot imm s
  | .st32 d r slot imm => Sys2Proof.Machine.execSt32 d r slot imm s
  | .st64 d r slot imm => Sys2Proof.Machine.execSt64 d r slot imm s
  | .stNt8 d r slot imm => Sys2Proof.Machine.execStNt8 d r slot imm s
  | .stNt16 d r slot imm => Sys2Proof.Machine.execStNt16 d r slot imm s
  | .stNt32 d r slot imm => Sys2Proof.Machine.execStNt32 d r slot imm s
  | .stNt64 d r slot imm => Sys2Proof.Machine.execStNt64 d r slot imm s
  | .ldAcqN32 scope d r slot imm => Sys2Proof.Machine.execLdAcqN32 scope d r slot imm s
  | .ldAcq64 scope d r slot imm => Sys2Proof.Machine.execLdAcq64 scope d r slot imm s
  | .stRel32 scope d r slot imm => Sys2Proof.Machine.execStRel32 scope d r slot imm s
  | .stRel64 scope d r slot imm => Sys2Proof.Machine.execStRel64 scope d r slot imm s
  | .fenceRel scope => Sys2Proof.Machine.execFenceRel scope s
  | .fenceAcq scope => Sys2Proof.Machine.execFenceAcq scope s
  | .fenceFull scope => Sys2Proof.Machine.execFenceFull scope s
  | .fenceAlias => Sys2Proof.Machine.execFenceAlias s
  | .phase d group => Sys2Proof.Machine.execPhase d group s
  | .phaseArrive d group => Sys2Proof.Machine.execPhaseArrive d group s
  | .phaseWait d group => Sys2Proof.Machine.execPhaseWait d group s
  | .grpInit d a => Sys2Proof.Machine.execGrpInit d a s
  | .grpFree group => Sys2Proof.Machine.execGrpFree group s
  | .tokWait strand count => Sys2Proof.Machine.execTokWait strand count s
  | .tokPost strand count => Sys2Proof.Machine.execTokPost strand count s
  | .mwait scope d r slot imm => Sys2Proof.Machine.execMwait scope d r slot imm s
  | .chunkInit a b => Sys2Proof.Machine.execChunkInit a b s
  | .chunkFetch d a => Sys2Proof.Machine.execChunkFetch d a s
  | .spawn d a b => Sys2Proof.Machine.execSpawn d a b s
  | .notify a b => Sys2Proof.Machine.execNotify a b s
  | .yield => Sys2Proof.Machine.execYield s
  | .sExit => Sys2Proof.Machine.execSExit s
  | .sNop => Sys2Proof.Machine.execSNop s
  | .sRegionEnter imm => Sys2Proof.Machine.execSRegionEnter imm s
  | .sRegionLeave => Sys2Proof.Machine.execSRegionLeave s
  | .genSet g r slot imm => Sys2Proof.Machine.execGenSet g r slot imm s
  | .genSkip g a b => Sys2Proof.Machine.execGenSkip g a b s
  | .amoAdd wide scope ord d r slot imm => Sys2Proof.Machine.execAmoAdd wide scope ord d r slot imm s
  | .amoAnd wide scope ord d r slot imm => Sys2Proof.Machine.execAmoAnd wide scope ord d r slot imm s
  | .amoOr wide scope ord d r slot imm => Sys2Proof.Machine.execAmoOr wide scope ord d r slot imm s
  | .amoXor wide scope ord d r slot imm => Sys2Proof.Machine.execAmoXor wide scope ord d r slot imm s
  | .amoSwap wide scope ord d r slot imm => Sys2Proof.Machine.execAmoSwap wide scope ord d r slot imm s
  | .amoSmin wide scope ord d r slot imm => Sys2Proof.Machine.execAmoSmin wide scope ord d r slot imm s
  | .amoSmax wide scope ord d r slot imm => Sys2Proof.Machine.execAmoSmax wide scope ord d r slot imm s
  | .amoUmin wide scope ord d r slot imm => Sys2Proof.Machine.execAmoUmin wide scope ord d r slot imm s
  | .amoUmax wide scope ord d r slot imm => Sys2Proof.Machine.execAmoUmax wide scope ord d r slot imm s
  | .amoCas w scope ord d r slot imm => Sys2Proof.Machine.execAmoCas w scope ord d r slot imm s
  | .amoFaddF32 scope ord d r slot imm => Sys2Proof.Machine.execAmoFaddF32 scope ord d r slot imm s
  | .amoFaddBf16 scope ord d r slot imm => Sys2Proof.Machine.execAmoFaddBf16 scope ord d r slot imm s
  | .amoFminF32 scope ord d r slot imm => Sys2Proof.Machine.execAmoFminF32 scope ord d r slot imm s
  | .amoFmaxF32 scope ord d r slot imm => Sys2Proof.Machine.execAmoFmaxF32 scope ord d r slot imm s
  | .trap imm => Sys2Proof.Machine.execTrap imm s
  | .resume a => Sys2Proof.Machine.execResume a s
  | .ctxSave a => Sys2Proof.Machine.execCtxSave a s
  | .ctxLoad a => Sys2Proof.Machine.execCtxLoad a s
  | .dtabLoad a b => Sys2Proof.Machine.execDtabLoad a b s
  | .capDeleg d a b => Sys2Proof.Machine.execCapDeleg d a b s
  | .capRevoke a => Sys2Proof.Machine.execCapRevoke a s
  | .capCheck d a => Sys2Proof.Machine.execCapCheck d a s
  | .evSel a b => Sys2Proof.Machine.execEvSel a b s
  | .evRead d a => Sys2Proof.Machine.execEvRead d a s
  | .snapRead d a => Sys2Proof.Machine.execSnapRead d a s
  | .ttInval a b => Sys2Proof.Machine.execTtInval a b s
  | .slogReplay a b => Sys2Proof.Machine.execSlogReplay a b s
  | .migrate a b => Sys2Proof.Machine.execMigrate a b s
  | .stop a b => Sys2Proof.Machine.execStop a b s
  | .xmode det => Sys2Proof.Machine.execXmode det s
  | .halt => Sys2Proof.Machine.execHalt s
  | .wfi => Sys2Proof.Machine.execWfi s
  | .sysr d num => Sys2Proof.Machine.execSysr d num s
  | .sysw d num => Sys2Proof.Machine.execSysw d num s
  | .vNop tk => Sys2Proof.Machine.execVNop tk s
  | .vExit tk => Sys2Proof.Machine.execVExit tk s
  | .vLoop tk len n => Sys2Proof.Machine.execVLoop tk len n s
  | .vRegionEnter tk imm => Sys2Proof.Machine.execVRegionEnter tk imm s
  | .vRegionLeave tk => Sys2Proof.Machine.execVRegionLeave tk s
  | .vshape tk n => Sys2Proof.Machine.execVshape tk n s
  | .vsetlen tk n => Sys2Proof.Machine.execVsetlen tk n s
  | .mand tk d a b => Sys2Proof.Machine.execMand tk d a b s
  | .mor tk d a b => Sys2Proof.Machine.execMor tk d a b s
  | .mxor tk d a b => Sys2Proof.Machine.execMxor tk d a b s
  | .mandn tk d a b => Sys2Proof.Machine.execMandn tk d a b s
  | .mnot tk d a => Sys2Proof.Machine.execMnot tk d a s
  | .mfromv tk d a => Sys2Proof.Machine.execMfromv tk d a s
  | .vadd tk d a b => Sys2Proof.Machine.execVadd tk d a b s
  | .vsub tk d a b => Sys2Proof.Machine.execVsub tk d a b s
  | .vmul tk d a b => Sys2Proof.Machine.execVmul tk d a b s
  | .vfma tk d a b => Sys2Proof.Machine.execVfma tk d a b s
  | .vfms tk d a b => Sys2Proof.Machine.execVfms tk d a b s
  | .vmin tk d a b => Sys2Proof.Machine.execVmin tk d a b s
  | .vmax tk d a b => Sys2Proof.Machine.execVmax tk d a b s
  | .vdiv tk d a b => Sys2Proof.Machine.execVdiv tk d a b s
  | .vand tk d a b => Sys2Proof.Machine.execVand tk d a b s
  | .vor tk d a b => Sys2Proof.Machine.execVor tk d a b s
  | .vxor tk d a b => Sys2Proof.Machine.execVxor tk d a b s
  | .vshl tk d a b => Sys2Proof.Machine.execVshl tk d a b s
  | .vshr tk d a b => Sys2Proof.Machine.execVshr tk d a b s
  | .vsra tk d a b => Sys2Proof.Machine.execVsra tk d a b s
  | .vaddS tk d a n => Sys2Proof.Machine.execVaddS tk d a n s
  | .vsubS tk d a n => Sys2Proof.Machine.execVsubS tk d a n s
  | .vmulS tk d a n => Sys2Proof.Machine.execVmulS tk d a n s
  | .vfmaS tk d a n => Sys2Proof.Machine.execVfmaS tk d a n s
  | .vfmsS tk d a n => Sys2Proof.Machine.execVfmsS tk d a n s
  | .vminS tk d a n => Sys2Proof.Machine.execVminS tk d a n s
  | .vmaxS tk d a n => Sys2Proof.Machine.execVmaxS tk d a n s
  | .vdivS tk d a n => Sys2Proof.Machine.execVdivS tk d a n s
  | .vandS tk d a n => Sys2Proof.Machine.execVandS tk d a n s
  | .vorS tk d a n => Sys2Proof.Machine.execVorS tk d a n s
  | .vxorS tk d a n => Sys2Proof.Machine.execVxorS tk d a n s
  | .vshlS tk d a n => Sys2Proof.Machine.execVshlS tk d a n s
  | .vshrS tk d a n => Sys2Proof.Machine.execVshrS tk d a n s
  | .vsraS tk d a n => Sys2Proof.Machine.execVsraS tk d a n s
  | .vabs tk d a => Sys2Proof.Machine.execVabs tk d a s
  | .vneg tk d a => Sys2Proof.Machine.execVneg tk d a s
  | .vrcp tk d a => Sys2Proof.Machine.execVrcp tk d a s
  | .vsqrt tk d a => Sys2Proof.Machine.execVsqrt tk d a s
  | .vrsqrt tk d a => Sys2Proof.Machine.execVrsqrt tk d a s
  | .vexp2 tk d a => Sys2Proof.Machine.execVexp2 tk d a s
  | .vlog2 tk d a => Sys2Proof.Machine.execVlog2 tk d a s
  | .vsin tk d a => Sys2Proof.Machine.execVsin tk d a s
  | .vcos tk d a => Sys2Proof.Machine.execVcos tk d a s
  | .vmov tk d a => Sys2Proof.Machine.execVmov tk d a s
  | .vcmp tk cond d a b => Sys2Proof.Machine.execVcmp tk cond d a b s
  | .vsel tk d a b => Sys2Proof.Machine.execVsel tk d a b s
  | .vcvt tk d a n => Sys2Proof.Machine.execVcvt tk d a n s
  | .vpack tk d a n => Sys2Proof.Machine.execVpack tk d a n s
  | .vunpack tk d a n => Sys2Proof.Machine.execVunpack tk d a n s
  | .vrsum tk d a => Sys2Proof.Machine.execVrsum tk d a s
  | .vrmax tk d a => Sys2Proof.Machine.execVrmax tk d a s
  | .vrmin tk d a => Sys2Proof.Machine.execVrmin tk d a s
  | .vperm tk d a b => Sys2Proof.Machine.execVperm tk d a b s
  | .vslup tk d a n => Sys2Proof.Machine.execVslup tk d a n s
  | .vsldn tk d a n => Sys2Proof.Machine.execVsldn tk d a n s
  | .vbcast tk d n => Sys2Proof.Machine.execVbcast tk d n s
  | .vlut tk d a b => Sys2Proof.Machine.execVlut tk d a b s
  | .vld tk d slot n => Sys2Proof.Machine.execVld tk d slot n s
  | .vst tk d slot n => Sys2Proof.Machine.execVst tk d slot n s
  | .vstNt tk d slot n => Sys2Proof.Machine.execVstNt tk d slot n s
  | .vgather tk d slot i0 => Sys2Proof.Machine.execVgather tk d slot i0 s
  | .vscatter tk d slot i0 => Sys2Proof.Machine.execVscatter tk d slot i0 s
  | .vupd tk d slot n => Sys2Proof.Machine.execVupd tk d slot n s
  | .mNop tk => Sys2Proof.Machine.execMNop tk s
  | .mExit tk => Sys2Proof.Machine.execMExit tk s
  | .mLoop tk n len => Sys2Proof.Machine.execMLoop tk n len s
  | .mRegionEnter tk imm => Sys2Proof.Machine.execMRegionEnter tk imm s
  | .mRegionLeave tk => Sys2Proof.Machine.execMRegionLeave tk s
  | .mcfg tk n => Sys2Proof.Machine.execMcfg tk n s
  | .manchor tk tile n => Sys2Proof.Machine.execManchor tk tile n s
  | .manchorAuto tk tile => Sys2Proof.Machine.execManchorAuto tk tile s
  | .mzero tk tile => Sys2Proof.Machine.execMzero tk tile s
  | .mstat tk slot c clr => Sys2Proof.Machine.execMstat tk slot c clr s
  | .msamp tk bnd slot c clr => Sys2Proof.Machine.execMsamp tk bnd slot c clr s
  | .mmd tk m => Sys2Proof.Machine.execMmd tk m s
  | .mms tk m aslot bslot => Sys2Proof.Machine.execMms tk m aslot bslot s
  | .mmn tk m aslot bslot => Sys2Proof.Machine.execMmn tk m aslot bslot s
  | .mmc tk m tab => Sys2Proof.Machine.execMmc tk m tab s
  | .mtab tk two t => Sys2Proof.Machine.execMtab tk two t s
  | .mrd tk r => Sys2Proof.Machine.execMrd tk r s
  | .mst tk tile t => Sys2Proof.Machine.execMst tk tile t s
  | .mld tk tile t => Sys2Proof.Machine.execMld tk tile t s
  | .mmerge tk prof tile t row0 rows => Sys2Proof.Machine.execMmerge tk prof tile t row0 rows s
  | .xNop tk => Sys2Proof.Machine.execXNop tk s
  | .xExit tk => Sys2Proof.Machine.execXExit tk s
  | .xLoop tk n len => Sys2Proof.Machine.execXLoop tk n len s
  | .xRegionEnter tk imm => Sys2Proof.Machine.execXRegionEnter tk imm s
  | .xRegionLeave tk => Sys2Proof.Machine.execXRegionLeave tk s
  | .copy tk c => Sys2Proof.Machine.execCopy tk c s
  | .copyOrder tk c o => Sys2Proof.Machine.execCopyOrder tk c o s
  | .copyEnc tk c code => Sys2Proof.Machine.execCopyEnc tk c code s
  | .copyEncOrder tk c code o => Sys2Proof.Machine.execCopyEncOrder tk c code o s
  | .copyDec tk c tab => Sys2Proof.Machine.execCopyDec tk c tab s
  | .copyDecOrder tk c tab o => Sys2Proof.Machine.execCopyDecOrder tk c tab o s
  | .copySt tk c st => Sys2Proof.Machine.execCopySt tk c st s
  | .copyStOrder tk c st o => Sys2Proof.Machine.execCopyStOrder tk c st o s
  | .metaLoad tk nslot islot t => Sys2Proof.Machine.execMetaLoad tk nslot islot t s
  | .metaLoadOrder tk nslot islot t o => Sys2Proof.Machine.execMetaLoadOrder tk nslot islot t o s
  | .gather tk g => Sys2Proof.Machine.execGather tk g s
  | .gatherOrder tk g o => Sys2Proof.Machine.execGatherOrder tk g o s
  | .scatter tk g => Sys2Proof.Machine.execScatter tk g s
  | .scatterOrder tk g o => Sys2Proof.Machine.execScatterOrder tk g o s
  | .scatterBin tk v idx bins => Sys2Proof.Machine.execScatterBin tk v idx bins s
  | .scatterBinOrder tk v idx bins o => Sys2Proof.Machine.execScatterBinOrder tk v idx bins o s
  | .binApply tk pb arr bins => Sys2Proof.Machine.execBinApply tk pb arr bins s
  | .binApplyOrder tk pb arr bins o => Sys2Proof.Machine.execBinApplyOrder tk pb arr bins o s
  | .put tk lk st s0 ppkg paddr => Sys2Proof.Machine.execPut tk lk st s0 ppkg paddr s
  | .putOrder tk lk st s0 ppkg paddr o => Sys2Proof.Machine.execPutOrder tk lk st s0 ppkg paddr o s
  | .get tk lk d ppkg paddr => Sys2Proof.Machine.execGet tk lk d ppkg paddr s
  | .getOrder tk lk d ppkg paddr o => Sys2Proof.Machine.execGetOrder tk lk d ppkg paddr o s
  | .mcast tk lk s0 d cores => Sys2Proof.Machine.execMcast tk lk s0 d cores s
  | .mcastOrder tk lk s0 d cores o => Sys2Proof.Machine.execMcastOrder tk lk s0 d cores o s
  | .walk tk w => Sys2Proof.Machine.execWalk tk w s
  | .walkOrder tk w o => Sys2Proof.Machine.execWalkOrder tk w o s
  | .permit tk n wn => Sys2Proof.Machine.execPermit tk n wn s
  | .permitOrder tk n wn o => Sys2Proof.Machine.execPermitOrder tk n wn o s
  | .lockSet tk pt l => Sys2Proof.Machine.execLockSet tk pt l s
  | .lockSetOrder tk pt l o => Sys2Proof.Machine.execLockSetOrder tk pt l o s
  | .alloc tk status zero cls t => Sys2Proof.Machine.execAlloc tk status zero cls t s
  | .allocOrder tk status zero cls t o => Sys2Proof.Machine.execAllocOrder tk status zero cls t o s
  | .free tk t => Sys2Proof.Machine.execFree tk t s
  | .freeOrder tk t o => Sys2Proof.Machine.execFreeOrder tk t o s
  | .renew tk t => Sys2Proof.Machine.execRenew tk t s
  | .renewOrder tk t o => Sys2Proof.Machine.execRenewOrder tk t o s
  | .ringPut tk verd s0 ring => Sys2Proof.Machine.execRingPut tk verd s0 ring s
  | .ringPutOrder tk verd s0 ring o => Sys2Proof.Machine.execRingPutOrder tk verd s0 ring o s
  | .ringTake tk cur ring d status => Sys2Proof.Machine.execRingTake tk cur ring d status s
  | .ringTakeOrder tk cur ring d status o => Sys2Proof.Machine.execRingTakeOrder tk cur ring d status o s
  | .ringClose tk ring => Sys2Proof.Machine.execRingClose tk ring s
  | .ringCloseOrder tk ring o => Sys2Proof.Machine.execRingCloseOrder tk ring o s
  | .coll tk c => Sys2Proof.Machine.execColl tk c s
  | .collOrder tk c o => Sys2Proof.Machine.execCollOrder tk c o s

end Sys2Proof.Machine
end

