-- ==== Sys2Proof/Machine/Fetch.lean ====
section
/-! DEFINITION. Fetching: the header check, the head word and its continuation words (R275, R276, R289). -/

namespace Sys2Proof.Machine

/-- A 32-bit field of bytes. -/
def word32 (bs : List Byte) (at_ : Nat) : W32 := leBV 32 ((bs.drop at_).take 4)

/-- The reserved bytes of a code object's header are zero (R4, R275). -/
def headerPlain (bs : List Byte) : Bool := ((bs.drop 6).take 2 ++ (bs.drop 12).take 4 ++ (bs.drop 48).take 16).all (· == 0)

/-- The header of the running crew's code object: as it stood at placement, or read now where it could not be read then (R275, R276). -/
def readHeader (k : Strand) : Op (List Byte) := do
  let w ← curCrew
  match w.header with
  | some bs => return bs
  | none => readRange k (← sysAcc w.code 128 64) 128

/-- Raises ILLOP unless the bytes from the slot map up to the first section are zero (R4, R275). -/
def headerGap (k : Strand) (first : Nat) : Op Unit := do
  if 128 < first then
    let w ← curCrew
    need ((← readRange k (← sysAcc (w.code + 128) (first - 128) 64) (first - 128)).all (· == 0)) kIllop

/-- The header check of a strand (R275), whose outcome shows at its first fetch. The first check of a crew sets its slot map (R143) and
sections, which then stay fixed. -/
def headerCheck (k : Strand) : Op Unit := do
  let bs ← readHeader k
  let n := (strandFin k).val
  let offs := (List.range 4).map fun j => word32 bs (16 + 8 * j)
  let lens := (List.range 4).map fun j => word32 bs (20 + 8 * j)
  let sections := (offs.zip lens).filter fun e => e.2 != 0
  let edition := (bs.getD (8 + n) 0)
  let own := ((← curCore).dtabs[strandFin k]).edition
  if word32 bs 0 != 0x4F43584B || leNat ((bs.drop 4).take 2) != 1 || (edition != 0 && edition != own) || !headerPlain bs then
    flt kIllop
  else
    need (lens.getD n 0 == 0 || (offs.getD n 0).toNat % 64 == 0) kIllop
    headerGap k (sections.foldl (fun m e => min m e.1.toNat) (if sections.isEmpty then 128 else 2 ^ 32))
    let slots := (List.range 32).map fun j => leBV 16 ((bs.drop (64 + 2 * j)).take 2)
    modCur fun c => { c.setStr k { (c.str k) with headOk := true } with
      crew := c.crew.map fun w => if w.slots.isEmpty then { w with slots := slots, secOff := offs, secLen := lens } else w }

/-- Fetches the instruction at the strand's pc: its words and the decode table entry of its head. -/
def fetchOp (k : Strand) : Op (List W32 × BitVec 16) := do
  if !((← curCore).str k).headOk then headerCheck k
  let w ← curCrew
  let c ← curCore
  let pc := (c.str k).pc
  let n := (strandFin k).val
  let len := w.secLen.getD n 0
  if len.toNat ≤ pc.toNat then flt kIllop
  else
    let at_ := w.code + (w.secOff.getD n 0).toNat + 4 * pc.toNat
    let h := word32 (← readRange k (← sysAcc at_ 4 4) 4) 0
    modify fun s => { s with ir := [h] }
    let e := c.entryAt k (h.extractLsb' 22 10).toNat
    match entryOp k e with
    | none => illop k
    | some (_, m) =>
      if len.toNat < pc.toNat + m then illop k
      else
        let bs ← readRange k (← sysAcc at_ (4 * m) 4) (4 * m)
        let ws := wordsOfBytes bs
        modify fun s => { s with ir := ws }
        return (ws, e)

end Sys2Proof.Machine
end

