-- ==== Sys2Proof/Machine/Sched.lean ====
section
/-! DEFINITION. Which part of the machine acts next. One step runs one row of the opcode table; units take turns (R100,
log 4). -/

namespace Sys2Proof.Machine

/-- What a unit does when its turn comes. -/
inductive Work where
  | event (i : Instr)
  | strand (c : BitVec 7) (k : Strand)
  deriving DecidableEq, Repr

/-- The strand with a number. -/
def strandOf (n : Nat) : Strand :=
  match n with
  | 0 => .s
  | 1 => .v
  | 2 => .m
  | _ => .x

/-- May a strand issue, or go on with the instruction it holds (R287, R293)? X issues nothing behind a take that a move waits for (R137). -/
def State.strandRuns (s : State) (c : BitVec 7) (k : Strand) : Bool :=
  let r := s.core c
  let t := r.str k
  s.coreRuns c && match t.held with
    | some h => h.progress != .fault && decide (h.notBefore ≤ s.time)
    | none => t.live && !(r.yld.draining && k != .s) && (k != .x || (decide (r.xs.queue.length < 64) && !r.xs.queue.any (·.leaving)))

/-- The first of some events that finds something to do; each comes with its meaning. -/
def State.firstUseful (s : State) (changed : State → Bool) (l : List (Instr × (State → Host.Outcome State Fault Refusal))) : Option Instr :=
  (l.find? fun e => match e.2 s with
    | .next t => changed t
    | _ => false).map (·.1)

/-! ### Cores -/

/-- What the engines of a core can do: the X machinery, the matrix engine, requests to be sent again, deferred replays. -/
def State.coreWork (s : State) (c : BitVec 7) : Option Instr :=
  let r := s.core c
  if (s.waits ++ s.posts).any (fun w => w.core == c && w.due s.time) || (c == 0 && s.dev.any s.devReady) then some (.retryResend c)
  else match s.xWork c with
  | some i => some i
  | none =>
    if r.slog.any fun e => s.canDefer c e then some (.deferReplay c)
    else if s.ntReady c then some (.ntStorePerform c)
    else if r.posted.any fun v => decide (v ≤ s.time) then some (.fabricReleaseComplete c)
    else if r.ev.busy && decide (r.ev.doneAt ≤ s.time) then some (.snapshotDone c)
    else if s.coreRuns c && (r.ms.tabs.any fun t => t.table.isNone) then some (.tableArrival c)
    else none

/-- The matrix engine of a core: a cycle of its sparse command. -/
def State.matrixWork (s : State) (c : BitVec 7) : Option Instr :=
  match (s.core c).ms.run with
  | some r => if !r.fin && s.coreRuns c then some (.matrixCycle c) else none
  | none => none

/-! ### Partitions -/

/-- Launches that could be placed, the highest priority first, then in order of acceptance (R112). -/
def State.candidates (s : State) (p : BitVec 5) : List Launch :=
  sortBy (fun a b => decide (b.prio < a.prio) || (a.prio == b.prio && decide (a.acc ≤ b.acc))) ((s.part p).launches.filter fun l => s.placeable p l)

/-- Groups for which a crew of the partition executes a `coll`. -/
def State.collGroups (s : State) (p : BitVec 5) : List (BitVec 8) :=
  ((s.residents p).flatMap fun e => (s.core e.1).xs.queue.filterMap fun m => match m.kind with
    | .coll a => if m.running then some a.group else none
    | _ => none).eraseDups

/-- What the command processor and the stage router can do for a partition. -/
def State.partWork (s : State) (p : BitVec 5) : Option Instr :=
  let t := s.part p
  let jobs := (t.jobs.filter fun j => decide (j.notBefore ≤ s.time)).map fun j =>
    (Instr.completionSignalDecrement p j.id, execCompletionSignalDecrement p j.id)
  let pipes := (t.launches.filter fun l => l.pipe.isSome && l.life == .resident).flatMap fun l =>
    [(Instr.routerAdmit p l.acc, execRouterAdmit p l.acc), (.routerDecision p l.acc, execRouterDecision p l.acc),
      (.derailleurMove p l.acc, execDerailleurMove p l.acc), (.derailleurEvaluate p l.acc, execDerailleurEvaluate p l.acc)]
  let queued := if t.launches.isEmpty then [] else ((s.candidates p).map fun l =>
      if l.pipe.isNone then (Instr.launchPlacement p l.acc, execLaunchPlacement p l.acc) else (.pipelinePlacement p l.acc, execPipelinePlacement p l.acc)) ++
    [(.placementReservation p, execPlacementReservation p), (.preemptDecision p, execPreemptDecision p), (.contextSelect p, execContextSelect p)]
  let own := (if t.preempt.isSome || t.swap.isSome then [(Instr.yieldDeadline p, execYieldDeadline p), (.contextSwap p, execContextSwap p)] else []) ++
    (if t.migrs.isEmpty then [] else [(.migration p, execMigration p)]) ++
    (match t.halt with
      | some h => if h.done || !h.left.isEmpty then [] else [(.haltComplete p, execHaltComplete p)]
      | none => []) ++
    (if t.missWait.isEmpty then [] else [(.tileMissRecordWrite p, execTileMissRecordWrite p)]) ++
    (if t.genQ.isEmpty || t.halted || t.halt.isSome then [] else [(.genHomeUpdate p, execGenHomeUpdate p)]) ++ jobs ++ queued ++ pipes
  match s.firstUseful (fun u => u.part p != t || u.dev != s.dev) own with
  | some i => some i
  | none => s.firstUseful (fun u => u.cores != s.cores) ((s.collGroups p).map fun g => (.collInstanceComplete p g [], execCollInstanceComplete p g []))

/-! ### The command processor's queues (R68, R105) -/

/-- What taking up the head of a queue does now. -/
def State.takeHead (s : State) (q : BitVec 10) : Host.Outcome State Fault Refusal :=
  match s.queueHead q with
  | none => execQueuePoll q s
  | some (_, bs, _) =>
    match pktKind bs with
    | 1 => execLaunchPacket q s
    | 2 => execCopyPacket q s
    | 3 => execSignalPacket q s
    | 4 => execWaitPacket q s
    | 5 => execStagesPacket q s
    | 6 => execRegionsPacket q s
    | _ => execQueuePoll q s

/-- Has serving a queue an effect: on the queue, its READ or STATUS, or its partition? -/
def State.served (s : State) (q : BitVec 10) (t : State) : Bool :=
  let k := s.queue q
  let words := fun (s : State) => ((s.linRead64 k.part 0 (k.header.toNat + 8)).2, (s.linRead64 k.part 0 (k.header.toNat + 16)).2)
  let same := match words s, words t with
    | (.ok a, .ok b), (.ok c, .ok d) => a == c && b == d
    | _, _ => true
  t.queue q != k || t.part k.part != s.part k.part || t.dev != s.dev || !same

/-- What serving a queue would be, where it has an effect: a poll, or a WAIT's conditions read again. -/
def State.queueWork (s : State) (q : BitVec 10) : Option Instr :=
  let k := s.queue q
  if !k.enable then none
  else if k.met.isSome then s.firstUseful (s.served q) [(.waitRecheck q, execWaitRecheck q)]
  else s.firstUseful (s.served q) [(.queuePoll q, fun s => s.takeHead q)]

/-- The queue served next: the highest PRIO first, round-robin within a level (R68). -/
def State.nextQueue (s : State) : Option Instr :=
  let ready := s.queues.filterMap fun e => (s.queueWork (BitVec.ofNat 10 e.1)).map fun i => (e.1, e.2.prio.toNat, i)
  let top := ready.foldl (fun m e => max m e.2.1) 0
  let level := ready.filter fun e => e.2.1 == top
  match level.find? fun e => decide (s.nextQ.getD top 0 ≤ e.1) with
  | some e => some e.2.2
  | none => level.head?.map (·.2.2)

/-! ### The rest of the package -/

/-- What the time-keeper, the clocks and the sensors call for. -/
def State.packageWork (s : State) : Option Instr :=
  let f := s.fabric
  let up := s.ports.toList.any fun p => p.up
  let dies := [0, 1, 2, 3].map fun d => (d, BitVec.ofNat 2 d)
  if f.pending.isSome && decide (f.pendAt ≤ s.time) then some .wincfgTakeEffect
  else if up && f.master && decide (f.lastSync + 1000000 ≤ s.time) then some .syncSend
  else if s.holdoverDue then some .holdoverSet
  else if s.boot.hold && (match s.power.below90 with
    | some t => decide (t + 100000000 ≤ s.time)
    | none => false) then some .thermalHoldEnd
  else match dies.find? fun d => s.power.hot.getD d.1 false && (match s.power.coolSince.getD d.1 none with
    | some t => decide (t + 1000000 ≤ s.time)
    | none => false) with
  | some d => some (.classToCool d.2)
  | none => (dies.find? fun d => s.throttleDue d.1).map fun d => .thermalThrottleStep d.2

/-- Has a torus port something to send, or to discard? -/
def TorusPort.busy (t : TorusPort) : Bool :=
  !t.training && !(t.queue.isEmpty && t.through.isEmpty && t.ctl.isEmpty && t.onLine.isNone)

/-- What unit `u` has to do: 0 to 511 are the strands, then follow the cores' engines, their matrix engines, the partitions, the rings, die
switches and torus ports, the command processor's queues, and the rest. -/
def State.unitWork (s : State) (u : Nat) : Option Work :=
  if u < 512 then
    let c := BitVec.ofNat 7 (u / 4)
    let k := strandOf (u % 4)
    if s.strandRuns c k then some (.strand c k) else none
  else (if u < 640 then s.coreWork (BitVec.ofNat 7 (u - 512))
    else if u < 768 then s.matrixWork (BitVec.ofNat 7 (u - 640))
    else if u < 800 then s.partWork (BitVec.ofNat 5 (u - 768))
    else if u < 816 then (if (s.ring (u - 800)).pkts.isEmpty then none else some (.ringFlitTransfer (BitVec.ofNat 4 (u - 800))))
    else if u < 820 then (if (s.switches.toList.getD (u - 816) {}).waiting.isEmpty then none else some (.dieSwitchTransfer (BitVec.ofNat 2 (u - 816))))
    else if u < 826 then (if (s.ports.toList.getD (u - 820) {}).busy then some (.torusFlitTransfer (BitVec.ofNat 3 (u - 820))) else none)
    else if u = 826 then s.nextQueue
    else s.packageWork).map .event

/-- Units. -/
def units : Nat := 828

/-- Units whose clock is gated in PS2 (R14): the strands and the matrix engines. -/
def gated (u : Nat) : Bool := decide (u < 512 ∨ (640 ≤ u ∧ u < 768))

/-- The next unit with work, from the turn on. Nothing runs in PS3, and no core in PS2 (R14). -/
def State.nextWork (s : State) : Option (Nat × Work) :=
  if s.power.ps = 3 then none
  else (List.range units).findSome? fun i =>
    let u := (s.turn + i) % units
    if s.power.ps = 2 ∧ gated u then none else (s.unitWork u).map fun w => (u, w)

/-- Has a window begun that no advertisement has gone out for, with a port that is in use (R55)? -/
def State.windowDue (s : State) : Bool := s.ports.toList.any (fun p => p.up || !p.waiting.isEmpty) && decide (s.fabric.advAt ≠ s.windowNow)

/-- Fabric time advances by 1 ns with every step (log 4), and the boot sequence goes on. Each microsecond a retention tick is due (R159); a new window comes
before all else (R52, R55). -/
def State.elapse (s : State) : State :=
  let s := ({ s with time := s.time + 1 } : State).bootGoes
  let s := if s.tickSeen < s.time / 1000 ∧ !s.agenda.contains .retentionTick then s.push .retentionTick else s
  if s.windowDue ∧ !s.agenda.contains .windowBoundary then { s with agenda := .windowBoundary :: s.agenda } else s

end Sys2Proof.Machine
end

