-- ==== Sys2Proof/Machine/Step.lean ====
section
/-! DEFINITION. One step: an event that stands next, or the next unit with work; and the placing of one instruction where
the next step fetches it. -/

namespace Sys2Proof.Machine

/-- May the M strand issue its next command behind the one in progress (R294, R231)? -/
def State.secondGoes (s : State) (c : BitVec 7) : Bool :=
  let r := s.core c
  s.coreRuns c && (r.str .m).live && !r.yld.draining && r.ms.second.isNone && match (r.str .m).held with
    | some h => h.seq.isSome && (h.progress == .none || h.progress == .part)
    | none => false

/-- What comes of the issue of M's next command from a state whose pc is at it: nothing, a fault with no entry taken, or its entry (R338). -/
inductive Issue where
  | none
  | fault (t : State)
  | entry (t : State) (h : Held)

/-- The next command of M is fetched, decoded and issued, but not run (R275, R276, R289, R338). -/
noncomputable def State.tryIssue (s : State) (c : BitVec 7) : Issue :=
  match (fetchOp .m).run { s with ir := [] } with
  | (.ok (ws, e), t) =>
    match decodeWords .m (fun _ => e) ws with
    | some (i, _) =>
      let p := (t.issueHeld .m noTok).modCore c fun r => r.setStr .m { (r.str .m) with held := some { r.heldOf .m with probe := true } }
      match exec i p with
      | .next u => if !u.probing then .entry u ((u.core c).heldOf .m) else if ((u.core c).str .m).fault.isSome then .fault u else .none
      | _ => .none
    | none => .fault (t.takeFault c .m ((t.core c).str .m).pc (t.ir.headD 0) (t.illop .m))
  | (.error (.fault f), t) => .fault (t.takeFault c .m ((t.core c).str .m).pc (t.ir.headD 0) f)
  | (.error _, _) => .none

/-- The next command of M issues into the second entry, behind the one in progress, with the pc past that, or faults at its issue (R294, R338): none where
it does neither, and nothing has changed then. -/
noncomputable def State.issueSecond (s : State) (c : BitVec 7) (k : Strand) : Option State :=
  if k != .m || !s.secondGoes c then none
  else
    let st := (s.core c).str .m
    let h := (s.core c).heldOf .m
    let q := s.passEntry c .m h
    let nx := (q.core c).str .m
    match (s.modCore c fun r => r.setStr .m { (r.str .m) with pc := nx.pc, loops := nx.loops }).tryIssue c with
    | .none => none
    | .fault t => some (t.modCore c fun r => r.setStr .m { (r.str .m) with held := some h, pc := st.pc, loops := st.loops })
    | .entry _ _ => match q.tryIssue c with
      | .entry t g => some (t.modCore c fun r => { r.setStr .m { (r.str .m) with held := some h } with ms := { r.ms with second := some g } })
      | _ => none

/-- A strand's turn: it goes on with what it holds, or fetches, decodes and issues (R275, R276, R289, R337, R338). -/
noncomputable def stepStrand (c : BitVec 7) (k : Strand) (s : State) : Host.Outcome State Fault Refusal :=
  let s := { s with cur := c }
  match ((s.core c).str k).held with
  | some h =>
    if h.progress == .all then exec (.instructionFinish c k) s
    else match s.issueSecond c k with
    | some t => .next t
    | none =>
      match decodeWords k (fun _ => h.entry) h.words with
      | some (i, _) => exec i { s with ir := h.words }
      | none => .next s
  | none =>
    match (fetchOp k).run { s with ir := [] } with
    | (.ok (ws, e), t) =>
      match decodeWords k (fun _ => e) ws with
      | some (i, _) => exec i t
      | none => .next (t.takeFault c k ((t.core c).str k).pc (t.ir.headD 0) (t.illop k))
    | (.error (.fault f), t) => .next (t.takeFault c k ((t.core c).str k).pc (t.ir.headD 0) f)
    | (.error _, t) => .next t

/-- One step. -/
noncomputable def step (s : State) : Host.Outcome State Fault Refusal :=
  match s.agenda with
  | i :: rest => exec i ({ s with agenda := rest } : State).elapse
  | [] =>
    match s.nextWork with
    | some (u, .event i) => exec i ({ s with turn := u + 1 } : State).elapse
    | some (u, .strand c k) => stepStrand c k ({ s with turn := u + 1 } : State).elapse
    | none => .next s.elapse

/-- A tile table entry of an HBM tile: PRESENT, WRITABLE, a package and a unit (R147, R148). -/
def hbmEntry (pkg unit : Nat) : BitVec 64 := BitVec.ofNat 64 (3 + pkg * 2 ^ 16 + unit * 2 ^ 32)

/-- The descriptor of a linear tensor of one 16 KiB tile: MEMORY, rank 1, untyped, byte elements (R140, R145). -/
def linearDesc (ttptr : Nat) : BitVec 512 :=
  BitVec.ofNat 512 (1 + 4 + 3 * 2 ^ 64 + 14 * 2 ^ 96 + 16384 * 2 ^ 128 + ttptr * 2 ^ 320)

/-- A machine whose next step fetches and runs the instruction of a table number. It stands for a launch (log 13): core 0
of partition 0 holds a crew of context 0 with one live strand at pc 0; the context's linear space is one HBM tile, and
the words lie in a code section at byte 128 of it. -/
noncomputable def State.withFetchWord (s : State) (nbits w : Nat) : State :=
  let k := ((tableStrand nbits w).map (·.1)).getD .s
  let p := s.part 0
  let ctx : Ctx := { p.ctx 0 with ttable := 0, ndesc := 0 }
  let crew : Crew := { slots := List.replicate 32 0, secOff := List.replicate 4 128, secLen := List.replicate 4 4 }
  let c : Core := { s.core 0 with crew := some crew, strands := Vector.replicate 4 {}, stopped := false, yld := {} }
  let c : Core := { c with tcs := Vector.replicate 5 [], dtabs := Vector.replicate 4 {} }
  let s := s.setCore 0 (c.setStr k { live := true, headOk := true })
  let q : Part := p.modCtx 0 fun _ => ctx
  let q := { q with runctx := 0, halted := false, halt := none }
  let s := s.setPart 0 { q with pquads := p.pquads ||| 1 }
  let s := { s with agenda := [], turn := (strandFin k).val, frames := [], waits := [] }
  let s := s.bankWrite 0 (bvBytes 64 (linearDesc 64))
  let s := s.bankWrite 64 (bvBytes 64 (hbmEntry s.fabric.index 1))
  s.bankWrite (16384 + 128) (((tableWords nbits w).flatMap fun x => bvBytes 4 x) ++ List.replicate 48 0)

end Sys2Proof.Machine
end

