-- ==== Sys2Proof/Safety.lean ====
section
/-! DEFINITION. What counts as a safe run: no step stops, and the memories keep their canonical form. -/

namespace Sys2Proof

/-- The tables of storage are in canonical form (Store.lean). -/
def Machine.State.memWf (s : Machine.State) : Bool :=
  Machine.SMap.wf 0 s.mem && Machine.SMap.wf 0 s.rowTick && Machine.SMap.wf false s.rowLive && Machine.SMap.wf false s.poison

/-- A state is safe when storage is canonical and its step answers a next state. -/
def Safe (s : Machine.State) : Prop := s.memWf = true ∧ ∃ t, Machine.step s = .next t

end Sys2Proof
end

