-- ==== Sys2Proof/Certificates/Slice0/Obligations.lean ====
section
/-! DEFINITION. The statements for the provers, with the words they are written in (namespace Sys2Proof.Stmt). Each says in
its comment which rules it formalises. -/

namespace Sys2Proof.Stmt

open Sys2Proof.Machine

/-! ### Words that the statements share -/

/-- The core whose strand acts. -/
def cur (s : State) : Core := s.core s.cur

/-- The pc of a strand of the core that acts. -/
def pcOf (k : Strand) (s : State) : W32 := ((cur s).str k).pc

/-- Strand `k` can issue an instruction with these token fields: it holds none, a token that it waits for is there, and no command of X holds up further
issue (R285, R287). -/
def Ready (k : Strand) (tk : Tok) (s : State) : Prop :=
  ((cur s).str k).held = none ∧ (tk.wait = 0 ∨ (cur s).tokAt (waitIdx k tk.wait.toNat) ≠ 0) ∧ (k = .x → (cur s).xs.blocked = false)

/-- S can issue an instruction that reads the registers `srcs`: it holds none, and no register of them awaits the value of a
logged atomic. -/
def SReady (srcs : List (BitVec 6)) (s : State) : Prop := Ready .s noTok s ∧ (cur s).waitsOn srcs = false

/-- The core holds a crew. -/
def Has (w : Crew) (s : State) : Prop := (cur s).crew = some w

/-- A check of operands passes in a state. -/
def Passes (x : Op Unit) (s : State) : Prop := (x.run s).1 = .ok ()

/-- A reading of operands gives a value, and leaves a state. -/
def Gives {α : Type} (x : Op α) (s : State) (a : α) (t : State) : Prop := x.run s = (.ok a, t)

/-- What is left of a held instruction of `len` words when it completes: the pc moves on, its token is posted. -/
def finish (c : BitVec 7) (k : Strand) (len : Nat) (t : State) : State := t.complete c k ((t.core c).heldOf k) len .seq

/-- The instruction has the effect that leaves `t`, and completes in this very step: exec answers what `t` becomes when the strand's
entry is freed, its token posted and its pc moved past the instruction. -/
def EndsAt (i : Instr) (s : State) (k : Strand) (len : Nat) (t : State) : Prop := exec i s = .next (finish s.cur k len t)

/-- The instruction issues, has the effect `f` on the state in which it has issued, and completes in this very step. -/
def Ends (i : Instr) (s : State) (k : Strand) (tk : Tok) (len : Nat) (f : State → State) : Prop :=
  EndsAt i s k len (f (s.issueHeld k tk))

/-- The core that acts, changed. -/
def onCore (f : Core → Core) (s : State) : State := s.modCore s.cur f

/-- An S form that only computes: the core changes by `f`, the pc moves one word on, the instruction retires. -/
def computed (f : Core → Core) (s : State) : State :=
  ((s.modCore s.cur f).advance s.cur .s (pcOf .s s) 1).countRetired s.cur .s

/-- An S form that only goes on: the pc moves one word on, the instruction retires. -/
def retired (s : State) : State := (s.advance s.cur .s (pcOf .s s) 1).countRetired s.cur .s

/-- No trace stream follows the crew of the core that acts (R462). -/
def Untraced (s : State) : Prop :=
  ∀ h w, (cur s).crew = some w → s.traces h w.part w.ctx = false

/-- One byte of storage. -/
def byteAt (s : State) (a : Nat) : Byte := SMap.get 0 s.mem a

/-- Nothing but the cores, the events that stand next and what a taken loop exit prepares differs. -/
def SameOutside (s t : State) : Prop :=
  t.mem = s.mem ∧ t.rowTick = s.rowTick ∧ t.rowLive = s.rowLive ∧ t.poison = s.poison ∧ t.flaws = s.flaws ∧ t.time = s.time ∧
  t.parts = s.parts ∧ t.queues = s.queues ∧ t.boot = s.boot ∧ t.cfgrec = s.cfgrec ∧ t.power = s.power ∧ t.rings = s.rings ∧
  t.switches = s.switches ∧ t.ports = s.ports ∧ t.fabric = s.fabric ∧ t.funcs = s.funcs ∧ t.errlog = s.errlog ∧
  t.frames = s.frames ∧ t.hostLog = s.hostLog ∧ t.outbox = s.outbox ∧ t.cur = s.cur

/-- Every other core is as it was. -/
def OtherCores (s t : State) : Prop := ∀ c : BitVec 7, c ≠ s.cur → t.core c = s.core c

/-- What a scalar form that only computes leaves of its core: every x register but `ds`, and everything else but the S strand's pc
and loops, the counters and the snapshot buffer, and the waiting values of `ds`. -/
def ScalarSame (ds : List (BitVec 6)) (c e : Core) : Prop :=
  (∀ r, r ∉ ds → e.xr r = c.xr r) ∧ e.p = c.p ∧ e.crew = c.crew ∧ e.clearing = c.clearing ∧ e.v = c.v ∧ e.masks = c.masks ∧ e.shape = c.shape ∧
  e.tok = c.tok ∧ e.xs = c.xs ∧ e.ms = c.ms ∧ e.yld = c.yld ∧ e.trace = c.trace ∧ e.slog = c.slog ∧ e.wcb = c.wcb ∧
  e.posted = c.posted ∧ e.tcs = c.tcs ∧ e.dtabs = c.dtabs ∧ e.gens = c.gens ∧ e.genUpd = c.genUpd ∧ e.dtabUpd = c.dtabUpd ∧
  e.units = c.units ∧ e.stops = c.stops ∧ e.stopped = c.stopped ∧ e.steal = c.steal ∧ e.monitor = c.monitor ∧
  (∀ k, k ≠ .s → e.str k = c.str k) ∧
  (e.str .s).live = (c.str .s).live ∧ (e.str .s).held = (c.str .s).held ∧ (e.str .s).region = (c.str .s).region ∧
  (e.str .s).lost = (c.str .s).lost ∧ (e.str .s).armed = (c.str .s).armed ∧ (e.str .s).fault = (c.str .s).fault ∧
  (e.str .s).relNext = (c.str .s).relNext

/-! ### Scalar arithmetic: the table of R348 in the arithmetic of integers -/

/-- The value that R348 gives an operation at a width of `n` bits. -/
abbrev BinOp := (n : Nat) → BitVec n → BitVec n → BitVec n

/-- The `.w` rule of R348: bits 31 to 0 of both operands, the result sign-extended. -/
def wide (w : Bool) (op : BinOp) (x y : Word) : Word :=
  if w then (op 32 (x.setWidth 32) (y.setWidth 32)).signExtend 64 else op 64 x y

/-- Destination, sources and value of the arithmetic forms of R348. -/
def arithValue (c : Core) : Instr → Option (BitVec 6 × List (BitVec 6) × Word)
  | .add d a b w => some (d, [a, b], wide w (fun n x y => BitVec.ofInt n (x.toInt + y.toInt)) (c.xr a) (c.xr b))
  | .sub d a b w => some (d, [a, b], wide w (fun n x y => BitVec.ofInt n (x.toInt - y.toInt)) (c.xr a) (c.xr b))
  | .mul d a b w => some (d, [a, b], wide w (fun n x y => BitVec.ofInt n (x.toInt * y.toInt)) (c.xr a) (c.xr b))
  | .mulh d a b w => some (d, [a, b], wide w (fun n x y => BitVec.ofInt n (x.toInt * y.toInt / 2 ^ n)) (c.xr a) (c.xr b))
  | .mulhu d a b w => some (d, [a, b], wide w (fun n x y => BitVec.ofNat n (x.toNat * y.toNat / 2 ^ n)) (c.xr a) (c.xr b))
  | .div d a b w => some (d, [a, b], wide w (fun n x y => if y = 0 then BitVec.ofInt n (-1) else BitVec.ofInt n (x.toInt.tdiv y.toInt))
      (c.xr a) (c.xr b))
  | .divu d a b w => some (d, [a, b], wide w (fun n x y => if y = 0 then BitVec.ofInt n (-1) else BitVec.ofNat n (x.toNat / y.toNat))
      (c.xr a) (c.xr b))
  | .rem d a b w => some (d, [a, b], wide w (fun n x y => BitVec.ofInt n (x.toInt - y.toInt * x.toInt.tdiv y.toInt)) (c.xr a) (c.xr b))
  | .remu d a b w => some (d, [a, b], wide w (fun n x y => BitVec.ofNat n (x.toNat - y.toNat * (x.toNat / y.toNat))) (c.xr a) (c.xr b))
  | _ => none

/-- Destination, sources and value of the bitwise, shift, minimum and maximum forms of R348. -/
def logicValue (c : Core) : Instr → Option (BitVec 6 × List (BitVec 6) × Word)
  | .and d a b w => some (d, [a, b], wide w (fun _ x y => x &&& y) (c.xr a) (c.xr b))
  | .or d a b w => some (d, [a, b], wide w (fun _ x y => x ||| y) (c.xr a) (c.xr b))
  | .xor d a b w => some (d, [a, b], wide w (fun _ x y => x ^^^ y) (c.xr a) (c.xr b))
  | .andn d a b w => some (d, [a, b], wide w (fun _ x y => x &&& ~~~y) (c.xr a) (c.xr b))
  | .shl d a b w => some (d, [a, b], wide w (fun n x y => BitVec.ofNat n (x.toNat * 2 ^ (y.toNat % n))) (c.xr a) (c.xr b))
  | .shr d a b w => some (d, [a, b], wide w (fun n x y => BitVec.ofNat n (x.toNat / 2 ^ (y.toNat % n))) (c.xr a) (c.xr b))
  | .sra d a b w => some (d, [a, b], wide w (fun n x y => BitVec.ofInt n (x.toInt / 2 ^ (y.toNat % n))) (c.xr a) (c.xr b))
  | .rotr d a b w => some (d, [a, b], wide w (fun n x y =>
      BitVec.ofNat n (x.toNat / 2 ^ (y.toNat % n)) ||| BitVec.ofNat n (x.toNat * 2 ^ (n - y.toNat % n))) (c.xr a) (c.xr b))
  | .min d a b w => some (d, [a, b], wide w (fun _ x y => if x.toInt ≤ y.toInt then x else y) (c.xr a) (c.xr b))
  | .max d a b w => some (d, [a, b], wide w (fun _ x y => if x.toInt ≤ y.toInt then y else x) (c.xr a) (c.xr b))
  | .minu d a b w => some (d, [a, b], wide w (fun _ x y => if x.toNat ≤ y.toNat then x else y) (c.xr a) (c.xr b))
  | .maxu d a b w => some (d, [a, b], wide w (fun _ x y => if x.toNat ≤ y.toNat then y else x) (c.xr a) (c.xr b))
  | .sel d a b => some (d, [d, a, b], if c.xr d = 0 then c.xr b else c.xr a)
  | _ => none

/-- How many of the powers 2^0 … 2^n divide a number, less one. -/
def twos (n v : Nat) : Nat := ((List.range (n + 1)).filter fun k => v % 2 ^ k = 0).length - 1

/-- Bit `i` of a number. -/
def bitOf (v i : Nat) : Nat := v / 2 ^ i % 2

/-- Start and length of a field that `bext` and `bins` name in b at width n (R348). -/
def fieldAt (n : Nat) (b : BitVec n) : Nat × Nat :=
  (b.toNat % n, min (b.toNat / 256 % (if n = 64 then 128 else 64)) n)

/-- Destination, sources and value of the counting and field forms of R348. -/
def fieldValue (c : Core) : Instr → Option (BitVec 6 × List (BitVec 6) × Word)
  | .clz d a w => some (d, [a], wide w (fun n x _ => BitVec.ofNat n (if x = 0 then n else n - 1 - x.toNat.log2)) (c.xr a) 0)
  | .ctz d a w => some (d, [a], wide w (fun n x _ => BitVec.ofNat n (twos n x.toNat)) (c.xr a) 0)
  | .popc d a w => some (d, [a], wide w (fun n x _ => BitVec.ofNat n ((List.range n).map (bitOf x.toNat)).sum) (c.xr a) 0)
  | .brev d a w => some (d, [a], wide w (fun n x _ =>
      BitVec.ofNat n ((List.range n).map fun i => bitOf x.toNat i * 2 ^ (n - 1 - i)).sum) (c.xr a) 0)
  | .bext d a b w => some (d, [a, b], wide w (fun n x y =>
      let f := fieldAt n y
      BitVec.ofNat n (x.toNat / 2 ^ f.1 % 2 ^ f.2)) (c.xr a) (c.xr b))
  | .bins d a b w =>
    let old := c.xr d
    some (d, [d, a, b], wide w (fun n x y =>
      let f := fieldAt n y
      let v := (old.setWidth n).toNat
      BitVec.ofNat n (v % 2 ^ f.1 + x.toNat % 2 ^ f.2 * 2 ^ f.1 + v / 2 ^ (f.1 + f.2) * 2 ^ (f.1 + f.2))) (c.xr a) (c.xr b))
  | _ => none

/-- A condition of R332 and R349 on two values. -/
def holds (cond : Cond) (x y : Word) : Bool :=
  match cond with
  | .eq => decide (x.toNat = y.toNat)
  | .ne => decide (x.toNat ≠ y.toNat)
  | .lt => decide (x.toInt < y.toInt)
  | .ge => decide (y.toInt ≤ x.toInt)
  | .ltu => decide (x.toNat < y.toNat)
  | .geu => decide (y.toNat ≤ x.toNat)

/-- The number that stands for a condition in `mod` (R332). -/
def condNumber : Cond → Nat
  | .eq => 0
  | .ne => 1
  | .lt => 2
  | .ge => 3
  | .ltu => 4
  | .geu => 5

/-- Destination, sources and value of the compares of R349. -/
def compareValue (c : Core) : Instr → Option (BitVec 6 × List (BitVec 6) × Word)
  | .cmp cond d a b => some (d, [a, b], if holds cond (c.xr a) (c.xr b) then 1 else 0)
  | .cmpi cond d a imm => some (d, [a], if holds cond (c.xr a) (BitVec.ofInt 64 imm.toInt) then 1 else 0)
  | _ => none

/-- Destination, sources and value of the immediate forms of R350 and the constants of R351. -/
def immValue (c : Core) : Instr → Option (BitVec 6 × List (BitVec 6) × Word)
  | .addi d a imm => some (d, [a], BitVec.ofInt 64 ((c.xr a).toInt + imm.toInt))
  | .muli d a imm => some (d, [a], BitVec.ofInt 64 ((c.xr a).toInt * imm.toInt))
  | .andi d a imm => some (d, [a], c.xr a &&& BitVec.ofNat 64 imm.toNat)
  | .ori d a imm => some (d, [a], c.xr a ||| BitVec.ofNat 64 imm.toNat)
  | .xori d a imm => some (d, [a], c.xr a ^^^ BitVec.ofNat 64 imm.toNat)
  | .shli d a sh => some (d, [a], BitVec.ofNat 64 ((c.xr a).toNat * 2 ^ sh.toNat))
  | .shri d a sh => some (d, [a], BitVec.ofNat 64 ((c.xr a).toNat / 2 ^ sh.toNat))
  | .srai d a sh => some (d, [a], BitVec.ofInt 64 ((c.xr a).toInt / 2 ^ sh.toNat))
  | .li d imm => some (d, [], BitVec.ofInt 64 imm.toInt)
  | .lsi d imm => some (d, [d], BitVec.ofNat 64 ((c.xr d).toNat * 2 ^ 16 + imm.toNat))
  | _ => none

/-- Target and link of the control forms of R353, in the order of their operands; none where a condition does not hold. -/
def transfer (c : Core) (pc : W32) : Instr → Option (List (BitVec 6) × Option W32 × Bool)
  | .beq a b off => some ([a, b], if holds .eq (c.xr a) (c.xr b) then some (pc + BitVec.ofInt 32 off.toInt) else none, false)
  | .bne a b off => some ([a, b], if holds .ne (c.xr a) (c.xr b) then some (pc + BitVec.ofInt 32 off.toInt) else none, false)
  | .blt a b off => some ([a, b], if holds .lt (c.xr a) (c.xr b) then some (pc + BitVec.ofInt 32 off.toInt) else none, false)
  | .bge a b off => some ([a, b], if holds .ge (c.xr a) (c.xr b) then some (pc + BitVec.ofInt 32 off.toInt) else none, false)
  | .bltu a b off => some ([a, b], if holds .ltu (c.xr a) (c.xr b) then some (pc + BitVec.ofInt 32 off.toInt) else none, false)
  | .bgeu a b off => some ([a, b], if holds .geu (c.xr a) (c.xr b) then some (pc + BitVec.ofInt 32 off.toInt) else none, false)
  | .j off => some ([], some (pc + BitVec.ofInt 32 off.toInt), false)
  | .call off => some ([], some (pc + BitVec.ofInt 32 off.toInt), true)
  | .jr a => some ([a], some (BitVec.ofNat 32 (c.xr a).toNat), false)
  | .callr a => some ([a], some (BitVec.ofNat 32 (c.xr a).toNat), true)
  | _ => none

/-- The link register takes PC + 1 where a form links (R353). -/
def linked (link : Bool) (pc : W32) (s : State) : State :=
  if link then onCore (fun c => c.setX 63 (BitVec.ofNat 64 (pc + 1).toNat)) s else s

/-- Does a loop's body leave out a word (R354)? -/
def outside (p : W32) (e : LoopEnt) : Bool := decide (p.toNat < e.start.toNat ∨ e.stop.toNat < p.toNat)

/-- A form answers a next state in which only its destination register takes its value, and S goes on at the next word. -/
def Writes (table : Core → Instr → Option (BitVec 6 × List (BitVec 6) × Word)) : Prop :=
  ∀ (i : Instr) (s : State) (d : BitVec 6) (srcs : List (BitVec 6)) (v : Word),
    table (cur s) i = some (d, srcs, v) → (cur s).waitsOn srcs = false → exec i s = .next (computed (fun c => c.setX d v) s)

/-! ### Scalar loads, stores, atomics, fences -/

/-- S has no acquire atomic that waits for its value (R203). -/
def NoAcquire (s : State) : Prop := ((cur s).sAtomics.any fun e => e.ord == .acq || e.ord == .acqrel) = false

/-- The byte coordinate of an S memory operand (R355): x[offset register] + imm5 × w. -/
def coordOf (s : State) (r : BitVec 6) (imm : BitVec 5) (w : Nat) : Nat := ((cur s).xr r + BitVec.ofNat 64 (imm.toNat * w)).toNat

/-- No release of S waits in the side log (R366). -/
def NoRelease (s : State) : Prop := ((cur s).slog.any fun e => e.strand == .s && (e.ord == .rel || e.ord == .acqrel)) = false

/-- The state in which an S instruction has issued. -/
def sIssued (s : State) : State := s.issueHeld .s noTok

/-- Is the load sign-extended, its width in bytes, and its operands (R355). -/
def loadForm : Instr → Option (Bool × Nat × BitVec 6 × BitVec 6 × BitVec 5 × BitVec 5)
  | .ldS8 d r slot imm => some (true, 1, d, r, slot, imm)
  | .ldN8 d r slot imm => some (false, 1, d, r, slot, imm)
  | .ldS16 d r slot imm => some (true, 2, d, r, slot, imm)
  | .ldN16 d r slot imm => some (false, 2, d, r, slot, imm)
  | .ldS32 d r slot imm => some (true, 4, d, r, slot, imm)
  | .ldN32 d r slot imm => some (false, 4, d, r, slot, imm)
  | .ld64 d r slot imm => some (false, 8, d, r, slot, imm)
  | .ldAcqN32 _ d r slot imm => some (false, 4, d, r, slot, imm)
  | .ldAcq64 _ d r slot imm => some (false, 8, d, r, slot, imm)
  | _ => none

/-- The value that a load writes: the little-endian number of its bytes, extended by sign or by zero. -/
def loadValue (sgn : Bool) (w : Nat) (bs : List Byte) : Word :=
  if sgn then BitVec.ofInt 64 (BitVec.ofNat (8 * w) (leNat bs)).toInt else BitVec.ofNat 64 (leNat bs)

/-- Width, whether the form is non-temporal, the scope of a release, and the operands of a store (R355). -/
def storeForm : Instr → Option (Nat × Bool × Option Scope × BitVec 6 × BitVec 6 × BitVec 5 × BitVec 5)
  | .st8 d r slot imm => some (1, false, none, d, r, slot, imm)
  | .st16 d r slot imm => some (2, false, none, d, r, slot, imm)
  | .st32 d r slot imm => some (4, false, none, d, r, slot, imm)
  | .st64 d r slot imm => some (8, false, none, d, r, slot, imm)
  | .stNt8 d r slot imm => some (1, true, none, d, r, slot, imm)
  | .stNt16 d r slot imm => some (2, true, none, d, r, slot, imm)
  | .stNt32 d r slot imm => some (4, true, none, d, r, slot, imm)
  | .stNt64 d r slot imm => some (8, true, none, d, r, slot, imm)
  | .stRel32 sc d r slot imm => some (4, false, some sc, d, r, slot, imm)
  | .stRel64 sc d r slot imm => some (8, false, some sc, d, r, slot, imm)
  | _ => none

/-- Where a store of S goes (R145, R191, R200): its access, and the state once the releases that stand before it are done. -/
def StoreReady (s : State) (w : Nat) (rel : Option Scope) (d r : BitVec 6) (slot imm : BitVec 5) (a : Acc) (t : State) : Prop :=
  SReady [d, r] s ∧ Passes (storeCheck slot) s ∧ NoAcquire s ∧
  ∃ u v, Gives (storeAcc slot (coordOf s r imm w) w w) (sIssued s) a u ∧
    (match rel with | some sc => Gives (opRelease sc) u () v | none => v = u) ∧ Gives (opFencedRelease .s) v () t

/-- Operation, width, scope, ordering and operands of the atomics with one operand (R356). -/
def amoForm : Instr → Option (AtomOp × Nat × Scope × MemOrd × BitVec 6 × BitVec 6 × BitVec 5 × BitVec 5)
  | .amoAdd wd sc o d r slot imm => some (.add, amoW wd, sc, o, d, r, slot, imm)
  | .amoAnd wd sc o d r slot imm => some (.and, amoW wd, sc, o, d, r, slot, imm)
  | .amoOr wd sc o d r slot imm => some (.or, amoW wd, sc, o, d, r, slot, imm)
  | .amoXor wd sc o d r slot imm => some (.xor, amoW wd, sc, o, d, r, slot, imm)
  | .amoSwap wd sc o d r slot imm => some (.swap, amoW wd, sc, o, d, r, slot, imm)
  | .amoSmin wd sc o d r slot imm => some (.smin, amoW wd, sc, o, d, r, slot, imm)
  | .amoSmax wd sc o d r slot imm => some (.smax, amoW wd, sc, o, d, r, slot, imm)
  | .amoUmin wd sc o d r slot imm => some (.umin, amoW wd, sc, o, d, r, slot, imm)
  | .amoUmax wd sc o d r slot imm => some (.umax, amoW wd, sc, o, d, r, slot, imm)
  | .amoFaddF32 sc o d r slot imm => some (.faddF32, 4, sc, o, d, r, slot, imm)
  | .amoFaddBf16 sc o d r slot imm => some (.faddBF16, 2, sc, o, d, r, slot, imm)
  | .amoFminF32 sc o d r slot imm => some (.fminF32, 4, sc, o, d, r, slot, imm)
  | .amoFmaxF32 sc o d r slot imm => some (.fmaxF32, 4, sc, o, d, r, slot, imm)
  | _ => none

/-- Where an atomic of S goes: its access, and the state once its release half and a pending fence are done. -/
def AmoReady (s : State) (w : Nat) (sc : Scope) (o : MemOrd) (srcs : List (BitVec 6)) (r : BitVec 6) (slot imm : BitVec 5) (a : Acc)
    (t : State) : Prop :=
  SReady (r :: srcs) s ∧ Passes (storeCheck slot) s ∧ NoAcquire s ∧
  ∃ u v, Gives (storeAcc slot (coordOf s r imm w) w w) (sIssued s) a u ∧
    (if o = .rel ∨ o = .acqrel then Gives (opRelease sc) u () v else v = u) ∧ Gives (opFencedRelease .s) v () t

/-- Width in bytes, comparand, new value and source registers of `amo.cas` (R340). -/
def casOperands (w : CasWidth) (d : BitVec 6) (c : Core) : Nat × BitVec 128 × BitVec 128 × List (BitVec 6) :=
  match w with
  | .w32 => (4, (c.xr d).setWidth 128, (c.xr (d + 1)).setWidth 128, [d, d + 1])
  | .w64 => (8, (c.xr d).setWidth 128, (c.xr (d + 1)).setWidth 128, [d, d + 1])
  | .w128 => (16, c.xr (d + 1) ++ c.xr d, c.xr (d + 3) ++ c.xr (d + 2), [d, d + 1, d + 2, d + 3])

/-- What the atomics of R156 make of a memory value, in integers: `m` the old value, `c` the comparand, `v` the operand, all below
2^(8w). The floating forms are R157's. -/
def atomValue (op : AtomOp) (w m c v : Nat) : Option Nat :=
  let sg := fun (n : Nat) => if n < 2 ^ (8 * w - 1) then (n : Int) else (n : Int) - 2 ^ (8 * w)
  match op with
  | .add => some ((m + v) % 2 ^ (8 * w))
  | .and => some (m &&& v)
  | .or => some (m ||| v)
  | .xor => some (m ^^^ v)
  | .swap => some v
  | .smin => some (if sg v < sg m then v else m)
  | .smax => some (if sg m < sg v then v else m)
  | .umin => some (if v < m then v else m)
  | .umax => some (if m < v then v else m)
  | .cas => some (if m = c then v else m)
  | _ => none

/-- A pending value of a logged atomic: the registers wait for the entry, each for its own 8 bytes of the old value; x0 waits for none (R279). -/
def awaits (ds : List (BitVec 6)) (id : Nat) (c : Core) : Core :=
  let ws := (ds.zipIdx).filter fun n => n.1 != 0
  { c with pend := (ws.map fun n => (n.1, id, n.2)) ++ c.pend.filter fun e => !ws.any (·.1 == e.1) }

/-! ### Coordination -/

/-- The group that a phase form names, in the partition of crew `w`. -/
def groupOf (s : State) (w : Crew) (g : BitVec 8) : Grp := (s.part w.part).group g

/-- The group is in use and belongs to the running context (R360). -/
def GroupOpen (s : State) (w : Crew) (g : BitVec 8) : Prop := (groupOf s w g).inuse = true ∧ (groupOf s w g).ctx = w.ctx

/-- The chunk queue that a crew's fetch names. -/
def chunkOf (s : State) (w : Crew) (q : Nat) : Chunk := ((s.part w.part).ctx w.ctx).chunk q

/-- The core is its partition's, no steal of it is on its way, and nothing waits at a chunk queue (R108, R109). -/
def Alone (s : State) (w : Crew) (q : BitVec 6) : Prop :=
  s.cur ∈ (s.part w.part).cores ∧ (cur s).steal = none ∧ s.chunkLine w.part w.ctx q = []

/-- A fetch returns a range: x[d] its start, x[d + 1] its length. -/
def fetched (d : BitVec 6) (start n : Nat) (c : Core) : Core := (c.setX d (BitVec.ofNat 64 start)).setX (d + 1) (BitVec.ofNat 64 n)

/-- The queue that serves a steal (R110): the lowest configured one of a running context with the steal domain. -/
def victimOf (s : State) (sdom : BitVec 16) : Option (BitVec 5 × Nat) :=
  (List.range 32).findSome? fun j =>
    let t := s.part (BitVec.ofNat 5 j)
    (firstBelow 64 fun q => ((t.ctx t.runctx).chunk q).conf && ((t.ctx t.runctx).chunk q).sdom == sdom).map fun q => (BitVec.ofNat 5 j, q)

/-- What a package answers to a steal request (R110): the start and the number of the indices that it grants. -/
def stealAnswer (pkg : BitVec 9) (thief : BitVec 7) (start n : Nat) (s : State) : State :=
  s.sendPkt (s.fabric.posOf pkg.toNat)
    (s.pkt 0 2 false (s.fabric.posOf pkg.toNat) thief 0 (.grant thief (BitVec.ofNat 48 start) (BitVec.ofNat 48 n)))

/-- The strands of a core that are live besides `k`. -/
def OthersLive (k : Strand) (s : State) : Prop := ∃ j, j ≠ k ∧ ((cur s).str j).live = true

/-- A strand is no longer live (R368). -/
def strandEnded (k : Strand) : State → State := onCore fun c => c.setStr k { (c.str k) with live := false, armed := false }

/-- An armed precise stop ends with a halt at the exit (R292). -/
def exitHalt (armed : Bool) (p : BitVec 5) (s : State) : State := if armed then s.raiseLine p 3 else s

/-- The `exit` forms of S, V and M, with their strand and tokens: the S form has none. -/
def exitForm : Instr → Option (Strand × Tok)
  | .sExit => some (.s, noTok)
  | .vExit tk => some (.v, tk)
  | .mExit tk => some (.m, tk)
  | _ => none

/-- The `nop` forms of V, M and X. -/
def nopForm : Instr → Option (Strand × Tok)
  | .vNop tk => some (.v, tk)
  | .mNop tk => some (.m, tk)
  | .xNop tk => some (.x, tk)
  | _ => none

/-- The loops of V, M and X: count register and length. -/
def loopForm : Instr → Option (Strand × Tok × BitVec 5 × Nat)
  | .vLoop tk len n => some (.v, tk, n, len.toNat)
  | .mLoop tk n len => some (.m, tk, n, len.toNat)
  | .xLoop tk n len => some (.x, tk, n, len.toNat)
  | _ => none

/-- The region forms of the four strands: the identifier that is pushed, none for a pop. -/
def regionForm : Instr → Option (Strand × Tok × Option (BitVec 16))
  | .sRegionEnter imm => some (.s, noTok, some imm)
  | .sRegionLeave => some (.s, noTok, none)
  | .vRegionEnter tk imm => some (.v, tk, some imm)
  | .vRegionLeave tk => some (.v, tk, none)
  | .mRegionEnter tk imm => some (.m, tk, some imm)
  | .mRegionLeave tk => some (.m, tk, none)
  | .xRegionEnter tk imm => some (.x, tk, some imm)
  | .xRegionLeave tk => some (.x, tk, none)
  | _ => none

/-- A region stack of depth 8 after a push or a pop (R291): LOST is set by a push onto a full stack, and is cleared when the stack
becomes empty. -/
def regionStack (id : Option (BitVec 16)) (t : StrandSt) : StrandSt :=
  match id with
  | some r => { t with region := (r :: t.region).take 8, lost := t.lost || decide (t.region.length ≥ 8) }
  | none => { t with region := t.region.tail, lost := t.lost && decide (t.region.length > 1) }

/-- A target word names its subject: SELF, or an entry of the capability table that is in use, has the right and the subject's current
GEN (R92, R441). -/
def TargetOk (s : State) (w : Crew) (t : Word) (right : Nat) (p : BitVec 5) (ctx : BitVec 3) : Prop :=
  (t.getLsbD 7 = true ∧ p = w.part ∧ ctx = w.ctx) ∨
  (t.getLsbD 7 = false ∧
    let e := ((s.part w.part).ctx w.ctx).cap (t.toNat % 16)
    e.inuse = true ∧ e.part = p ∧ e.ctx = ctx ∧ e.mask.getLsbD right = true ∧ e.gen = ((s.part p).ctx ctx).gen)

/-! ### The V strand -/

/-- A p register as an instruction reads it at issue (R280). -/
def pOf (c : Core) (n : BitVec 5) : Word := c.p.toList.getD n.toNat 0

/-- The forms of R378 to R381 and R386 that write each active element of v[d]: token fields, the formats they accept, d, and the value of
element e from the registers as they stand at issue (R371). -/
def laneForm (c : Core) : Instr → Option (Tok × (Nat → Bool) × BitVec 6 × (Nat → Nat)) :=
  let s := c.shp
  let x := fun (r : BitVec 6) (e : Nat) => velem (c.vr r) s.w e
  let p := fun (n : BitVec 5) => (pOf c n).toNat % 2 ^ s.w
  fun i => match i with
  | .vadd tk d a b => some (tk, classFI, d, fun e => fAdd s e (x a e) (x b e) (x d e))
  | .vsub tk d a b => some (tk, classFI, d, fun e => fSub s e (x a e) (x b e) (x d e))
  | .vmul tk d a b => some (tk, classFI, d, fun e => fMul s e (x a e) (x b e) (x d e))
  | .vfma tk d a b => some (tk, classFI, d, fun e => fFma s e (x a e) (x b e) (x d e))
  | .vfms tk d a b => some (tk, classFI, d, fun e => fFms s e (x a e) (x b e) (x d e))
  | .vmin tk d a b => some (tk, classFI, d, fun e => fMinMax false s e (x a e) (x b e) (x d e))
  | .vmax tk d a b => some (tk, classFI, d, fun e => fMinMax true s e (x a e) (x b e) (x d e))
  | .vdiv tk d a b => some (tk, classFI, d, fun e => fDiv s e (x a e) (x b e) (x d e))
  | .vand tk d a b => some (tk, classAny, d, fun e => x a e &&& x b e)
  | .vor tk d a b => some (tk, classAny, d, fun e => x a e ||| x b e)
  | .vxor tk d a b => some (tk, classAny, d, fun e => x a e ^^^ x b e)
  | .vshl tk d a b => some (tk, classI, d, fun e => x a e * 2 ^ (x b e % s.w) % 2 ^ s.w)
  | .vshr tk d a b => some (tk, classI, d, fun e => x a e / 2 ^ (x b e % s.w))
  | .vsra tk d a b => some (tk, classI, d, fun e => fSra s e (x a e) (x b e) (x d e))
  | .vaddS tk d a n => some (tk, classFI, d, fun e => fAdd s e (x a e) (p n) (x d e))
  | .vsubS tk d a n => some (tk, classFI, d, fun e => fSub s e (x a e) (p n) (x d e))
  | .vmulS tk d a n => some (tk, classFI, d, fun e => fMul s e (x a e) (p n) (x d e))
  | .vfmaS tk d a n => some (tk, classFI, d, fun e => fFma s e (x a e) (p n) (x d e))
  | .vfmsS tk d a n => some (tk, classFI, d, fun e => fFms s e (x a e) (p n) (x d e))
  | .vminS tk d a n => some (tk, classFI, d, fun e => fMinMax false s e (x a e) (p n) (x d e))
  | .vmaxS tk d a n => some (tk, classFI, d, fun e => fMinMax true s e (x a e) (p n) (x d e))
  | .vdivS tk d a n => some (tk, classFI, d, fun e => fDiv s e (x a e) (p n) (x d e))
  | .vandS tk d a n => some (tk, classAny, d, fun e => x a e &&& p n)
  | .vorS tk d a n => some (tk, classAny, d, fun e => x a e ||| p n)
  | .vxorS tk d a n => some (tk, classAny, d, fun e => x a e ^^^ p n)
  | .vshlS tk d a n => some (tk, classI, d, fun e => x a e * 2 ^ (p n % s.w) % 2 ^ s.w)
  | .vshrS tk d a n => some (tk, classI, d, fun e => x a e / 2 ^ (p n % s.w))
  | .vsraS tk d a n => some (tk, classI, d, fun e => fSra s e (x a e) (p n) (x d e))
  | .vabs tk d a => some (tk, classAny, d, fun e => fAbs s (x a e))
  | .vneg tk d a => some (tk, classAny, d, fun e => fNeg s (x a e))
  | .vrcp tk d a => some (tk, classF, d, fun e => fUnary Val.recip s (x a e))
  | .vsqrt tk d a => some (tk, classF, d, fun e => fUnary Val.sqrt s (x a e))
  | .vrsqrt tk d a => some (tk, classF, d, fun e => fUnary Val.rsqrt s (x a e))
  | .vexp2 tk d a => some (tk, classF, d, fun e => fUnary Val.exp2 s (x a e))
  | .vlog2 tk d a => some (tk, classF, d, fun e => fUnary Val.log2v s (x a e))
  | .vsin tk d a => some (tk, (· == 0x1B), d, fun e => fTurn false s (x a e))
  | .vcos tk d a => some (tk, (· == 0x1B), d, fun e => fTurn true s (x a e))
  | .vmov tk d a => some (tk, classAny, d, x a)
  | .vperm tk d a b => some (tk, classAny, d, fun e => if x b e < s.cap then x a (x b e) else 0)
  | .vlut tk d a b => some (tk, classAny, d, fun e => x a (x b e % 256))
  | .vslup tk d a n => some (tk, classAny, d, fun e => if (pOf c n).toNat ≤ e then x a (e - (pOf c n).toNat) else 0)
  | .vsldn tk d a n => some (tk, classAny, d, fun e => if e + (pOf c n).toNat < s.len then x a (e + (pOf c n).toNat) else 0)
  | .vbcast tk d n => some (tk, classAny, d, fun _ => p n)
  | _ => none

/-- The mask forms of R375 and R376: token fields, d, the bits that they write, and the value of bit e. -/
def maskForm (c : Core) : Instr → Option (Tok × BitVec 3 × List Nat × (Nat → Bool)) :=
  let bit := fun (m : BitVec 3) (e : Nat) => (c.mask m).getLsbD e
  let below := List.range c.shp.len
  let x := fun (r : BitVec 6) (e : Nat) => velem (c.vr r) c.shp.w e
  fun i => match i with
  | .mand tk d a b => some (tk, d, below, fun e => bit a e && bit b e)
  | .mor tk d a b => some (tk, d, below, fun e => bit a e || bit b e)
  | .mxor tk d a b => some (tk, d, below, fun e => bit a e != bit b e)
  | .mandn tk d a b => some (tk, d, below, fun e => bit a e && !bit b e)
  | .mnot tk d a => some (tk, d, below, fun e => !bit a e)
  | .mfromv tk d a => some (tk, d, below, fun e => x a e != 0)
  | .vcmp tk cond d a b => some (tk, d, c.active, fun e => vcmpElem cond c.shp.fmt (x a e) (x b e))
  | _ => none

/-- The reductions of R385. -/
def reduceForm : Instr → Option (Tok × BitVec 6 × BitVec 6 × (Shape → (Nat → Nat) → List Nat → Nat))
  | .vrsum tk d a => some (tk, d, a, redSum)
  | .vrmax tk d a => some (tk, d, a, redMinMax true)
  | .vrmin tk d a => some (tk, d, a, redMinMax false)
  | _ => none

/-- A block code, and the number of blocks of a `vpack` or `vunpack` of LEN elements, are legal (R383, R384). -/
def blockOk (c : Core) (n : BitVec 5) : Bool :=
  let p := pOf c n
  let per := (blockCount (fld p 0 8)).getD 1
  decide (0x81 ≤ fld p 0 8 ∧ fld p 0 8 ≤ 0x88) && fld p 8 56 == 0 && decide ((c.shp.len + per - 1) / per ≤ 128)

/-! ### The M strand -/

/-- The state in which an M command has issued and taken its number (R464). -/
def mNumbered (tk : Tok) (s : State) : State :=
  let u := onCore (fun c => { c with ms := { c.ms with seq := c.ms.seq + 1 } }) (s.issueHeld .m tk)
  onCore (fun c => c.setStr .m { (c.str .m) with held := some { c.heldOf .m with seq := some c.ms.seq } }) u

/-- An M command completes: source 23 counts it (R311), and its strand goes on. -/
def MEndsAt (i : Instr) (s : State) (len : Nat) (t : State) : Prop := EndsAt i s .m len (onCore (fun c => c.count 23 1) t)

/-- The command has issued with the strand's number taken: it stays there. -/
def tileNow (one : Bool) (s : State) : Tile := (cur s).ms.tile one

/-- Tile t of the core that acts, changed. -/
def onTile (one : Bool) (f : Tile → Tile) (s : State) : State :=
  onCore (fun c => { c with ms := c.ms.setTile one (f (c.ms.tile one)) }) s

/-- A tile with every element, OVF bit and TAKEN clear (R402). -/
def emptied (t : Tile) : Tile := { t.cleared with taken := false }

/-- The sparse commands: arguments, metadata slots of A and B, and the kinds of A's stream. -/
def sparseForm : Instr → Option (Tok × MulArgs × BitVec 4 × Option (BitVec 4) × List Nat)
  | .mms tk m a b => some (tk, m, a, b, [1, 2])
  | .mmn tk m a b => some (tk, m, a, b, [3, 4, 5])
  | _ => none

/-! ### The X strand -/

/-- The X commands: what enters the queue, its ORDER word, its tokens and its length in words (R417, R315). -/
def commandForm : Instr → Option (XKind × Option Order × Tok × Nat)
  | .copy tk c => some (.copy c, none, tk, 3)
  | .copyOrder tk c o => some (.copy c, some o, tk, 4)
  | .copyEnc tk c code => some (.copyEnc c code, none, tk, 3)
  | .copyEncOrder tk c code o => some (.copyEnc c code, some o, tk, 4)
  | .copyDec tk c tab => some (.copyDec c tab, none, tk, 3)
  | .copyDecOrder tk c tab o => some (.copyDec c tab, some o, tk, 4)
  | .copySt tk c st => some (.copySt c st, none, tk, 3)
  | .copyStOrder tk c st o => some (.copySt c st, some o, tk, 4)
  | .metaLoad tk n i t => some (.metaLoad n i t, none, tk, 2)
  | .metaLoadOrder tk n i t o => some (.metaLoad n i t, some o, tk, 3)
  | .gather tk g => some (.gather g, none, tk, 3)
  | .gatherOrder tk g o => some (.gather g, some o, tk, 4)
  | .scatter tk g => some (.scatter g, none, tk, 3)
  | .scatterOrder tk g o => some (.scatter g, some o, tk, 4)
  | .scatterBin tk v idx bins => some (.scatterBin v idx bins, none, tk, 3)
  | .scatterBinOrder tk v idx bins o => some (.scatterBin v idx bins, some o, tk, 4)
  | .binApply tk pb arr bins => some (.binApply pb arr bins, none, tk, 2)
  | .binApplyOrder tk pb arr bins o => some (.binApply pb arr bins, some o, tk, 3)
  | .put tk lk st b ppkg paddr => some (.put lk st b ppkg paddr, none, tk, 3)
  | .putOrder tk lk st b ppkg paddr o => some (.put lk st b ppkg paddr, some o, tk, 4)
  | .get tk lk d ppkg paddr => some (.get lk d ppkg paddr, none, tk, 3)
  | .getOrder tk lk d ppkg paddr o => some (.get lk d ppkg paddr, some o, tk, 4)
  | .mcast tk lk b d cores => some (.mcast lk b d cores, none, tk, 3)
  | .mcastOrder tk lk b d cores o => some (.mcast lk b d cores, some o, tk, 4)
  | .walk tk w => some (.walk w, none, tk, 3)
  | .walkOrder tk w o => some (.walk w, some o, tk, 4)
  | .permit tk n wn => some (.permit n wn, none, tk, 1)
  | .permitOrder tk n wn o => some (.permit n wn, some o, tk, 2)
  | .lockSet tk pt l => some (.lockSet pt l, none, tk, 2)
  | .lockSetOrder tk pt l o => some (.lockSet pt l, some o, tk, 3)
  | .alloc tk status zero cls t => some (.alloc status zero cls t, none, tk, 2)
  | .allocOrder tk status zero cls t o => some (.alloc status zero cls t, some o, tk, 3)
  | .free tk t => some (.free t, none, tk, 2)
  | .freeOrder tk t o => some (.free t, some o, tk, 3)
  | .renew tk t => some (.renew t, none, tk, 2)
  | .renewOrder tk t o => some (.renew t, some o, tk, 3)
  | .ringPut tk verd b ring => some (.ringPut verd b ring, none, tk, 3)
  | .ringPutOrder tk verd b ring o => some (.ringPut verd b ring, some o, tk, 4)
  | .ringTake tk n ring d status => some (.ringTake n ring d status, none, tk, 3)
  | .ringTakeOrder tk n ring d status o => some (.ringTake n ring d status, some o, tk, 4)
  | .ringClose tk ring => some (.ringClose ring, none, tk, 2)
  | .ringCloseOrder tk ring o => some (.ringClose ring, some o, tk, 3)
  | .coll tk c => some (.coll c, none, tk, 3)
  | .collOrder tk c o => some (.coll c, some o, tk, 4)
  | _ => none

/-- The X strand can issue a command: the queue has room and nothing in it waits to post, and a token that it waits for is there (R285, R287). -/
def XReady (tk : Tok) (s : State) : Prop :=
  (cur s).xs.queue.length < 64 ∧ (∀ m ∈ (cur s).xs.queue, m.progress ≠ .all) ∧ (tk.wait = 0 ∨ (cur s).tokAt (waitIdx .x tk.wait.toNat) ≠ 0)

/-- A command as it enters the queue (R285, R314): its number, its pc and head word, what it does, the p registers that it reads at issue, the mode, and
the counter that it will post to. -/
def newCommand (k : XKind) (o : Option Order) (tk : Tok) (s : State) : XCmd :=
  { seq := (cur s).xs.xseq + 1, pc := pcOf .x s, word := s.ir.headD 0, kind := k, order := o, ps := (cur s).p.toList, det := (cur s).xs.det
    post := if tk.post = 0 then none else some (tokIdx .x tk.post.toNat, 1)
    mem := match (cur s).crew with | some w => s.memRights w.part w.ctx | none => 0 }


/-! ### The host and the command processor -/

/-- A host access of one piece: it lies in the function's BAR 2, and this is where its piece lies (R59, R61). -/
def OnePiece (s : State) (f : BitVec 6) (addr n : Nat) (write : Bool) (pl : Except LinErr (Option Nat)) : Prop :=
  s.inBar2 f addr n = true ∧ s.hostPieces f (s.bar2At f addr) n write = [(s.bar2At f addr, n, pl)]

/-- It is the turn of a host access (R213): none waits before it. `fin` is what ends it. -/
def Turn (s : State) (i : Instr) (fin : State → State) : Prop :=
  (s.hostQ = [] ∧ fin = fun t => t.devDone opHost) ∨
    ∃ rest, s.hostQ = (i, true) :: rest ∧ fin = fun t => (({ t with hostQ := rest } : State).devDone opHost).kickHost

/-- A host atomic of `w` bytes that goes to a place in memory whose frame holds no writes back (R57, R61, R198). -/
def OneAtom (s : State) (f : BitVec 6) (addr w pa : Nat) : Prop :=
  s.inBar2 f addr w = true ∧ addr % w = 0 ∧ s.hostPlace f (s.bar2At f addr) w true = .ok (some pa) ∧ s.heldFrame pa = false

/-- A command is in progress in a function's mailbox, the package is READY, and no byte outside the command's fields was set (R63). -/
def Command (s : State) (f : BitVec 6) (fields : List (Nat × Nat)) : Prop :=
  (s.func f.toNat).mbox.stat.getLsbD 0 = true ∧ s.boot.state = 5 ∧
    ∀ e ∈ (s.func f.toNat).mbox.inp, 0x100 ≤ e.1 → ∃ r ∈ fields, r.1 ≤ e.1 ∧ e.1 < r.1 + r.2

/-- The events of the mailbox commands (R63). -/
def mailboxEvents (f : BitVec 6) (cmd : BitVec 32) : List Instr :=
  [.attest f, .queueCreate f, .queueDestroy f, .queueReset f, .mailboxResume f, .abandon f, .unlistedMailboxCode f cmd]

/-- What some ranges of linear space hold on other packages has been answered. -/
def Answered (s : State) (p : BitVec 5) (ctx : BitVec 3) (rs : List (Nat × Nat)) : Prop :=
  ∀ r ∈ rs, ∀ e ∈ pieces64 (r.2 / 64 + 2) r.1 r.2, ∀ pkg pa, s.linPa p ctx e.1 e.2 false = .error (.away pkg pa) →
    ((s.devAnswer p ctx e.1 (.read e.2)).bind devFound).isSome = true

/-- READ of a queue, the slot at it and the next have been answered where they lie on other packages (R68), and reading them meets no expired row and no
error. -/
def HeadRead (s : State) (q : BitVec 10) : Prop :=
  s.headMet q = s ∧ Answered s (s.queue q).part 0 [((s.queue q).header.toNat + 8, 8)] ∧
    ∀ i, s.queueRead q = some i → Answered s (s.queue q).part 0 [((s.queue q).slotAt i, 64), ((s.queue q).slotAt (i + 1), 64)]

/-- The bytes of linear space that a COPY reads, in the pieces that it moves (R76). -/
def copied (bs : List Byte) : List (Nat × Nat) :=
  (copyPieces (pf bs 32 4 / 32 + 3) (pf bs 8 6) (pf bs 16 6) (pf bs 32 4)).map fun e => (e.1, e.2.2)

/-- What a mailbox command reads of a queue has been answered where it lies on other packages: WRITE, READ and the slots between them (R63, R65). -/
def QueueSeen (s : State) (q : BitVec 10) : Prop :=
  Answered s (s.queue q).part 0 [((s.queue q).header.toNat, 8), ((s.queue q).header.toNat + 8, 8)] ∧
    ∀ r n, (s.queueSpan q).2 = some (r, n) → Answered s (s.queue q).part 0 ((List.range n).map fun i => ((s.queue q).slotAt (r + i), 64))

/-- A queue's head can be taken up: it is a packet of this kind, at this index, with these bytes (R68). -/
def AtHead (s : State) (q : BitVec 10) (kind i : Nat) (bs : List Byte) (b2 : Option (List Byte)) : Prop :=
  HeadRead s q ∧ (s.queue q).headAcc = none ∧ (s.queue q).met = none ∧ s.queueHead q = some (i, bs, b2) ∧ pktKind bs = kind ∧
    ∀ e ∈ (s.queue q).spawned, e.1 = i → e.2.2 = false

/-- The number that an event takes for its signal, and the queue's packet counted as outstanding (R80, R82). -/
def counted (s : State) (q : BitVec 10) (i n : Nat) : State := s.modQueue q fun k => { k with busy := ⟨BitVec.ofNat 64 i, n⟩ :: k.busy }


/-! ### Partitions, memory and the X queue -/

/-- The tables that storage, the queues and the groups are kept in have their canonical form (Store.lean; log 1). -/
def TablesWf (s : State) : Prop :=
  s.memWf = true ∧ SMap.wf {} s.queues = true ∧ ∀ p : BitVec 5, SMap.wf 0 (s.part p).groups = true

/-- A swap's next step. -/
def swapTo (p : BitVec 5) (n : Nat) (s : State) : State := s.modPart p fun t => { t with swap := t.swap.map fun w => { w with step := n } }

/-- A tile that a port may translate now: its context, its descriptor and its entry (R216, R217). -/
def Walks (s : State) (core : BitVec 7) (port : Fin 5) (p : BitVec 5) (ctx : BitVec 3) (tensor : BitVec 12) (tile : Nat) (d : Desc) : Prop :=
  s.portCtx core = some (p, ctx) ∧ (∃ b, s.bitsFor core p ctx tensor.toNat = some b ∧ d = Desc.ofBits b ∧ descPlain b = true) ∧
    s.badEntry d tile = false ∧ d.wf = true ∧ d.kind ≠ 0 ∧ d.kind ≠ 2 ∧
    tile < d.tiles ∧ ((s.core core).tcs[port].any fun e => e.ctx == ctx && e.tensor == tensor && e.tile == tile) = false

/-- Entry and source frame of the first migration of a partition (R225). -/
def Moves (s : State) (p : BitVec 5) (g : Migr) (d : Desc) (e : BitVec 64) (pa : Nat) : Prop :=
  (s.part p).migrs.head? = some g ∧ s.migTile p g = some ⟨d, e, some pa⟩

/-- The next step of the first migration. -/
def stepped (p : BitVec 5) (s : State) : State := s.modMig p fun g => { g with step := g.step + 1 }

/-- Where a migration's new entry lies. -/
def newPlace (s : State) (p : BitVec 5) (g : Migr) (d : Desc) (n : BitVec 64) : Place := s.locate p g.ctx n (d.tileBytes == 65536) 0

/-- The package as a unit of a core acts. -/
def actAs (core : BitVec 7) (s : State) : State := { s with cur := core }

/-- What one error that stands in a word of some rows leaves where a state's reading meets it (R18, R87, R170): one that can be corrected is counted, for a structure of log 46; one that
cannot be poisons its block, and is noted in the error log where the place belongs to no partition. -/
def FlawMet (s t : State) (rows : List Nat) : Prop :=
  ∀ w ecc, s.flaws = [(w, ecc)] → rowOf (8 * w) ∈ rows → t.flaws = [] ∧
    (ecc = .single → t.poison = s.poison ∧
      SMap.get 0 t.power.correctable (structureOf (8 * w)) = SMap.get 0 s.power.correctable (structureOf (8 * w)) + 1) ∧
    (ecc = .uncorrectable → s.rowOwner (8 * w) = none → t.poisoned (8 * w) = true ∧
      t.errlog = ⟨kPoison, 8 * w⟩ :: s.errlog)

/-- No error that cannot be corrected stands in storage. -/
def Sound (s : State) : Prop := ∀ x ∈ s.flaws, x.2 ≠ .uncorrectable

/-- What the derailleur measures of the stages of a pipeline: the records waiting at each, none where a ring of another package has not answered (R135). -/
def measured (s : State) (p : BitVec 5) (acc : Nat) (ctx : BitVec 3) (g : Pipeline) : State × List (Option Nat) :=
  (List.range g.stages.length).foldl (fun a j => ((a.1.waitingAt p acc ctx g j).1, a.2 ++ [(a.1.waitingAt p acc ctx g j).2])) (s, [])

/-! ### Parts of the statements -/

/-- R348: the bitwise forms, shifts, rotates, minima, maxima and `sel` complete and write the value of R348's table. -/
def ScalarLogicResults : Prop := Writes logicValue

/-- R348: `clz`, `ctz`, `popc`, `brev`, `bext`, `bins` complete and write the value of R348's table. -/
def ScalarFieldResults : Prop := Writes fieldValue

/-- R350 and R351: the immediate forms, `li` and `lsi` write their values; `addi`, `muli` and `li` extend by sign, the others by
zero. One `li` and three `lsi` build any 64-bit constant. -/
def ScalarImmediateResults : Prop :=
  Writes immValue ∧
  ∀ (c : Core) (d : BitVec 6) (v : Word), d ≠ 0 →
    let put := fun (i : Instr) (c : Core) => match immValue c i with
      | some (d, _, x) => c.setX d x
      | none => c
    (put (.lsi d (v.extractLsb' 0 16)) (put (.lsi d (v.extractLsb' 16 16)) (put (.lsi d (v.extractLsb' 32 16))
      (put (.li d (v.extractLsb' 48 16)) c)))).xr d = v

/-- R352: `pmov p, a` writes x[a] to the parameter register, `pmov d, p` the parameter register to x[d]; `nop` (R368) changes
nothing but the pc; `xmode` (R460) sets the mode of X. -/
def ParameterMoves : Prop :=
  ∀ (s : State) (p : BitVec 5) (a d : BitVec 6),
    ((cur s).waitsOn [a] = false → exec (.pmovToP p a) s = .next (computed (fun c => { c with p := c.p.set p.toFin (c.xr a) }) s)) ∧
    exec (.pmovFromP d p) s = .next (computed (fun c => c.setX d (c.p.toList.getD p.toNat 0)) s) ∧
    exec .sNop s = .next (computed id s) ∧
    (∀ det, exec (.xmode det) s = .next (computed (fun c => { c with xs := { c.xs with det := det } }) s))

/-- R291, R292, R368, R391, R400, R419: on every strand `region.enter` and `region.leave` push and pop the strand's region stack of eight entries, with LOST for what a full stack has
dropped, and write a trace record; a strand with an armed precise stop then raises the halt line. -/
def RegionForms : Prop :=
  ∀ (i : Instr) (s : State) (w : Crew) (k : Strand) (tk : Tok) (id : Option (BitVec 16)), regionForm i = some (k, tk, id) → Has w s →
    Ready k tk s → (k = .s → (cur s).waitsOn [] = false) → ((cur s).str k).armed = false → Untraced s →
    Ends i s k tk 1 (onCore fun c => c.setStr k (regionStack id (c.str k)))

/-- R353: the branches, `j`, `call`, `jr` and `callr` complete. A transfer goes to its target, and `call` and `callr` write
PC + 1 to x63 after x[a] has been read; a branch whose condition does not hold goes on at the next word. -/
def ControlTransfers : Prop :=
  ∀ (i : Instr) (s : State) (srcs : List (BitVec 6)) (target : Option W32) (link : Bool),
    transfer (cur s) (pcOf .s s) i = some (srcs, target, link) → (cur s).waitsOn srcs = false →
    exec i s = .next (match target with
      | some p => ((linked link (pcOf .s s) s).jump s.cur (pcOf .s s) p).countRetired s.cur .s
      | none => computed id s)

/-- R353, R354: a transfer of S leaves the pc at its target, and ends each loop whose body does not hold the target, from the
innermost out, until one holds it. -/
def JumpSetsPcAndEndsLoops : Prop :=
  ∀ (s : State) (pc target : W32), Untraced s →
    pcOf .s (s.jump s.cur pc target) = target ∧
    ((cur (s.jump s.cur pc target)).str .s).loops = ((cur s).str .s).loops.dropWhile (outside target)

/-- R354: after an instruction of `len` words at `pc` that ends no loop body, the pc is `pc + len`; where it ends the body of the
innermost loop with iterations left, the pc is the first word of the body and one iteration less remains; and where the last
iteration has run, the loop has ended and the test is made of the next loop out. -/
def EndOfBodyTest : Prop :=
  ∀ (last next : W32) (e : LoopEnt) (rest : List LoopEnt),
    loopEnd last next [] = (next, [], 0) ∧
    (e.stop ≠ last → loopEnd last next (e :: rest) = (next, e :: rest, 0)) ∧
    (e.stop = last → e.remain.toNat ≠ 0 →
      loopEnd last next (e :: rest) = (e.start, { e with remain := BitVec.ofNat 64 (e.remain.toNat - 1) } :: rest, 0)) ∧
    (e.stop = last → e.remain.toNat = 0 →
      (loopEnd last next (e :: rest)).1 = (loopEnd last next rest).1 ∧
      (loopEnd last next (e :: rest)).2.1 = (loopEnd last next rest).2.1 ∧
      (loopEnd last next (e :: rest)).2.2 = (loopEnd last next rest).2.2 + 1)

/-- R354: `loop` on S. A count of 0 skips the body; otherwise the body is entered with count − 1 iterations to come; with four
loops in use it raises ILLOP. -/
def ScalarLoopForms : Prop :=
  ∀ (s : State) (a : BitVec 6) (len : BitVec 10), (cur s).waitsOn [a] = false →
    let st := (cur s).str .s
    let e : LoopEnt := ⟨st.pc + 1, st.pc + BitVec.ofNat 32 len.toNat, (cur s).xr a - 1⟩
    (4 ≤ st.loops.length → exec (.sLoop a len) s = .next (s.takeFault s.cur .s st.pc (s.ir.headD 0) (s.illop .s))) ∧
    (st.loops.length < 4 → (cur s).xr a = 0 →
      exec (.sLoop a len) s = .next ((s.advance s.cur .s st.pc (len.toNat + 1)).countRetired s.cur .s)) ∧
    (st.loops.length < 4 → (cur s).xr a ≠ 0 →
      exec (.sLoop a len) s = .next ((onCore (fun c => c.setStr .s { st with loops := e :: st.loops, pc := st.pc + 1 }) s).countRetired
        s.cur .s))

/-- R391, R392, R400, R419, R354: `nop` and `loop` on V, M and X. A loop with a count of 0 skips its body; otherwise its body is entered with count − 1
iterations to come; an empty body or a fifth loop raises ILLOP. -/
def StrandLoopForms : Prop :=
  ∀ (i : Instr) (s : State) (k : Strand) (tk : Tok), Ready k tk s →
    (nopForm i = some (k, tk) → Ends i s k tk 1 id) ∧
    (∀ n len, loopForm i = some (k, tk, n, len) →
      let st := (cur s).str k
      let count := (cur s).p.toList.getD n.toNat 0
      (len = 0 ∨ 4 ≤ st.loops.length → exec i s = .next (s.takeFault s.cur k st.pc (s.ir.headD 0) (s.illop k))) ∧
      (len ≠ 0 → st.loops.length < 4 → count = 0 →
        exec i s = .next ((s.issueHeld k tk).complete s.cur k ((cur (s.issueHeld k tk)).heldOf k) 1 (.skip (len + 1)))) ∧
      (len ≠ 0 → st.loops.length < 4 → count ≠ 0 →
        let u := onCore (fun c => c.setStr k { (c.str k) with
          loops := ⟨st.pc + 1, st.pc + BitVec.ofNat 32 len, count - 1⟩ :: (c.str k).loops }) (s.issueHeld k tk)
        exec i s = .next (u.complete s.cur k ((cur u).heldOf k) 1 (.to (st.pc + 1)))))

/-- R356, R203, R340: an atomic with one operand completes. It is performed at its home with x[d + 1] as the operand, and x[d] takes the old
value; where it has been logged, x[d] waits for the entry's value. -/
def ScalarAtomics : Prop :=
  ∀ (i : Instr) (s t u : State) (op : AtomOp) (w : Nat) (sc : Scope) (o : MemOrd) (d r : BitVec 6) (slot imm : BitVec 5) (a : Acc),
    amoForm i = some (op, w, sc, o, d, r, slot, imm) → AmoReady s w sc o [d + 1] r slot imm a t →
    (∀ bs, Gives (opAtomic .s a op w 0 ((cur s).xr (d + 1)).toNat sc o) t (some bs) u →
      EndsAt i s .s 1 (onCore (fun c => c.setX d (leBV 64 (bs.take 8))) u)) ∧
    (Gives (opAtomic .s a op w 0 ((cur s).xr (d + 1)).toNat sc o) t none u →
      EndsAt i s .s 1 (onCore (awaits [d] t.nextTag) u))

/-- R205, R340, R356: `amo.cas` completes at 32, 64 and 128 bits, with the register pairs of R340 at 128: x[d] the low and x[d + 1] the high half of the old
value, also where it has been logged. -/
def CompareAndSwapResults : Prop :=
  ∀ (s t u : State) (cw : CasWidth) (sc : Scope) (o : MemOrd) (d r : BitVec 6) (slot imm : BitVec 5) (a : Acc),
    let q := casOperands cw d (cur s)
    AmoReady s q.1 sc o q.2.2.2 r slot imm a t →
    (∀ bs, Gives (opAtomic .s a .cas q.1 q.2.1 q.2.2.1 sc o) t (some bs) u →
      EndsAt (.amoCas cw sc o d r slot imm) s .s 1 (onCore (fun c =>
        if cw = .w128 then (c.setX d (leBV 64 (bs.take 8))).setX (d + 1) (leBV 64 (bs.drop 8)) else c.setX d (leBV 64 (bs.take 8))) u)) ∧
    (Gives (opAtomic .s a .cas q.1 q.2.1 q.2.2.1 sc o) t none u →
      EndsAt (.amoCas cw sc o d r slot imm) s .s 1
        (onCore (awaits (if cw = .w128 then [d, d + 1] else [d]) t.nextTag) u))

/-- R156: an atomic reads the row at its home and writes back the value of R156's table; it answers the old bytes. With `cas`, the row is
written whether or not the comparison holds. -/
def AtomicValuesAtHome : Prop :=
  ∀ (s t : State) (r : AtomReq) (bs : List Byte) (n : Nat), s.bankRead r.pa r.w = (t, .data bs) → bs.length = r.w → 0 < r.w →
    atomValue r.op r.w (leNat bs) (r.cmp.toNat % 2 ^ (8 * r.w)) (r.v.toNat % 2 ^ (8 * r.w)) = some n →
    s.atomAt r = (t.bankWrite r.pa (leBytes r.w n), .data bs)

/-- R200, R357, R196: the fences complete when nothing that they order is outstanding. `fence.rel` makes the next store or atomic of S a
release at its scope, or at the wider of two, and at SYSTEM scope first waits as a SYSTEM release does (R212); `fence.full` does so after the releases of its scope; `fence.alias` waits for every
earlier write of the crew. -/
def FenceResults : Prop :=
  ∀ (s t : State) (sc : Scope), SReady [] s →
    let mark := onCore fun c => c.setStr .s { (c.str .s) with relNext := some (scopeWider ((c.str .s).relNext.getD .core) sc) }
    (sc ≠ .sys → Ends (.fenceRel sc) s .s noTok 1 mark) ∧
    (sc = .sys → Gives (opRelease .sys) (sIssued s) () t → EndsAt (.fenceRel sc) s .s 1 (mark t)) ∧
    ((cur s).sAtomics = [] → Ends (.fenceAcq sc) s .s noTok 1 id) ∧
    ((cur s).sAtomics = [] → Gives (opRelease sc) (sIssued s) () t → EndsAt (.fenceFull sc) s .s 1 (mark t)) ∧
    (Gives (opRelease .sys) (sIssued s) () t → EndsAt .fenceAlias s .s 1 t)

/-- R362: `mwait` completes when GEN of the lock word differs from x[d][31:0], and x[d] takes it; while it is the same, the monitor is
armed and the strand waits for its signal, or 4 µs. -/
def MwaitResults : Prop :=
  ∀ (s t u : State) (sc : Scope) (d r : BitVec 6) (slot imm : BitVec 5) (a : Acc) (bs : List Byte), SReady [r, d] s →
    Passes (slotBound slot) s → NoAcquire s → Gives (linAcc slot (coordOf s r imm 16) 16 16) (sIssued s) a t →
    Gives (opRead .s a 16) t bs u →
    let g : W32 := leBV 32 ((bs.drop 8).take 4)
    (g ≠ BitVec.ofNat 32 ((cur s).xr d).toNat →
      EndsAt (.mwait sc d r slot imm) s .s 1
        (onCore (fun c => { c with monitor := none }) (onCore (fun c => c.setX d (BitVec.ofNat 64 g.toNat)) u))) ∧
    (g = BitVec.ofNat 32 ((cur s).xr d).toNat → ∀ pa v, Gives (placeOf a) u (some pa) v →
      ∃ n, exec (.mwait sc d r slot imm) s = .next n ∧ (cur n).monitor = some (pa, 0) ∧
        (((cur n).str .s).held.map (·.notBefore)) = some (u.time + 4000))

/-- R360, R201, R104: `phase.arrive` arrives once at the group's current phase and x[d] takes its PHASE; `phase.wait` completes when PHASE
differs from x[d][31:0]; `phase` arrives and completes when PHASE differs from the value at the arrival. -/
def PhaseForms : Prop :=
  ∀ (s : State) (w : Crew) (d : BitVec 6) (g : BitVec 8), Has w s → GroupOpen s w g →
    let ph := (groupOf s w g).phase
    (SReady [] s → w.groups.contains g = true → (s.part w.part).hasArrived w.acc w.rank g = false → (cur s).slog = [] →
      Ends (.phaseArrive d g) s .s noTok 1 (fun u => onCore (fun c => c.setX d (BitVec.ofNat 64 ph.toNat)) (u.groupArrive w.part w.acc w.rank g))) ∧
    (SReady [d] s → ph ≠ BitVec.ofNat 32 ((cur s).xr d).toNat →
      Ends (.phaseWait d g) s .s noTok 1 (onCore fun c => c.setX d (BitVec.ofNat 64 ph.toNat))) ∧
    (SReady [] s → w.groups.contains g = true → (s.part w.part).hasArrived w.acc w.rank g = false → (cur s).slog = [] →
      ∃ t h, exec (.phase d g) s = .next t ∧ ((cur t).str .s).held = some h ∧ h.arrival = some ph ∧ h.progress = .part ∧
        (s.part w.part).hasArrived w.acc w.rank g = false ∧ (t.part w.part).hasArrived w.acc w.rank g = true) ∧
    (∀ h at_, ((cur s).str .s).held = some h → (cur s).waitsOn [] = false → h.arrival = some at_ → ph ≠ at_ →
      EndsAt (.phase d g) s .s 1 (onCore (fun c => c.setX d (BitVec.ofNat 64 ph.toNat)) s))

/-- R358, R359: `grp.init` answers the lowest free entry, −1 when none is free, −2 when SIZE is 0 or above 128; the entry then has SIZE, the running
context, and everything else 0. `grp.free` clears an entry of the running context whose crews have all exited. -/
def GroupForms : Prop :=
  ∀ (s : State) (w : Crew) (d a : BitVec 6) (g : BitVec 8), Has w s → SReady [a] s →
    let n := ((cur s).xr a).toNat
    let used := fun (j : Nat) => ((s.part w.part).group (BitVec.ofNat 8 j)).inuse
    (n = 0 ∨ 128 < n → Ends (.grpInit d a) s .s noTok 1 (onCore fun c => c.setX d (BitVec.ofInt 64 (-2)))) ∧
    (1 ≤ n → n ≤ 128 → (∀ j, j < 256 → used j = true) →
      Ends (.grpInit d a) s .s noTok 1 (onCore fun c => c.setX d (BitVec.ofInt 64 (-1)))) ∧
    (1 ≤ n → n ≤ 128 → ∀ j, j < 256 → used j = false → (∀ l, l < j → used l = true) →
      Ends (.grpInit d a) s .s noTok 1 (fun u => onCore (fun c => c.setX d (BitVec.ofNat 64 j))
        (u.modPart w.part fun p => p.modGroup (BitVec.ofNat 8 j) fun _ => ⟨true, w.ctx, 0, 0, 0, 0, n⟩))) ∧
    (GroupOpen s w g → (groupOf s w g).joined = (groupOf s w g).done →
      Ends (.grpFree g) s .s noTok 1 (fun u => u.modPart w.part fun p => { p with groups := SMap.put 0 p.groups g.toNat 0 })) ∧
    (¬ (GroupOpen s w g ∧ (groupOf s w g).joined = (groupOf s w g).done) → Ends (.grpFree g) s .s noTok 1 id)

/-- R104, R201: when the last crew has arrived, the group's PHASE rises by one and ARRIVED becomes 0. R362: a monitor's signal ends the wait of `mwait`. -/
def PhaseAndMonitorEvents : Prop :=
  ∀ (s : State) (p : BitVec 5) (g : BitVec 8) (core : BitVec 7),
    ((s.part p).due.contains g = true → ∃ t, exec (.phaseAdvance p g) s = .next t ∧ t.cores = s.cores ∧ t.mem = s.mem ∧
      (TablesWf s → (t.part p).group g = { (s.part p).group g with phase := ((s.part p).group g).phase + 1, arrived := 0 }) ∧ (t.part p).due.contains g = false ∧
      ∀ a ∈ (t.part p).arrivals, a.2.2 ≠ g) ∧
    ((s.part p).due.contains g = false → exec (.phaseAdvance p g) s = .next s) ∧
    (∀ m h, (s.core core).monitor = some m → ((s.core core).str .s).held = some h → ∃ t, exec (.mwaitWake core) s = .next t ∧
      (t.core core).monitor = none ∧ ((t.core core).str .s).held = some { h with notBefore := 0 })

/-- R363, R364, R108, R109: where nothing waits at its queue, `chunk.init` configures a queue of the running context; `chunk.fetch` answers the next grant, a count of 0 at a queue
that is not configured, and a count of 0 with NEXT at a dry one that does not steal or has no victim; at a dry one that steals it asks the first victim and waits. A form that waited ends
with what its queue has given it. -/
def ChunkForms : Prop :=
  ∀ (s : State) (w : Crew) (a b d : BitVec 6), Has w s →
    let x := (cur s).xr a
    let y := (cur s).xr b
    (SReady [a, b] s → NoAcquire s → Alone s w (x.extractLsb' 0 6) → fld x 7 9 = 0 → fld y 48 16 = 0 → fld x 32 16 ≠ 0 → fld x 48 16 ≠ 0 →
      Ends (.chunkInit a b) s .s noTok 1 (fun u => u.modPart w.part fun p => p.modChunk w.ctx (fld x 0 6) fun k =>
        ⟨true, x.getLsbD 6, k.workers, fld x 32 16, fld x 48 16, fld y 0 48, x.extractLsb' 16 16, 0⟩)) ∧
    (SReady [a] s → NoAcquire s → Alone s w (x.extractLsb' 0 6) →
      let q := (x.extractLsb' 0 6).toNat
      let k := chunkOf s w q
      (k.conf = false → Ends (.chunkFetch d a) s .s noTok 1 (onCore (fetched d 0 0))) ∧
      (k.conf = true → k.remain ≠ 0 → Ends (.chunkFetch d a) s .s noTok 1 (fun u =>
        onCore (fetched d (k.grant k.workers).1 (k.grant k.workers).2.1)
          (u.modPart w.part fun p => p.modChunk w.ctx q fun _ => (k.grant k.workers).2.2))) ∧
      (k.conf = true → k.remain = 0 → (k.steal = false ∨ s.victims k.sdom = []) →
        Ends (.chunkFetch d a) s .s noTok 1 (onCore (fetched d k.next 0))) ∧
      (k.conf = true → k.remain = 0 → k.steal = true → ∀ v vs, s.victims k.sdom = v :: vs →
        ∃ t, exec (.chunkFetch d a) s = .next t ∧ ((cur t).str .s).held.isSome = true ∧
          (cur t).steal = some { part := w.part, ctx := w.ctx, q := x.extractLsb' 0 6, came := s.time, d := d, asked := true, left := v :: vs })) ∧
    (∀ h, ((cur s).str .s).held = some h → h.performed = true → NoAcquire s →
      ((cur s).waitsOn [a] = false → EndsAt (.chunkFetch d a) s .s 1 (onCore (fun c => h.results.foldl (fun c e => c.setX e.1 e.2) c) s)) ∧
      ((cur s).waitsOn [a, b] = false → EndsAt (.chunkInit a b) s .s 1 s))

/-- R108: a grant of a queue with R indices left, for W workers (at least one), is the greater of MINCHUNK and R / 2W rounded up, rounded up to
a multiple of GRAN, and at most R; NEXT and REMAINING move by it. -/
def ChunkGrantSize : Prop :=
  ∀ (k : Chunk) (w : Nat), 0 < k.remain → 0 < k.gran →
    let w' := if w = 0 then 1 else w
    let n := (k.grant w).2.1
    (k.grant w).1 = k.next ∧ n ≤ k.remain ∧ (k.grant w).2.2 = { k with next := k.next + n, remain := k.remain - n } ∧
    (n = k.remain ∨ k.gran ∣ n) ∧ (n = k.remain ∨ (k.minchunk ≤ n ∧ k.remain ≤ 2 * w' * n)) ∧
    (∀ m, k.gran ∣ m → k.minchunk ≤ m → k.remain ≤ 2 * w' * m → n ≤ m)

/-- R109, R110: a steal request is answered by the first configured queue of a running context with its domain, which grants as R108 with one
worker more, and with 0 indices where there is none (which of several queues with the domain is the model's choice, log 125); a grant that comes back fills the thief's queue, which then serves what waits at it, and one of 0 sends the steal to the next
victim, or ends it. A steal whose fetch has gone asks no other victim. -/
def StealEvents : Prop :=
  ∀ (s : State) (sdom : BitVec 16) (pkg : BitVec 9) (core thief : BitVec 7) (start n : BitVec 48),
    exec (.stealRequest sdom pkg thief) s = .next (match victimOf s sdom with
      | some (p, q) =>
        let ctx := (s.part p).runctx
        let k := ((s.part p).ctx ctx).chunk q
        let g := k.grant (k.workers + 1)
        stealAnswer pkg thief g.1 g.2.1 (s.modPart p fun t => t.modChunk ctx q fun _ => g.2.2)
      | none => stealAnswer pkg thief 0 0 s) ∧
    (∀ t, (s.core core).steal = some t →
      let left := fun (r : List Nat) => s.modCore core fun c => { c with steal := if t.orphan then none else some { t with left := r } }
      let serves := fun (u : State) => u.chunkRun t.part t.ctx t.q
      (n ≠ 0 → exec (.stealGrant core start n) s = .next (serves ((left []).modPart t.part fun p => p.modChunk t.ctx t.q.toNat fun k =>
          { k with next := start.toNat, remain := n.toNat }))) ∧
      (n = 0 → (t.left.length ≤ 1 ∨ t.orphan = true) → exec (.stealGrant core start n) s = .next (serves (left []))) ∧
      (n = 0 → t.orphan = false → ∀ x y r, t.left = x :: y :: r →
        exec (.stealGrant core start n) s = .next ((left (y :: r)).askVictim core (((s.part t.part).ctx t.ctx).chunk t.q.toNat).sdom y))) ∧
    ((s.core core).steal = none → exec (.stealGrant core start n) s = .next s)

/-- R368, R391, R400: `exit` on S, V and M. The strand is no longer live; where others are, nothing else happens; the last one, once nothing is
outstanding (R211), takes the crew off its core. An armed precise stop then raises the halt line (R292). -/
def ScalarVectorMatrixExit : Prop :=
  ∀ (i : Instr) (s : State) (w : Crew) (k : Strand) (tk : Tok), exitForm i = some (k, tk) → Has w s → Ready k tk s →
    (k = .s → (cur s).waitsOn [] = false) → (k = .m → ∀ t ∈ (cur s).ms.tabs, t.table.isSome = true) →
    let stop := exitHalt ((cur s).str k).armed w.part
    (OthersLive k s → Ends i s k tk 1 fun u => stop (strandEnded k u)) ∧
    (¬ OthersLive k s → s.quiet s.cur = true → Ends i s k tk 1 fun u => stop ((strandEnded k u).crewExit u.cur))

/-- R419, R125, R292: `exit` on X completes once the queue is empty, after the record boundary that it is for a stage crew, and unless that crew is about to move. -/
def TransferExit : Prop :=
  ∀ (s v : State) (w x : Crew) (tk : Tok), Has w s → Ready .x tk s → (cur s).xs.queue = [] →
    let stop := exitHalt ((cur s).str .x).armed w.part
    (w.stage = none → s.donor s.cur = false →
      (OthersLive .x s → Ends (.xExit tk) s .x tk 1 fun u => stop (strandEnded .x u)) ∧
      (¬ OthersLive .x s → s.quiet s.cur = true → Ends (.xExit tk) s .x tk 1 fun u => stop ((strandEnded .x u).crewExit u.cur))) ∧
    (Gives boundaryOp (s.issueHeld .x tk) () v → Has x v → v.donor v.cur = false →
      let stop := exitHalt ((cur v).str .x).armed x.part
      (OthersLive .x v → EndsAt (.xExit tk) s .x 1 (stop (strandEnded .x v))) ∧
      (¬ OthersLive .x v → v.quiet v.cur = true → EndsAt (.xExit tk) s .x 1 (stop ((strandEnded .x v).crewExit v.cur))))

/-- R367: `yield` without a request only retires; with one, it keeps its entry until the other strands hold nothing and the X queue is empty, and the
crew is then stopped as cooperative. -/
def YieldForm : Prop :=
  ∀ (s : State) (w : Crew), Has w s →
    (SReady [] s → (cur s).yld.deadline = none → Ends .yield s .s noTok 1 id) ∧
    (∀ h, ((cur s).str .s).held = some h → (cur s).waitsOn [] = false → (cur s).yld.deadline ≠ none →
      (∀ k, k ≠ .s → ((cur s).str k).held = none) → (cur s).xs.queue = [] →
      ∃ t, exec .yield s = .next t ∧ (cur t).yld.coop = true ∧ (cur t).yld.draining = false ∧ Instr.yieldDeadline w.part ∈ t.agenda)

/-- R445: `wfi` completes with a WAKE pending or a yield request set, and clears the WAKE; `sysw` of WAKE sets it for a core that holds a crew
of the running context. -/
def WaitForInterrupt : Prop :=
  ∀ (s : State) (w : Crew) (d : BitVec 6), Has w s →
    (SReady [] s → ((cur s).yld.wake = true ∨ (cur s).yld.deadline ≠ none) →
      Ends .wfi s .s noTok 1 (onCore fun c => { c with yld := { c.yld with wake := false } })) ∧
    (SReady [d] s → fld ((cur s).xr d) 7 57 = 0 →
      let c : BitVec 7 := ((cur s).xr d).extractLsb' 0 7
      ((sIssued s).holds c w.part (s.part w.part).runctx = true →
        Ends (.sysw d 9) s .s noTok 1 (fun u => u.modCore c fun r => { r with yld := { r.yld with wake := true } })) ∧
      ((sIssued s).holds c w.part (s.part w.part).runctx = false → Ends (.sysw d 9) s .s noTok 1 id))

/-- R186, R188, R369: `gen.set` with a descriptor that R186 accepts, and `gen.skip`, complete when every core's copy has applied their update; what
they ask for goes to the generator home's queue first. -/
def GeneratorForms : Prop :=
  ∀ (s t : State) (w : Crew) (g : BitVec 4) (r a b : BitVec 6) (slot imm : BitVec 5) (bs : List Byte), Has w s →
    (SReady [r] s → Passes (slotBound slot) s → NoAcquire s → Gives (readLin .s slot (coordOf s r imm 64) 64 64) (sIssued s) bs t →
      fld (leBV 512 bs) 0 3 ≠ 3 → genOk (leBV 512 bs) = true →
      ∃ n, exec (.genSet g r slot imm) s = .next n ∧
        (n.part w.part).genQ = (t.part w.part).genQ ++ [(t.cur, g.toNat, some ⟨leBV 512 bs, 0⟩, 0)]) ∧
    (SReady [r] s → Passes (slotBound slot) s → NoAcquire s → Gives (readLin .s slot (coordOf s r imm 64) 64 64) (sIssued s) bs t →
      fld (leBV 512 bs) 0 3 = 3 → ∀ all u, Gives (readLin .s slot (coordOf s r imm 64) 320 64) t all u → genOk (leBV 512 all) = true →
      ∃ n, exec (.genSet g r slot imm) s = .next n ∧
        (n.part w.part).genQ = (u.part w.part).genQ ++ [(u.cur, g.toNat, some ⟨leBV 512 all, leBV 2048 (all.drop 64)⟩, 0)]) ∧
    (SReady [a, b] s → ∃ n, exec (.genSkip g a b) s = .next n ∧
      (n.part w.part).genQ = (s.part w.part).genQ ++ [(s.cur, g.toNat, none, (cur s).xr b ++ (cur s).xr a)]) ∧
    (∀ h, ((cur s).str .s).held = some h → h.point = 1 → (cur s).waitsOn [r] = false → (s.part w.part).genQ.all (fun e => e.1 != s.cur) = true →
      (∀ c ∈ (s.part w.part).cores, (s.core c).genUpd = []) → EndsAt (.genSet g r slot imm) s .s 1 s) ∧
    (∀ h, ((cur s).str .s).held = some h → h.point = 1 → (cur s).waitsOn [a, b] = false → (s.part w.part).genQ.all (fun e => e.1 != s.cur) = true →
      (∀ c ∈ (s.part w.part).cores, (s.core c).genUpd = []) → EndsAt (.genSkip g a b) s .s 1 s)

/-- R187 to R189: the generator home performs the first queued update and sends it to every core's copy, and performs none while the partition is halted; a core's copy applies its next update whole. -/
def GeneratorEvents : Prop :=
  ∀ (s : State) (p : BitVec 5) (c core : BitVec 7) (g : Nat) (d : Option GenDesc) (add : BitVec 128)
    (rest : List (BitVec 7 × Nat × Option GenDesc × BitVec 128)) (x : GenDesc) (more : List (Nat × GenDesc)),
    let old := SMap.get {} ((s.part p).ctx (s.part p).runctx).gens g
    ((s.part p).halted = true ∨ (s.part p).halt ≠ none → exec (.genHomeUpdate p) s = .next s) ∧
    (∀ new, (s.part p).halted = false → (s.part p).halt = none → (s.part p).genQ = (c, g, d, add) :: rest → (d ≠ none ∨ fld old.d 0 3 = 4) →
      new = (match d with
        | some v => v
        | none => { old with d := BitVec.ofNat 512 (old.d.toNat % 2 ^ 384 + ((old.d.toNat / 2 ^ 384 + add.toNat) % 2 ^ 128) * 2 ^ 384) }) →
      ∃ t, exec (.genHomeUpdate p) s = .next t ∧ (t.part p).genQ = rest ∧
        ((t.part p).ctx (s.part p).runctx).gens = SMap.put {} ((s.part p).ctx (s.part p).runctx).gens g new) ∧
    ((s.core core).genUpd = (g, x) :: more →
      exec (.genCopyApply core) s = .next (s.modCore core fun r => { r with gens := SMap.put {} r.gens g x, genUpd := more }))

/-- R443, R444: `trap` retires, and then TRAP is taken with the `trap`'s own pc and its immediate in DETAIL; `halt` retires, and then the halt line of the
partition rises with CAUSE 3. -/
def TrapAndHalt : Prop :=
  ∀ (s : State) (w : Crew) (imm : BitVec 16), Has w s →
    let past := retired s
    exec (.trap imm) s = .next (past.takeFault s.cur .s (pcOf .s s) (s.ir.headD 0) ⟨15, 0, BitVec.ofNat 320 imm.toNat, false⟩) ∧
    exec .halt s = .next (past.raiseLine w.part 3)

/-- R87, R232, R239: taking a fault of HALT severity on a strand keeps the first fault of the stop, leaves the strand's pc where it is, and raises
the halt line of the crew's partition. -/
def TakingAFault : Prop :=
  ∀ (s : State) (w : Crew) (k : Strand) (pc word : W32) (f : FaultInfo), Has w s → f.kind ≤ 15 →
    let t := s.takeFault s.cur k pc word f
    ((cur t).str k).pc = pcOf k s ∧
    ((cur t).str k).fault = some (match ((cur s).str k).fault with | some x => x | none => (f.kind, f.sub)) ∧
    ((t.part w.part).halt).isSome = true ∧
    (∀ r, (cur t).xr r = (cur s).xr r) ∧ (cur t).v = (cur s).v ∧ (cur t).p = (cur s).p ∧ (cur t).masks = (cur s).masks

/-- R461, R462: `sysr` writes the register that IMM names to x[d]; one that R461 does not list, or that can only be written, raises ILLOP. `sysw` of
TRACETARGET begins a stream with COUNT 0 when ENABLE is set, and of TRACEBUF sets the buffer. -/
def SystemRegisters : Prop :=
  ∀ (s : State) (w : Crew) (d : BitVec 6) (num : BitVec 16), Has w s →
    (SReady [] s → ∀ v, s.sysReg w num.toNat = some v → Ends (.sysr d num) s .s noTok 1 (onCore fun c => c.setX d v)) ∧
    (SReady [] s → s.sysReg w num.toNat = none →
      exec (.sysr d num) s = .next (s.takeFault s.cur .s (pcOf .s s) (s.ir.headD 0) (s.illop .s))) ∧
    (SReady [d] s → let v := (cur s).xr d
      (tgtOk (v &&& 0x7FFFFFFFFFFFFFFF) false false false true = true →
        (v.getLsbD 63 = false → Ends (.sysw d 10) s .s noTok 1 (onCore fun c => { c with trace := { c.trace with target := v } })) ∧
        (v.getLsbD 63 = true → ∀ p ctx, TargetOk s w v 2 p ctx →
          Ends (.sysw d 10) s .s noTok 1 (onCore fun c => { c with trace := { c.trace with target := v, count := 0, gen := s.genOf p ctx } }))) ∧
      (fld v 0 6 = 0 → 6 ≤ fld v 48 5 → fld v 48 5 ≤ 20 → fld v 53 11 = 0 →
        Ends (.sysw d 11) s .s noTok 1 (onCore fun c => { c with trace := { c.trace with buf := v } })))

/-- R446 to R448, R92: `cap.deleg` answers the entry that it writes for its own context, −1 when none is free and −2 for an empty mask, its own context or one that is
not bound; `cap.revoke` clears an entry, or raises its own GEN; `cap.check` answers an entry whose GEN is current, and 0 otherwise. -/
def CapabilityForms : Prop :=
  ∀ (s : State) (w : Crew) (d a b : BitVec 6), Has w s →
    let v := (cur s).xr a
    let tp : BitVec 5 := v.extractLsb' 8 5
    let tc : BitVec 3 := v.extractLsb' 0 3
    let x := (s.part tp).ctx tc
    let mine := fun (i : Nat) => (x.cap i).inuse = true ∧ (x.cap i).part = w.part ∧ (x.cap i).ctx = w.ctx
    let mask : BitVec 5 := ((cur s).xr b).extractLsb' 0 5
    (SReady [a, b] s → fld v 3 5 = 0 → fld v 13 51 = 0 → fld ((cur s).xr b) 5 59 = 0 →
      ((mask = 0 ∨ (tp = w.part ∧ tc = w.ctx) ∨ (s.part tp).bound.getLsbD tc.toNat = false) →
        Ends (.capDeleg d a b) s .s noTok 1 (onCore fun c => c.setX d (BitVec.ofInt 64 (-2)))) ∧
      (mask ≠ 0 → (tp ≠ w.part ∨ tc ≠ w.ctx) → (s.part tp).bound.getLsbD tc.toNat = true →
        (∀ i, i < 16 → ((∀ j, j < i → ¬ mine j) ∧ mine i ∨ (∀ j, j < 16 → ¬ mine j) ∧ (x.cap i).inuse = false ∧ ∀ j, j < i → (x.cap j).inuse = true) →
          Ends (.capDeleg d a b) s .s noTok 1 (fun u => onCore (fun c => c.setX d (BitVec.ofNat 64 i))
            (u.setCap tp tc i (Cap.bits ⟨true, w.ctx, w.part, mask, s.genOf w.part w.ctx⟩)))) ∧
        ((∀ j, j < 16 → ¬ mine j) → (∀ j, j < 16 → (x.cap j).inuse = true) →
          Ends (.capDeleg d a b) s .s noTok 1 (onCore fun c => c.setX d (BitVec.ofInt 64 (-1)))))) ∧
    (SReady [a] s → v = BitVec.ofInt 64 (-1) → Ends (.capRevoke a) s .s noTok 1 (fun u => u.bumpGen w.part w.ctx)) ∧
    (SReady [a] s → v.toNat ≤ 15 → Ends (.capRevoke a) s .s noTok 1 (fun u => u.setCap w.part w.ctx v.toNat 0)) ∧
    (SReady [a] s → v.toNat ≤ 15 → let e := ((s.part w.part).ctx w.ctx).cap v.toNat
      Ends (.capCheck d a) s .s noTok 1 (onCore fun c => c.setX d
        (if e.inuse = true ∧ e.gen = s.genOf e.part e.ctx then
          BitVec.ofNat 64 (2 ^ 31 + e.part.toNat * 2 ^ 16 + e.ctx.toNat * 2 ^ 8 + e.mask.toNat) else 0)))

/-- R449, R292: a plain `stop` of the crew's own context retires and raises the halt line with CAUSE 3; of another context with the STOP right it raises that
partition's line, and completes once the partition has halted; a precise one arms the strand that it names. -/
def StopForm : Prop :=
  ∀ (s : State) (w : Crew) (a b : BitVec 6) (p : BitVec 5) (ctx : BitVec 3), Has w s → SReady [a, b] s →
    let t := (cur s).xr a
    TargetOk s w t 0 p ctx → fld t 18 46 = 0 → t.getLsbD 15 = false → fld t 4 3 = 0 →
    ((cur s).xr b = 0 → fld t 8 10 = 0 → t.getLsbD 7 = true → exec (.stop a b) s = .next ((retired s).raiseLine w.part 3)) ∧
    ((cur s).xr b = 0 → fld t 8 10 = 0 → t.getLsbD 7 = false → (s.part p).runctx = ctx → (s.part p).halted = false →
      ∃ n, exec (.stop a b) s = .next n ∧ ((n.part p).halt).isSome = true) ∧
    ((cur s).xr b = 0 → fld t 8 10 = 0 → t.getLsbD 7 = false → ((s.part p).runctx ≠ ctx ∨ (s.part p).halted = true) →
      Ends (.stop a b) s .s noTok 1 id) ∧
    ((cur s).xr b = 1 → (s.part p).runctx = ctx → (s.part p).halted = false → (s.part p).halt = none →
      s.holds (tgtCore t) p ctx = true → ((s.core (tgtCore t)).str (tgtStrand t)).live = true → tgtCore t ≠ s.cur →
      ∃ n, exec (.stop a b) s = .next n ∧ ((n.core (tgtCore t)).str (tgtStrand t)).armed = true)

/-- R450, R243: `resume` of a context that runs in a partition halted for a fault or a STOP resumes the partition; otherwise it only retires. -/
def ResumeForm : Prop :=
  ∀ (s : State) (w : Crew) (a : BitVec 6) (p : BitVec 5) (ctx : BitVec 3), Has w s → SReady [a] s →
    let t := (cur s).xr a
    TargetOk s w t 0 p ctx → t.getLsbD 7 = false → fld t 4 3 = 0 → fld t 8 56 = 0 →
    ((s.part p).runctx = ctx → (s.part p).resumable = true → Ends (.resume a) s .s noTok 1 (fun u => u.resumePart p)) ∧
    (((s.part p).runctx ≠ ctx ∨ (s.part p).resumable = false) → Ends (.resume a) s .s noTok 1 id)

/-- R451, R452: `ctx.save` writes the image of the crew that its target names to 1 MiB of descriptor 0 at x[a + 1], and `ctx.load` takes an image from there into that
crew's core; both need the subject's partition halted, and not for a pre-emption. -/
def SavedStateForms : Prop :=
  ∀ (s u v t : State) (w : Crew) (a : BitVec 6) (p : BitVec 5) (ctx : BitVec 3) (acc : Acc) (bs : List Byte), Has w s → SReady [a, a + 1] s → a ≠ 63 →
    let tg := (cur s).xr a
    TargetOk s w tg 1 p ctx → tg.getLsbD 7 = false → fld tg 15 49 = 0 → fld tg 4 3 = 0 →
    (s.part p).runctx = ctx → (s.part p).halted = true → ((s.part p).halt.map (·.cause)).getD 0 ≠ 2 → s.holds (tgtCore tg) p ctx = true →
    NoAcquire s → Gives (sysAcc ((cur s).xr (a + 1)).toNat 0x100000 64) (sIssued s) acc u →
    (u.image (tgtCore tg) true = (bs, v) → Gives (writeAll .s acc.d.nt false (linPieces acc bs)) v () t → EndsAt (.ctxSave a) s .s 1 t) ∧
    ((s.part p).fatal = false → Gives (readRange .s acc 0x100000) u bs t → shapeOk (leBV 64 ((bs.drop 0x310).take 8)) = true →
      EndsAt (.ctxLoad a) s .s 1 (t.modCore (tgtCore tg) fun r => r.ofImg fun o n => (bs.drop o).take n))

/-- R290, R453: `dtab.load` replaces a decode table at the context's home and sends it to every core of the partition, completing once each copy has applied it; a
copy applies its next table whole. -/
def DecodeTableForms : Prop :=
  ∀ (s u t : State) (w : Crew) (a b : BitVec 6) (acc : Acc) (bs : List Byte) (core : BitVec 7) (n : Nat) (tab : DTab) (rest : List (Nat × DTab)), Has w s →
    let v := (cur s).xr a
    let k := tgtStrand (BitVec.ofNat 64 (fld v 0 2 * 2 ^ 16))
    (SReady [a, b] s → fld v 2 6 = 0 → fld v 17 47 = 0 → v.getLsbD 16 = false → fld v 8 8 ≠ 0 → NoAcquire s →
      Gives (sysAcc ((cur s).xr b).toNat 2048 64) (sIssued s) acc u → Gives (readRange .s acc 2048) u bs t →
      ∃ m, exec (.dtabLoad a b) s = .next m ∧
        ((m.part w.part).ctx w.ctx).dtabs = ((s.part w.part).ctx w.ctx).dtabs.set (strandFin k) (DTab.ofBytes k (v.extractLsb' 8 8) bs)) ∧
    (SReady [a, b] s → fld v 2 14 = 0 → fld v 17 47 = 0 → v.getLsbD 16 = true → (cur s).xr b = 0 →
      ∃ m, exec (.dtabLoad a b) s = .next m ∧ ((m.part w.part).ctx w.ctx).dtabs = ((s.part w.part).ctx w.ctx).dtabs.set (strandFin k) {}) ∧
    (∀ h, ((cur s).str .s).held = some h → h.performed = true → (cur s).waitsOn [a, b] = false →
      (∀ c ∈ (s.part w.part).cores, (s.core c).dtabUpd = []) → EndsAt (.dtabLoad a b) s .s 1 s) ∧
    ((s.core core).dtabUpd = (n, tab) :: rest → n < 4 → ∃ m, exec (.decodeTableCopyApply core) s = .next m ∧
      (m.core core).dtabUpd = rest ∧ (m.core core).dtabs.toList = (s.core core).dtabs.toList.set n tab)

/-- R454 to R456, R95: `ev.sel` selects a counter's source, and clears it where CLEAR is set; `ev.read` answers a counter or EVOVF, and 0 for a core that holds no crew of the
subject; `snap.read` stores the snapshot buffer; the end of a snapshot copy makes its SEQ even. -/
def EventForms : Prop :=
  ∀ (s u v : State) (w : Crew) (d a b : BitVec 6) (p : BitVec 5) (ctx : BitVec 3) (acc : Acc), Has w s →
    let t := (cur s).xr a
    let y := (cur s).xr b
    let n := fld t 20 4
    let core := tgtCore t
    TargetOk s w t 3 p ctx → (s.part p).runctx = ctx → (s.part p).ownsCore core.toNat = true →
    fld t 24 40 = 0 → fld t 15 5 = 0 → fld t 4 3 = 0 →
    (SReady [a, b] s → n ≤ 7 → fld y 6 2 = 0 → fld y 9 55 = 0 → s.holds core p ctx = true →
      Ends (.evSel a b) s .s noTok 1 (fun u => u.modCore core fun r =>
        let e := { r.ev with sel := listSet r.ev.sel n (y.extractLsb' 0 6) }
        { r with ev := if y.getLsbD 8 then { e with ev := listSet e.ev n 0, ovf := e.ovf &&& ~~~(1#8 <<< n) } else e })) ∧
    (SReady [a] s → n ≤ 8 → s.holds core p ctx = true →
      Ends (.evRead d a) s .s noTok 1 (onCore fun c => c.setX d
        (if n = 8 then BitVec.ofNat 64 (s.core core).ev.ovf.toNat else (s.core core).ev.ev.getD n 0))) ∧
    (SReady [a] s → n ≤ 8 → s.holds core p ctx = false → Ends (.evRead d a) s .s noTok 1 (onCore fun c => c.setX d 0)) ∧
    (SReady [d, a] s → n = 0 → s.holds core p ctx = true → (s.core core).ev.busy = false → NoAcquire s →
      Gives (sysAcc ((cur s).xr d).toNat 1088 64) (sIssued s) acc u →
      Gives (writeAll .s acc.d.nt false (linPieces acc (SMap.read 0 (s.core core).ev.snap 0 1088))) u () v → EndsAt (.snapRead d a) s .s 1 v) ∧
    (∀ c, (s.core c).ev.busy = true → ∃ m, exec (.snapshotDone c) s = .next m ∧ (m.core c).ev.busy = false ∧
      ((s.core c).ev.snap = SMap.write 0 [] 0 (leBytes 8 1) → SMap.read 0 (m.core c).ev.snap 0 8 = leBytes 8 2))

/-- R457, R458, R218, R222: `tt.inval` removes a key, or every tile of a tensor, from the partition's translation caches, after the writes before it, with DESC each crew's copy of the descriptor too, and completes
once no request that was made before it is on its way, and what was refused before it is translated again when it is sent again; `slog.replay` drops it there as well,
forgets its outstanding misses, and replays the side log entries that it names. -/
def TranslationForms : Prop :=
  ∀ (s : State) (w : Crew) (a b : BitVec 6), Has w s → SReady [a, b] s →
    let v := (cur s).xr a
    let tile := if v.getLsbD 16 then none else some ((cur s).xr b).toNat
    let drop := fun (u : State) => (u.dropKey w.part w.ctx (v.extractLsb' 0 12) tile).flushPieces
    let descs := fun (u : State) => if v.getLsbD 17 then (u.part w.part).cores.foldl (fun s c => s.modCore c fun r =>
      { r with crew := r.crew.map fun w => { w with descs := w.descs.filter fun e => e.1 != (v.extractLsb' 0 12).toNat } }) u else u
    let mark := onCore fun c => c.setStr .s { (c.str .s) with held := some { c.heldOf .s with point := s.nextTag + 1 } }
    fld v 12 4 = 0 → fld v 18 46 = 0 → fld v 0 12 ≤ ((s.part w.part).ctx w.ctx).ndesc.toNat →
    ((cur s).slog = [] → s.accessesBefore w.part s.nextTag = false → Ends (.ttInval a b) s .s noTok 1 fun u => (mark (descs (drop u))).walkAnew w.part w.ctx (v.extractLsb' 0 12) tile) ∧
    ((cur s).slog = [] → s.accessesBefore w.part s.nextTag = true →
      ∃ t, exec (.ttInval a b) s = .next t ∧ ((cur t).str .s).held.map (·.point) = some (s.nextTag + 1) ∧ t.mem = (drop (sIssued s)).mem) ∧
    (v.getLsbD 17 = false → Ends (.slogReplay a b) s .s noTok 1 (fun u => u.replayKey w.part w.ctx (v.extractLsb' 0 12) tile))

/-- R225, R459: `migrate` of a present tile starts its migration, and completes once no migration of this core is in progress. -/
def MigrateForm : Prop :=
  ∀ (s u : State) (w : Crew) (a b : BitVec 6) (bits : BitVec 512), Has w s →
    let v := (cur s).xr a
    let d := Desc.ofBits bits
    let e := s.tileEntry d ((cur s).xr b).toNat
    (SReady [a, b] s → fld v 12 2 ≠ 3 → fld v 14 2 ≠ 3 → fld v 25 7 = 0 → Gives (crewDesc (fld v 0 12)) (sIssued s) (some bits) u →
      d.kind ≠ 0 → d.kind ≠ 2 → d.wf = true → descPlain bits = true → d.pinned = false → ((cur s).xr b).toNat < d.tiles → e.getLsbD 0 = true →
      (fld v 12 2 = 1 → d.dupok = true ∧ fld v 14 2 = 0 ∧ fld v 16 9 ≠ fld e 16 9) →
      ∃ n, exec (.migrate a b) s = .next n ∧ (n.part w.part).migrs = (u.part w.part).migrs ++
        [⟨w.ctx, v.extractLsb' 0 12, ((cur s).xr b).toNat, fld v 12 2, v.extractLsb' 14 2, v.extractLsb' 16 9, v.extractLsb' 32 32, some s.cur, 0, [], 0, []⟩]) ∧
    (∀ h, ((cur s).str .s).held = some h → h.performed = true → (cur s).waitsOn [a, b] = false →
      (∀ m ∈ (s.part w.part).migrs, m.core ≠ some s.cur) → EndsAt (.migrate a b) s .s 1 s)

/-- R378, R261: on the integer formats the arithmetic forms give the exact result wrapped to the width, or clamped under SAT; a division by zero gives all ones. -/
def IntegerLanes : Prop :=
  ∀ (s : Shape) (w : Nat) (sgn : Bool) (e a b c : Nat), ifmt s.fmt = some (w, sgn) → a < 2 ^ w → b < 2 ^ w → c < 2 ^ w →
    let val := fun (n : Nat) => if sgn ∧ 2 ^ (w - 1) ≤ n then (n : Int) - 2 ^ w else (n : Int)
    let lo : Int := if sgn then -(2 ^ (w - 1)) else 0
    let hi : Int := if sgn then 2 ^ (w - 1) - 1 else 2 ^ w - 1
    let put := fun (n : Int) => ((if s.sat then (if n < lo then lo else if hi < n then hi else n) else n) % 2 ^ w).toNat
    fAdd s e a b c = put (val a + val b) ∧ fSub s e a b c = put (val a - val b) ∧ fMul s e a b c = put (val a * val b) ∧
    fFma s e a b c = put (val a * val b + val c) ∧ fFms s e a b c = put (val a * val b - val c) ∧
    (b = 0 → fDiv s e a b c = 2 ^ w - 1) ∧ (b ≠ 0 → fDiv s e a b c = put ((val a).tdiv (val b))) ∧
    fNeg s a = put (-(val a)) ∧ fAbs s a = put ((val a).natAbs : Int)

/-- R376: a comparison of two integer elements is that of their values. -/
def IntegerCompares : Prop :=
  ∀ (f w a b : Nat) (sgn : Bool), ifmt f = some (w, sgn) → a < 2 ^ w → b < 2 ^ w →
    let val := fun (n : Nat) => if sgn ∧ 2 ^ (w - 1) ≤ n then (n : Int) - 2 ^ w else (n : Int)
    vcmpElem .eq f a b = decide (val a = val b) ∧ vcmpElem .ne f a b = decide (val a ≠ val b) ∧ vcmpElem .lt f a b = decide (val a < val b) ∧
    vcmpElem .le f a b = decide (val a ≤ val b) ∧ vcmpElem .gt f a b = decide (val b < val a) ∧ vcmpElem .ge f a b = decide (val b ≤ val a)

/-- R375, R376, R377: the mask forms write the bits below LEN of their mask, `vcmp` the bits of active elements; `vsel` writes every element below LEN by its mask bit, whatever MEN. -/
def MaskResults : Prop :=
  ∀ (i : Instr) (s : State) (tk : Tok), Ready .v tk s →
    (∀ d es f, maskForm (cur s) i = some (tk, d, es, f) → Ends i s .v tk 1 (onCore fun c => c.setMask d (setBits ((cur s).mask d) es f))) ∧
    (∀ d a b, Ends (.vsel tk d a b) s .v tk 1 (onCore fun c => c.setV d (setElems (cur s).shp.w ((cur s).vr d) (List.range (cur s).shp.len)
      fun e => velem ((cur s).vr (if (cur s).maskBit e then a else b)) (cur s).shp.w e)))

/-- R374, R282, R283: `vshape` sets SHAPE to a value that R283 allows and raises ILLOP for another; `vsetlen` sets LEN to the lesser of p[vb] and the elements of a register, and
nothing else of SHAPE. -/
def ShapeForms : Prop :=
  ∀ (s : State) (tk : Tok) (n : BitVec 5), Ready .v tk s →
    (shapeOk (pOf (cur s) n) = true → Ends (.vshape tk n) s .v tk 1 (onCore fun c => { c with shape := pOf (cur s) n })) ∧
    (shapeOk (pOf (cur s) n) = false → exec (.vshape tk n) s = .next (s.takeFault s.cur .v (pcOf .v s) (s.ir.headD 0) (s.illop .v))) ∧
    (∃ v, Ends (.vsetlen tk n) s .v tk 1 (onCore fun c => { c with shape := v }) ∧
      (Shape.ofWord v).len = min (pOf (cur s) n).toNat (cur s).shp.cap % 2 ^ 14 ∧
      ∀ j, (j < 8 ∨ 22 ≤ j) → v.getLsbD j = (cur s).shape.getLsbD j)

/-- R382 to R384: `vcvt` converts the active elements from the format in p[vb]; `vpack` writes whole blocks of 64 bytes with zeros for inactive elements; `vunpack` writes the active
elements from blocks whose codes match, and raises TENSORFAULT SHAPE at the first that does not. -/
def ConversionForms : Prop :=
  ∀ (s : State) (tk : Tok) (d a : BitVec 6) (n : BitVec 5), Ready .v tk s →
    let c := cur s
    let sh := c.shp
    let p := pOf c n
    let code := fld p 0 8
    let per := (blockCount code).getD 1
    let count := (sh.len + per - 1) / per
    let block := fun (k : Nat) => vbytes (c.vr a) (64 * k) 64
    (shapeFmt code = true → fld p 8 56 = 0 → sh.len * max (fmtWidth code) sh.w ≤ 65536 →
      Ends (.vcvt tk d a n) s .v tk 1 (onCore fun k => k.setV d (setElems sh.w (c.vr d) c.active fun e =>
        convertBits code sh.fmt (sh.mode e) sh.sat (velem (c.vr a) (fmtWidth code) e)))) ∧
    (blockOk c n = true →
      Ends (.vpack tk d a n) s .v tk 1 (onCore fun k => k.setV d (setElems 512 (c.vr d) (List.range count) fun b =>
        leNat (encodeBlock code (fun j => sh.mode (b * per + j)) sh.sat ((List.range per).map fun j =>
          if c.activeAt (b * per + j) then decodeVal sh.fmt (velem (c.vr a) sh.w (b * per + j)) else .fin false 0 0))))) ∧
    (blockOk c n = true → (∀ k, k < count → (block k).getD 0 0 = BitVec.ofNat 8 code) →
      Ends (.vunpack tk d a n) s .v tk 1 (onCore fun k => k.setV d (setElems sh.w (c.vr d) c.active fun e =>
        sh.putVal (sh.mode e) (blockElem (((List.range count).map block).getD (e / per) []) [] (e % per)))))

/-- R385, R283: a reduction writes element 0 from the active elements; with LEN 0 nothing is written. -/
def ReductionForms : Prop :=
  ∀ (i : Instr) (s : State) (tk : Tok) (d a : BitVec 6) (f : Shape → (Nat → Nat) → List Nat → Nat), reduceForm i = some (tk, d, a, f) →
    Ready .v tk s → classRed (cur s).shp.fmt = true →
    let c := cur s
    ((c.shp.len ≠ 0 → Ends i s .v tk 1 (onCore fun k => k.setV d (setElem c.shp.w (c.vr d) 0 (f c.shp (fun e => velem (c.vr a) c.shp.w e) c.active)))) ∧
    (c.shp.len = 0 → Ends i s .v tk 1 id))

/-- R401, R402: `mcfg` sets MCFG to a value that R401 allows; `manchor` and `manchor.auto` clear the tile and set its anchor, and `mzero` clears it and keeps it. -/
def MatrixConfiguration : Prop :=
  ∀ (s : State) (tk : Tok) (n : BitVec 5) (one : Bool), Ready .m tk s →
    (mcfgOk (pOf (cur s) n) = true →
      MEndsAt (.mcfg tk n) s 1 (onCore (fun c => { c with ms := { c.ms with cfg := pOf (cur s) n } }) (mNumbered tk s))) ∧
    (mcfgOk (pOf (cur s) n) = false → exec (.mcfg tk n) s = .next (s.takeFault s.cur .m (pcOf .m s) (s.ir.headD 0) (s.illop .m))) ∧
    MEndsAt (.manchor tk one n) s 1
      (onTile one (fun t => { emptied t with anchor := BitVec.ofNat 16 (pOf (cur s) n).toNat, auto := false }) (mNumbered tk s)) ∧
    MEndsAt (.manchorAuto tk one) s 1 (onTile one (fun t => { emptied t with anchor := 0, auto := true }) (mNumbered tk s)) ∧
    MEndsAt (.mzero tk one) s 1 (onTile one emptied (mNumbered tk s))

/-- R413, R414: `mstat` stores the eight statistics counters, `msamp` the sampling counters; each clears, and `msamp` bounds, as its word says. -/
def StatisticsForms : Prop :=
  ∀ (s u t : State) (tk : Tok) (slot c : BitVec 5) (clr bnd : Bool) (a : Acc), Ready .m tk s → Passes (do slotBound slot; writable slot) s →
    let m := (cur s).ms
    (Gives (linAcc slot (fld (pOf (cur s) c) 0 48) 64 64) (mNumbered tk s) a u →
      Gives (writePieces .m (linWPieces a (m.stats.flatMap fun v => bvBytes 8 v))) u () t →
      MEndsAt (.mstat tk slot c clr) s 1 (if clr then onCore (fun c => { c with ms := { c.ms with stats := List.replicate 8 0 } }) t else t)) ∧
    (Gives (linAcc slot (fld (pOf (cur s) c) 0 48) 16 16) (mNumbered tk s) a u →
      Gives (writePieces .m (linWPieces a (bvBytes 4 m.sampled ++ bvBytes 4 m.mismatch ++ bvBytes 2 m.bnd ++ [BitVec.ofNat 8 m.sampOff.toNat] ++
        List.replicate 5 0))) u () t →
      let cleared := if clr then onCore (fun c => { c with ms := { c.ms with sampled := 0, mismatch := 0 } }) t else t
      MEndsAt (.msamp tk bnd slot c clr) s 1
        (if bnd then onCore (fun k => { k with ms := { k.ms with bnd := (pOf (cur s) c).extractLsb' 48 16 } }) cleared else cleared))

/-- R403 to R405: `mmd` and `mmc` complete once every bundle of K has been added to the tile; POINT then stands at the last. -/
def DenseProductForms : Prop :=
  ∀ (s t : State) (tk : Tok) (m : MulArgs) (tab : TRef), Ready .m tk s → Passes (geoCheck m) s →
    (Passes (mulCheck m false) s → Gives (denseOp m none) (mNumbered tk s) () t → MEndsAt (.mmd tk m) s 3 t) ∧
    (Passes (do mulCheck m true; tabCheck tab) s → Gives (denseOp m (some tab)) (mNumbered tk s) () t → MEndsAt (.mmc tk m tab) s 4 t)

/-- R396: a geometry outside its ranges raises TENSORFAULT SHAPE with A's tensor in DETAIL, before a token is taken. -/
def GeometryFault : Prop :=
  ∀ (s u : State) (tk : Tok) (m : MulArgs) (tn : Nat) (d : Desc), Ready .m tk s → Passes (mulCheck m false) s →
    Gives (slotDesc m.a.slot) s (tn, d) u → geoOk (pOf (cur s) m.g) = false →
    exec (.mmd tk m) s = .next (s.takeFault s.cur .m (pcOf .m s) (s.ir.headD 0) ⟨2, 4, detT tn m.a.slot.toNat 0 0, false⟩)

/-- R406, R407, R298: `mms` and `mmn` start by setting up their walk from the metadata slots; the command completes when its cycles have ended without a fault, and the fault that ended the walk is taken otherwise. -/
def SparseCommandForms : Prop :=
  ∀ (i : Instr) (s : State) (tk : Tok) (m : MulArgs) (a : BitVec 4) (b : Option (BitVec 4)) (kinds : List Nat), sparseForm i = some (tk, m, a, b, kinds) →
    (∀ t, Ready .m tk s → Passes (mulCheck m false) s → Passes (geoCheck m) s → (cur s).ms.run = none →
      Gives (sparseStart m a b kinds) (mNumbered tk s) () t → ∃ n, exec i s = .next n ∧ (cur n).ms = (cur t).ms ∧ ((cur n).str .m).held.isSome = true) ∧
    (∀ h r, ((cur s).str .m).held = some h → h.seq.isSome = true → (cur s).ms.run = some r → r.fin = true →
      let u := onCore (fun c => { c with ms := { c.ms with run := none } })
        (onCore (fun c => c.count 16 r.loads.length)
          (onCore (fun c => c.setStr .m { (c.str .m) with held := some { h with point := r.item, progress := if r.item = 0 then .none else .part } }) s))
      (r.bad = none → m.prof ≠ 48 → MEndsAt i s 4 u) ∧
      (r.bad = none → m.prof = 48 → ∀ t, Gives (np48Finish m.tile r.geo.1 r.geo.2.1) u () t → MEndsAt i s 4 t) ∧
      (∀ kind sub det, r.bad = some (kind, sub, det) → ∃ n, exec i s = .next n ∧ (((cur n).str .m).held.map (·.progress)) = some .fault))

/-- R409, R410: `mrd` writes the box of the tile, each element rounded once to the tensor's format, and the OVF bits where it names them; with CLR what it has read becomes zero. -/
def ReadoutForm : Prop :=
  ∀ (s u v y t : State) (tk : Tok) (r : MrdArgs) (tn : Nat) (d : Desc) (cs : List Nat) (os : List WPiece), Ready .m tk s → Passes (mrdCheck r) s →
    Passes (mrdBox r) s → Gives (slotDesc r.d.slot) (mNumbered tk s) (tn, d) u → Gives (coordsAt .m r.d.pcrd.toNat d.rank) u cs v →
    let n := (pOf (cur s) r.d.pbox).toNat
    let m := ((cur s).p.toList.getD (r.d.pbox.toNat + 1) 0).toNat
    Gives (Machine.mrdOvf r (tileNow r.tile s) n m) v os y →
    Gives (writePieces .m (elemPieces .m r.d.slot tn d (mrdElems r d.format (tileNow r.tile s) cs n m) ++ os)) y () t →
    MEndsAt (.mrd tk r) s 3 (if r.clr then onTile r.tile (fun x => x.clearBox r n m) t else t)

/-- R408, R313: `mtab` puts its tables' tags into the two slots of the weight path, the last used first, and completes; a table arrives by an event of its own. -/
def TableForms : Prop :=
  ∀ (s t : State) (tk : Tok) (r : TRef) (o : MOp), Ready .m tk s → Passes (tabCheck r) s → Gives (mOperand r) (mNumbered tk s) o t →
    let slot := fun (n : Nat) (c : Core) => (⟨BitVec.ofNat 12 o.t, o.c0 + n, none, r.slot, (c.heldOf .m).pc, (c.heldOf .m).words.headD 0⟩ : TabSlot)
    let ask := fun (n : Nat) => onCore fun c =>
      { c with ms := c.ms.useTab ((c.ms.tab (BitVec.ofNat 12 o.t) (o.c0 + n)).getD (slot n c)) }
    MEndsAt (.mtab tk false r) s 2 ((ask 0 t).push (.tableArrival t.cur)) ∧
    MEndsAt (.mtab tk true r) s 2 ((ask 1 (ask 0 t)).push (.tableArrival t.cur))

/-- R411: `mst` stores the image of a tile, and `mld` takes a tile from an image. -/
def TileImageForms : Prop :=
  ∀ (s u t : State) (tk : Tok) (one : Bool) (r : TRef) (a : Acc) (bs : List Byte), Ready .m tk s → Passes (trefCheck r) s →
    Gives (linAcc r.slot (pOf (cur s) r.pcrd).toNat 135168 64) (mNumbered tk s) a u →
    (Passes (do trefCheck r; writable r.slot) s → Gives (writePieces .m (linWPieces a (tileNow one s).image)) u () t → MEndsAt (.mst tk one r) s 2 t) ∧
    (Gives (readChecked .m a 135168) u bs t → MEndsAt (.mld tk one r) s 2 (onTile one (fun _ => Tile.ofImage bs) t))

/-- R411, R284: taking a tile from the image of a tile in its canonical form gives the tile back. -/
def TileImageRoundTrip : Prop :=
  ∀ t : Tile, SMap.wf 0 t.el = true → (∀ e ∈ t.el, e.1 < 8192) → Tile.ofImage t.image = t

/-- R307, R412: `mmerge` sets an anchor that is still open from the image's, and completes once it has merged every row that it names. -/
def MergeForm : Prop :=
  ∀ (s u v x t : State) (tk : Tok) (prof : BitVec 6) (one : Bool) (r : TRef) (row0 : BitVec 7) (rows : BitVec 8) (a : Acc) (hd : List Byte) (tn : Nat) (d : Desc), Ready .m tk s →
    Passes (trefCheck r) s → Gives (slotDesc r.slot) s (tn, d) x → rows ≠ 0 → row0.toNat + rows.toNat ≤ 128 →
    Gives (linAcc r.slot (pOf (cur s) r.pcrd).toNat 64 64) (mNumbered tk s) a u → Gives (readChecked .m a 64) u hd v →
    let anchor := (leBV 16 (hd.take 2)).toInt
    Gives (mergeRows prof.toNat one r.slot (pOf (cur s) r.pcrd).toNat row0.toNat rows.toNat anchor)
      (onTile one (fun y => y.anchorAuto prof.toNat anchor) v) () t → MEndsAt (.mmerge tk prof one r row0 rows) s 3 t

/-- R285, R314, R338: every X command issues in one step. It takes its token and the last place of the queue with the next number, and X goes on
at the next instruction; what it asks for is then done by the events of the queue. No x, p, v or mask register changes and storage stays as it is. -/
def CommandsIssue : Prop :=
  ∀ (i : Instr) (s : State) (k : XKind) (o : Option Order) (tk : Tok) (len : Nat), commandForm i = some (k, o, tk, len) →
    Passes (xIssueCheck k) s → XReady tk s → Untraced s →
    ∃ t, exec i s = .next t ∧ (cur t).xs.queue = (cur s).xs.queue ++ [newCommand k o tk s] ∧ (cur t).xs.xseq = (cur s).xs.xseq + 1 ∧
      (((cur s).str .x).loops = [] → pcOf .x t = pcOf .x s + BitVec.ofNat 32 len) ∧ t.mem = s.mem ∧
      (cur t).x = (cur s).x ∧ (cur t).p = (cur s).p ∧ (cur t).v = (cur s).v ∧ (cur t).masks = (cur s).masks

/-- R285, R287: with 64 commands in the queue, or one that waits to post its token, or without its own token, a command does not issue and nothing
changes. -/
def CommandsWait : Prop :=
  ∀ (i : Instr) (s : State) (k : XKind) (o : Option Order) (tk : Tok) (len : Nat), commandForm i = some (k, o, tk, len) →
    Passes (xIssueCheck k) s →
    (64 ≤ (cur s).xs.queue.length ∨ (∃ m ∈ (cur s).xs.queue, m.progress = .all) ∨ (tk.wait ≠ 0 ∧ (cur s).tokAt (waitIdx .x tk.wait.toNat) = 0)) →
    exec i s = .next s

/-- R14, R445: PS2 is entered from PS0 while every partition is idle (what makes one idle is the model's choice, log 103), and left to PS0; PS3 turns the package off, and nothing stands
next then. -/
def PowerStateEvents : Prop :=
  ∀ s : State,
    (s.power.ps = 0 → (∀ c : BitVec 7, (s.core c).crew = none) → (∀ p : BitVec 5, (s.part p).launches = [] ∧ (s.part p).jobs = [] ∧ (s.part p).migrs = []) →
      ∃ t, exec .ps2Entry s = .next t ∧ t.power = { s.power with ps := 2 } ∧ t.mem = s.mem ∧ t.cores = s.cores) ∧
    (s.power.ps = 2 → ∃ t, exec .ps2Exit s = .next t ∧ t.power = { s.power with ps := 0 } ∧ t.mem = s.mem ∧ t.cores = s.cores) ∧
    (∃ t, exec .ps3Entry s = .next t ∧ t.power.ps = 3 ∧ t.agenda = [])

/-- R15: a sample enters the mean of the last ten, which is compared exactly. Above the limit the package steps down one level, at most once in a millisecond and to the lowest of R14; when the mean
has been below 90 % of the limit for 10 ms it steps up (which step first, with the dies' own thermal steps, is the model's choice, log 102); between the two nothing moves and the 10 ms begin afresh. -/
def PowerSampleEvents : Prop :=
  ∀ (s : State) (watts : Nat),
    let samples := (watts :: s.power.samples).take 10
    let above := s.power.limit * samples.length < sumL samples
    let below := sumL samples * 10 < s.power.limit * 9 * samples.length
    ∃ t, exec (.powerSample watts) s = .next t ∧ t.power.samples = samples ∧ t.cores = s.cores ∧ t.mem = s.mem ∧
      (above → s.power.level < 3 → (∀ n, s.power.stepped = some n → n + 1000000 ≤ s.time) →
        t.power.level = s.power.level + 1 ∧ t.power.stepped = some s.time ∧ t.power.therm = s.power.therm.map fun n => min n (3 - (s.power.level + 1))) ∧
      (∀ n, s.power.stepped = some n → s.time < n + 1000000 → above → t.power.level = s.power.level) ∧
      (∀ n, s.power.lowSince = some n → n + 10000000 ≤ s.time → below → ¬ above → 0 < s.power.level → t.power.level = s.power.level - 1 ∧ t.power.therm = s.power.therm) ∧
      (∀ n, s.power.lowSince = some n → n + 10000000 ≤ s.time → below → ¬ above → s.power.level = 0 → t.power.level = 0 ∧
        ∀ d k, s.power.therm[d]? = some k → t.power.therm[d]? = some (if s.power.hottest d < 100 then k - 1 else k)) ∧
      (¬ above → ¬ below → t.power.level = s.power.level ∧ t.power.therm = s.power.therm ∧ t.power.lowSince = none)

/-- R16, R17: a sensor's reading is kept; a memory sensor at 85 °C or more makes its die HOT; at 110 °C any sensor trips the package, which is turned off; a die becomes COOL after 1 ms
below 80 °C; a die that is due steps its clock down. -/
def ThermalEvents : Prop :=
  ∀ (s : State) (die : BitVec 2) (memory : Bool) (idx : BitVec 3) (c : Nat),
    (∃ t, exec (.sensorReading die memory idx c) s = .next t ∧
      (c < 110 → t.power.tripped = s.power.tripped) ∧ (110 ≤ c → t.power.tripped = true) ∧
      (110 ≤ c → s.power.ps ≠ 3 → Instr.ps3Entry ∈ t.agenda) ∧
      (c < 110 → s.power.sensors.length = 48 → t.power.sensors = s.power.sensors.set (12 * die.toNat + (if memory then idx.toNat % 4 else 4 + idx.toNat)) c) ∧
      (memory = true → 85 ≤ c → c < 110 → s.power.hot.length = 4 → t.power.hot.getD die.toNat false = true)) ∧
    (∀ n, s.power.coolSince.getD die.toNat none = some n → n + 1000000 ≤ s.time →
      ∃ t, exec (.classToCool die) s = .next t ∧ t.power.hot = listSet s.power.hot die.toNat false ∧ t.cores = s.cores ∧ t.mem = s.mem) ∧
    (s.throttleDue die.toNat = true → ∃ t, exec (.thermalThrottleStep die) s = .next t ∧ t.cores = s.cores ∧ t.mem = s.mem ∧
      t.power.therm = listSet s.power.therm die.toNat (s.power.therm.getD die.toNat 0 + 1))

/-- R19: a reset starts the boot sequence again: every core, partition, queue and event is as at reset; a warm one keeps what R19 keeps. After a thermal trip the sequence goes on once every sensor has
read below 90 °C for 100 ms. -/
def ResetEvents : Prop :=
  ∀ s : State,
    (∃ t, exec .coldReset s = .next t ∧ t.cores = State.reset.cores ∧ t.parts = State.reset.parts ∧ t.queues = [] ∧ t.agenda = [] ∧ t.ports = State.reset.ports) ∧
    (∃ t, exec .warmReset s = .next t ∧ t.cores = State.reset.cores ∧ t.parts = State.reset.parts ∧ t.queues = [] ∧ t.agenda = [] ∧ t.ports = State.reset.ports) ∧
    (∀ n, s.power.below90 = some n → s.boot.hold = true → n + 100000000 ≤ s.time →
      ∃ t, exec .thermalHoldEnd s = .next t ∧ t.boot.hold = false ∧ t.power.tripped = false ∧ t.cores = s.cores)

/-- R20 to R25: BOOT_LEN begins the verification of the image as it stands, in VERIFYING. The boot sequence then goes on by itself: an image that passes every check of R20 trains the memory, in TRAINING, and
boots the package: READY with reason 0, its measurements and its record in force; one that fails a check leaves FAILED with that check's reason, and a memory test that fails with reason 5. -/
def BootEvent : Prop :=
  ∀ (s : State) (len : BitVec 32) (memOk : Bool), (s.boot.state = 1 ∨ s.boot.state = 3) → s.boot.memFail = false → s.power.ps ≠ 3 →
    let b := { s.boot with len := len }
    let img := b.bytes len.toNat
    ∃ t, exec (.bootLenWrite len memOk) s = .next t ∧ t.cores = s.cores ∧ t.mem = s.mem ∧ t.boot.state = 2 ∧ t.boot.reason = 0 ∧ t.boot.len = len ∧
      (s.boot.hold = false →
        let u := t.bootGoes
        let v := u.bootGoes
        (b.check len.toNat = 0 → u.boot.state = 4) ∧
        (b.check len.toNat = 0 → memOk = true → v.boot.state = 5 ∧ v.boot.reason = 0 ∧ v.boot.meas = (Config.shake256 img).toList ∧
          v.boot.secver = Config.imageSecver img ∧ v.cfgrec.limit = Config.recordLimit (Config.imageRecord img)) ∧
        (b.check len.toNat = 0 → memOk = false → v.boot.state = 3 ∧ v.boot.reason = 5 ∧ v.boot.memFail = true) ∧
        (b.check len.toNat ≠ 0 → u.boot.state = 3 ∧ u.boot.reason = b.check len.toNat ∧ u.cfgrec = s.cfgrec))

/-- R34 to R37, R40, R93, R468: in one fabric cycle a ring moves the flits that its reference timing moves, and what leaves it goes on; a core whose own packet enters an escape channel counts it; a die switch grants each output the packet that its round-robin picks; FCTL and FDIR are
written by the physical function alone. -/
def RingEvents : Prop :=
  ∀ (s : State) (ring : BitVec 4) (die : BitVec 2) (v : BitVec 64) (func : BitVec 6),
    let old := s.ring ring.toNat
    let own := (old.step.1.pkts ++ old.step.2).filter fun q => q.escaped old && pktField q.body 112 1 == 0 && pktField q.body 105 7 == 8 * ring.toNat + q.src
    let counted : State := own.foldl (fun s q => s.modCore (BitVec.ofNat 7 (8 * ring.toNat + q.src)) (·.count 42 1)) s
    (exec (.ringFlitTransfer ring) s = .next ((old.step.2).foldl (fun s q => s.ringOut ring.toNat q) (counted.modRing ring.toNat fun _ => old.step.1))) ∧
    (∀ out inp p, out < 13 → (∀ o, o < 13 → o ≠ out → s.switches[die.toFin].pick o = none) → s.switches[die.toFin].pick out = some (inp, p) →
      let sw : DieSwitch := ⟨s.switches[die.toFin].waiting.erase (inp, out, p), SMap.put 0 s.switches[die.toFin].turn out ((inp + 1) % 16)⟩
      exec (.dieSwitchTransfer die) s = .next (({ s with switches := s.switches.set die.toFin sw } : State).switchTo die.toNat out p)) ∧
    (∃ t, exec (.fctlWrite 0 ring v) s = .next t ∧ (t.ring ring.toNat).test = v.getLsbD 8 ∧
      (t.ring ring.toNat).limit.toNat = (if 1 ≤ v.toNat % 32 ∧ v.toNat % 32 ≤ 16 then v.toNat % 32 else 16)) ∧
    (∃ t, exec (.fdirWrite 0 ring v) s = .next t ∧ ∀ j, j < 8 →
      (t.ring ring.toNat).sdir.toNat / 4 ^ j % 4 = (if v.toNat / 4 ^ j % 4 = 3 then 0 else v.toNat / 4 ^ j % 4)) ∧
    (func ≠ 0 → exec (.fctlWrite func ring v) s = .next s ∧ exec (.fdirWrite func ring v) s = .next s)

/-- R27, R34, R41 to R43: a packet in transit to another package takes slots of the input port that it comes by, and waits at the egress port of its next hop; while the port has no slots for it
it waits before them; one with a bad header is noted; any other is served here. In PS3, with the fabric off (R14), nothing is received. -/
def PacketEvents : Prop :=
  ∀ (s : State) (p : Packet), (s.power.ps = 3 → exec (.packetReceive p) s = .next s) ∧ (s.power.ps ≠ 3 →
    (pktBad p = true → exec (.packetReceive p) s = .next (s.notePkt p 22 (BitVec.ofNat 320 p.hdr.toNat))) ∧
    (∀ port esc, pktBad p = false → s.fabric.egress (pktPos p) = some port → pktField p 6 2 ≠ 3 →
      let a := s.fabric.arrival (s.fabric.srcPos p) (pktPos p)
      s.admitIn a.1 p a.2 = some esc →
      exec (.packetReceive p) s = .next ((s.modPort a.1 fun t => { t with slots := t.slots ++ [(p, a.2, esc)] }).modPort port fun t => { t with through := t.through ++ [p] })) ∧
    (∀ port, pktBad p = false → s.fabric.egress (pktPos p) = some port → pktField p 6 2 ≠ 3 →
      let a := s.fabric.arrival (s.fabric.srcPos p) (pktPos p)
      s.admitIn a.1 p a.2 = none → exec (.packetReceive p) s = .next (s.modPort a.1 fun t => { t with heads := t.heads ++ [(p, a.2)] })) ∧
    (∀ b, pktBad p = false → s.fabric.egress (pktPos p) = none → p.body = b → (∀ x y z c, b ≠ .outside x y z c) →
      exec (.packetReceive p) s = .next ((s.countFlits p 41 (BitVec.ofNat 7 (pktField p 16 7))).serve p true (fun s a => (s.noteRemote p a).answerTo p none a) b)))

/-- R41 to R44: up to four flits go over a port's line, and input slots that they held are free again; a request to go back at most 512 flits sends them again, and the seventeenth for one flit trains the link; when training ends, traffic goes on from that flit, or the
port is down and what waits for it is discarded. -/
def TorusEvents : Prop :=
  ∀ (s : State) (port : BitVec 3) (t : TorusPort) (back : Nat), s.ports.toList[port.toNat]? = some t →
    (t.training = false → t.down = false → t.up = true →
      exec (.torusFlitTransfer port) s = .next ({ s.modPort port.toNat (fun _ => (iter 4 (TorusPort.flit s.time) (t, [])).1) with
        outbox := s.outbox ++ (iter 4 (TorusPort.flit s.time) (t, [])).2 } : State).settleIn) ∧
    (t.training = false → (t.down = true ∨ t.up = false) → exec (.torusFlitTransfer port) s = .next (s.discardPort port.toNat)) ∧
    (1 ≤ back → back ≤ 512 → back ≤ t.sent → t.training = false → t.down = false →
      ∃ u q, exec (.replayRequest port back) s = .next u ∧ u.ports.toList[port.toNat]? = some q ∧ q.failAt = t.sent - back ∧
        q.replays = (if t.failAt = t.sent - back then t.replays + 1 else 1) ∧ q.training = decide (16 < q.replays) ∧
        (q.training = false → u.outbox = s.outbox ++ q.resend q.failAt)) ∧
    (t.training = true → ∃ u q, exec (.linkRetrainEnd port true) s = .next u ∧ u.ports.toList[port.toNat]? = some q ∧ q.training = false ∧ q.down = t.down ∧
      u.outbox = s.outbox ++ t.resend t.failAt) ∧
    (t.training = true → ∃ u q, exec (.linkRetrainEnd port false) s = .next u ∧ u.ports.toList[port.toNat]? = some q ∧ q.training = false ∧ q.down = true)

/-- R47 to R56: the grandmaster's syncs, the set-up of the fabric, an offset as it is measured, HOLDOVER above 25 ns or when no sync comes, WINCFG with what it takes effect on, window boundaries, and the
advertisements of a neighbour. -/
def FabricTimeEvents : Prop :=
  ∀ (s : State) (off : Int) (v : BitVec 64) (b : BringUp) (port : BitVec 3) (window : BitVec 32) (dom : BitVec 16) (n : BitVec 48),
    (s.fabric.master = true → s.fabric.others = [] → ∃ t, exec .syncSend s = .next t ∧ t.fabric.lastSync = s.time ∧ t.ports = s.ports) ∧
    (s.fabric.master = false → exec .syncSend s = .next s) ∧
    (∃ t, exec (.ptpSync off) s = .next t ∧ t.fabric.offset = off ∧ t.fabric.lastSync = s.time ∧ (t.fabric.holdover = true ↔ off < -25 ∨ 25 < off)) ∧
    (s.holdoverDue = true → ∃ t, exec .holdoverSet s = .next t ∧ t.fabric.holdover = true ∧ t.cores = s.cores) ∧
    (b.ports = 0 → ∃ t, exec (.fabricBringUp b) s = .next t ∧ t.fabric.pos = (0, 0, 0) ∧ t.fabric.size = (1, 1, 1) ∧ t.fabric.master = true) ∧
    (b.ports ≠ 0 → bringUpOk b = true → transitBound (b.dx, b.dy, b.dz) (b.nx, b.ny, b.nz) ≤ 250 * 2 ^ (s.fabric.at_ s.time).wexp.toNat →
      (∀ e, (s.fabric.at_ s.time).pending = some e → transitBound (b.dx, b.dy, b.dz) (b.nx, b.ny, b.nz) ≤ 250 * 2 ^ e.2.toNat) →
      ∃ t, exec (.fabricBringUp b) s = .next t ∧ t.fabric.pos = (b.x, b.y, b.z) ∧ t.fabric.size = (b.nx, b.ny, b.nz) ∧ t.fabric.domOrg = (b.ox, b.oy, b.oz) ∧
        t.fabric.domSize = (b.dx, b.dy, b.dz)) ∧
    (∃ t, exec (.wincfgWrite 0 v) s = .next t ∧ t.fabric.pendAt = (s.time / 8000 + 1) * 8000 ∧ t.fabric.pending.isSome = true) ∧
    exec .wincfgTakeEffect s = .next s.rollWindow ∧
    (∃ t, exec .windowBoundary s = .next t ∧ t.fabric.window = s.rollWindow.fabric.window ∧ ∀ w ∈ t.posts, w.live s.time = true) ∧
    (port.toNat < 6 → dom ≠ 0 → (∀ q, s.ports.toList[port.toNat]? = some q → ∀ e ∈ q.adverts, e.dom ≠ dom) →
      ∃ t q, exec (.advertisementReceive port window [(dom, n)]) s = .next t ∧ t.ports.toList[port.toNat]? = some q ∧ ⟨dom, n, window, (s.fabric.at_ s.time).wexp, s.time⟩ ∈ q.adverts)

/-- R57, R59, R61, R198, R213: a host access of one piece, in its turn: one that comes while another waits, waits behind it. A read answers the bytes, all ones where the tile is not present, with
HOST_ACCESS 1, and EP where the block is poisoned; a write is performed at its home, once no copy is left elsewhere; the three AtomicOps answer the old value; what lies on another package is asked
there; outside BAR 2 a read answers all ones. -/
def HostAccess : Prop :=
  ∀ (s t : State) (f : BitVec 6) (addr n pa pkg tag : Nat) (bytes bs : List Byte) (wd : Bool) (v : BitVec 64) (c w : BitVec 128) (fin : State → State),
    let ones := HostEv.data (List.replicate n 0xFF)
    (∀ i ∈ [Instr.hostRead f addr n, .hostWrite f addr bytes, .hostFetchadd f addr wd v, .hostSwap f addr wd v, .hostCas f addr wd c w],
      ∀ j called rest, s.hostQ = (j, called) :: rest → (called = false ∨ j ≠ i) → exec i s = .next { s with hostQ := s.hostQ ++ [(i, false)] }) ∧
    (Turn s (.hostRead f addr n) fin →
      (OnePiece s f addr n false (.ok (some pa)) → s.bankRead pa n = (t, .data bs) → exec (.hostRead f addr n) s = .next (fin (t.toHost (.data bs)))) ∧
      (OnePiece s f addr n false (.ok (some pa)) → s.bankRead pa n = (t, .poison) →
        exec (.hostRead f addr n) s = .next (fin ((t.hostFail f 2 (s.bar2At f addr)).toHost .ep))) ∧
      (OnePiece s f addr n false (.error .absent) → exec (.hostRead f addr n) s = .next (fin ((s.hostFail f 1 (s.bar2At f addr)).toHost ones))) ∧
      (OnePiece s f addr n false (.error (.away pkg pa)) → s.devAnswer (partOf f) 0 (s.bar2At f addr) (.read n) = some (.data tag bs) →
        exec (.hostRead f addr n) s = .next (fin (s.toHost (.data bs)))) ∧
      (s.inBar2 f addr n = false → exec (.hostRead f addr n) s = .next (fin (s.toHost ones)))) ∧
    (s.hostQ = [] → OnePiece s f addr n false (.error (.away pkg pa)) → s.devAnswer (partOf f) 0 (s.bar2At f addr) (.read n) = none →
      exec (.hostRead f addr n) s = .next { s.devAsk opHost (partOf f) 0 (s.bar2At f addr) (.read n) with hostQ := [(.hostRead f addr n, false)] }) ∧
    (Turn s (.hostWrite f addr bytes) fin → OnePiece s f addr bytes.length true (.ok (some pa)) → s.heldFrame pa = false →
      exec (.hostWrite f addr bytes) s = .next (fin (s.bankWrite pa bytes))) ∧
    (s.hostQ = [] → OnePiece s f addr bytes.length true (.ok (some pa)) → s.heldBack [pa] = some t →
      exec (.hostWrite f addr bytes) s = .next { t with hostQ := [(.hostWrite f addr bytes, false)] }) ∧
    (Turn s (.hostFetchadd f addr wd v) fin → OneAtom s f addr (if wd then 8 else 4) pa →
      s.atomAt ⟨.add, pa, if wd then 8 else 4, 0, v.setWidth 128⟩ = (t, .data bs) → exec (.hostFetchadd f addr wd v) s = .next (fin (t.toHost (.data bs)))) ∧
    (Turn s (.hostSwap f addr wd v) fin → OneAtom s f addr (if wd then 8 else 4) pa →
      s.atomAt ⟨.swap, pa, if wd then 8 else 4, 0, v.setWidth 128⟩ = (t, .data bs) → exec (.hostSwap f addr wd v) s = .next (fin (t.toHost (.data bs)))) ∧
    (Turn s (.hostCas f addr wd c w) fin → OneAtom s f addr (if wd then 16 else 8) pa →
      s.atomAt ⟨.cas, pa, if wd then 16 else 8, c, w⟩ = (t, .data bs) → exec (.hostCas f addr wd c w) s = .next (fin (t.toHost (.data bs))))

/-- R80, R81, R210: a partition's update of a signal is made once the writes that it releases have been performed: the value is added at the signal's home, the interrupt sent when the sum is 0,
and the packet counted as done. A home on another package adds it there and answers the old value. A launch with no signal is done at once,
and a copy with none once its writes have been performed. -/
def CompletionSignals : Prop :=
  ∀ (s t u : State) (p : BitVec 5) (id pa pkg tag : Nat) (j : SigJob) (v : Word) (bs : List Byte),
    let ends := fun (s : State) (new : Word) => ((match j.intr with
      | some (f, n) => if new = 0 then s.sendMsix f n else s
      | none => s).jobOver p id).devDone (opJob p id)
    ((s.part p).jobs.find? (fun i => i.id == id) = none → (∀ l, (s.part p).launch id = some l → l.life = .finished) →
      exec (.completionSignalDecrement p id) s = .next (s.jobOver p id)) ∧
    ((s.part p).jobs.find? (fun i => i.id == id) = some j → j.stamp = none → j.addr = 0 → (∀ r ∈ s.dev, r.isWrite = true → r.part = p → j.after ≤ r.tag) →
      exec (.completionSignalDecrement p id) s = .next (s.jobOver p id)) ∧
    ((s.part p).jobs.find? (fun i => i.id == id) = some j → j.stamp = none → j.addr ≠ 0 → j.add = some v → (∀ r ∈ s.dev, r.isWrite = true → r.part = p → j.after ≤ r.tag) →
      (s.linPa p j.ctx j.addr 8 true = .ok pa → s.linRead p j.ctx j.addr 8 = (t, .ok bs) → t.linPa p j.ctx j.addr 1 true = .ok pa → t.turnAway pa true = none →
        t.linWrite p j.ctx j.addr (bvBytes 8 (leBV 64 bs + v)) = .ok u →
        exec (.completionSignalDecrement p id) s = .next (ends u (leBV 64 bs + v))) ∧
      (s.linPa p j.ctx j.addr 8 true = .error (.away pkg pa) → s.devAnswer p j.ctx j.addr (.atomic .add 8 0 (v.setWidth 128)) = some (.data tag bs) →
        exec (.completionSignalDecrement p id) s = .next (ends s (leBV 64 bs + v))) ∧
      (s.linPa p j.ctx j.addr 8 true = .error (.away pkg pa) → s.devAnswer p j.ctx j.addr (.atomic .add 8 0 (v.setWidth 128)) = none →
        exec (.completionSignalDecrement p id) s = .next (s.devAsk (opJob p id) p j.ctx j.addr (.atomic .add 8 0 (v.setWidth 128)))))

/-- R58, R67, R366: a notify register takes the greater of the two indices, the physical function's by the queue's global number and a virtual function's by its local one; a notify message does
the same, and is logged where the queue is not enabled. R68: a VALID head is taken up by the event of its kind. R113: each refill adds BUDGET, up to four times BUDGET. -/
def NotifyAndPollEvents : Prop :=
  ∀ (s : State) (f : BitVec 6) (q g : BitVec 10) (v : BitVec 64) (i : Nat) (bs : List Byte) (b2 : Option (List Byte)) (e : Instr),
    exec (.notifyRegisterWrite 0 q v) s = .next (if (s.queue q).enable then s.notifyQueue q v else s) ∧
    (f ≠ 0 → f.toNat ≤ s.cfgrec.nvf → s.localQueue (BitVec.ofNat 5 (f.toNat - 1)) q.toNat = some g →
      exec (.notifyRegisterWrite f q v) s = .next (s.notifyQueue g v)) ∧
    exec (.notifyMessage q v) s = .next (if (s.queue q).enable then s.notifyQueue q v else s.logErr 10 q.toNat) ∧
    (TablesWf s → ((s.notifyQueue q v).queue q).notified.toNat = max (s.queue q).notified.toNat v.toNat) ∧
    ((s.queue q).headAcc = none → (s.queue q).met = none → HeadRead s q → s.queueHead q = some (i, bs, b2) →
      let u : State := { s with nextQ := listSet s.nextQ (s.queue q).prio.toNat (q.toNat + 1) }
      (headEvent q bs = some e → exec (.queuePoll q) s = .next { u with agenda := s.agenda ++ [e] }) ∧
      (headEvent q bs = none → exec (.queuePoll q) s = .next ((u.badPacket q i bs 1 (malformed q i 0)).devDone (opQueue q)))) ∧
    (∃ t, exec .tokenRefill s = .next t ∧ t.cores = s.cores ∧ t.mem = s.mem ∧ (TablesWf s → ∀ n,
      (t.queue n).balance = min ((s.queue n).balance + (s.queue n).budget.toNat) (4 * (s.queue n).budget.toNat)))

/-- R71 to R80, R104 to R106: the six kinds of packet at the head of a queue. The first field that breaks a rule makes it malformed, and so is a slot of another kind after REGCONT; a well-formed
LAUNCH or STAGES is accepted with the next acceptance number; a COPY moves its bytes, then its stamp, and owes its signal −1; a SIGNAL makes its addition; a WAIT completes once each condition has
been met. -/
def PacketKindEvents : Prop :=
  ∀ (s t v : State) (q : BitVec 10) (i off a : Nat) (e : LinErr) (bs tab r : List Byte) (b2 : Option (List Byte)),
    let k := s.queue q
    let p := k.part
    let ctx := pktCtx bs
    let done := fun (s : State) => s.devDone (opQueue q)
    let bump := fun (l : Launch) (s : State) =>
      ((s.modPart p fun t => { t with nextAcc := t.nextAcc + 1, launches := t.launches ++ [l] }).modQueue q fun k => { k with headAcc := some l.acc }).setStatus q 5
    (AtHead s q 1 i bs (some r) → pktKind r ≠ 6 →
      let u := (s.note p (s.recCtx p ctx) (malformed q i 255)).errSignal q i bs true
      let w := s.note p (s.recCtx p ctx) (malformed q i 255)
      exec (.launchPacket q) s = .next (done (((u.note p (w.recCtx p (pktCtx r)) (malformed q (i + 1) 0)).errSignal q (i + 1) r true).consume q i 2))) ∧
    (AtHead s q 1 i bs b2 → b2.all (fun r => pktKind r == 6) = true →
      let slots := if b2.isSome then 2 else 1
      (firstBad (s.launchBad q bs b2) = some off → exec (.launchPacket q) s = .next (done (s.badPacket q i bs slots (malformed q i off)))) ∧
      (firstBad (s.launchBad q bs b2) = none →
        let rs := (inlineRegions bs ++ (b2.map contRegions).getD []).map fun e => s.clampRegion p ctx e.2
        let die := s.producerDie q i slots bs
        (s.part p).fits (pf bs 4 1 % 64) (if pf bs 4 1 / 64 = 1 then die else none) = true →
        (rs = [] ∨ ((s.part p).launches.filter fun l => !l.regions.isEmpty).length < 256) → s.fullGroup p (pf bs 4 1 % 64) (launchGroups bs) = none →
        exec (.launchPacket q) s = .next (done (bump (s.makeLaunch q i bs rs slots die) s)))) ∧
    (AtHead s q 6 i bs b2 → exec (.regionsPacket q) s = .next (done (s.badPacket q i bs 1 (malformed q i 0)))) ∧
    (AtHead s q 2 i bs b2 → firstBad (s.copyBad q bs) = none → k.clear bs = true → Answered s p ctx (copied bs) →
      let stamp := (pf bs 16 6 + 8 * ((pf bs 32 4 + 7) / 8), (bs.drop 40).take 8)
      let moved := fun (t : State) (late : Option (Nat × List Byte)) =>
        done (((counted (t.nextNum p).2 q i (t.part p).nextAcc).consume q i 1).oweSignal p
          { id := (t.part p).nextAcc, ctx := ctx, addr := pf bs 24 6, add := some (-1), intr := intrOf k.func.toNat bs, queue := q, index := BitVec.ofNat 64 i, off := 24
            after := if s.dev.length < t.dev.length then t.nextTag else 0, stamp := late })
      (s.copyBytes p ctx (pf bs 8 6) (pf bs 16 6) (pf bs 32 4) = (t, none) →
        ((pf bs 1 1).testBit 2 = false → exec (.copyPacket q) s = .next (moved t none)) ∧
        ((pf bs 1 1).testBit 2 = true → t.dev.length ≤ s.dev.length → t.linWrite p ctx stamp.1 stamp.2 = .ok v → exec (.copyPacket q) s = .next (moved v none)) ∧
        ((pf bs 1 1).testBit 2 = true → s.dev.length < t.dev.length → exec (.copyPacket q) s = .next (moved t (some stamp)))) ∧
      (s.copyBytes p ctx (pf bs 8 6) (pf bs 16 6) (pf bs 32 4) = (t, some (e, a)) →
        exec (.copyPacket q) s = .next (done (((t.note p ctx ⟨21, linSub e, detQ q.toNat i 0 (addr := a), false⟩).errSignal q i bs false).consume q i 1)))) ∧
    (AtHead s q 3 i bs b2 → firstBad (s.signalBad q bs) = none → k.clear bs = true →
      let n := (s.part p).nextAcc
      let j : SigJob := { id := n, ctx := ctx, addr := pf bs 8 6, add := some (BitVec.ofNat 64 (pf bs 16 8)), intr := intrOf k.func.toNat bs
                          queue := q, index := BitVec.ofNat 64 i, off := 8 }
      exec (.signalPacket q) s =
        .next (done (((counted ((s.nextNum p).2.modPart p fun t => { t with jobs := t.jobs ++ [j] }) q i n).consume q i 1).performJob p n))) ∧
    (AtHead s q 4 i bs b2 → firstBad (s.waitBad q bs) = none →
      (k.clear bs = true → exec (.waitPacket q) s =
        .next (done (((s.modQueue q fun k => { k with met := some (List.replicate (pf bs 4 1 % 8) false, false) }).setStatus q 3).recheck q))) ∧
      (k.clear bs = false → exec (.waitPacket q) s = .next (done (s.setStatus q 7)))) ∧
    (∀ met, HeadRead s q → k.met = some (met, false) → (∀ b ∈ met, b = true) → s.queueHead q = some (i, bs, b2) →
      let u := s.modQueue q fun k => { k with met := some (met, false) }
      exec (.waitRecheck q) s = .next (done (((counted (u.nextNum p).2 q i (u.part p).nextAcc).consume q i 1).oweSignal p
        { id := (u.part p).nextAcc, ctx := ctx, addr := pf bs 56 6, add := some (-1), intr := intrOf k.func.toNat bs, queue := q
          index := BitVec.ofNat 64 i, off := 56 }))) ∧
    (AtHead s q 5 i bs b2 → firstBad (s.stagesBad q bs) = none → Answered s p ctx [(pf bs 8 6, 64 + 32 * pf bs 4 1)] →
      s.linRead p ctx (pf bs 8 6) (64 + 32 * pf bs 4 1) = (t, .ok tab) → t.tableBad p ctx bs tab = [] → pf tab 2 1 ≤ (t.part p).cores.length →
      exec (.stagesPacket q) s = .next (done (bump { acc := (t.part p).nextAcc, queue := q, index := BitVec.ofNat 64 i, ctx := ctx, life := .placewait
                                                     gang := pf tab 2 1, prio := min (pf tab 0 1 % 8) k.prio.toNat, est := pf tab 4 2, signal := pf bs 24 6
                                                     intr := intrOf k.func.toNat bs, barrier := (pf bs 1 1).testBit 1, pipe := some (makePipe bs tab), since := t.time } t)))

/-- R73, R97, R112, R122: a launch that may be placed is placed at the first fitting candidate, a pipeline on the lowest idle cores; its parameters are read and its crews start. R102: the earliest launch
that has waited 100 µs reserves cores. R112: the context that is chosen is swapped in. -/
def PlacementEvents : Prop :=
  ∀ (s : State) (p : BitVec 5) (acc : Nat) (l : Launch) (cs : List (BitVec 7)),
    ((s.part p).launch acc = some l → s.position p l = some cs → s.placeable p l = true →
      (l.pipe = none → exec (.launchPlacement p acc) s = .next (s.placeLaunch p l cs)) ∧
      (l.pipe ≠ none → exec (.pipelinePlacement p acc) s = .next (s.placeLaunch p l cs))) ∧
    (l.life ≠ .saved → Answered s p l.ctx l.blocks → l.loaded = true → l.pipe = none → s.placeLaunch p l cs = (s.startLaunch p l cs).devDone (opPart p)) ∧
    (∀ g, l.life ≠ .saved → Answered s p l.ctx l.blocks → l.loaded = true → l.pipe = some g → s.placeLaunch p l cs = (s.startPipe p l g cs).devDone (opPart p)) ∧
    (l.life ≠ .saved → Answered s p l.ctx l.blocks → l.loaded = false → l.pipe = none →
      let n := if l.area then 256 else 224
      (l.param = 0 → s.placeLaunch p l cs =
        (s.startLaunch p { l with params := l.params ++ List.replicate (n / 8) 0, loaded := true } cs).devDone (opPart p)) ∧
      (∀ t bs, l.param ≠ 0 → s.linRead p l.ctx l.param n = (t, .ok bs) → s.placeLaunch p l cs =
        (t.startLaunch p { l with params := l.params ++ wordsOf bs, loaded := true } cs).devDone (opPart p))) ∧
    ((s.part p).reserve = none → (s.part p).overdue s.time = some l →
      exec (.placementReservation p) s = .next (s.modPart p fun t => { t with reserve := some l.acc })) ∧
    ((s.part p).reserve ≠ none → exec (.placementReservation p) s = .next s) ∧
    (∀ c, s.chooseCtx p = some c → exec (.contextSelect p) s =
      .next ((s.modPart p fun t => { t with swap := some { outCtx := t.runctx, inCtx := c, step := 2 } }).push (.contextSwap p))) ∧
    (s.chooseCtx p = none → exec (.contextSelect p) s = .next s)

/-- R143, R275, R277: a crew starts with the header of its code object as it then stands, its rank in x1, its gang's size in x2, its core's index in x3 and zero in every other x register, with its parameters in p, with v and the masks zero, and with each strand live at its
entry or, for an entry of EXIT, not live. -/
def CrewStart : Prop :=
  ∀ (s : State) (c : BitVec 7) (w : Crew) (entries : List (BitVec 16)) (params : List Word) (rank size : Nat),
    (∃ j, j < 4 ∧ entries.getD j 0xFFFF ≠ 0xFFFF) →
    let t := (s.startCrew c w entries params rank size).core c
    t.crew = some (s.withHeader w).2 ∧ t.xr 1 = BitVec.ofNat 64 rank ∧ t.xr 2 = BitVec.ofNat 64 size ∧ t.xr 3 = BitVec.ofNat 64 c.toNat ∧
    (∀ r : BitVec 6, r ≠ 1 → r ≠ 2 → r ≠ 3 → t.xr r = 0) ∧ (∀ n : BitVec 5, pOf t n = params.getD n.toNat 0) ∧
    t.v = Vector.replicate 64 0 ∧ t.masks = Vector.replicate 8 0 ∧
    ∀ k, (entries.getD (strandFin k).val 0xFFFF ≠ 0xFFFF →
        (t.str k).live = true ∧ (t.str k).pc = (entries.getD (strandFin k).val 0xFFFF).setWidth 32) ∧
      (entries.getD (strandFin k).val 0xFFFF = 0xFFFF → (t.str k).live = false)

/-- R115 to R117: a pre-emption deducts its tokens, keeps its launch and deadline, and raises the halt line at once where no resident gang drains; at the deadline, or once every DRAIN gang is cooperative, the line rises. -/
def PreemptionEvents : Prop :=
  ∀ (s : State) (p : BitVec 5) (n : Launch),
    (s.preemptor p = some n → ∃ t, exec (.preemptDecision p) s = .next t ∧
      (TablesWf s → (t.queue n.queue).balance = (s.queue n.queue).balance - n.tokens) ∧
      (t.part p).preempt = some ⟨n.ctx, n.acc, s.time + 1000 * (s.part p).yDead⟩ ∧
      ((∀ l ∈ (s.part p).launches, l.life = .resident → (s.part p).policyFor l s.time ≠ .drain) → (t.part p).halt.isSome = true)) ∧
    (s.preemptor p = none → exec (.preemptDecision p) s = .next s) ∧
    (s.yieldDue p = true → exec (.yieldDeadline p) s = .next (s.raiseLine p 2)) ∧
    (s.yieldDue p = false → exec (.yieldDeadline p) s = .next s)

/-- R127, R130, R131, R135, R137: the router admits the next record of its input with DONE 0, the one at its cursor where it holds none; its decision takes a candidate stage of least score; the derailleur evaluates once per period, when it
has the measures of all stages, and keeps a pending move, and a move, at the donor's record boundary, starts the donor's
core again as a crew of the receiver stage. -/
def StageEvents : Prop :=
  ∀ (s t u v : State) (p : BitVec 5) (acc : Nat) (l : Launch) (g : Pipeline) (st : Stage) (bs cb : List Byte),
    (s.routing p acc = some (l, g, st) → (g.recs.filter fun r => !r.gone).length < 256 → s.ringRead (opRing p acc 0) p l.ctx st.inring 0 8 = (t, .ok bs) →
      t.ringRead (opRing p acc 0) p l.ctx st.inring (16 + 8 * st.cursor.toNat) 8 = (v, .ok cb) →
      let n := if g.recs.isEmpty then leNat cb else g.admitted
      (leNat bs ≤ n → exec (.routerAdmit p acc) s = .next (v.devDone (opRing p acc 0))) ∧
      (n < leNat bs → v.ringWrite p l.ctx st.inring (v.ringSlot p l.ctx st.inring n + 4) [0] = .ok u →
        exec (.routerAdmit p acc) s = .next ((u.modPart p fun x => x.modPipe acc fun g =>
          { g with recs := g.recs ++ [{ seq := n }], admitted := n + 1 }).devDone (opRing p acc 0)))) ∧
    (s.routing p acc = some (l, g, st) → g.nextExit = none → g.recs.takeWhile (·.gone) = [] → g.toClose = [] → l.exited.length < l.cores.length →
      exec (.routerDecision p acc) s = .next (s.modPart p fun x => x.modPipe acc Pipeline.route)) ∧
    (∀ r i lot, g.decide r = some (i, lot) → i ∈ g.candidates r ∧ ∀ j ∈ g.candidates r,
      g.passes i + g.dweight * g.depth (g.cfirst + i) ≤ g.passes j + g.dweight * g.depth (g.cfirst + j)) ∧
    ((s.part p).launch acc = some l → l.pipe = some g → g.fixed = false → g.nextEval ≤ s.time → l.life = .resident → (s.part p).halt = none →
      ((∃ q ∈ (measured s p acc l.ctx g).2, q = none) → exec (.derailleurEvaluate p acc) s = .next (measured s p acc l.ctx g).1) ∧
      ((∀ q ∈ (measured s p acc l.ctx g).2, q ≠ none) → ∃ t mv, exec (.derailleurEvaluate p acc) s = .next t ∧ (t.part p).pipeOf acc = some { g with bp := [], nextEval := s.time + 1024, move := mv } ∧
        (g.move ≠ none → mv = g.move))) ∧
    (∀ c r w dst rst, (s.part p).launch acc = some l → l.pipe = some g → g.move = some (c, r) → (s.core c).crew = some w →
      g.stages[w.stage.getD 0]? = some dst → g.stages[r]? = some rst → dst.min < g.counts.getD (w.stage.getD 0) 0 →
      (s.core c).atBoundary = true → s.coreRuns c = true →
      let n := g.counts.getD r 0 + 1
      let v := s.modPart p fun t => t.modPipe acc fun h =>
        { h with move := none, counts := listSet (listSet g.counts (w.stage.getD 0) (g.counts.getD (w.stage.getD 0) 0 - 1)) r n }
      exec (.derailleurMove p acc) s =
        .next (({ v with waits := v.waits.filter fun w => w.core != c } : State).startCrew c (stageCrew p l g rst r w.rank) rst.entries rst.params r n))

/-- R89: binding a context sets its BOUND bit, with its items as at bind and no key of it in a translation cache; unbinding clears the bit. R246, R247: a swap goes through its steps in order: outstanding work ends, the images and the
scratchpads go out, the state area is written, the new context's images come in, its scratchpads, and its crews. -/
def ContextEvents : Prop :=
  ∀ (s : State) (p : BitVec 5) (c : BitVec 3) (w : Swap),
    let x := (s.part p).ctx c
    ((s.part p).bound.getLsbD c.toNat = false → x.bindable = true → ∃ t, exec (.contextBind p c) s = .next t ∧
      (t.part p).bound = (s.part p).bound ||| (1#8 <<< c.toNat) ∧
      (t.part p).ctx c = { key := x.key, ttable := x.ttable, ndesc := x.ndesc, gen := x.gen } ∧
      ∀ core ∈ (s.part p).cores, ∀ tc ∈ (t.core core).tcs, ∀ e ∈ tc, e.ctx ≠ c) ∧
    (((s.part p).bound.getLsbD c.toNat = true ∨ x.bindable = false) → exec (.contextBind p c) s = .next s) ∧
    ((s.part p).bound.getLsbD c.toNat = true → s.inUse p c = false → (s.part p).fatal = false → ∃ t, exec (.contextUnbind p c) s = .next t ∧
      (t.part p).bound = (s.part p).bound &&& ~~~(1#8 <<< c.toNat)) ∧
    ((s.part p).bound.getLsbD c.toNat = true → s.inUse p c = true → (s.part p).fatal = false → exec (.contextUnbind p c) s = .next s) ∧
    ((s.part p).fatal = false → (s.part p).swap = none → ∀ e h, (s.part p).preempt = some e → (s.part p).halt = some h → h.done = true → h.cause = 2 →
      exec (.contextSwap p) s = .next (s.modPart p fun t => { t with swap := some ⟨t.runctx, e.newCtx, 1⟩ })) ∧
    ((s.part p).fatal = false → (s.part p).swap = some w →
      (w.step = 1 → exec (.contextSwap p) s = .next (swapTo p 2 ((((s.part p).gangs.filter fun l => l.policy == some Policy.kill)).foldl
        (fun s l => s.discardGang p l.acc true) s))) ∧
      (w.step = 2 → s.swapQuiet p = true → exec (.contextSwap p) s = .next (swapTo p 3 s)) ∧
      (w.step = 2 → s.swapQuiet p = false → exec (.contextSwap p) s = .next s) ∧
      (w.step = 3 → (s.part p).bound.getLsbD w.outCtx.toNat = true → exec (.contextSwap p) s = .next (swapTo p 4 ((s.toShadow p).rowsOut p))) ∧
      (w.step = 3 → (s.part p).bound.getLsbD w.outCtx.toNat = false → exec (.contextSwap p) s = .next
        (swapTo p 5 ((s.part p).cores.foldl (fun s c => s.expireRows (rowOf (scrPa c.toNat 0)) 2048) s))) ∧
      (w.step = 4 → exec (.contextSwap p) s = .next (swapTo p 5 (s.toArea p))) ∧
      (w.step = 5 → exec (.contextSwap p) s = .next (swapTo p 6 ((s.modPart p fun t => { t with runctx := w.inCtx }).fromArea p))) ∧
      (w.step = 6 → exec (.contextSwap p) s = .next (swapTo p 7 (s.rowsIn p))) ∧
      (w.step = 7 → exec (.contextSwap p) s = .next (s.fromShadow p)))

/-- R212, R230, R231, R234: when the halt line reaches a core it stops, with a stop record for each strand, and no longer holds the halt back; once every core has stopped, no non-temporal store of
one can go on, and no posted write is outstanding, the partition is halted. R277: a core that has been left clears its
registers and is idle. -/
def HaltEvents : Prop :=
  ∀ (s : State) (core : BitVec 7) (p : BitVec 5) (h : Halt),
    (s.ownerOf core = some p → (s.part p).halt = some h → h.done = false → h.left.contains core = true →
      ∃ t, exec (.haltArrive core) s = .next t ∧ (t.core core).stopped = true ∧ (t.core core).stops.length = 4 ∧
        (∃ g, (t.part p).halt = some g ∧ g.left.contains core = false)) ∧
    (∀ c, (s.part p).halt = some h → h.done = false → h.left = [] →
      (s.part p).cores.find? s.ntGoes = some c →
      exec (.haltComplete p) s = .next { s with agenda := s.agenda ++ [.ntStorePerform c, .haltComplete p] }) ∧
    ((s.part p).halt = some h → h.done = false → h.left = [] → (∀ c ∈ (s.part p).cores, s.ntGoes c = false) → (∃ c ∈ (s.part p).cores, s.posting c = true) →
      exec (.haltComplete p) s = .next s) ∧
    ((s.part p).halt = some h → h.done = false → h.left = [] → (∀ c ∈ (s.part p).cores, s.ntGoes c = false ∧ s.posting c = false) →
      Answered s p 0 [((s.part p).pstop.toNat, 8)] →
      ∃ t, exec (.haltComplete p) s = .next t ∧ (t.part p).halted = true ∧ (t.part p).halt = some { h with done := true }) ∧
    ((s.part p).halt = some h → h.done = false → h.left ≠ [] →
      exec (.haltComplete p) s = .next { s with agenda := s.agenda ++ h.left.map .haltArrive ++ [.haltComplete p] }) ∧
    ((s.core core).clearing = true → ∃ t, exec (.coreClear core) s = .next t ∧ (t.core core).clearing = false ∧ (t.core core).crew = none ∧
      (∀ r, (t.core core).xr r = 0) ∧ (t.core core).v = Vector.replicate 64 0 ∧ (t.core core).p = Vector.replicate 32 0)

/-- R23, R84 to R86, R114, R154: each register of a partition's definition takes a value while the partition does not run and the value keeps the sums of R86, and every other write leaves the machine as it is. Cores
whose owner changes become clean, and a stripe that is given up has its rows set EXP (R169). PPOLICY stores its fields whether or not the partition runs. -/
def DefinitionRegisters : Prop :=
  ∀ (s : State) (p : BitVec 5) (v : BitVec 64) (c : BitVec 3),
    let t := s.part p
    let free := s.running p = false
    let others := fun (reg : Part → Nat) => sumL (((List.range 32).filter fun q => q != p.toNat).map fun q => reg (s.part (BitVec.ofNat 5 q)))
    let sums := fun (reg : Part → Word) (limit : Nat) => ∀ d, d < 4 → v.toNat / 2 ^ (16 * d) % 2 ^ 16 + others (fun q => (reg q).toNat / 2 ^ (16 * d) % 2 ^ 16) ≤ limit
    let walks := fun (quads : BitVec 32) (w : Word) => ∀ d, d < 4 → quads.toNat / 2 ^ (8 * d) % 2 ^ 8 ≠ 0 → w.toNat / 2 ^ (16 * d) % 2 ^ 16 ≠ 0
    let quads : BitVec 32 := v.setWidth 32
    let legal := (free ∨ t.fatal = true) ∧ (∀ q, q ≠ p → (s.part q).pquads &&& quads = 0) ∧ quads &&& s.cfgrec.quadsOff = 0 ∧ walks quads t.pwalks ∧ walks quads t.pxwalks
    (legal → ∃ u, exec (.pquadsWrite p v) s = .next u ∧ (u.part p).pquads = quads ∧
      ∀ core : BitVec 7, (t.pquads.getLsbD (core.toNat / 4) = quads.getLsbD (core.toNat / 4) → u.core core = s.core core) ∧
        (t.pquads.getLsbD (core.toNat / 4) ≠ quads.getLsbD (core.toNat / 4) → (u.core core).crew = none ∧ ∀ r, (u.core core).xr r = 0)) ∧
    (¬ legal → exec (.pquadsWrite p v) s = .next s) ∧
    (free ∧ sums (·.pshm) 6144 → exec (.pshmWrite p v) s = .next (s.modPart p fun t => { t with pshm := v })) ∧
    (¬ (free ∧ sums (·.pshm) 6144) → exec (.pshmWrite p v) s = .next s) ∧
    (free ∧ v.toNat % 2 ^ 24 + others (·.pframes.toNat) ≤ 2 ^ 23 → exec (.pframesWrite p v) s = .next (s.modPart p fun t => { t with pframes := v.setWidth 24 })) ∧
    (¬ (free ∧ v.toNat % 2 ^ 24 + others (·.pframes.toNat) ≤ 2 ^ 23) → exec (.pframesWrite p v) s = .next s) ∧
    (free ∧ v.toNat % 2 ^ 11 + others (·.pqueues.toNat) ≤ 1024 → exec (.pqueuesWrite p v) s = .next (s.modPart p fun t => { t with pqueues := v.setWidth 11 })) ∧
    (¬ (free ∧ v.toNat % 2 ^ 11 + others (·.pqueues.toNat) ≤ 1024) → exec (.pqueuesWrite p v) s = .next s) ∧
    (free ∧ sums (·.pwalks) 256 ∧ walks t.pquads v → exec (.pwalksWrite p v) s = .next (s.modPart p fun t => { t with pwalks := v })) ∧
    (¬ (free ∧ sums (·.pwalks) 256 ∧ walks t.pquads v) → exec (.pwalksWrite p v) s = .next s) ∧
    (free ∧ sums (·.pxwalks) 256 ∧ walks t.pquads v → exec (.pxwalksWrite p v) s = .next (s.modPart p fun t => { t with pxwalks := v })) ∧
    (¬ (free ∧ sums (·.pxwalks) 256 ∧ walks t.pquads v) → exec (.pxwalksWrite p v) s = .next s) ∧
    (∃ w : Word, exec (.ppolicyWrite p v) s = .next (s.modPart p fun t => { t with ppolicy := w }) ∧ w.toNat % 2 ^ 32 = v.toNat % 2 ^ 32 ∧ w.toNat / 2 ^ 48 = v.toNat / 2 ^ 48 % 2 ∧
      w.toNat / 2 ^ 32 % 2 ^ 16 = (if v.toNat / 2 ^ 32 % 2 ^ 16 = 0 then 1 else min (v.toNat / 2 ^ 32 % 2 ^ 16) 10000)) ∧
    (∀ (die : BitVec 2) (k : BitVec 8) (own : Bool),
      let i := stripeIdx die.toNat k.toNat
      let u := { t with pstripe := SMap.put 0 t.pstripe i ((if own then (1 : BitVec 1) else 0) ++ c) }
      let room := (∀ q, q ≠ p → (SMap.get 0 (s.part q).pstripe i).getLsbD 3 = false) ∧ u.stripes die.toNat ≤ (t.pshm.toNat / 2 ^ (16 * die.toNat) % 2 ^ 16 + 31) / 32
      (k.toNat < 192 → free → (own = true → room) → (own = true ∨ (SMap.get 0 t.pstripe i).getLsbD 3 = false) →
        exec (.pstripeWrite p die k own c) s = .next (s.setPart p u)) ∧
      (k.toNat < 192 → free → own = false → (SMap.get 0 t.pstripe i).getLsbD 3 = true →
        exec (.pstripeWrite p die k own c) s = .next ((s.setPart p u).expireRows (rowOf (shmPa die.toNat (k.toNat * 2 ^ 19))) 256)) ∧
      ((192 ≤ k.toNat ∨ ¬ free ∨ (own = true ∧ ¬ room)) → exec (.pstripeWrite p die k own c) s = .next s))

/-- R7, R15, R59, R60, R63, R67, R85, R89, R114, R172, R244: a write of a register without an event of its own stores its writable fields: the fault queue, the stop area, PTCOST, the save areas, a context entry that is not
bound, the power limit, the BAR sizes, the boot window and the mailbox. A write of BAR 0 brings the event of the register there, or stores the window's base; before the boot goes on, and of a function that does not exist, it does nothing. -/
def OtherRegisters : Prop :=
  ∀ (s : State) (p : BitVec 5) (v : BitVec 64) (c : BitVec 3) (e : BitVec 256) (f : BitVec 6) (n : Nat) (bs : List Byte),
    let low := fun (lo hi : Nat) => v.toNat % 2 ^ hi / 2 ^ lo * 2 ^ lo
    let wr := fun (r : RegWrite) => exec (.registerWrite r) s
    let open_ := f.toNat ≤ s.cfgrec.nvf ∧ s.boot.hold = false
    wr (.pfaultq p v) = .next (s.modPart p fun t => { t with pfaultq := BitVec.ofNat 48 (low 6 48) }) ∧
    wr (.pstop p v) = .next (s.modPart p fun t => { t with pstop := BitVec.ofNat 48 (low 6 48) }) ∧
    wr (.ptcost p v) = .next (s.modPart p fun t => { t with ptcost := v }) ∧
    wr (.scrsave p c v) = .next (s.modPart p fun t => { t with scrsave := SMap.put 0 t.scrsave c.toNat (BitVec.ofNat 64 (low 16 48)) }) ∧
    wr (.ctxsave p c v) = .next (s.modPart p fun t => { t with ctxsave := SMap.put 0 t.ctxsave c.toNat (BitVec.ofNat 64 (low 16 48)) }) ∧
    ((s.part p).bound.getLsbD c.toNat = true → wr (.ctxEntry p c e) = .next s) ∧
    ((s.part p).bound.getLsbD c.toNat = false → ∃ t, wr (.ctxEntry p c e) = .next t ∧
      ((t.part p).ctx c).key = e.extractLsb' 0 64 ∧ ((t.part p).ctx c).ttable = e.extractLsb' 64 48 ∧ ((t.part p).ctx c).ndesc = e.extractLsb' 112 12 ∧
      ((t.part p).ctx c).gen = e.extractLsb' 128 32 ∧ (t.part p).bound = (s.part p).bound ∧ t.cores = s.cores ∧ t.mem = s.mem) ∧
    (∃ t, wr (.powerLimit n) = .next t ∧ t.power = { s.power with limit := min n 2400 } ∧ t.cores = s.cores ∧ t.parts = s.parts ∧ t.mem = s.mem) ∧
    (30 ≤ n → n ≤ (if f = 0 then 40 else 38) → f.toNat ≤ s.cfgrec.nvf → ∃ t, wr (.barSize f n) = .next t ∧ t.cores = s.cores ∧ t.parts = s.parts ∧ t.mem = s.mem ∧
      (f.toNat < 33 → (t.func f.toNat).logsize = n ∧ (t.func f.toNat).wbase.toNat = (s.func f.toNat).wbase.toNat / 2 ^ n * 2 ^ n)) ∧
    ((n < 30 ∨ (if f = 0 then 40 else 38) < n ∨ s.cfgrec.nvf < f.toNat) → wr (.barSize f n) = .next s) ∧
    (∀ off : BitVec 24, (s.boot.hold = false → off.toNat + bs.length ≤ 2 ^ 24 →
        ∃ t, wr (.bootWindow 0 off bs) = .next t ∧ t.boot = { s.boot with image := SMap.write 0 s.boot.image off.toNat bs } ∧ t.cores = s.cores ∧ t.parts = s.parts ∧ t.mem = s.mem) ∧
      ((s.boot.hold = true ∨ 2 ^ 24 < off.toNat + bs.length ∨ f ≠ 0) → wr (.bootWindow f off bs) = .next s)) ∧
    (∀ off : BitVec 12, (open_ → 0x100 ≤ off.toNat → off.toNat + bs.length ≤ 0x1000 →
        wr (.mailboxData f off bs) = .next (s.modFunc f.toNat fun g => { g with mbox := { g.mbox with buf := SMap.write 0 g.mbox.buf off.toNat bs } })) ∧
      ((¬ open_ ∨ off.toNat < 0x100) → wr (.mailboxData f off bs) = .next s)) ∧
    (∀ off : BitVec 26, (¬ open_ → wr (.bar0 f off v) = .next s) ∧
      (∃ t, wr (.bar0 f off v) = .next t ∧ t.cores = s.cores ∧ t.parts = s.parts ∧ t.mem = s.mem)) ∧
    (s.boot.hold = false →
      let at_ := fun (off : Nat) => wr (.bar0 0 (BitVec.ofNat 26 off) v)
      (∃ t b, at_ 8 = .next t ∧ t.agenda = s.agenda ++ [.bootLenWrite (v.setWidth 32) b]) ∧
      ((s.func 0).mbox.stat.getLsbD 0 = true → at_ 0x1000 = .next s) ∧
      ((s.func 0).mbox.stat.getLsbD 0 = false → ∃ t, at_ 0x1000 = .next t ∧ t.agenda = s.agenda ++ [mailEvent 0 (v.setWidth 32)]) ∧
      (∀ g : BitVec 4, at_ (0x100000 + 0x100 * g.toNat) = .next (s.push (.fctlWrite 0 g v)) ∧ at_ (0x100090 + 0x100 * g.toNat) = .next (s.push (.fdirWrite 0 g v))) ∧
      at_ 0x110000 = .next (s.push (.wincfgWrite 0 v)) ∧
      (at_ 0x120000 = .next (s.modFunc 0 fun g => { g with wbase := (v >>> g.logsize) <<< g.logsize })) ∧
      (∀ q : BitVec 10, at_ (0x200000 + 8 * q.toNat) = .next (s.push (.notifyRegisterWrite 0 q v)))) ∧
    (f ≠ 0 → open_ →
      (∀ q : BitVec 10, wr (.bar0 f (BitVec.ofNat 26 (8 * q.toNat)) v) = .next (s.push (.notifyRegisterWrite f q v))) ∧
      wr (.bar0 f 0xC000 v) = .next (s.modFunc f.toNat fun g => { g with wbase := (v >>> g.logsize) <<< g.logsize }))

/-- R155 to R161, R18: an access at a bank, an atomic at its home and an element-wise update; a write makes its row fresh, and a read meets the errors that stand in its words. R168 to R170: the lock-keepers make the rows that are due fresh, and note the errors that they meet. R162: a sweep sets EXP on every row of the die
that is 32,000 µs old. R13: each tick is counted once. -/
def BankEvents : Prop :=
  ∀ (s t : State) (r : BankReq) (a : AtomReq) (e : UpdReq) (f : Found) (bs : List Byte) (core : BitVec 7) (die : BitVec 2),
    let u := if s.expired r.pa then s else s.eccFound r.pa r.ecc
    (r.write = none → 1 ≤ r.n → r.n ≤ 64 → r.pa % 2048 + r.n ≤ 2048 → u.bankRead r.pa r.n = (t, .data bs) →
      exec (.bankAccess r) s = .next { t with reply := bs }) ∧
    (r.write = some bs → 1 ≤ bs.length → bs.length ≤ 64 → r.pa % 2048 + bs.length ≤ 2048 →
      exec (.bankAccess r) s = .next { u.bankWrite r.pa bs with reply := [] }) ∧
    (isGain a.pa = true → TablesWf s → SMap.get false (s.bankWrite a.pa bs).rowLive (rowOf a.pa) = true ∧ (s.bankWrite a.pa bs).rowAge (rowOf a.pa) = 0) ∧
    (a.w ∈ atomWidths a.op → a.pa % a.w = 0 → s.atomAt a = (t, f) → exec (.homeAtomic a) s = .next { t with reply := f.bytes }) ∧
    (∀ b, shmBase ≤ b → b + 64 ≤ scrBase → b % 64 = 0 → (∀ l ∈ e.lanes, b ≤ l.1 ∧ l.1 < b + 64 ∧ l.1 % updBytes e.kind = 0) →
      exec (.elementWiseUpdate e) s = .next { (s.updAt e).1 with reply := [] }) ∧
    (∃ t, exec (.lockKeeperRenewal core) s = .next t ∧ FlawMet s t ((s.coreDue core.toNat).take 32) ∧
      (Sound s → t.mem = s.mem ∧ (TablesWf s → ∀ row ∈ (s.coreDue core.toNat).take 32, t.rowAge row = 0))) ∧
    (∃ t, exec (.shmLockKeeperRenewal die) s = .next t ∧ FlawMet s t (s.shmDue die.toNat) ∧
      (Sound s → t.mem = s.mem ∧ (TablesWf s → ∀ row ∈ s.shmDue die.toNat, t.rowAge row = 0))) ∧
    (∀ pa n w ecc, s.expired pa = false → s.flaws = [(w, ecc)] → pa < 8 * w + 8 → 8 * w < pa + n → s.anyPoison pa n = false →
      (s.bankRead pa n).1.flaws = [] ∧ (ecc = .single → (s.bankRead pa n).2 = .data (s.peek pa n)) ∧ (ecc = .uncorrectable → (s.bankRead pa n).2 = .poison)) ∧
    (∃ t, exec (.sweep die) s = .next t ∧ t.mem = s.mem ∧ t.rowTick = s.rowTick ∧ (TablesWf s →
      ∀ x ∈ s.rowLive, x.2 = true → dieOf (2048 * x.1) = die.toNat → 32000 ≤ s.rowAge x.1 → SMap.get false t.rowLive x.1 = false)) ∧
    (s.tickSeen < s.time / 1000 → ∃ t, exec .retentionTick s = .next t ∧ t.tickSeen = s.time / 1000 ∧ t.time = s.time ∧ t.mem = s.mem ∧
      ∀ c : BitVec 7, s.coreDue c.toNat ≠ [] → Instr.lockKeeperRenewal c ∈ t.agenda) ∧
    (s.time / 1000 ≤ s.tickSeen → exec .retentionTick s = .next s)

/-- R18, R87, R238: the patrol reads the next block, and an uncorrectable error poisons it; a fault of the I/O die makes every defined partition FATAL. R212, R215, R219, R223: a walk fills its port's cache or records its miss; a record that waited is written;
a refused request is sent again, and one that met a retired frame walks again (R226), a load or atomic by its instruction; a non-temporal store is performed at its home; visibility times that are reached hold nothing. -/
def MemoryUnitEvents : Prop :=
  ∀ (s t : State) (core : BitVec 7) (port : Fin 5) (p : BitVec 5) (ctx : BitVec 3) (tensor : BitVec 12) (tile : Nat) (d : Desc) (sub : BitVec 3),
    (Walks s core port p ctx tensor tile d →
      ((s.tileEntry d tile).getLsbD 0 = true → ⟨ctx, tensor, tile⟩ ∉ (s.part p).misses →
        exec (.tileWalk core (BitVec.ofNat 3 port.val) tensor tile) s = .next
          (let u := s.modCore core fun c => c.putTc port s.freeN ⟨ctx, tensor, tile, s.tileEntry d tile⟩
          { u with freeN := u.freeN + 1 })) ∧
      ((s.tileEntry d tile).getLsbD 0 = false → port.val < 4 → exec (.tileWalk core (BitVec.ofNat 3 port.val) tensor tile) s =
        .next (s.recordMiss p ctx (some core) port.val ((s.core core).strands.toList.getD port.val {}).pc 0 port.val 0 tensor.toNat 0 tile 0))) ∧
    (∀ r rest, (s.part p).missWait = r :: rest →
      let q := (s.part p).pfaultq.toNat
      let u := s.modPart p fun t => { t with missWait := rest }
      Answered s p 0 ((q, 24) :: if isFatal r then [(q + 64, 1)] else []) →
      (isFatal r = true → exec (.tileMissRecordWrite p) s = .next ((u.fatalSlot p r).devDone (opFault p))) ∧
      (isFatal r = false → s.recordRoom p = true ∨ fld r 16 16 ≠ kMiss → exec (.tileMissRecordWrite p) s = .next ((u.writeRecord p r).devDone (opFault p))) ∧
      (isFatal r = false → s.recordRoom p = false → fld r 16 16 = kMiss → exec (.tileMissRecordWrite p) s = .next (s.devDone (opFault p)))) ∧
    (∀ w, (s.waits ++ s.posts).find? (fun w => w.core == core && w.due s.time) = some w →
      let clear := fun (ok : Bool) (v : FarReq) => if v.tag == w.tag then { v with answer := none, admitted := ok } else v
      (w.rewalks = false → (∀ g, w.answer ≠ some (.refusal g 1)) → exec (.retryResend core) s =
        .next (({ s with waits := s.waits.map (clear true), posts := s.posts.map (clear false) } : State).resend core w.body)) ∧
      (w.rewalks = true → exec (.retryResend core) s = .next (s.rewalkRead w)) ∧
      (∀ g k q, w.rewalks = false → w.answer = some (.refusal g 1) → w.key = some k → s.ownerOf core = some q →
        exec (.retryResend core) s = .next (s.rewalkWrite q w k))) ∧
    (∀ r, (s.waits ++ s.posts).find? (fun w => w.core == 0 && w.due s.time) = none → s.dev.find? s.devReady = some r → exec (.retryResend 0) s = .next (s.devGo r)) ∧
    (∀ e rest w pa defer, (s.core core).wcb = e :: rest → (s.core core).crew = some w →
      let le : SlogEnt := ⟨s.nextTag, e.ctx, e.tensor, e.tile, e.offset, .store e.bytes, e.strand, e.pc, .core, .rlx, false, e.slot, e.word, e.mem⟩
      Gives (replayPlace le) (actAs core s) (some (.inl pa), defer) t → rest = [] →
      exec (.ntStorePerform core) s = .next (actAs s.cur ((t.bankWrite pa e.bytes).modCore core fun r => { r with wcb := rest }))) ∧
    exec (.fabricReleaseComplete core) s = .next (s.modCore core fun r => { r with posted := r.posted.filter fun v => decide (s.time < v) }) ∧
    (∃ t, exec (.hbmPatrolScrub .clean) s = .next t ∧ (s.flawsIn s.power.scrubAt 64 = [] →
      t.power.scrubAt = (s.power.scrubAt + 64) % shmBase ∧ t.mem = s.mem ∧ t.poison = s.poison ∧ t.cores = s.cores)) ∧
    (∃ t, exec (.hbmPatrolScrub .uncorrectable) s = .next t ∧ (s.flawsIn s.power.scrubAt 64 = [] → t.power.scrubAt = (s.power.scrubAt + 64) % shmBase) ∧
      (s.flawsIn s.power.scrubAt 64 = [] → s.rowOwner s.power.scrubAt = none → t.poisoned s.power.scrubAt = true)) ∧
    (∃ t, exec (.iodieFault sub) s = .next t ∧ ∀ q ∈ s.defined, (t.part q).fatal = true)

/-- R314 to R318, R325, R329, R194: the queue of X starts its next command, unless under DET it meets one in execution; hands pieces; acknowledges a piece once performed and retires a command whose pieces all are; counts a piece in its lock word; starts the next
tile of a walk for one permit. -/
def TransferUnitEvents : Prop :=
  ∀ (s t : State) (core : BitVec 7) (m : XCmd) (foot : List Nat × List Nat),
    let u := actAs core s
    (s.coreRuns core = true → (s.core core).xs.nextStart = some m → Gives (asCmd m (xFoot m.kind)) u foot t →
      (m.det = false ∨ ((t.core core).xs.queue.find? fun q => q.running && footClash foot (q.reads, q.writes)) = none →
        exec (.xCommandStart core) s = .next (((t.setCmd { m with started := true, ready := false, reads := foot.1, writes := foot.2 }).cmdStep
        { m with started := true, ready := false, reads := foot.1, writes := foot.2 }).2)) ∧
      (m.det = true → ∀ q, ((t.core core).xs.queue.find? fun q => q.running && footClash foot (q.reads, q.writes)) = some q →
        exec (.xCommandStart core) s = .next (t.cmdFault m ⟨12, 0, BitVec.ofNat 320 (m.seq.toNat + q.seq.toNat * 2 ^ 32), false⟩ .none))) ∧
    (∀ rest, u.handable core = m :: rest → u.cmdStep m = (true, t) → exec (.pieceHand core) s = .next t) ∧
    (∀ x pa bs, (s.core core).xs.net.find? (fun x => x.mem.isSome) = some x → x.mem = some (pa, bs) →
      exec (.pieceAck core) s = .next ((u.bankWrite pa bs).ackPiece x)) ∧
    ((s.core core).xs.net = [] → (s.core core).xs.counts = [] → u.answered core = none → (s.core core).xs.queue = [m] → s.coreRuns core = true → m.progress ≠ .all →
      m.started = true → m.ready = true → m.fin = true → m.owesEnd = false → u.collBusy core m = false → exec (.pieceAck core) s = .next (u.retireCmd m)) ∧
    (∀ n rest, (s.core core).xs.counts = n :: rest → (s.core core).xs.queue.find? (fun q => q.seq == n.seq) = some m → Gives (countOne m n.dest n.n) u () t →
      exec (.lockWordCount core) s = .next (t.countOver core n.seq rest)) ∧
    (∀ (walk : BitVec 3) w, (s.core core).xs.walkOf walk = some w → (s.core core).xs.queue.find? (fun q => q.seq == w.seq) = some m → s.coreRuns core = true →
      m.running = true → m.ready = true → m.moving = false → m.fin = false → 1 ≤ w.permits →
      exec (.walkTileStart core walk) s = .next ((u.setCmd { m with moving := true, inner := 0 }).modCore core fun r =>
        { r with xs := r.xs.setPermits walk (w.permits - 1) }))

/-- R209, R437, R438: an instance of `coll` completes once every contribution is there: participants that agree receive the values of every rank, all of them once none has to wait, and where they do not agree each raises TENSORFAULT SHAPE. -/
def CollectiveEvents : Prop :=
  ∀ (s : State) (p : BitVec 5) (g : BitVec 8) (remote : List (Nat × List Byte)) (x : BitVec 7 × XCmd × CollArgs) (rest : List (BitVec 7 × XCmd × CollArgs)),
    let ps := x :: rest
    let size := ((s.part p).group g).size
    let total := s.collSize p x.2.2 (x.2.1.ps.getD x.2.2.pspan.toNat 0)
    let base := s.collPlace x.2.1 x.2.2 * size
    s.collParties p g = some ps → size ≤ ps.length → total ≤ ps.length + remote.length →
    ((∀ y ∈ ps, s.collKeyOf y = s.collKeyOf x) → (∀ r ∈ remote, r.1 < total) → ∀ b d, s.collBoxes x = some (b, d) →
      let all := collValues base total (2 ^ b.d.elog) x.2.1.vals.length ps remote
      let wait := ps.zipIdx.findSome? fun y => s.collWaits y.1 b.d.format (base + y.2) all
      (wait = none → exec (.collInstanceComplete p g remote) s = .next (ps.zipIdx.foldl (fun s y => s.collReceive y.1 b.d.format (base + y.2) all) s)) ∧
      (∀ t, wait = some t → exec (.collInstanceComplete p g remote) s = .next t)) ∧
    ((∃ y ∈ ps, s.collKeyOf y ≠ s.collKeyOf x) → exec (.collInstanceComplete p g remote) s = .next (ps.foldl State.collRefuse s))

/-- R301, R304, R313: a cycle of a sparse command runs it one core cycle on; a load that has run its four cycles makes its slot loaded; a table that was asked for arrives. -/
def MatrixUnitEvents : Prop :=
  ∀ (s t : State) (core : BitVec 7) (r : MRun),
    ((s.core core).ms.run = some r → r.fin = false →
      exec (.matrixCycle core) s = .next ((cycleOp r).run { s with cur := core, ir := (((s.core core).str .m).held.getD {}).words }).2) ∧
    ((s.core core).ms.run = none → exec (.matrixCycle core) s = .next s) ∧
    ((s.core core).ms.run = some r → ∃ t run, exec (.bRowLoadDone core) s = .next t ∧ t.mem = s.mem ∧ (t.core core).ms.run = some run ∧
      run.slots = r.slots.map fun sl => { sl with ready := sl.ready || decide (sl.loaded ≤ r.cycle) }) ∧
    (∀ x n d a ds bs v, (s.core core).ms.tabs.reverse.find? (fun y => y.table.isNone) = some x → Gives (slotDesc x.slot) { s with cur := core, ir := [x.word] } (n, d) v →
      Gives (elemAcc x.slot n d [x.block]) v (a, ds) t → ∀ w, Gives (opRead .m a 16) t bs w →
      exec (.tableArrival core) s = .next (w.modCore core fun c =>
        { c with ms := { c.ms with tabs := c.ms.tabs.map fun y => if y == x then { x with table := some bs } else y } }))

end Sys2Proof.Stmt

open Sys2Proof Sys2Proof.Machine Sys2Proof.Stmt

/-- R348: `add`, `sub`, `mul`, `mulh`, `mulhu`, `div`, `divu`, `rem`, `remu` complete for all operands, at 64 bits and with `.w`, and
write the value of R348's table to x[d]; with d = 0 nothing is written (R279). -/
def Obligations.ScalarArithmeticResults : Prop := Writes arithValue

/-- Bitwise, shift, minimum, maximum, select, counting and field forms write the value of R348’s table: the parts ScalarLogicResults, ScalarFieldResults, each as its comment says. -/
def Obligations.ScalarLogicAndFieldResults : Prop :=
  ScalarLogicResults ∧ ScalarFieldResults

/-- R349: `cmp` and `cmpi` write 1 when the condition holds and 0 when it does not; the immediate is sign-extended, the unsigned conditions
compare it as an unsigned 64-bit value. The condition stands in `mod` by R332's number, and in `cmpi` it is the opcode minus 0x028. -/
def Obligations.CompareResults : Prop :=
  Writes compareValue ∧
  ∀ (cond : Cond) (d a b : BitVec 6) (imm : BitVec 10),
    ((encode (.cmp cond d a b)).headD 0).extractLsb' 0 4 = BitVec.ofNat 4 (condNumber cond) ∧
    ((encode (.cmpi cond d a imm)).headD 0).extractLsb' 22 10 = BitVec.ofNat 10 (0x028 + condNumber cond)

/-- The immediate forms, li and lsi write their values; one li and three lsi build any 64-bit constant: the parts ScalarImmediateResults, each as its comment says. -/
def Obligations.ImmediateAndConstantResults : Prop :=
  ScalarImmediateResults

/-- R279: x0 reads as zero and writes to it are discarded; a write of another x register is what it then reads as, and changes no other; `call` and `callr` write their return pc to x63, and `jr x63` reads it. -/
def Obligations.ZeroRegister : Prop :=
  ∀ (c : Core) (r q : BitVec 6) (v : Word),
    c.xr 0 = 0 ∧ c.setX 0 v = c ∧ (r ≠ 0 → (c.setX r v).xr r = v) ∧ (q ≠ r → (c.setX r v).xr q = c.xr q) ∧
    (∀ (s : State) (off : BitVec 22), ∃ t, exec (.call off) s = .next t ∧ (cur t).xr 63 = BitVec.ofNat 64 (pcOf .s s + 1).toNat) ∧
    (∀ (s : State) (a : BitVec 6), (cur s).waitsOn [a] = false →
      ∃ t, exec (.callr a) s = .next t ∧ (cur t).xr 63 = BitVec.ofNat 64 (pcOf .s s + 1).toNat) ∧
    (∀ s : State, (cur s).waitsOn [63] = false → ((cur s).str .s).loops = [] →
      ∃ t, exec (.jr 63) s = .next t ∧ pcOf .s t = ((cur s).xr 63).setWidth 32)

/-- pmov, nop and xmode; region.enter and region.leave on every strand: the parts ParameterMoves, RegionForms, each as its comment says. -/
def Obligations.MovesAndRegions : Prop :=
  ParameterMoves ∧ RegionForms

/-- Branches, jumps and calls go to their targets, and end the loops whose body they leave: the parts ControlTransfers, JumpSetsPcAndEndsLoops, each as its comment says. -/
def Obligations.TransferResults : Prop :=
  ControlTransfers ∧ JumpSetsPcAndEndsLoops

/-- Hardware loops: the test at the end of a body, and loop and nop on every strand: the parts EndOfBodyTest, ScalarLoopForms, StrandLoopForms, each as its comment says. -/
def Obligations.HardwareLoops : Prop :=
  EndOfBodyTest ∧ ScalarLoopForms ∧ StrandLoopForms

/-- R355, R5: a load completes: x[d] takes the little-endian value of the `w` bytes that its operand reads, extended by sign or by zero.
The bytes are those that reading the linear tensor at x[offset] + imm5 × w gives (R144 to R148, R220). -/
def Obligations.ScalarLoadResults : Prop :=
  ∀ (i : Instr) (s t : State) (sgn : Bool) (w : Nat) (d r : BitVec 6) (slot imm : BitVec 5) (bs : List Byte),
    loadForm i = some (sgn, w, d, r, slot, imm) → SReady [r] s → Passes (slotBound slot) s → NoAcquire s →
    Gives (readLin .s slot (coordOf s r imm w) w w) (sIssued s) bs t →
    EndsAt i s .s 1 (onCore (fun c => c.setX d (loadValue sgn w bs)) t)

/-- R355, R215, R221, R212, R28: a store completes. At a home in this package the low `w` bytes of x[d] are written there; to another package
they are posted, once the core has fewer than 1,024 requests outstanding; where the tile is not present they take a side log entry, with the scope and the
ordering of the access; a non-temporal store, by its form or its tensor, goes to the write-combining buffer. -/
def Obligations.ScalarStoreResults : Prop :=
  ∀ (i : Instr) (s t u : State) (w : Nat) (nt : Bool) (rel : Option Scope) (d r : BitVec 6) (slot imm : BitVec 5) (a : Acc)
    (place : Option (Nat ⊕ (Nat × Nat))) (defer : Bool),
    storeForm i = some (w, nt, rel, d, r, slot, imm) → StoreReady s w rel d r slot imm a t →
    Gives (storePlace .s a 1) t (place, defer) u →
    let bs := leBytes w ((cur s).xr d).toNat
    (nt = false → a.d.nt = false → ∀ pa, place = some (.inl pa) →
      EndsAt i s .s 1 ((u.bankWrite pa bs).modCore u.cur fun c =>
        c.count (if pa < shmBase then 29 else if pa < scrBase then 27 else 25) 1)) ∧
    (nt = false → a.d.nt = false → ∀ pkg pa w', place = some (.inr (pkg, pa)) → Has w' u → u.outstanding u.cur < 1024 →
      EndsAt i s .s 1 (u.fabricWrite u.cur pkg 1 (.write [(pa, bs)] 0) (some (a.key w'.ctx pa)))) ∧
    (nt = false → a.d.nt = false → place = none → ∀ v,
      let fenced := ((cur s).str .s).relNext
      Gives (logOp .s a (.store bs) (rel.getD (fenced.getD .core)) (if rel.isSome || fenced.isSome then .rel else .rlx) defer) u () v →
      EndsAt i s .s 1 v) ∧
    ((nt = true ∨ a.d.nt = true) → ∀ w', Has w' u → ∀ v, Gives (keepNt .s w'.ctx a bs) u () v → EndsAt i s .s 1 v)

/-- The frame of a store at a home in this package (R355): the `w` bytes at the number where the store goes hold the low bytes of x[d], and
every other byte of storage reads as before, but for the rest of a row that had expired, which reads as zero (R161); every x register is unchanged. The number is the one that the store's own placing gives. -/
def Obligations.ScalarStoreFrame : Prop :=
  ∀ (i : Instr) (s t u v : State) (w : Nat) (rel : Option Scope) (d r : BitVec 6) (slot imm : BitVec 5) (a : Acc) (pa : Nat)
    (defer : Bool),
    storeForm i = some (w, false, rel, d, r, slot, imm) → StoreReady s w rel d r slot imm a t → a.d.nt = false → Untraced s →
    s.memWf = true → Gives (storePlace .s a 1) t (some (.inl pa), defer) u → exec i s = .next v →
    (∀ x, x < pa ∨ pa + w ≤ x → byteAt v x = if u.expired pa = true ∧ rowOf x = rowOf pa then 0 else byteAt s x) ∧
    (∀ j, j < w → byteAt v (pa + j) = BitVec.ofNat 8 (((cur s).xr d).toNat / 256 ^ j)) ∧
    (∀ q, (cur v).xr q = (cur s).xr q)

/-- The atomics are performed at their home, and their register takes the old value: the parts ScalarAtomics, CompareAndSwapResults, AtomicValuesAtHome, each as its comment says. -/
def Obligations.AtomicResults : Prop :=
  ScalarAtomics ∧ CompareAndSwapResults ∧ AtomicValuesAtHome

/-- The fences complete when nothing that they order is outstanding; mwait when its lock word has moved: the parts FenceResults, MwaitResults, each as its comment says. -/
def Obligations.FenceAndMwaitResults : Prop :=
  FenceResults ∧ MwaitResults

/-- Groups and their phases: init, free, arrive, wait, and the advance of a phase: the parts PhaseForms, GroupForms, PhaseAndMonitorEvents, each as its comment says. -/
def Obligations.GroupsAndPhases : Prop :=
  PhaseForms ∧ GroupForms ∧ PhaseAndMonitorEvents

/-- R361, R287, R194: `tok.wait` subtracts n from a counter that holds at least n; `tok.post`, once every atomic of S has returned, completes by adding n where the counter stays at
or below 63, and holds its entry otherwise; an entry whose work is done finishes once the counter has room. -/
def Obligations.TokenForms : Prop :=
  ∀ (s : State) (st : BitVec 2) (n : BitVec 6), SReady [] s →
    (n.toNat ≤ (cur s).tokAt (waitIdx .s st.toNat) →
      Ends (.tokWait st n) s .s noTok 1 (onCore fun c => c.setTok (waitIdx .s st.toNat) (c.tokAt (waitIdx .s st.toNat) - n.toNat))) ∧
    ((cur s).tokAt (waitIdx .s st.toNat) < n.toNat → exec (.tokWait st n) s = .next s) ∧
    (st ≠ 0 → (cur s).sAtomics = [] → (cur s).tokAt (tokIdx .s st.toNat) + n.toNat ≤ 63 → ∃ t, exec (.tokPost st n) s = .next t ∧
      ((cur t).str .s).held = none ∧ (Untraced s → (cur t).tokAt (tokIdx .s st.toNat) = (cur s).tokAt (tokIdx .s st.toNat) + n.toNat)) ∧
    (st ≠ 0 → (cur s).sAtomics = [] → 63 < (cur s).tokAt (tokIdx .s st.toNat) + n.toNat → ∃ t h, exec (.tokPost st n) s = .next t ∧
      ((cur t).str .s).held = some h ∧ h.progress = .all ∧ h.post = some (tokIdx .s st.toNat, n.toNat)) ∧
    (∀ core k h i m, ((s.core core).str k).held = some h → h.progress = .all → h.post = some (i, m) → i < 12 →
      (s.core core).tokAt i + m ≤ 63 → ∃ t, exec (.instructionFinish core k) s = .next t ∧
        ((t.core core).str k).held = (if k = .m then (s.core core).ms.second else none) ∧
        (t.core core).tokAt i = (s.core core).tokAt i + m)

/-- Chunk queues: initialising, the grants of R108, and stealing: the parts ChunkForms, ChunkGrantSize, StealEvents, each as its comment says. -/
def Obligations.ChunkQueues : Prop :=
  ChunkForms ∧ ChunkGrantSize ∧ StealEvents

/-- R365, R111: `spawn` completes once its claim has been made: the image or images are read through descriptor 0, the claim of R111 is made at the
local queue, and x[d] takes its answer. R366: `notify`, once every earlier release of S has completed, raises a queue of the partition, or sends its message to the package that it names. R98: a queue keeps the die of the crew that
notified it. -/
def Obligations.SpawnAndNotify : Prop :=
  ∀ (s u v t : State) (w : Crew) (d a b : BitVec 6) (q : BitVec 10) (acc : Acc) (bs : List Byte) (r : Word), Has w s → SReady [a, b] s →
    let x := (cur s).xr a
    let n := if x.getLsbD 12 then 2 else 1
    (fld x 10 2 = 0 → fld x 13 51 = 0 → (cur s).slog = [] → s.localQueue w.part (fld x 0 10) = some q →
      Gives (sysAcc ((cur s).xr b).toNat (64 * n) 64) (sIssued s) acc u → Gives (readRange .s acc (64 * n)) u bs v →
      Gives (claimOp w.part w.ctx q ((List.range n).map fun i => (bs.drop (64 * i)).take 64)) v r t →
      EndsAt (.spawn d a b) s .s 1 (onCore (fun c => c.setX d r) t)) ∧
    let g : BitVec 10 := x.extractLsb' 0 10
    let pos := (fld x 16 5, fld x 21 5, fld x 26 5)
    (NoRelease s → fld x 10 5 = 0 → fld x 31 33 = 0 →
      ((x.getLsbD 15 = false ∧ fld x 16 15 = 0) ∨
        (x.getLsbD 15 = true ∧ pos = s.fabric.pos ∧ pos.1 < s.fabric.size.1 ∧ pos.2.1 < s.fabric.size.2.1 ∧ pos.2.2 < s.fabric.size.2.2)) →
      (s.queue g).enable = true → (s.queue g).part = w.part →
      Ends (.notify a b) s .s noTok 1 (fun u => (u.modQueue g fun k => k.noteCrew ((cur s).xr b) (BitVec.ofNat 2 (s.cur.toNat / 32))).notifyQueue g ((cur s).xr b))) ∧
    (NoRelease s → fld x 10 5 = 0 → x.getLsbD 15 = true → fld x 31 33 = 0 →
      pos.1 < s.fabric.size.1 → pos.2.1 < s.fabric.size.2.1 → pos.2.2 < s.fabric.size.2.2 → pos ≠ s.fabric.pos →
      Ends (.notify a b) s .s noTok 1 (fun u =>
        u.fromCore u.cur.toNat (u.pkt 0 2 false pos u.cur 0 (.notify g ((cur s).xr b)))))

/-- exit ends its strand, and the last one takes the crew off its core: the parts ScalarVectorMatrixExit, TransferExit, each as its comment says. -/
def Obligations.ExitForms : Prop :=
  ScalarVectorMatrixExit ∧ TransferExit

/-- yield and wfi, and the WAKE register: the parts YieldForm, WaitForInterrupt, each as its comment says. -/
def Obligations.YieldAndWait : Prop :=
  YieldForm ∧ WaitForInterrupt

/-- gen.set and gen.skip: asked at the home, applied by every copy, complete after that: the parts GeneratorForms, GeneratorEvents, each as its comment says. -/
def Obligations.GeneratorUpdates : Prop :=
  GeneratorForms ∧ GeneratorEvents

/-- Taking a fault: the first fault of a stop is kept, the pc stands, the halt line rises; trap and halt: the parts TrapAndHalt, TakingAFault, each as its comment says. -/
def Obligations.TakingExceptions : Prop :=
  TrapAndHalt ∧ TakingAFault

/-- System registers are read and written; capabilities are delegated, revoked and checked: the parts SystemRegisters, CapabilityForms, each as its comment says. -/
def Obligations.SystemRegistersAndCapabilities : Prop :=
  SystemRegisters ∧ CapabilityForms

/-- stop raises the line or arms a strand, and resume starts a halted partition again: the parts StopForm, ResumeForm, each as its comment says. -/
def Obligations.StopAndResume : Prop :=
  StopForm ∧ ResumeForm

/-- ctx.save and ctx.load move a crew’s image; dtab.load replaces a decode table in every copy: the parts SavedStateForms, DecodeTableForms, each as its comment says. -/
def Obligations.SavedStateAndDecodeTables : Prop :=
  SavedStateForms ∧ DecodeTableForms

/-- Event counters are selected and read; snapshots are stored: the parts EventForms, each as its comment says. -/
def Obligations.EventCounterForms : Prop :=
  EventForms

/-- tt.inval, slog.replay and migrate: the parts TranslationForms, MigrateForm, each as its comment says. -/
def Obligations.TranslationAndMigration : Prop :=
  TranslationForms ∧ MigrateForm

/-- R371, R372, R378 to R381, R386: the element-wise, unary and permuting forms complete for the formats that they accept: each active element of v[d] takes its value, computed
from the registers as they stand at issue, and no other element changes. -/
def Obligations.VectorLaneResults : Prop :=
  ∀ (i : Instr) (s : State) (tk : Tok) (cls : Nat → Bool) (d : BitVec 6) (f : Nat → Nat), laneForm (cur s) i = some (tk, cls, d, f) →
    Ready .v tk s →
    (cls (cur s).shp.fmt = true →
      Ends i s .v tk 1 (onCore fun c => c.setV d (setElems (cur s).shp.w ((cur s).vr d) (cur s).active f))) ∧
    (cls (cur s).shp.fmt = false → exec i s = .next (s.takeFault s.cur .v (pcOf .v s) (s.ir.headD 0) (s.illop .v)))

/-- R281, R372: after the elements of a list have been written at a width that divides the register, element e holds its value, in the low bits of that width, if e stands in the
list, and what it held before if it does not. -/
def Obligations.ElementsWritten : Prop :=
  ∀ (w : Nat) (v : VReg) (es : List Nat) (f : Nat → Nat) (e : Nat), w ∈ [8, 16, 32, 64, 512] → (∀ j ∈ es, j < 65536 / w) → e < 65536 / w →
    velem (setElems w v es f) w e = if e ∈ es then f e % 2 ^ w else velem v w e

/-- Integer lanes: sums, products and shifts wrap or saturate; compares order the integers: the parts IntegerLanes, IntegerCompares, each as its comment says. -/
def Obligations.IntegerLanesAndCompares : Prop :=
  IntegerLanes ∧ IntegerCompares

/-- The mask forms, vsel, vshape and vsetlen: the parts MaskResults, ShapeForms, each as its comment says. -/
def Obligations.MaskAndShapeForms : Prop :=
  MaskResults ∧ ShapeForms

/-- vcvt, vpack, vunpack and the reductions: the parts ConversionForms, ReductionForms, each as its comment says. -/
def Obligations.ConversionsAndReductions : Prop :=
  ConversionForms ∧ ReductionForms

/-- R387 to R389: `vld` and `vgather` complete once every element's place has been read, all before v[d] is written; the elements come from the places that the coordinates name, whole
blocks in block mode, and a GENERATOR tensor's own values. -/
def Obligations.VectorLoadResults : Prop :=
  ∀ (s u v t : State) (tk : Tok) (d ix : BitVec 6) (slot n : BitVec 5) (tn : Nat) (ds : Desc) (cs : List Nat) (xs : List (Nat × Nat)), Ready .v tk s →
    let c := cur s
    let put := fun (w : Nat) => onCore fun k => k.setV d (xs.foldl (fun r x => setElem w r x.1 x.2) (k.vr d))
    let at_ := fun (e : Nat) => (cs.getD 0 0 + e) :: cs.drop 1
    (Passes (vaccCheck .load slot n) s → Gives (slotDesc slot) (s.issueHeld .v tk) (tn, ds) u → Gives (coordsAt .v n.toNat ds.rank) u cs v →
      (elemMode? c.shp ds = true → ds.kind ≠ 2 →
        Gives (readRuns (c.shp.w / 8) anyTile (vruns (c.shp.w / 8) slot.toNat tn ds c.active at_)) v xs t →
        EndsAt (.vld tk d slot n) s .v 1 (put c.shp.w t)) ∧
      (elemMode? c.shp ds = true → ds.kind = 2 →
        Gives (tryAll (c.active.map fun e => do return (e, ← genRead slot.toNat tn ds (at_ e)))) v xs t →
        EndsAt (.vld tk d slot n) s .v 1 (put c.shp.w t)) ∧
      (elemMode? c.shp ds = false → Gives (readRuns 64 anyTile (blockRuns slot tn ds ((c.shp.len * c.shp.w + 511) / 512) cs)) v xs t →
        EndsAt (.vld tk d slot n) s .v 1 (put 512 t))) ∧
    (Passes (vaccCheck .gather slot 0) s → Gives (slotDesc slot) (s.issueHeld .v tk) (tn, ds) u →
      (ds.kind ≠ 2 → Gives (readRuns (c.shp.w / 8) ownScratch (vruns (c.shp.w / 8) slot.toNat tn ds c.active (indexCoords ds (c.vr ix)))) u xs t →
        EndsAt (.vgather tk d slot ix) s .v 1 (put c.shp.w t)) ∧
      (ds.kind = 2 → Gives (tryAll (c.active.map fun e => do return (e, ← genRead slot.toNat tn ds (indexCoords ds (c.vr ix) e)))) u xs t →
        EndsAt (.vgather tk d slot ix) s .v 1 (put c.shp.w t)))

/-- R387 to R390, R212: `vst`, `vst.nt` and `vscatter` complete once every place has been checked and every piece written; `vupd` once every lane has been added at its home, or logged. -/
def Obligations.VectorStoreResults : Prop :=
  ∀ (s u v t : State) (tk : Tok) (nt : Bool) (d ix : BitVec 6) (slot n : BitVec 5) (tn : Nat) (ds : Desc) (cs : List Nat), Ready .v tk s →
    let c := cur s
    let at_ := fun (e : Nat) => (cs.getD 0 0 + e) :: cs.drop 1
    let bytes := fun (w : Nat) (r : VRun) => (r, r.es.flatMap fun e => leBytes (w / 8) (velem (c.vr d) w e))
    let st := if nt then Instr.vstNt tk d slot n else Instr.vst tk d slot n
    (Passes (vaccCheck .store slot n) s → Gives (slotDesc slot) (s.issueHeld .v tk) (tn, ds) u → Gives (coordsAt .v n.toNat ds.rank) u cs v →
      (elemMode? c.shp ds = true →
        Gives (writeRuns (nt || ds.nt) anyTile ((vruns (c.shp.w / 8) slot.toNat tn ds c.active at_).map (bytes c.shp.w))) v () t → EndsAt st s .v 1 t) ∧
      (elemMode? c.shp ds = false →
        Gives (writeRuns (nt || ds.nt) anyTile ((blockRuns slot tn ds ((c.shp.len * c.shp.w + 511) / 512) cs).map (bytes 512))) v () t → EndsAt st s .v 1 t)) ∧
    (Passes (vaccCheck .scatter slot 0) s → Gives (slotDesc slot) (s.issueHeld .v tk) (tn, ds) u →
      Gives (writeRuns ds.nt ownScratch ((vruns (c.shp.w / 8) slot.toNat tn ds c.active (indexCoords ds (c.vr ix))).map (bytes c.shp.w))) u () t →
      EndsAt (.vscatter tk d slot ix) s .v 1 t) ∧
    (Passes (vaccCheck .upd slot n) s → Gives (slotDesc slot) (s.issueHeld .v tk) (tn, ds) u → Gives (coordsAt .v n.toNat ds.rank) u cs v →
      Gives (updateRuns (cur (s.issueHeld .v tk)) d (vruns (c.shp.w / 8) slot.toNat tn ds c.active at_)) v () t → EndsAt (.vupd tk d slot n) s .v 1 t)

/-- mcfg, the anchors, mzero, mstat and msamp: the parts MatrixConfiguration, StatisticsForms, each as its comment says. -/
def Obligations.MatrixConfigurationAndStatistics : Prop :=
  MatrixConfiguration ∧ StatisticsForms

/-- The dense and sparse products, and the fault of a bad geometry: the parts DenseProductForms, GeometryFault, SparseCommandForms, each as its comment says. -/
def Obligations.MatrixProducts : Prop :=
  DenseProductForms ∧ GeometryFault ∧ SparseCommandForms

/-- mrd writes a box of a tile; mtab asks for its tables: the parts ReadoutForm, TableForms, each as its comment says. -/
def Obligations.ReadoutsAndTables : Prop :=
  ReadoutForm ∧ TableForms

/-- mst, mld and mmerge; a tile comes back from its image: the parts TileImageForms, TileImageRoundTrip, MergeForm, each as its comment says. -/
def Obligations.TileImages : Prop :=
  TileImageForms ∧ TileImageRoundTrip ∧ MergeForm

/-- Every X command enters the queue in one step, or waits where the queue, a post or a token does: the parts CommandsIssue, CommandsWait, each as its comment says. -/
def Obligations.TransferCommands : Prop :=
  CommandsIssue ∧ CommandsWait

/-- Power states, power samples, sensors and throttling: the parts PowerStateEvents, PowerSampleEvents, ThermalEvents, each as its comment says. -/
def Obligations.PowerEvents : Prop :=
  PowerStateEvents ∧ PowerSampleEvents ∧ ThermalEvents

/-- Reset clears the machine, and a checked image boots it: the parts ResetEvents, BootEvent, each as its comment says. -/
def Obligations.ResetAndBootEvents : Prop :=
  ResetEvents ∧ BootEvent

/-- Rings, die switches and packets in transit: the parts RingEvents, PacketEvents, each as its comment says. -/
def Obligations.RingAndPacketEvents : Prop :=
  RingEvents ∧ PacketEvents

/-- Torus links, training, fabric time, windows and advertisements: the parts TorusEvents, FabricTimeEvents, each as its comment says. -/
def Obligations.TorusAndTimeEvents : Prop :=
  TorusEvents ∧ FabricTimeEvents

/-- Host reads, writes and AtomicOps of one piece; completion signals: the parts HostAccess, CompletionSignals, each as its comment says. -/
def Obligations.HostAccessEvents : Prop :=
  HostAccess ∧ CompletionSignals

/-- R25, R63, R64, R113, R243: the mailbox commands. Before READY each answers NOT_READY. `attest` answers the nonce, the measurements, SECVER, the digest of the device key, the signature
and the key; `queue_create` takes the lowest free numbers; destroy and reset discard what is waiting; resume and abandon act on the halted running context; an unlisted code answers BAD_ARGUMENT. -/
def Obligations.MailboxEvents : Prop :=
  ∀ (s : State) (f : BitVec 6) (cmd : BitVec 32) (p : BitVec 5) (q n : Nat) (g : BitVec 10),
    let m := (s.func f.toNat).mbox
    (∀ i ∈ mailboxEvents f cmd, m.stat.getLsbD 0 = true → s.boot.state ≠ 5 → exec i s = .next (s.answer f 1 [])) ∧
    (Command s f [(0x100, 0xF00)] → exec (.unlistedMailboxCode f cmd) s = .next (s.answer f 3 [])) ∧
    (Command s f [(0x100, 0x20), (0x108, 0x20), (0x128, 0x40), (0x168, 0x40), (0x1A8, 4), (0x1B0, 0x40), (0x1F0, 0x500), (0x700, 1793)] →
      let id := m.input 0x100 32 ++ s.boot.meas ++ s.boot.cfgMeas ++ bvBytes 4 s.boot.secver
      let digest := (Config.shake256 s.deviceKey).toList
      let sig := (Config.falconSign s.secretKey (Config.shake256 (id ++ digest)).toList).take 1280
      exec (.attest f) s = .next (s.answer f 0 [(0x100, leBytes 4 sig.length), (0x108, id), (0x1B0, digest),
        (0x1F0, sig ++ List.replicate (1280 - sig.length) 0), (0x700, s.deviceKey)])) ∧
    (Command s f (partField f ++ [(0x100, 8), (0x108, 4), (0x110, 4)]) → s.mailPart f m = some p →
      let hdr := leNat (m.input 0x100 8)
      let slots := leNat (m.input 0x108 1)
      let prio := leNat (m.input 0x109 1)
      let budget := leNat (m.input 0x10A 2)
      let mine := s.queues.filter fun e => e.2.enable && e.2.part == p
      hdr < 2 ^ 48 → 64 ∣ hdr → 4 ≤ slots → slots ≤ 16 → prio < 8 → budget < 1024 → mine.length < (s.part p).pqueues.toNat →
      q < 1024 → (SMap.get {} s.queues q).enable = false → (∀ j, j < q → (SMap.get {} s.queues j).enable = true) →
      n < 1024 → (∀ e ∈ mine, e.2.local_ ≠ n) → (∀ j, j < n → ∃ e ∈ mine, e.2.local_ = j) →
      exec (.queueCreate f) s = .next ((s.modQueue (BitVec.ofNat 10 q) fun _ =>
        { header := BitVec.ofNat 48 hdr, budget := BitVec.ofNat 10 budget, func := f, prio := BitVec.ofNat 3 prio, logslots := BitVec.ofNat 5 slots
          enable := true, part := p, local_ := n, balance := budget }).answer f 0 [(0x110, leBytes 2 n), (0x112, leBytes 2 q)])) ∧
    (Command s f (partField f ++ [(0x100, 2)]) → s.mailPart f m = some p → s.localQueue p (leNat (m.input 0x100 2)) = some g → QueueSeen s g →
      let u := s.discardPackets g
      exec (.queueDestroy f) s = .next (((u.modQueue g fun _ => {}).answer f 0 []).devDone (opMail f)) ∧
      (∀ r v, u.queueRead g = some r → u.linWrite (u.queue g).part 0 (u.queue g).header.toNat (leBytes 8 r) = .ok v →
        exec (.queueReset f) s =
          .next ((((v.modQueue g fun k => { k with met := none, headAcc := none, spawned := [] }).setStatus g 0).answer f 0 []).devDone (opMail f)))) ∧
    (Command s f (partField f ++ [(0x100, 1)]) → s.mailPart f m = some p → leNat (m.input 0x100 1) = (s.part p).runctx.toNat →
      (s.part p).bound.getLsbD (s.part p).runctx.toNat = true → (s.part p).resumable = true →
      exec (.mailboxResume f) s = .next ((s.resumePart p).answer f 0 []) ∧
      exec (.abandon f) s = .next (((((s.part p).gangs.filter fun l => l.ctx == (s.part p).runctx).foldl
        (fun s l => s.discardGang p l.acc true) s).resumePart p).answer f 0 []))

/-- Notify registers, polling, refills and the six kinds of packet: the parts NotifyAndPollEvents, PacketKindEvents, each as its comment says. -/
def Obligations.QueuePacketEvents : Prop :=
  NotifyAndPollEvents ∧ PacketKindEvents

/-- Launches are placed, and a crew starts as R277 says: the parts PlacementEvents, CrewStart, each as its comment says. -/
def Obligations.PlacementAndCrewStart : Prop :=
  PlacementEvents ∧ CrewStart

/-- Pre-emption, the record router and the derailleur: the parts PreemptionEvents, StageEvents, each as its comment says. -/
def Obligations.PreemptionAndStageEvents : Prop :=
  PreemptionEvents ∧ StageEvents

/-- Contexts are bound and swapped; the halt line stops the cores: the parts ContextEvents, HaltEvents, each as its comment says. -/
def Obligations.ContextAndHaltEvents : Prop :=
  ContextEvents ∧ HaltEvents

/-- Writes of the registers of a partition’s definition, and of the registers without an event of their own: the parts DefinitionRegisters, OtherRegisters, each as its comment says. -/
def Obligations.RegisterEvents : Prop :=
  DefinitionRegisters ∧ OtherRegisters

/-- Banks, retention, scrubbing, walks, refusals and non-temporal stores: the parts BankEvents, MemoryUnitEvents, each as its comment says. -/
def Obligations.BankAndMemoryUnitEvents : Prop :=
  BankEvents ∧ MemoryUnitEvents

/-- R225 to R229, of a source on this package: a migration goes through its steps (the frame becomes MIGRATING; the blocks are copied; once every write that was posted is visible the entry is replaced, the key dropped and the source retired); a read
duplication (the copy is written and its package listed; the entry is put there; the writes that waited ask for the copies) and its removal; the home asks every sharer to drop its copy, and an acknowledgement removes the sharer from every frame of the tile;
a poisoned tile, or one that does not fit its destination, ends the migration with its record (R227). R229: a core that was notified replays what had been deferred. -/
def Obligations.MigrationEvents : Prop :=
  ∀ (s t : State) (p : BitVec 5) (g : Migr) (d : Desc) (e : BitVec 64) (pa q : Nat) (xs : List (Nat × List Byte)) (pkg : BitVec 9) (frame : BitVec 32)
    (tensor : BitVec 12) (tile : Nat) (core : BitVec 7),
    let m : MigTile := ⟨d, e, some pa⟩
    let bytes := d.tileBytes
    let live := Moves s p g d e pa ∧ e.getLsbD 3 = false
    let sh := (s.frameState pa).2
    let by_ := g.core.getD 0
    let listed := g.loc = 0 ∧ d.dupok = true ∧ g.pkg.toNat < s.fabric.packages ∧ (g.pkg.toNat ∈ sh ∨ sh.length < 3)
    (live → g.op = 0 → g.step = 0 →
      (s.migFits p g m = true → newPlace s p g d (g.entry e false) = .here q →
        exec (.migration p) s = .next (stepped p ((s.reuse q bytes).flushPieces.setFrames pa bytes 1 sh))) ∧
      (s.migFits p g m = false → exec (.migration p) s = .next (s.abortMig p g 3))) ∧
    (live → g.op = 0 → g.step = 1 →
      (s.readTile pa bytes = (t, .ok xs) → exec (.migration p) s = .next (stepped p (t.writeTile by_ (newPlace t p g d (g.entry e false)) xs))) ∧
      (∀ why, s.readTile pa bytes = (t, .error why) → exec (.migration p) s = .next (t.abortMig p g why))) ∧
    (live → g.op = 0 → g.step = 2 → s.posting by_ = false →
      exec (.migration p) s = .next ((((s.putEntry p g m).setFrames pa bytes 2 []).keepSharers p g m sh).endMig p g)) ∧
    (live → g.op = 1 → g.step = 0 →
      (s.migFits p g m = true → listed → newPlace s p g d (g.entry e false) = .here q → exec (.migration p) s = .next (stepped p (s.reuse q bytes))) ∧
      (s.migFits p g m = false ∨ ¬ listed → exec (.migration p) s = .next (s.abortMig p g 3))) ∧
    (live → g.op = 1 → g.step = 1 →
      (s.flushPieces.readTile pa bytes = (t, .ok xs) → exec (.migration p) s = .next (stepped p
        (((t.writeTile by_ (newPlace t p g d (g.entry e false)) xs).setFrames pa bytes 0 (withSharer sh g.pkg.toNat)).setDups pa bytes p g.tensor g.tile))) ∧
      (∀ why, s.flushPieces.readTile pa bytes = (t, .error why) → exec (.migration p) s = .next (t.abortMig p g why))) ∧
    (Moves s p g d e pa → g.op = 1 → s.posting by_ = false →
      (g.step = 2 → exec (.migration p) s = .next (stepped p (s.putEntry p g m))) ∧
      (g.step = 3 → exec (.migration p) s = .next (s.endDup p g pa bytes))) ∧
    (Moves s p g d e pa → g.op ≠ 2 → g.step = 0 ∨ g.step = 1 → e.getLsbD 3 = true → exec (.migration p) s = .next (s.abortMig p g 2)) ∧
    (Moves s p g d e pa → g.op = 0 ∨ g.op = 1 → 2 ≤ g.step → s.posting by_ = true → exec (.migration p) s = .next s) ∧
    (Moves s p g d e pa → g.op = 2 →
      (sh.contains g.pkg.toNat = false → exec (.migration p) s = .next (s.endMig p g)) ∧
      (g.step = 0 → sh.contains g.pkg.toNat = true → exec (.migration p) s = .next (stepped p
        (s.sendPkt (s.fabric.posOf g.pkg.toNat) (s.unitPkt 3 (s.fabric.posOf g.pkg.toNat) (.invalidate p g.tensor g.tile (BitVec.ofNat 32 (pa / 16384))))))) ∧
      (g.step ≠ 0 → sh.contains g.pkg.toNat = true → exec (.migration p) s = .next s)) ∧
    (∀ pkg' fa, (s.part p).migrs.head? = some g → s.migTile p g = some ⟨d, e, none⟩ → s.farSource p g ⟨d, e, none⟩ = some (pkg', fa) →
      exec (.migration p) s = .next (s.migFar p g ⟨d, e, none⟩ pkg' fa)) ∧
    ((s.part p).migrs = [] → exec (.migration p) s = .next s) ∧
    (s.migTile p ⟨(s.part p).runctx, tensor, tile, 2, 0, 0, 0, none, 0, [], 0, []⟩ = some m →
      (s.copying pa = false → exec (.invalidate p tensor tile) s = .next (sh.foldl (fun s pkg =>
        s.sendPkt (s.fabric.posOf pkg) (s.unitPkt 3 (s.fabric.posOf pkg) (.invalidate p tensor tile (BitVec.ofNat 32 (pa / 16384))))) s)) ∧
      (s.copying pa = true → exec (.invalidate p tensor tile) s = .next s)) ∧
    (∃ t, exec (.invalidateAck pkg frame) s = .next t ∧ t.mem = s.mem ∧ t.cores = s.cores ∧
      (∀ f ∈ t.frames, f.1 ∈ s.tileFrames frame.toNat → pkg.toNat ∉ f.2.2) ∧
      (∀ f ∈ s.frames, f.1 ∉ s.tileFrames frame.toNat → (f.2.1 ≠ 0 ∨ f.2.2 ≠ []) → f ∈ t.frames)) ∧
    exec (.deferReplay core) s = .next (s.replayCore core fun x => s.canDefer core x)

/-- The units of a core: the X queue, collectives and the matrix engine: the parts TransferUnitEvents, CollectiveEvents, MatrixUnitEvents, each as its comment says. -/
def Obligations.UnitEvents : Prop :=
  TransferUnitEvents ∧ CollectiveEvents ∧ MatrixUnitEvents

/-- A step runs the event that stands next; with none standing, it runs what the next unit with work has to do. For a strand that holds nothing, that is the instruction that its fetched words decode to (R275, R276, R289), in the state that the fetch
leaves, with those words in the machine's instruction register; words that are no instruction raise ILLOP. For a strand that holds an instruction, it is that instruction; M first issues its next command into its second scoreboard entry where it can
(R294), and the first stays as it is. With no work, only time advances. Every step adds 1 ns (the model's choice, log 4). -/
def Obligations.StepRunsDecoded : Prop :=
  ∀ (s : State) (i : Instr) (rest : List Instr) (u : Nat) (c : BitVec 7) (k : Strand),
    (s.agenda = i :: rest → step s = exec i ({ s with agenda := rest } : State).elapse) ∧
    (s.agenda = [] → s.nextWork = none → step s = .next s.elapse) ∧
    (s.agenda = [] → s.nextWork = some (u, .event i) → step s = exec i ({ s with turn := u + 1 } : State).elapse) ∧
    (s.agenda = [] → s.nextWork = some (u, .strand c k) →
      let r : State := { ({ s with turn := u + 1 } : State).elapse with cur := c }
      ((r.core c).str k).held = none → ∀ ws e t, (fetchOp k).run { r with ir := [] } = (.ok (ws, e), t) → t.ir = ws ∧
        (∀ n, decodeWords k (fun _ => e) ws = some (i, n) → step s = exec i t) ∧
        (decodeWords k (fun _ => e) ws = none → step s = .next (t.takeFault c k ((t.core c).str k).pc (t.ir.headD 0) (t.illop k)))) ∧
    (s.agenda = [] → s.nextWork = some (u, .strand c k) →
      let r : State := { ({ s with turn := u + 1 } : State).elapse with cur := c }
      ∀ h, ((r.core c).str k).held = some h → h.progress ≠ .all →
        (k ≠ .m ∨ r.secondGoes c = false → r.issueSecond c k = none) ∧
        (∀ t, r.issueSecond c k = some t → step s = .next t ∧ ((t.core c).str k).held = some h) ∧
        (r.issueSecond c k = none → ∀ n, decodeWords k (fun _ => h.entry) h.words = some (i, n) → step s = exec i { r with ir := h.words })) ∧
    s.elapse.time = s.time + 1

/-- R331 to R337: words of the spec's own programs (23_programs_compute.md and 24_programs_coordination.md) decode to the instructions that stand beside them, on S, V, M and X. -/
def Obligations.DecodedWords : Prop :=
  decodeWords .s (defaultEntry .s) [0x0807_1FFF] = some (.addi 7 7 0x3FF, 1) ∧
  decodeWords .s (defaultEntry .s) [0x16CC_0080] = some (.st64 12 0 4 0, 1) ∧
  decodeWords .s (defaultEntry .s) [0x1041_0005] = some (.bne 1 0 5, 1) ∧
  decodeWords .s (defaultEntry .s) [0x2940_0007] = some (.tokWait 3 1, 1) ∧
  decodeWords .v (defaultEntry .v) [0x08C0_3042] = some (.vfma ⟨0, 0⟩ 3 1 2, 1) ∧
  decodeWords .v (defaultEntry .v) [0x1C40_3080] = some (.vst ⟨0, 0⟩ 3 2 0, 1) ∧
  decodeWords .m (defaultEntry .m) [0x0870_0004, 0x1000_0000, 0x1840_0000, 0x0000_0030] =
    some (.mms ⟨3, 0⟩ ⟨0, false, 4, ⟨2, 0⟩, ⟨3, 1⟩⟩ 0 (some 1), 4) ∧
  decodeWords .x (defaultEntry .x) [0x0534_0000, 0x0805_1000, 0x1802_0000] =
    some (.copyDec ⟨3, 1⟩ ⟨none, 0, false, ⟨1, 0, 2⟩, ⟨3, 0, 1⟩⟩ (some ⟨2, 0⟩), 3)

/-- R289, R330 to R337: decoding the words of a well-formed instruction gives that instruction, with every operand; and words that decode are the words of one well-formed instruction. -/
def Obligations.DecodeAndEncodeAgree : Prop :=
  (∀ (i : Instr) (k : Strand), strandIs i = some k → i.wf = true →
    decodeWords k (defaultEntry k) (encode i) = some (i, (encode i).length)) ∧
  (∀ (k : Strand) (ws : List W32) (i : Instr) (n : Nat), decodeWords k (defaultEntry k) ws = some (i, n) →
    strandIs i = some k ∧ i.wf = true ∧ encode i = ws.take n)

/-- A step keeps the canonical form of the tables of storage (bytes, row tags and poison: R159, R18), of the queues and of the groups. -/
def Obligations.StepKeepsTables : Prop := ∀ s t : State, TablesWf s → step s = .next t → TablesWf t

/-- The state after reset meets the invariant of storage; no core holds a crew, no partition is defined and no queue is enabled; PPOLICY and PTCOST (R114), FCTL (R37) and WINCFG (R51) hold their reset values. The rest of the reset state is the model's
choice (logs 2 to 4). -/
def Obligations.ResetState : Prop :=
  TablesWf State.reset ∧ (∀ c, (State.reset.core c).crew = none ∧ ((State.reset.core c).str .s).live = false) ∧
  (∀ q, (State.reset.queue q).enable = false) ∧
  (∀ p, (State.reset.part p).pquads = 0 ∧ (State.reset.part p).bound = 0 ∧ (State.reset.part p).ppolicy = 0x0000_0064_0000_0000 ∧
    (State.reset.part p).ptcost = 0xFFFF_FFFF_FFFF_FFFF) ∧
  (∀ r, r < 16 → (State.reset.ring r).limit = 16 ∧ (State.reset.ring r).test = false) ∧
  State.reset.fabric.budget = 4 ∧ State.reset.fabric.wexp = 2

/-- The frame of the scalar forms that only compute or transfer control (R348 to R354): nothing outside the core changes, no other core, and in the core only the destination register, the S strand's pc and loops and the event counters. -/
def Obligations.ScalarFrame : Prop :=
  ∀ (i : Instr) (s t : State) (ds : List (BitVec 6)), Untraced s → exec i s = .next t →
    ((∃ table ∈ [arithValue, logicValue, fieldValue, compareValue, immValue], ∃ d srcs v, table (cur s) i = some (d, srcs, v) ∧ ds = [d]) ∨
      (∃ srcs target link, transfer (cur s) (pcOf .s s) i = some (srcs, target, link) ∧ ds = if link then [63] else []) ∨
      (∃ a len, i = .sLoop a len ∧ ((cur s).str .s).loops.length < 4 ∧ ds = []) ∨ (i = .sNop ∧ ds = [])) →
    SameOutside s t ∧ OtherCores s t ∧ ScalarSame ds (cur s) (cur t) ∧ ∀ a, byteAt t a = byteAt s a

/-- The frame of the loads and of the atomics at a home in this package (R355, R356): a load changes no byte of storage, and an atomic none but those of its operand and, where their row had expired, the rest of that row (R161); of the registers only x[d] changes, and of another core at most its
counters (a read of an expired DISCARD-ZERO row counts at the scratchpad's core: the model's choice, log 113). -/
def Obligations.LoadAndAtomicFrame : Prop :=
  ∀ (i : Instr) (s t u n : State) (w : Nat) (d r : BitVec 6) (slot imm : BitVec 5), Untraced s → exec i s = .next n →
    let same := (∀ q, q ≠ d → (cur n).xr q = (cur s).xr q) ∧ (cur n).p = (cur s).p ∧ (cur n).v = (cur s).v ∧ (cur n).masks = (cur s).masks ∧
      (cur n).shape = (cur s).shape ∧ (cur n).ms = (cur s).ms ∧ (cur n).xs = (cur s).xs ∧
      ∀ c : BitVec 7, c ≠ s.cur → ∃ ev, n.core c = { s.core c with ev := ev }
    (∀ sgn bs, loadForm i = some (sgn, w, d, r, slot, imm) → SReady [r] s → Passes (slotBound slot) s → NoAcquire s →
      Gives (readLin .s slot (coordOf s r imm w) w w) (sIssued s) bs t → same ∧ ∀ a, byteAt n a = byteAt s a) ∧
    (∀ op sc o a pa defer bs v, amoForm i = some (op, w, sc, o, d, r, slot, imm) → AmoReady s w sc o [d + 1] r slot imm a t →
      Gives (farAsked .s atomKey) t none t → Gives (storePlace .s a 2) t (some (.inl pa), defer) u → Gives (opAtomic .s a op w 0 ((cur s).xr (d + 1)).toNat sc o) t (some bs) v → s.memWf = true →
      same ∧ ∀ x, (x < pa ∨ pa + w ≤ x) → byteAt n x = if u.expired pa = true ∧ rowOf x = rowOf pa then 0 else byteAt s x)

/-- The frame of the V forms that only write registers (R372, R375, R376, R378 to R381, R385, R386): they write one v register or one mask; storage, x and p registers, the other strands' units and every other core stay as they are. The frame of the M
configuration forms (R401, R402): they write MCFG or one tile. -/
def Obligations.VectorAndMatrixFrame : Prop :=
  ∀ (i : Instr) (s t : State) (tk : Tok), Untraced s → exec i s = .next t →
    let kept := SameOutside s t ∧ OtherCores s t ∧ (cur t).x = (cur s).x ∧ (cur t).p = (cur s).p ∧ (cur t).xs = (cur s).xs ∧ ∀ a, byteAt t a = byteAt s a
    (∀ cls d f, Ready .v tk s → laneForm (cur s) i = some (tk, cls, d, f) → cls (cur s).shp.fmt = true →
      kept ∧ (cur t).masks = (cur s).masks ∧ (cur t).shape = (cur s).shape ∧ (cur t).ms = (cur s).ms ∧ ∀ r, r ≠ d → (cur t).vr r = (cur s).vr r) ∧
    (∀ d es f, Ready .v tk s → maskForm (cur s) i = some (tk, d, es, f) →
      kept ∧ (cur t).v = (cur s).v ∧ (cur t).shape = (cur s).shape ∧ (cur t).ms = (cur s).ms ∧ ∀ m, m ≠ d → (cur t).mask m = (cur s).mask m) ∧
    (∀ d a f, Ready .v tk s → reduceForm i = some (tk, d, a, f) → classRed (cur s).shp.fmt = true →
      kept ∧ (cur t).masks = (cur s).masks ∧ (cur t).shape = (cur s).shape ∧ ∀ r, r ≠ d → (cur t).vr r = (cur s).vr r) ∧
    (∀ one n, Ready .m tk s → (i = .manchor tk one n ∨ i = .manchorAuto tk one ∨ i = .mzero tk one) →
      kept ∧ (cur t).v = (cur s).v ∧ (cur t).masks = (cur s).masks ∧ (cur t).shape = (cur s).shape ∧ (cur t).ms.cfg = (cur s).ms.cfg ∧
      tileNow (!one) t = tileNow (!one) s) ∧
    (∀ n, Ready .m tk s → i = .mcfg tk n → mcfgOk (pOf (cur s) n) = true →
      kept ∧ (cur t).v = (cur s).v ∧ (cur t).masks = (cur s).masks ∧ (cur t).shape = (cur s).shape ∧ ∀ b, tileNow b t = tileNow b s)
end

