-- ==== Sys2Proof/Laws/Op.lean ====
section
/-! SUPPORT. How the operations of Ops.lean run: what a sequence of them answers, so that no proof unfolds the monad. -/

namespace Sys2Proof.Machine

variable {α β : Type}

/-- A sequence runs its first part, then, unless that stopped, its second in the state that is left. -/
theorem Op.run_bind (x : Op α) (f : α → Op β) (s : State) :
    (x >>= f).run s = match x.run s with
      | (.ok a, t) => (f a).run t
      | (.error e, t) => (.error e, t) := by
  show (ExceptT.bind x f) s = _
  unfold ExceptT.bind ExceptT.mk
  show (match x.run s with | (a, t) => (ExceptT.bindCont f a) t) = _
  rcases x.run s with ⟨a | a, t⟩ <;> rfl

/-- A sequence whose first part answers. -/
theorem Op.run_bind_ok {x : Op α} {f : α → Op β} {s t : State} {a : α} (h : x.run s = (.ok a, t)) :
    (x >>= f).run s = (f a).run t := by rw [Op.run_bind, h]

/-- A sequence whose first part stops. -/
theorem Op.run_bind_error {x : Op α} {f : α → Op β} {s t : State} {e : Stop} (h : x.run s = (.error e, t)) :
    (x >>= f).run s = (.error e, t) := by rw [Op.run_bind, h]

@[simp] theorem Op.run_pure (a : α) (s : State) : (pure a : Op α).run s = (.ok a, s) := rfl

@[simp] theorem Op.run_get (s : State) : (get : Op State).run s = (.ok s, s) := rfl

@[simp] theorem Op.run_set (s t : State) : (set t : Op PUnit).run s = (.ok ⟨⟩, t) := rfl

@[simp] theorem Op.run_modify (f : State → State) (s : State) : (modify f : Op PUnit).run s = (.ok ⟨⟩, f s) := rfl

@[simp] theorem Op.run_throw (e : Stop) (s : State) : (throw e : Op α).run s = (.error e, s) := rfl

@[simp] theorem Op.run_curCore (s : State) : curCore.run s = (.ok (s.core s.cur), s) := rfl

@[simp] theorem Op.run_modCur (f : Core → Core) (s : State) : (modCur f).run s = (.ok ⟨⟩, s.modCore s.cur f) := rfl

@[simp] theorem Op.run_xr (n : BitVec 6) (s : State) : (xr n).run s = (.ok ((s.core s.cur).xr n), s) := rfl

@[simp] theorem Op.run_setX (n : BitVec 6) (v : Word) (s : State) :
    (setX n v).run s = (.ok ⟨⟩, s.modCore s.cur fun c => c.setX n v) := rfl

@[simp] theorem Op.run_modHeld (k : Strand) (f : Held → Held) (s : State) :
    (modHeld k f).run s = (.ok ⟨⟩, s.modCore s.cur fun c => c.setStr k { (c.str k) with held := some (f (c.heldOf k)) }) := rfl

@[simp] theorem Op.run_heldNow (k : Strand) (s : State) : (heldNow k).run s = (.ok ((s.core s.cur).heldOf k), s) := rfl

/-- The crew that acts. -/
theorem Op.run_curCrew {s : State} {w : Crew} (h : (s.core s.cur).crew = some w) : curCrew.run s = (.ok w, s) := by
  unfold curCrew
  rw [Op.run_bind_ok (Op.run_curCore s), h]
  rfl

/-- A condition that holds lets the operation go on. -/
theorem Op.run_holdUnless {b : Bool} (h : b = true) (s : State) : (holdUnless b).run s = (.ok ⟨⟩, s) := by subst h; rfl

/-- A condition that fails holds the instruction. -/
theorem Op.run_holdUnless_false {b : Bool} (h : b = false) (s : State) : (holdUnless b).run s = (.error (.hold 0), s) := by
  subst h; rfl

/-- A condition that is met raises no fault. -/
theorem Op.run_need {b : Bool} (h : b = true) (kind sub : Nat) (det : BitVec 320) (s : State) :
    (need b kind sub det).run s = (.ok ⟨⟩, s) := by subst h; rfl

/-- A condition that is not met raises the fault. -/
theorem Op.run_need_false {b : Bool} (h : b = false) (kind sub : Nat) (det : BitVec 320) (s : State) :
    (need b kind sub det).run s = (.error (.fault ⟨kind, sub, det, false⟩), s) := by subst h; rfl

/-- What is legal raises nothing. -/
theorem Op.run_legal {b : Bool} (h : b = true) (k : Strand) (s : State) : (legal b k).run s = (.ok ⟨⟩, s) := by subst h; rfl

/-- What is not legal raises ILLOP. -/
theorem Op.run_legal_false {b : Bool} (h : b = false) (k : Strand) (s : State) :
    (legal b k).run s = (.error (.fault (s.illop k)), s) := by subst h; rfl

end Sys2Proof.Machine
end

