-- ==== Sys2Proof/Laws/Access.lean ====
section
/-! SUPPORT. What an access to one piece does when its tile is present in this package: translation, read, the check of a write, the write. -/

namespace Sys2Proof.Machine

/-- A read of words in which no error stands meets none (R18). -/
theorem State.meet_none {s : State} {pa n : Nat} (h : s.flawsIn pa n = []) : s.meet pa n = s := by
  have keep : s.flaws.filter (fun e => !wordMeets pa n e.1) = s.flaws :=
    List.filter_eq_self.2 fun e he => by
      have := List.filter_eq_nil_iff.1 h e he
      simpa using this
  show (s.flawsIn pa n).foldl _ { s with flaws := s.flaws.filter fun e => !wordMeets pa n e.1 } = s
  rw [h, keep]
  rfl

/-- A read of an unexpired row in which no error stands changes nothing (R18, R164). -/
theorem State.bankRead_clean {s : State} {pa n : Nat} (he : s.expired pa = false) (hf : s.flawsIn pa n = []) : (s.bankRead pa n).1 = s := by
  unfold State.bankRead
  rw [he]
  exact State.meet_none hf

/-- A read of linear space none of whose pieces is expired or in error changes nothing (R471). -/
theorem State.linRead_clean {s : State} {part : BitVec 5} {ctx : BitVec 3} {addr n : Nat}
    (h : ∀ p ∈ pieces64 (n / 64 + 2) addr n, ∀ pa, s.linPa part ctx p.1 p.2 false = .ok pa → s.expired pa = false ∧ s.flawsIn pa p.2 = []) :
    (s.linRead part ctx addr n).1 = s := by
  have go : ∀ (ps : List (Nat × Nat)) (a : State × Except LinErr (List Byte)), a.1 = s →
      (∀ p ∈ ps, ∀ pa, s.linPa part ctx p.1 p.2 false = .ok pa → (s.bankRead pa p.2).1 = s) →
      (ps.foldl (fun acc p =>
        match acc with
        | (s, .error e) => (s, .error e)
        | (s, .ok bs) =>
          match s.linPa part ctx p.1 p.2 false with
          | .error (.away pkg pa) => match (s.devAnswer part ctx p.1 (.read p.2)).bind devFound with
            | some (.ok d) => (s, .ok (bs ++ s.devOver part ctx p.1 d))
            | some (.error e) => (s, .error e)
            | none => (s, .error (.away pkg pa))
          | .error e => (s, .error e)
          | .ok pa =>
            match s.bankRead pa p.2 with
            | (s, .data d) => (s, .ok (bs ++ s.devOver part ctx p.1 d))
            | (s, .poison) => (s, .error .poison)
            | (s, .stale c) => (s, .error (.stale c))) a).1 = s := by
    intro ps
    induction ps with
    | nil => exact fun a ha _ => ha
    | cons p ps ih =>
      intro a ha hq
      refine ih _ ?_ fun q hm => hq q (List.mem_cons_of_mem _ hm)
      obtain ⟨t, r⟩ := a
      cases ha
      have hp := hq p List.mem_cons_self
      cases r <;> dsimp only
      split <;> try rfl
      · split <;> rfl
      · rename_i pa hl
        have e := hp pa hl
        revert e
        rcases t.bankRead pa p.2 with ⟨u, f | _ | _⟩ <;> exact id
  exact go _ _ rfl fun p hm pa hl => State.bankRead_clean (h p hm pa hl).1 (h p hm pa hl).2

/-- A read of one piece that is present at its bank, and of which the reader's core holds no update back (R195, R197). -/
theorem opRead_present {s u : State} {k : Strand} {a : Acc} {n pa : Nat} {w : Crew} {e : BitVec 64} {bs : List Byte} (hw : (s.core s.cur).crew = some w)
    (tr : (Sys2Proof.Machine.translate k a 0).run s = (.ok (some e), s)) (he : e.getLsbD 3 = false) (hl : (s.locate w.part w.ctx e (a.d.tileBytes == 65536) a.off).under (s.memNow k) = .here pa)
    (hq : s.unsettled w a (none, pa) n = false)
    (fr : (s.frameState pa).1 = 0) (br : s.bankRead pa n = (u, .data bs)) :
    (opRead k a n).run s = (.ok (s.forward w a (none, pa) bs),
      u.modCore s.cur fun c => c.count (if pa < shmBase then 28 else if pa < scrBase then 26 else 24) 1) := by
  unfold opRead
  rw [Op.run_bind_ok (Op.run_curCrew hw), Op.run_bind_ok tr]
  show (if e.getLsbD 3 = true then _ else _ : Op (List Byte)).run s = _
  rw [if_neg (by rw [he]; decide), Op.run_bind_ok (Op.run_get s), hl]
  show (if s.unsettled w a (none, pa) n = true then _ else _ : Op (List Byte)).run s = _
  rw [if_neg (by rw [hq]; decide)]
  show (if _ ∧ _ then _ else _ : Op (List Byte)).run s = _
  rw [if_neg (fun x => absurd (fr.symm.trans x.1) (by decide)), br]
  rfl

/-- A tile that the strand's translation cache holds (R216): nothing changes. -/
theorem translate_hit {s : State} {k : Strand} {a : Acc} {akind : Nat} {w : Crew} {e : TcEnt} (hw : (s.core s.cur).crew = some w)
    (h : ((s.core s.cur).tcs[(strandFin k).castSucc]).find? (fun e => e.ctx == w.ctx && e.tensor == BitVec.ofNat 12 a.tensor && e.tile == a.tile) = some e) :
    (Sys2Proof.Machine.translate k a akind).run s = (.ok (some e.entry), s) := by
  unfold Sys2Proof.Machine.translate
  rw [Op.run_bind_ok (Op.run_curCrew hw), Op.run_bind_ok (Op.run_get s)]
  simp only [h]
  rfl

/-- A tile that its tile table maps and the translation cache does not hold (R216): the miss is counted and the cache takes the entry. -/
theorem translate_walk {s : State} {k : Strand} {a : Acc} {akind : Nat} {w : Crew} (hw : (s.core s.cur).crew = some w)
    (h : ((s.core s.cur).tcs[(strandFin k).castSucc]).find? (fun e => e.ctx == w.ctx && e.tensor == BitVec.ofNat 12 a.tensor && e.tile == a.tile) = none)
    (hf : s.flawsIn (a.d.ttptr + 8 * a.tile) 8 = []) (hp : s.badEntry a.d a.tile = false)
    (he : ((s.tileEntry a.d a.tile).getLsbD 0 && !(s.part w.part).misses.contains ⟨w.ctx, BitVec.ofNat 12 a.tensor, a.tile⟩) = true) :
    (Sys2Proof.Machine.translate k a akind).run s = (.ok (some (s.tileEntry a.d a.tile)),
      let u := (s.modCore s.cur fun c => c.count 30 1).modCore s.cur fun c =>
        c.putTc (strandFin k).castSucc s.freeN ⟨w.ctx, BitVec.ofNat 12 a.tensor, a.tile, s.tileEntry a.d a.tile⟩
      { u with freeN := u.freeN + 1 }) := by
  unfold Sys2Proof.Machine.translate
  rw [Op.run_bind_ok (Op.run_curCrew hw), Op.run_bind_ok (Op.run_get s)]
  simp only [h]
  rw [Op.run_bind_ok (Op.run_modCur _ s), Op.run_bind_ok (Op.run_modify _ _)]
  have hm : (s.modCore s.cur fun c => c.count 30 1).meet (a.d.ttptr + 8 * a.tile) 8 = s.modCore s.cur fun c => c.count 30 1 :=
    State.meet_none hf
  rw [hm, Op.run_bind_ok (Op.run_get _)]
  have hb : (s.modCore s.cur fun c => c.count 30 1).badEntry a.d a.tile = false := hp
  rw [hb, Op.run_bind_ok (Op.run_need (b := !false) rfl kPoison 0 a.det _)]
  show (if _ = true then _ else _ : Op (Option (BitVec 64))).run _ = _
  rw [if_pos he, Op.run_bind_ok (Op.run_modCur _ _), Op.run_bind_ok (Op.run_modify _ _)]
  rfl

/-- Where a write of one piece lands whose tile is present and writable and whose frame no one reads (R215 to R217): nothing changes. -/
theorem storePlace_present {s : State} {k : Strand} {a : Acc} {akind pa : Nat} {w : Crew} {e : BitVec 64} (hw : (s.core s.cur).crew = some w)
    (hs : ((s.core s.cur).slog.filter fun e => e.hits w.ctx (BitVec.ofNat 12 a.tensor) (some a.tile)) = [])
    (tr : (Sys2Proof.Machine.translate k a akind).run s = (.ok (some e), s)) (h3 : e.getLsbD 3 = false) (h1 : e.getLsbD 1 = true) (h2 : e.getLsbD 2 = false)
    (hl : (s.locate w.part w.ctx e (a.d.tileBytes == 65536) a.off).under (s.memNow k) = .here pa) (fr : s.frameState pa = (0, [])) :
    (storePlace k a akind).run s = (.ok (some (.inl pa), false), s) := by
  unfold storePlace
  rw [Op.run_bind_ok (Op.run_curCrew hw), Op.run_bind_ok (Op.run_curCore s), hs, Op.run_bind_ok tr]
  show (if (false : Bool) = true then _ else _ : Op (Option (Nat ⊕ (Nat × Nat)) × Bool)).run s = _
  rw [if_neg (by decide), if_neg (by rw [h3]; decide), if_neg (by rw [h1, h2]; decide), Op.run_bind_ok (Op.run_get s), hl]
  show (match s.frameState pa with | _ => _ : Op (Option (Nat ⊕ (Nat × Nat)) × Bool)).run s = _
  rw [fr]
  rfl

/-- The check of a write of one piece that lands at a place. -/
theorem placePiece_some {s t : State} {k : Strand} {a : Acc} {log b : Bool} {p : Nat ⊕ (Nat × Nat)} (h : (storePlace k a 1).run s = (.ok (some p, b), t)) :
    (placePiece k a log).run s = (.ok (some p, b), t) := by
  unfold placePiece
  rw [Op.run_bind_ok h]
  rfl

/-- Where nothing goes to another package there is always room (R28). -/
theorem farRoom_none (s : State) : (farRoom 0).run s = (.ok (), s) := by
  unfold farRoom
  rw [Op.run_bind_ok (Op.run_get s)]
  simp [holdUnless]

/-- An instruction that has sent no portion of its pieces has all of them left (R28). -/
theorem unsent_all {α : Type} {s : State} {k : Strand} (xs : List α) (h : ((s.core s.cur).heldOf k).sent = 0) : (unsent k xs).run s = (.ok xs, s) := by
  unfold unsent heldNow
  rw [Op.run_bind_ok (show (do return (← curCore).heldOf k : Op Held).run s = (.ok ((s.core s.cur).heldOf k), s) from rfl), h]
  rfl

/-- Pieces of which none goes to another package are performed one after the other (R388). -/
theorem performAll_near {α : Type} {s : State} (k : Strand) {far : α → Bool} {go : α → Op Unit} {xs : List α} (h : (xs.filter far).length = 0) :
    (performAll k far go xs).run s = (xs.forM go).run s := by
  unfold performAll
  rw [h]
  show ((farRoom 0 >>= fun _ => xs.forM go) : Op Unit).run s = _
  rw [Op.run_bind_ok (farRoom_none s)]

/-- A piece that lands in this package is written at its bank (R388). -/
theorem performPiece_here {s : State} {w : Crew} (hw : (s.core s.cur).crew = some w) (k : Strand) (a : Acc) (bs : List Byte) (pa : Nat) (b : Bool) :
    (performPiece k a bs false (some (.inl pa), b)).run s = (.ok (), s.bankWrite pa bs) := by
  unfold performPiece
  rw [Op.run_bind_ok (Op.run_curCrew hw)]
  rfl

end Sys2Proof.Machine
end

