-- ==== Sys2Proof/Laws/State.lean ====
section
/-! SUPPORT. What each update of the state leaves alone: one lemma per field per update, so that no proof unfolds a record
update; and what a core, a partition or a register reads as after it has been written. -/

namespace Sys2Proof.Machine


/-! ### `State.setCore` -/

@[simp] theorem State.setCore_mem (s : State) (c : BitVec 7) (k : Core) : (s.setCore c k).mem = s.mem := rfl
@[simp] theorem State.setCore_rowTick (s : State) (c : BitVec 7) (k : Core) : (s.setCore c k).rowTick = s.rowTick := rfl
@[simp] theorem State.setCore_rowLive (s : State) (c : BitVec 7) (k : Core) : (s.setCore c k).rowLive = s.rowLive := rfl
@[simp] theorem State.setCore_poison (s : State) (c : BitVec 7) (k : Core) : (s.setCore c k).poison = s.poison := rfl
@[simp] theorem State.setCore_flaws (s : State) (c : BitVec 7) (k : Core) : (s.setCore c k).flaws = s.flaws := rfl
@[simp] theorem State.setCore_time (s : State) (c : BitVec 7) (k : Core) : (s.setCore c k).time = s.time := rfl
@[simp] theorem State.setCore_tickSeen (s : State) (c : BitVec 7) (k : Core) : (s.setCore c k).tickSeen = s.tickSeen := rfl
@[simp] theorem State.setCore_parts (s : State) (c : BitVec 7) (k : Core) : (s.setCore c k).parts = s.parts := rfl
@[simp] theorem State.setCore_queues (s : State) (c : BitVec 7) (k : Core) : (s.setCore c k).queues = s.queues := rfl
@[simp] theorem State.setCore_boot (s : State) (c : BitVec 7) (k : Core) : (s.setCore c k).boot = s.boot := rfl
@[simp] theorem State.setCore_cfgrec (s : State) (c : BitVec 7) (k : Core) : (s.setCore c k).cfgrec = s.cfgrec := rfl
@[simp] theorem State.setCore_power (s : State) (c : BitVec 7) (k : Core) : (s.setCore c k).power = s.power := rfl
@[simp] theorem State.setCore_rings (s : State) (c : BitVec 7) (k : Core) : (s.setCore c k).rings = s.rings := rfl
@[simp] theorem State.setCore_switches (s : State) (c : BitVec 7) (k : Core) : (s.setCore c k).switches = s.switches := rfl
@[simp] theorem State.setCore_ports (s : State) (c : BitVec 7) (k : Core) : (s.setCore c k).ports = s.ports := rfl
@[simp] theorem State.setCore_fabric (s : State) (c : BitVec 7) (k : Core) : (s.setCore c k).fabric = s.fabric := rfl
@[simp] theorem State.setCore_funcs (s : State) (c : BitVec 7) (k : Core) : (s.setCore c k).funcs = s.funcs := rfl
@[simp] theorem State.setCore_errlog (s : State) (c : BitVec 7) (k : Core) : (s.setCore c k).errlog = s.errlog := rfl
@[simp] theorem State.setCore_frames (s : State) (c : BitVec 7) (k : Core) : (s.setCore c k).frames = s.frames := rfl
@[simp] theorem State.setCore_nextQ (s : State) (c : BitVec 7) (k : Core) : (s.setCore c k).nextQ = s.nextQ := rfl
@[simp] theorem State.setCore_agenda (s : State) (c : BitVec 7) (k : Core) : (s.setCore c k).agenda = s.agenda := rfl
@[simp] theorem State.setCore_ir (s : State) (c : BitVec 7) (k : Core) : (s.setCore c k).ir = s.ir := rfl
@[simp] theorem State.setCore_cur (s : State) (c : BitVec 7) (k : Core) : (s.setCore c k).cur = s.cur := rfl
@[simp] theorem State.setCore_turn (s : State) (c : BitVec 7) (k : Core) : (s.setCore c k).turn = s.turn := rfl
@[simp] theorem State.setCore_reply (s : State) (c : BitVec 7) (k : Core) : (s.setCore c k).reply = s.reply := rfl
@[simp] theorem State.setCore_freeN (s : State) (c : BitVec 7) (k : Core) : (s.setCore c k).freeN = s.freeN := rfl
@[simp] theorem State.setCore_hostLog (s : State) (c : BitVec 7) (k : Core) : (s.setCore c k).hostLog = s.hostLog := rfl
@[simp] theorem State.setCore_outbox (s : State) (c : BitVec 7) (k : Core) : (s.setCore c k).outbox = s.outbox := rfl
@[simp] theorem State.setCore_waits (s : State) (c : BitVec 7) (k : Core) : (s.setCore c k).waits = s.waits := rfl
@[simp] theorem State.setCore_posts (s : State) (c : BitVec 7) (k : Core) : (s.setCore c k).posts = s.posts := rfl
@[simp] theorem State.setCore_dups (s : State) (c : BitVec 7) (k : Core) : (s.setCore c k).dups = s.dups := rfl
@[simp] theorem State.setCore_nextTag (s : State) (c : BitVec 7) (k : Core) : (s.setCore c k).nextTag = s.nextTag := rfl
@[simp] theorem State.setCore_dev (s : State) (c : BitVec 7) (k : Core) : (s.setCore c k).dev = s.dev := rfl
@[simp] theorem State.setCore_hostQ (s : State) (c : BitVec 7) (k : Core) : (s.setCore c k).hostQ = s.hostQ := rfl

/-! ### `State.modCore` -/

@[simp] theorem State.modCore_mem (s : State) (c : BitVec 7) (f : Core → Core) : (s.modCore c f).mem = s.mem := rfl
@[simp] theorem State.modCore_rowTick (s : State) (c : BitVec 7) (f : Core → Core) : (s.modCore c f).rowTick = s.rowTick := rfl
@[simp] theorem State.modCore_rowLive (s : State) (c : BitVec 7) (f : Core → Core) : (s.modCore c f).rowLive = s.rowLive := rfl
@[simp] theorem State.modCore_poison (s : State) (c : BitVec 7) (f : Core → Core) : (s.modCore c f).poison = s.poison := rfl
@[simp] theorem State.modCore_flaws (s : State) (c : BitVec 7) (f : Core → Core) : (s.modCore c f).flaws = s.flaws := rfl
@[simp] theorem State.modCore_time (s : State) (c : BitVec 7) (f : Core → Core) : (s.modCore c f).time = s.time := rfl
@[simp] theorem State.modCore_tickSeen (s : State) (c : BitVec 7) (f : Core → Core) : (s.modCore c f).tickSeen = s.tickSeen := rfl
@[simp] theorem State.modCore_parts (s : State) (c : BitVec 7) (f : Core → Core) : (s.modCore c f).parts = s.parts := rfl
@[simp] theorem State.modCore_queues (s : State) (c : BitVec 7) (f : Core → Core) : (s.modCore c f).queues = s.queues := rfl
@[simp] theorem State.modCore_boot (s : State) (c : BitVec 7) (f : Core → Core) : (s.modCore c f).boot = s.boot := rfl
@[simp] theorem State.modCore_cfgrec (s : State) (c : BitVec 7) (f : Core → Core) : (s.modCore c f).cfgrec = s.cfgrec := rfl
@[simp] theorem State.modCore_power (s : State) (c : BitVec 7) (f : Core → Core) : (s.modCore c f).power = s.power := rfl
@[simp] theorem State.modCore_rings (s : State) (c : BitVec 7) (f : Core → Core) : (s.modCore c f).rings = s.rings := rfl
@[simp] theorem State.modCore_switches (s : State) (c : BitVec 7) (f : Core → Core) : (s.modCore c f).switches = s.switches := rfl
@[simp] theorem State.modCore_ports (s : State) (c : BitVec 7) (f : Core → Core) : (s.modCore c f).ports = s.ports := rfl
@[simp] theorem State.modCore_fabric (s : State) (c : BitVec 7) (f : Core → Core) : (s.modCore c f).fabric = s.fabric := rfl
@[simp] theorem State.modCore_funcs (s : State) (c : BitVec 7) (f : Core → Core) : (s.modCore c f).funcs = s.funcs := rfl
@[simp] theorem State.modCore_errlog (s : State) (c : BitVec 7) (f : Core → Core) : (s.modCore c f).errlog = s.errlog := rfl
@[simp] theorem State.modCore_frames (s : State) (c : BitVec 7) (f : Core → Core) : (s.modCore c f).frames = s.frames := rfl
@[simp] theorem State.modCore_nextQ (s : State) (c : BitVec 7) (f : Core → Core) : (s.modCore c f).nextQ = s.nextQ := rfl
@[simp] theorem State.modCore_agenda (s : State) (c : BitVec 7) (f : Core → Core) : (s.modCore c f).agenda = s.agenda := rfl
@[simp] theorem State.modCore_ir (s : State) (c : BitVec 7) (f : Core → Core) : (s.modCore c f).ir = s.ir := rfl
@[simp] theorem State.modCore_cur (s : State) (c : BitVec 7) (f : Core → Core) : (s.modCore c f).cur = s.cur := rfl
@[simp] theorem State.modCore_turn (s : State) (c : BitVec 7) (f : Core → Core) : (s.modCore c f).turn = s.turn := rfl
@[simp] theorem State.modCore_reply (s : State) (c : BitVec 7) (f : Core → Core) : (s.modCore c f).reply = s.reply := rfl
@[simp] theorem State.modCore_freeN (s : State) (c : BitVec 7) (f : Core → Core) : (s.modCore c f).freeN = s.freeN := rfl
@[simp] theorem State.modCore_hostLog (s : State) (c : BitVec 7) (f : Core → Core) : (s.modCore c f).hostLog = s.hostLog := rfl
@[simp] theorem State.modCore_outbox (s : State) (c : BitVec 7) (f : Core → Core) : (s.modCore c f).outbox = s.outbox := rfl
@[simp] theorem State.modCore_waits (s : State) (c : BitVec 7) (f : Core → Core) : (s.modCore c f).waits = s.waits := rfl
@[simp] theorem State.modCore_posts (s : State) (c : BitVec 7) (f : Core → Core) : (s.modCore c f).posts = s.posts := rfl
@[simp] theorem State.modCore_dups (s : State) (c : BitVec 7) (f : Core → Core) : (s.modCore c f).dups = s.dups := rfl
@[simp] theorem State.modCore_nextTag (s : State) (c : BitVec 7) (f : Core → Core) : (s.modCore c f).nextTag = s.nextTag := rfl
@[simp] theorem State.modCore_dev (s : State) (c : BitVec 7) (f : Core → Core) : (s.modCore c f).dev = s.dev := rfl
@[simp] theorem State.modCore_hostQ (s : State) (c : BitVec 7) (f : Core → Core) : (s.modCore c f).hostQ = s.hostQ := rfl

/-! ### `State.setPart` -/

@[simp] theorem State.setPart_mem (s : State) (p : BitVec 5) (k : Part) : (s.setPart p k).mem = s.mem := rfl
@[simp] theorem State.setPart_rowTick (s : State) (p : BitVec 5) (k : Part) : (s.setPart p k).rowTick = s.rowTick := rfl
@[simp] theorem State.setPart_rowLive (s : State) (p : BitVec 5) (k : Part) : (s.setPart p k).rowLive = s.rowLive := rfl
@[simp] theorem State.setPart_poison (s : State) (p : BitVec 5) (k : Part) : (s.setPart p k).poison = s.poison := rfl
@[simp] theorem State.setPart_flaws (s : State) (p : BitVec 5) (k : Part) : (s.setPart p k).flaws = s.flaws := rfl
@[simp] theorem State.setPart_time (s : State) (p : BitVec 5) (k : Part) : (s.setPart p k).time = s.time := rfl
@[simp] theorem State.setPart_tickSeen (s : State) (p : BitVec 5) (k : Part) : (s.setPart p k).tickSeen = s.tickSeen := rfl
@[simp] theorem State.setPart_cores (s : State) (p : BitVec 5) (k : Part) : (s.setPart p k).cores = s.cores := rfl
@[simp] theorem State.setPart_queues (s : State) (p : BitVec 5) (k : Part) : (s.setPart p k).queues = s.queues := rfl
@[simp] theorem State.setPart_boot (s : State) (p : BitVec 5) (k : Part) : (s.setPart p k).boot = s.boot := rfl
@[simp] theorem State.setPart_cfgrec (s : State) (p : BitVec 5) (k : Part) : (s.setPart p k).cfgrec = s.cfgrec := rfl
@[simp] theorem State.setPart_power (s : State) (p : BitVec 5) (k : Part) : (s.setPart p k).power = s.power := rfl
@[simp] theorem State.setPart_rings (s : State) (p : BitVec 5) (k : Part) : (s.setPart p k).rings = s.rings := rfl
@[simp] theorem State.setPart_switches (s : State) (p : BitVec 5) (k : Part) : (s.setPart p k).switches = s.switches := rfl
@[simp] theorem State.setPart_ports (s : State) (p : BitVec 5) (k : Part) : (s.setPart p k).ports = s.ports := rfl
@[simp] theorem State.setPart_fabric (s : State) (p : BitVec 5) (k : Part) : (s.setPart p k).fabric = s.fabric := rfl
@[simp] theorem State.setPart_funcs (s : State) (p : BitVec 5) (k : Part) : (s.setPart p k).funcs = s.funcs := rfl
@[simp] theorem State.setPart_errlog (s : State) (p : BitVec 5) (k : Part) : (s.setPart p k).errlog = s.errlog := rfl
@[simp] theorem State.setPart_frames (s : State) (p : BitVec 5) (k : Part) : (s.setPart p k).frames = s.frames := rfl
@[simp] theorem State.setPart_nextQ (s : State) (p : BitVec 5) (k : Part) : (s.setPart p k).nextQ = s.nextQ := rfl
@[simp] theorem State.setPart_agenda (s : State) (p : BitVec 5) (k : Part) : (s.setPart p k).agenda = s.agenda := rfl
@[simp] theorem State.setPart_ir (s : State) (p : BitVec 5) (k : Part) : (s.setPart p k).ir = s.ir := rfl
@[simp] theorem State.setPart_cur (s : State) (p : BitVec 5) (k : Part) : (s.setPart p k).cur = s.cur := rfl
@[simp] theorem State.setPart_turn (s : State) (p : BitVec 5) (k : Part) : (s.setPart p k).turn = s.turn := rfl
@[simp] theorem State.setPart_reply (s : State) (p : BitVec 5) (k : Part) : (s.setPart p k).reply = s.reply := rfl
@[simp] theorem State.setPart_freeN (s : State) (p : BitVec 5) (k : Part) : (s.setPart p k).freeN = s.freeN := rfl
@[simp] theorem State.setPart_hostLog (s : State) (p : BitVec 5) (k : Part) : (s.setPart p k).hostLog = s.hostLog := rfl
@[simp] theorem State.setPart_outbox (s : State) (p : BitVec 5) (k : Part) : (s.setPart p k).outbox = s.outbox := rfl
@[simp] theorem State.setPart_waits (s : State) (p : BitVec 5) (k : Part) : (s.setPart p k).waits = s.waits := rfl
@[simp] theorem State.setPart_posts (s : State) (p : BitVec 5) (k : Part) : (s.setPart p k).posts = s.posts := rfl
@[simp] theorem State.setPart_dups (s : State) (p : BitVec 5) (k : Part) : (s.setPart p k).dups = s.dups := rfl
@[simp] theorem State.setPart_nextTag (s : State) (p : BitVec 5) (k : Part) : (s.setPart p k).nextTag = s.nextTag := rfl
@[simp] theorem State.setPart_dev (s : State) (p : BitVec 5) (k : Part) : (s.setPart p k).dev = s.dev := rfl
@[simp] theorem State.setPart_hostQ (s : State) (p : BitVec 5) (k : Part) : (s.setPart p k).hostQ = s.hostQ := rfl

/-! ### `State.modPart` -/

@[simp] theorem State.modPart_mem (s : State) (p : BitVec 5) (f : Part → Part) : (s.modPart p f).mem = s.mem := rfl
@[simp] theorem State.modPart_rowTick (s : State) (p : BitVec 5) (f : Part → Part) : (s.modPart p f).rowTick = s.rowTick := rfl
@[simp] theorem State.modPart_rowLive (s : State) (p : BitVec 5) (f : Part → Part) : (s.modPart p f).rowLive = s.rowLive := rfl
@[simp] theorem State.modPart_poison (s : State) (p : BitVec 5) (f : Part → Part) : (s.modPart p f).poison = s.poison := rfl
@[simp] theorem State.modPart_flaws (s : State) (p : BitVec 5) (f : Part → Part) : (s.modPart p f).flaws = s.flaws := rfl
@[simp] theorem State.modPart_time (s : State) (p : BitVec 5) (f : Part → Part) : (s.modPart p f).time = s.time := rfl
@[simp] theorem State.modPart_tickSeen (s : State) (p : BitVec 5) (f : Part → Part) : (s.modPart p f).tickSeen = s.tickSeen := rfl
@[simp] theorem State.modPart_cores (s : State) (p : BitVec 5) (f : Part → Part) : (s.modPart p f).cores = s.cores := rfl
@[simp] theorem State.modPart_queues (s : State) (p : BitVec 5) (f : Part → Part) : (s.modPart p f).queues = s.queues := rfl
@[simp] theorem State.modPart_boot (s : State) (p : BitVec 5) (f : Part → Part) : (s.modPart p f).boot = s.boot := rfl
@[simp] theorem State.modPart_cfgrec (s : State) (p : BitVec 5) (f : Part → Part) : (s.modPart p f).cfgrec = s.cfgrec := rfl
@[simp] theorem State.modPart_power (s : State) (p : BitVec 5) (f : Part → Part) : (s.modPart p f).power = s.power := rfl
@[simp] theorem State.modPart_rings (s : State) (p : BitVec 5) (f : Part → Part) : (s.modPart p f).rings = s.rings := rfl
@[simp] theorem State.modPart_switches (s : State) (p : BitVec 5) (f : Part → Part) : (s.modPart p f).switches = s.switches := rfl
@[simp] theorem State.modPart_ports (s : State) (p : BitVec 5) (f : Part → Part) : (s.modPart p f).ports = s.ports := rfl
@[simp] theorem State.modPart_fabric (s : State) (p : BitVec 5) (f : Part → Part) : (s.modPart p f).fabric = s.fabric := rfl
@[simp] theorem State.modPart_funcs (s : State) (p : BitVec 5) (f : Part → Part) : (s.modPart p f).funcs = s.funcs := rfl
@[simp] theorem State.modPart_errlog (s : State) (p : BitVec 5) (f : Part → Part) : (s.modPart p f).errlog = s.errlog := rfl
@[simp] theorem State.modPart_frames (s : State) (p : BitVec 5) (f : Part → Part) : (s.modPart p f).frames = s.frames := rfl
@[simp] theorem State.modPart_nextQ (s : State) (p : BitVec 5) (f : Part → Part) : (s.modPart p f).nextQ = s.nextQ := rfl
@[simp] theorem State.modPart_agenda (s : State) (p : BitVec 5) (f : Part → Part) : (s.modPart p f).agenda = s.agenda := rfl
@[simp] theorem State.modPart_ir (s : State) (p : BitVec 5) (f : Part → Part) : (s.modPart p f).ir = s.ir := rfl
@[simp] theorem State.modPart_cur (s : State) (p : BitVec 5) (f : Part → Part) : (s.modPart p f).cur = s.cur := rfl
@[simp] theorem State.modPart_turn (s : State) (p : BitVec 5) (f : Part → Part) : (s.modPart p f).turn = s.turn := rfl
@[simp] theorem State.modPart_reply (s : State) (p : BitVec 5) (f : Part → Part) : (s.modPart p f).reply = s.reply := rfl
@[simp] theorem State.modPart_freeN (s : State) (p : BitVec 5) (f : Part → Part) : (s.modPart p f).freeN = s.freeN := rfl
@[simp] theorem State.modPart_hostLog (s : State) (p : BitVec 5) (f : Part → Part) : (s.modPart p f).hostLog = s.hostLog := rfl
@[simp] theorem State.modPart_outbox (s : State) (p : BitVec 5) (f : Part → Part) : (s.modPart p f).outbox = s.outbox := rfl
@[simp] theorem State.modPart_waits (s : State) (p : BitVec 5) (f : Part → Part) : (s.modPart p f).waits = s.waits := rfl
@[simp] theorem State.modPart_posts (s : State) (p : BitVec 5) (f : Part → Part) : (s.modPart p f).posts = s.posts := rfl
@[simp] theorem State.modPart_dups (s : State) (p : BitVec 5) (f : Part → Part) : (s.modPart p f).dups = s.dups := rfl
@[simp] theorem State.modPart_nextTag (s : State) (p : BitVec 5) (f : Part → Part) : (s.modPart p f).nextTag = s.nextTag := rfl
@[simp] theorem State.modPart_dev (s : State) (p : BitVec 5) (f : Part → Part) : (s.modPart p f).dev = s.dev := rfl
@[simp] theorem State.modPart_hostQ (s : State) (p : BitVec 5) (f : Part → Part) : (s.modPart p f).hostQ = s.hostQ := rfl

/-! ### `State.push` -/

@[simp] theorem State.push_mem (s : State) (i : Instr) : (s.push i).mem = s.mem := rfl
@[simp] theorem State.push_rowTick (s : State) (i : Instr) : (s.push i).rowTick = s.rowTick := rfl
@[simp] theorem State.push_rowLive (s : State) (i : Instr) : (s.push i).rowLive = s.rowLive := rfl
@[simp] theorem State.push_poison (s : State) (i : Instr) : (s.push i).poison = s.poison := rfl
@[simp] theorem State.push_flaws (s : State) (i : Instr) : (s.push i).flaws = s.flaws := rfl
@[simp] theorem State.push_time (s : State) (i : Instr) : (s.push i).time = s.time := rfl
@[simp] theorem State.push_tickSeen (s : State) (i : Instr) : (s.push i).tickSeen = s.tickSeen := rfl
@[simp] theorem State.push_cores (s : State) (i : Instr) : (s.push i).cores = s.cores := rfl
@[simp] theorem State.push_parts (s : State) (i : Instr) : (s.push i).parts = s.parts := rfl
@[simp] theorem State.push_queues (s : State) (i : Instr) : (s.push i).queues = s.queues := rfl
@[simp] theorem State.push_boot (s : State) (i : Instr) : (s.push i).boot = s.boot := rfl
@[simp] theorem State.push_cfgrec (s : State) (i : Instr) : (s.push i).cfgrec = s.cfgrec := rfl
@[simp] theorem State.push_power (s : State) (i : Instr) : (s.push i).power = s.power := rfl
@[simp] theorem State.push_rings (s : State) (i : Instr) : (s.push i).rings = s.rings := rfl
@[simp] theorem State.push_switches (s : State) (i : Instr) : (s.push i).switches = s.switches := rfl
@[simp] theorem State.push_ports (s : State) (i : Instr) : (s.push i).ports = s.ports := rfl
@[simp] theorem State.push_fabric (s : State) (i : Instr) : (s.push i).fabric = s.fabric := rfl
@[simp] theorem State.push_funcs (s : State) (i : Instr) : (s.push i).funcs = s.funcs := rfl
@[simp] theorem State.push_errlog (s : State) (i : Instr) : (s.push i).errlog = s.errlog := rfl
@[simp] theorem State.push_frames (s : State) (i : Instr) : (s.push i).frames = s.frames := rfl
@[simp] theorem State.push_nextQ (s : State) (i : Instr) : (s.push i).nextQ = s.nextQ := rfl
@[simp] theorem State.push_ir (s : State) (i : Instr) : (s.push i).ir = s.ir := rfl
@[simp] theorem State.push_cur (s : State) (i : Instr) : (s.push i).cur = s.cur := rfl
@[simp] theorem State.push_turn (s : State) (i : Instr) : (s.push i).turn = s.turn := rfl
@[simp] theorem State.push_reply (s : State) (i : Instr) : (s.push i).reply = s.reply := rfl
@[simp] theorem State.push_freeN (s : State) (i : Instr) : (s.push i).freeN = s.freeN := rfl
@[simp] theorem State.push_hostLog (s : State) (i : Instr) : (s.push i).hostLog = s.hostLog := rfl
@[simp] theorem State.push_outbox (s : State) (i : Instr) : (s.push i).outbox = s.outbox := rfl
@[simp] theorem State.push_waits (s : State) (i : Instr) : (s.push i).waits = s.waits := rfl
@[simp] theorem State.push_posts (s : State) (i : Instr) : (s.push i).posts = s.posts := rfl
@[simp] theorem State.push_dups (s : State) (i : Instr) : (s.push i).dups = s.dups := rfl
@[simp] theorem State.push_nextTag (s : State) (i : Instr) : (s.push i).nextTag = s.nextTag := rfl
@[simp] theorem State.push_dev (s : State) (i : Instr) : (s.push i).dev = s.dev := rfl
@[simp] theorem State.push_hostQ (s : State) (i : Instr) : (s.push i).hostQ = s.hostQ := rfl

/-! ### `State.countRetired` -/

@[simp] theorem State.countRetired_mem (s : State) (c : BitVec 7) (k : Strand) : (s.countRetired c k).mem = s.mem := rfl
@[simp] theorem State.countRetired_rowTick (s : State) (c : BitVec 7) (k : Strand) : (s.countRetired c k).rowTick = s.rowTick := rfl
@[simp] theorem State.countRetired_rowLive (s : State) (c : BitVec 7) (k : Strand) : (s.countRetired c k).rowLive = s.rowLive := rfl
@[simp] theorem State.countRetired_poison (s : State) (c : BitVec 7) (k : Strand) : (s.countRetired c k).poison = s.poison := rfl
@[simp] theorem State.countRetired_flaws (s : State) (c : BitVec 7) (k : Strand) : (s.countRetired c k).flaws = s.flaws := rfl
@[simp] theorem State.countRetired_time (s : State) (c : BitVec 7) (k : Strand) : (s.countRetired c k).time = s.time := rfl
@[simp] theorem State.countRetired_tickSeen (s : State) (c : BitVec 7) (k : Strand) : (s.countRetired c k).tickSeen = s.tickSeen := rfl
@[simp] theorem State.countRetired_parts (s : State) (c : BitVec 7) (k : Strand) : (s.countRetired c k).parts = s.parts := rfl
@[simp] theorem State.countRetired_queues (s : State) (c : BitVec 7) (k : Strand) : (s.countRetired c k).queues = s.queues := rfl
@[simp] theorem State.countRetired_boot (s : State) (c : BitVec 7) (k : Strand) : (s.countRetired c k).boot = s.boot := rfl
@[simp] theorem State.countRetired_cfgrec (s : State) (c : BitVec 7) (k : Strand) : (s.countRetired c k).cfgrec = s.cfgrec := rfl
@[simp] theorem State.countRetired_power (s : State) (c : BitVec 7) (k : Strand) : (s.countRetired c k).power = s.power := rfl
@[simp] theorem State.countRetired_rings (s : State) (c : BitVec 7) (k : Strand) : (s.countRetired c k).rings = s.rings := rfl
@[simp] theorem State.countRetired_switches (s : State) (c : BitVec 7) (k : Strand) : (s.countRetired c k).switches = s.switches := rfl
@[simp] theorem State.countRetired_ports (s : State) (c : BitVec 7) (k : Strand) : (s.countRetired c k).ports = s.ports := rfl
@[simp] theorem State.countRetired_fabric (s : State) (c : BitVec 7) (k : Strand) : (s.countRetired c k).fabric = s.fabric := rfl
@[simp] theorem State.countRetired_funcs (s : State) (c : BitVec 7) (k : Strand) : (s.countRetired c k).funcs = s.funcs := rfl
@[simp] theorem State.countRetired_errlog (s : State) (c : BitVec 7) (k : Strand) : (s.countRetired c k).errlog = s.errlog := rfl
@[simp] theorem State.countRetired_frames (s : State) (c : BitVec 7) (k : Strand) : (s.countRetired c k).frames = s.frames := rfl
@[simp] theorem State.countRetired_nextQ (s : State) (c : BitVec 7) (k : Strand) : (s.countRetired c k).nextQ = s.nextQ := rfl
@[simp] theorem State.countRetired_agenda (s : State) (c : BitVec 7) (k : Strand) : (s.countRetired c k).agenda = s.agenda := rfl
@[simp] theorem State.countRetired_ir (s : State) (c : BitVec 7) (k : Strand) : (s.countRetired c k).ir = s.ir := rfl
@[simp] theorem State.countRetired_cur (s : State) (c : BitVec 7) (k : Strand) : (s.countRetired c k).cur = s.cur := rfl
@[simp] theorem State.countRetired_turn (s : State) (c : BitVec 7) (k : Strand) : (s.countRetired c k).turn = s.turn := rfl
@[simp] theorem State.countRetired_reply (s : State) (c : BitVec 7) (k : Strand) : (s.countRetired c k).reply = s.reply := rfl
@[simp] theorem State.countRetired_freeN (s : State) (c : BitVec 7) (k : Strand) : (s.countRetired c k).freeN = s.freeN := rfl
@[simp] theorem State.countRetired_hostLog (s : State) (c : BitVec 7) (k : Strand) : (s.countRetired c k).hostLog = s.hostLog := rfl
@[simp] theorem State.countRetired_outbox (s : State) (c : BitVec 7) (k : Strand) : (s.countRetired c k).outbox = s.outbox := rfl
@[simp] theorem State.countRetired_waits (s : State) (c : BitVec 7) (k : Strand) : (s.countRetired c k).waits = s.waits := rfl
@[simp] theorem State.countRetired_posts (s : State) (c : BitVec 7) (k : Strand) : (s.countRetired c k).posts = s.posts := rfl
@[simp] theorem State.countRetired_dups (s : State) (c : BitVec 7) (k : Strand) : (s.countRetired c k).dups = s.dups := rfl
@[simp] theorem State.countRetired_nextTag (s : State) (c : BitVec 7) (k : Strand) : (s.countRetired c k).nextTag = s.nextTag := rfl
@[simp] theorem State.countRetired_dev (s : State) (c : BitVec 7) (k : Strand) : (s.countRetired c k).dev = s.dev := rfl
@[simp] theorem State.countRetired_hostQ (s : State) (c : BitVec 7) (k : Strand) : (s.countRetired c k).hostQ = s.hostQ := rfl

/-! ### `State.keepHeld` -/

@[simp] theorem State.keepHeld_mem (s : State) (c : BitVec 7) (k : Strand) (h : Held) : (s.keepHeld c k h).mem = s.mem := rfl
@[simp] theorem State.keepHeld_rowTick (s : State) (c : BitVec 7) (k : Strand) (h : Held) : (s.keepHeld c k h).rowTick = s.rowTick := rfl
@[simp] theorem State.keepHeld_rowLive (s : State) (c : BitVec 7) (k : Strand) (h : Held) : (s.keepHeld c k h).rowLive = s.rowLive := rfl
@[simp] theorem State.keepHeld_poison (s : State) (c : BitVec 7) (k : Strand) (h : Held) : (s.keepHeld c k h).poison = s.poison := rfl
@[simp] theorem State.keepHeld_flaws (s : State) (c : BitVec 7) (k : Strand) (h : Held) : (s.keepHeld c k h).flaws = s.flaws := rfl
@[simp] theorem State.keepHeld_time (s : State) (c : BitVec 7) (k : Strand) (h : Held) : (s.keepHeld c k h).time = s.time := rfl
@[simp] theorem State.keepHeld_tickSeen (s : State) (c : BitVec 7) (k : Strand) (h : Held) : (s.keepHeld c k h).tickSeen = s.tickSeen := rfl
@[simp] theorem State.keepHeld_parts (s : State) (c : BitVec 7) (k : Strand) (h : Held) : (s.keepHeld c k h).parts = s.parts := rfl
@[simp] theorem State.keepHeld_queues (s : State) (c : BitVec 7) (k : Strand) (h : Held) : (s.keepHeld c k h).queues = s.queues := rfl
@[simp] theorem State.keepHeld_boot (s : State) (c : BitVec 7) (k : Strand) (h : Held) : (s.keepHeld c k h).boot = s.boot := rfl
@[simp] theorem State.keepHeld_cfgrec (s : State) (c : BitVec 7) (k : Strand) (h : Held) : (s.keepHeld c k h).cfgrec = s.cfgrec := rfl
@[simp] theorem State.keepHeld_power (s : State) (c : BitVec 7) (k : Strand) (h : Held) : (s.keepHeld c k h).power = s.power := rfl
@[simp] theorem State.keepHeld_rings (s : State) (c : BitVec 7) (k : Strand) (h : Held) : (s.keepHeld c k h).rings = s.rings := rfl
@[simp] theorem State.keepHeld_switches (s : State) (c : BitVec 7) (k : Strand) (h : Held) : (s.keepHeld c k h).switches = s.switches := rfl
@[simp] theorem State.keepHeld_ports (s : State) (c : BitVec 7) (k : Strand) (h : Held) : (s.keepHeld c k h).ports = s.ports := rfl
@[simp] theorem State.keepHeld_fabric (s : State) (c : BitVec 7) (k : Strand) (h : Held) : (s.keepHeld c k h).fabric = s.fabric := rfl
@[simp] theorem State.keepHeld_funcs (s : State) (c : BitVec 7) (k : Strand) (h : Held) : (s.keepHeld c k h).funcs = s.funcs := rfl
@[simp] theorem State.keepHeld_errlog (s : State) (c : BitVec 7) (k : Strand) (h : Held) : (s.keepHeld c k h).errlog = s.errlog := rfl
@[simp] theorem State.keepHeld_frames (s : State) (c : BitVec 7) (k : Strand) (h : Held) : (s.keepHeld c k h).frames = s.frames := rfl
@[simp] theorem State.keepHeld_nextQ (s : State) (c : BitVec 7) (k : Strand) (h : Held) : (s.keepHeld c k h).nextQ = s.nextQ := rfl
@[simp] theorem State.keepHeld_agenda (s : State) (c : BitVec 7) (k : Strand) (h : Held) : (s.keepHeld c k h).agenda = s.agenda := rfl
@[simp] theorem State.keepHeld_ir (s : State) (c : BitVec 7) (k : Strand) (h : Held) : (s.keepHeld c k h).ir = s.ir := rfl
@[simp] theorem State.keepHeld_cur (s : State) (c : BitVec 7) (k : Strand) (h : Held) : (s.keepHeld c k h).cur = s.cur := rfl
@[simp] theorem State.keepHeld_turn (s : State) (c : BitVec 7) (k : Strand) (h : Held) : (s.keepHeld c k h).turn = s.turn := rfl
@[simp] theorem State.keepHeld_reply (s : State) (c : BitVec 7) (k : Strand) (h : Held) : (s.keepHeld c k h).reply = s.reply := rfl
@[simp] theorem State.keepHeld_freeN (s : State) (c : BitVec 7) (k : Strand) (h : Held) : (s.keepHeld c k h).freeN = s.freeN := rfl
@[simp] theorem State.keepHeld_hostLog (s : State) (c : BitVec 7) (k : Strand) (h : Held) : (s.keepHeld c k h).hostLog = s.hostLog := rfl
@[simp] theorem State.keepHeld_outbox (s : State) (c : BitVec 7) (k : Strand) (h : Held) : (s.keepHeld c k h).outbox = s.outbox := rfl
@[simp] theorem State.keepHeld_waits (s : State) (c : BitVec 7) (k : Strand) (h : Held) : (s.keepHeld c k h).waits = s.waits := rfl
@[simp] theorem State.keepHeld_posts (s : State) (c : BitVec 7) (k : Strand) (h : Held) : (s.keepHeld c k h).posts = s.posts := rfl
@[simp] theorem State.keepHeld_dups (s : State) (c : BitVec 7) (k : Strand) (h : Held) : (s.keepHeld c k h).dups = s.dups := rfl
@[simp] theorem State.keepHeld_nextTag (s : State) (c : BitVec 7) (k : Strand) (h : Held) : (s.keepHeld c k h).nextTag = s.nextTag := rfl
@[simp] theorem State.keepHeld_dev (s : State) (c : BitVec 7) (k : Strand) (h : Held) : (s.keepHeld c k h).dev = s.dev := rfl
@[simp] theorem State.keepHeld_hostQ (s : State) (c : BitVec 7) (k : Strand) (h : Held) : (s.keepHeld c k h).hostQ = s.hostQ := rfl

/-! ### `State.finishPost` -/

@[simp] theorem State.finishPost_mem (s : State) (c : BitVec 7) (k : Strand) (h : Held) : (s.finishPost c k h).mem = s.mem := rfl
@[simp] theorem State.finishPost_rowTick (s : State) (c : BitVec 7) (k : Strand) (h : Held) : (s.finishPost c k h).rowTick = s.rowTick := rfl
@[simp] theorem State.finishPost_rowLive (s : State) (c : BitVec 7) (k : Strand) (h : Held) : (s.finishPost c k h).rowLive = s.rowLive := rfl
@[simp] theorem State.finishPost_poison (s : State) (c : BitVec 7) (k : Strand) (h : Held) : (s.finishPost c k h).poison = s.poison := rfl
@[simp] theorem State.finishPost_flaws (s : State) (c : BitVec 7) (k : Strand) (h : Held) : (s.finishPost c k h).flaws = s.flaws := rfl
@[simp] theorem State.finishPost_time (s : State) (c : BitVec 7) (k : Strand) (h : Held) : (s.finishPost c k h).time = s.time := rfl
@[simp] theorem State.finishPost_tickSeen (s : State) (c : BitVec 7) (k : Strand) (h : Held) : (s.finishPost c k h).tickSeen = s.tickSeen := rfl
@[simp] theorem State.finishPost_parts (s : State) (c : BitVec 7) (k : Strand) (h : Held) : (s.finishPost c k h).parts = s.parts := rfl
@[simp] theorem State.finishPost_queues (s : State) (c : BitVec 7) (k : Strand) (h : Held) : (s.finishPost c k h).queues = s.queues := rfl
@[simp] theorem State.finishPost_boot (s : State) (c : BitVec 7) (k : Strand) (h : Held) : (s.finishPost c k h).boot = s.boot := rfl
@[simp] theorem State.finishPost_cfgrec (s : State) (c : BitVec 7) (k : Strand) (h : Held) : (s.finishPost c k h).cfgrec = s.cfgrec := rfl
@[simp] theorem State.finishPost_power (s : State) (c : BitVec 7) (k : Strand) (h : Held) : (s.finishPost c k h).power = s.power := rfl
@[simp] theorem State.finishPost_rings (s : State) (c : BitVec 7) (k : Strand) (h : Held) : (s.finishPost c k h).rings = s.rings := rfl
@[simp] theorem State.finishPost_switches (s : State) (c : BitVec 7) (k : Strand) (h : Held) : (s.finishPost c k h).switches = s.switches := rfl
@[simp] theorem State.finishPost_ports (s : State) (c : BitVec 7) (k : Strand) (h : Held) : (s.finishPost c k h).ports = s.ports := rfl
@[simp] theorem State.finishPost_fabric (s : State) (c : BitVec 7) (k : Strand) (h : Held) : (s.finishPost c k h).fabric = s.fabric := rfl
@[simp] theorem State.finishPost_funcs (s : State) (c : BitVec 7) (k : Strand) (h : Held) : (s.finishPost c k h).funcs = s.funcs := rfl
@[simp] theorem State.finishPost_errlog (s : State) (c : BitVec 7) (k : Strand) (h : Held) : (s.finishPost c k h).errlog = s.errlog := rfl
@[simp] theorem State.finishPost_frames (s : State) (c : BitVec 7) (k : Strand) (h : Held) : (s.finishPost c k h).frames = s.frames := rfl
@[simp] theorem State.finishPost_nextQ (s : State) (c : BitVec 7) (k : Strand) (h : Held) : (s.finishPost c k h).nextQ = s.nextQ := rfl
@[simp] theorem State.finishPost_agenda (s : State) (c : BitVec 7) (k : Strand) (h : Held) : (s.finishPost c k h).agenda = s.agenda := rfl
@[simp] theorem State.finishPost_ir (s : State) (c : BitVec 7) (k : Strand) (h : Held) : (s.finishPost c k h).ir = s.ir := rfl
@[simp] theorem State.finishPost_cur (s : State) (c : BitVec 7) (k : Strand) (h : Held) : (s.finishPost c k h).cur = s.cur := rfl
@[simp] theorem State.finishPost_turn (s : State) (c : BitVec 7) (k : Strand) (h : Held) : (s.finishPost c k h).turn = s.turn := rfl
@[simp] theorem State.finishPost_reply (s : State) (c : BitVec 7) (k : Strand) (h : Held) : (s.finishPost c k h).reply = s.reply := rfl
@[simp] theorem State.finishPost_freeN (s : State) (c : BitVec 7) (k : Strand) (h : Held) : (s.finishPost c k h).freeN = s.freeN := rfl
@[simp] theorem State.finishPost_hostLog (s : State) (c : BitVec 7) (k : Strand) (h : Held) : (s.finishPost c k h).hostLog = s.hostLog := rfl
@[simp] theorem State.finishPost_outbox (s : State) (c : BitVec 7) (k : Strand) (h : Held) : (s.finishPost c k h).outbox = s.outbox := rfl
@[simp] theorem State.finishPost_waits (s : State) (c : BitVec 7) (k : Strand) (h : Held) : (s.finishPost c k h).waits = s.waits := rfl
@[simp] theorem State.finishPost_posts (s : State) (c : BitVec 7) (k : Strand) (h : Held) : (s.finishPost c k h).posts = s.posts := rfl
@[simp] theorem State.finishPost_dups (s : State) (c : BitVec 7) (k : Strand) (h : Held) : (s.finishPost c k h).dups = s.dups := rfl
@[simp] theorem State.finishPost_nextTag (s : State) (c : BitVec 7) (k : Strand) (h : Held) : (s.finishPost c k h).nextTag = s.nextTag := rfl
@[simp] theorem State.finishPost_dev (s : State) (c : BitVec 7) (k : Strand) (h : Held) : (s.finishPost c k h).dev = s.dev := rfl
@[simp] theorem State.finishPost_hostQ (s : State) (c : BitVec 7) (k : Strand) (h : Held) : (s.finishPost c k h).hostQ = s.hostQ := rfl

/-! ### `State.modQueue` -/

@[simp] theorem State.modQueue_mem (s : State) (q : BitVec 10) (f : Queue → Queue) : (s.modQueue q f).mem = s.mem := rfl
@[simp] theorem State.modQueue_rowTick (s : State) (q : BitVec 10) (f : Queue → Queue) : (s.modQueue q f).rowTick = s.rowTick := rfl
@[simp] theorem State.modQueue_rowLive (s : State) (q : BitVec 10) (f : Queue → Queue) : (s.modQueue q f).rowLive = s.rowLive := rfl
@[simp] theorem State.modQueue_poison (s : State) (q : BitVec 10) (f : Queue → Queue) : (s.modQueue q f).poison = s.poison := rfl
@[simp] theorem State.modQueue_flaws (s : State) (q : BitVec 10) (f : Queue → Queue) : (s.modQueue q f).flaws = s.flaws := rfl
@[simp] theorem State.modQueue_time (s : State) (q : BitVec 10) (f : Queue → Queue) : (s.modQueue q f).time = s.time := rfl
@[simp] theorem State.modQueue_tickSeen (s : State) (q : BitVec 10) (f : Queue → Queue) : (s.modQueue q f).tickSeen = s.tickSeen := rfl
@[simp] theorem State.modQueue_cores (s : State) (q : BitVec 10) (f : Queue → Queue) : (s.modQueue q f).cores = s.cores := rfl
@[simp] theorem State.modQueue_parts (s : State) (q : BitVec 10) (f : Queue → Queue) : (s.modQueue q f).parts = s.parts := rfl
@[simp] theorem State.modQueue_boot (s : State) (q : BitVec 10) (f : Queue → Queue) : (s.modQueue q f).boot = s.boot := rfl
@[simp] theorem State.modQueue_cfgrec (s : State) (q : BitVec 10) (f : Queue → Queue) : (s.modQueue q f).cfgrec = s.cfgrec := rfl
@[simp] theorem State.modQueue_power (s : State) (q : BitVec 10) (f : Queue → Queue) : (s.modQueue q f).power = s.power := rfl
@[simp] theorem State.modQueue_rings (s : State) (q : BitVec 10) (f : Queue → Queue) : (s.modQueue q f).rings = s.rings := rfl
@[simp] theorem State.modQueue_switches (s : State) (q : BitVec 10) (f : Queue → Queue) : (s.modQueue q f).switches = s.switches := rfl
@[simp] theorem State.modQueue_ports (s : State) (q : BitVec 10) (f : Queue → Queue) : (s.modQueue q f).ports = s.ports := rfl
@[simp] theorem State.modQueue_fabric (s : State) (q : BitVec 10) (f : Queue → Queue) : (s.modQueue q f).fabric = s.fabric := rfl
@[simp] theorem State.modQueue_funcs (s : State) (q : BitVec 10) (f : Queue → Queue) : (s.modQueue q f).funcs = s.funcs := rfl
@[simp] theorem State.modQueue_errlog (s : State) (q : BitVec 10) (f : Queue → Queue) : (s.modQueue q f).errlog = s.errlog := rfl
@[simp] theorem State.modQueue_frames (s : State) (q : BitVec 10) (f : Queue → Queue) : (s.modQueue q f).frames = s.frames := rfl
@[simp] theorem State.modQueue_nextQ (s : State) (q : BitVec 10) (f : Queue → Queue) : (s.modQueue q f).nextQ = s.nextQ := rfl
@[simp] theorem State.modQueue_agenda (s : State) (q : BitVec 10) (f : Queue → Queue) : (s.modQueue q f).agenda = s.agenda := rfl
@[simp] theorem State.modQueue_ir (s : State) (q : BitVec 10) (f : Queue → Queue) : (s.modQueue q f).ir = s.ir := rfl
@[simp] theorem State.modQueue_cur (s : State) (q : BitVec 10) (f : Queue → Queue) : (s.modQueue q f).cur = s.cur := rfl
@[simp] theorem State.modQueue_turn (s : State) (q : BitVec 10) (f : Queue → Queue) : (s.modQueue q f).turn = s.turn := rfl
@[simp] theorem State.modQueue_reply (s : State) (q : BitVec 10) (f : Queue → Queue) : (s.modQueue q f).reply = s.reply := rfl
@[simp] theorem State.modQueue_freeN (s : State) (q : BitVec 10) (f : Queue → Queue) : (s.modQueue q f).freeN = s.freeN := rfl
@[simp] theorem State.modQueue_hostLog (s : State) (q : BitVec 10) (f : Queue → Queue) : (s.modQueue q f).hostLog = s.hostLog := rfl
@[simp] theorem State.modQueue_outbox (s : State) (q : BitVec 10) (f : Queue → Queue) : (s.modQueue q f).outbox = s.outbox := rfl
@[simp] theorem State.modQueue_waits (s : State) (q : BitVec 10) (f : Queue → Queue) : (s.modQueue q f).waits = s.waits := rfl
@[simp] theorem State.modQueue_posts (s : State) (q : BitVec 10) (f : Queue → Queue) : (s.modQueue q f).posts = s.posts := rfl
@[simp] theorem State.modQueue_dups (s : State) (q : BitVec 10) (f : Queue → Queue) : (s.modQueue q f).dups = s.dups := rfl
@[simp] theorem State.modQueue_nextTag (s : State) (q : BitVec 10) (f : Queue → Queue) : (s.modQueue q f).nextTag = s.nextTag := rfl
@[simp] theorem State.modQueue_dev (s : State) (q : BitVec 10) (f : Queue → Queue) : (s.modQueue q f).dev = s.dev := rfl
@[simp] theorem State.modQueue_hostQ (s : State) (q : BitVec 10) (f : Queue → Queue) : (s.modQueue q f).hostQ = s.hostQ := rfl

/-! ### `State.poke` -/

@[simp] theorem State.poke_rowTick (s : State) (pa : Nat) (bs : List Byte) : (s.poke pa bs).rowTick = s.rowTick := rfl
@[simp] theorem State.poke_rowLive (s : State) (pa : Nat) (bs : List Byte) : (s.poke pa bs).rowLive = s.rowLive := rfl
@[simp] theorem State.poke_poison (s : State) (pa : Nat) (bs : List Byte) : (s.poke pa bs).poison = s.poison := rfl
@[simp] theorem State.poke_flaws (s : State) (pa : Nat) (bs : List Byte) : (s.poke pa bs).flaws = s.flaws := rfl
@[simp] theorem State.poke_time (s : State) (pa : Nat) (bs : List Byte) : (s.poke pa bs).time = s.time := rfl
@[simp] theorem State.poke_tickSeen (s : State) (pa : Nat) (bs : List Byte) : (s.poke pa bs).tickSeen = s.tickSeen := rfl
@[simp] theorem State.poke_cores (s : State) (pa : Nat) (bs : List Byte) : (s.poke pa bs).cores = s.cores := rfl
@[simp] theorem State.poke_parts (s : State) (pa : Nat) (bs : List Byte) : (s.poke pa bs).parts = s.parts := rfl
@[simp] theorem State.poke_queues (s : State) (pa : Nat) (bs : List Byte) : (s.poke pa bs).queues = s.queues := rfl
@[simp] theorem State.poke_boot (s : State) (pa : Nat) (bs : List Byte) : (s.poke pa bs).boot = s.boot := rfl
@[simp] theorem State.poke_cfgrec (s : State) (pa : Nat) (bs : List Byte) : (s.poke pa bs).cfgrec = s.cfgrec := rfl
@[simp] theorem State.poke_power (s : State) (pa : Nat) (bs : List Byte) : (s.poke pa bs).power = s.power := rfl
@[simp] theorem State.poke_rings (s : State) (pa : Nat) (bs : List Byte) : (s.poke pa bs).rings = s.rings := rfl
@[simp] theorem State.poke_switches (s : State) (pa : Nat) (bs : List Byte) : (s.poke pa bs).switches = s.switches := rfl
@[simp] theorem State.poke_ports (s : State) (pa : Nat) (bs : List Byte) : (s.poke pa bs).ports = s.ports := rfl
@[simp] theorem State.poke_fabric (s : State) (pa : Nat) (bs : List Byte) : (s.poke pa bs).fabric = s.fabric := rfl
@[simp] theorem State.poke_funcs (s : State) (pa : Nat) (bs : List Byte) : (s.poke pa bs).funcs = s.funcs := rfl
@[simp] theorem State.poke_errlog (s : State) (pa : Nat) (bs : List Byte) : (s.poke pa bs).errlog = s.errlog := rfl
@[simp] theorem State.poke_frames (s : State) (pa : Nat) (bs : List Byte) : (s.poke pa bs).frames = s.frames := rfl
@[simp] theorem State.poke_nextQ (s : State) (pa : Nat) (bs : List Byte) : (s.poke pa bs).nextQ = s.nextQ := rfl
@[simp] theorem State.poke_agenda (s : State) (pa : Nat) (bs : List Byte) : (s.poke pa bs).agenda = s.agenda := rfl
@[simp] theorem State.poke_ir (s : State) (pa : Nat) (bs : List Byte) : (s.poke pa bs).ir = s.ir := rfl
@[simp] theorem State.poke_cur (s : State) (pa : Nat) (bs : List Byte) : (s.poke pa bs).cur = s.cur := rfl
@[simp] theorem State.poke_turn (s : State) (pa : Nat) (bs : List Byte) : (s.poke pa bs).turn = s.turn := rfl
@[simp] theorem State.poke_reply (s : State) (pa : Nat) (bs : List Byte) : (s.poke pa bs).reply = s.reply := rfl
@[simp] theorem State.poke_freeN (s : State) (pa : Nat) (bs : List Byte) : (s.poke pa bs).freeN = s.freeN := rfl
@[simp] theorem State.poke_hostLog (s : State) (pa : Nat) (bs : List Byte) : (s.poke pa bs).hostLog = s.hostLog := rfl
@[simp] theorem State.poke_outbox (s : State) (pa : Nat) (bs : List Byte) : (s.poke pa bs).outbox = s.outbox := rfl
@[simp] theorem State.poke_waits (s : State) (pa : Nat) (bs : List Byte) : (s.poke pa bs).waits = s.waits := rfl
@[simp] theorem State.poke_posts (s : State) (pa : Nat) (bs : List Byte) : (s.poke pa bs).posts = s.posts := rfl
@[simp] theorem State.poke_dups (s : State) (pa : Nat) (bs : List Byte) : (s.poke pa bs).dups = s.dups := rfl
@[simp] theorem State.poke_nextTag (s : State) (pa : Nat) (bs : List Byte) : (s.poke pa bs).nextTag = s.nextTag := rfl
@[simp] theorem State.poke_dev (s : State) (pa : Nat) (bs : List Byte) : (s.poke pa bs).dev = s.dev := rfl
@[simp] theorem State.poke_hostQ (s : State) (pa : Nat) (bs : List Byte) : (s.poke pa bs).hostQ = s.hostQ := rfl

/-! ### `State.issueHeld` -/

@[simp] theorem State.issueHeld_mem (s : State) (k : Strand) (tk : Tok) : (s.issueHeld k tk).mem = s.mem := by unfold State.issueHeld; dsimp only; split <;> rfl
@[simp] theorem State.issueHeld_rowTick (s : State) (k : Strand) (tk : Tok) : (s.issueHeld k tk).rowTick = s.rowTick := by unfold State.issueHeld; dsimp only; split <;> rfl
@[simp] theorem State.issueHeld_rowLive (s : State) (k : Strand) (tk : Tok) : (s.issueHeld k tk).rowLive = s.rowLive := by unfold State.issueHeld; dsimp only; split <;> rfl
@[simp] theorem State.issueHeld_poison (s : State) (k : Strand) (tk : Tok) : (s.issueHeld k tk).poison = s.poison := by unfold State.issueHeld; dsimp only; split <;> rfl
@[simp] theorem State.issueHeld_flaws (s : State) (k : Strand) (tk : Tok) : (s.issueHeld k tk).flaws = s.flaws := by unfold State.issueHeld; dsimp only; split <;> rfl
@[simp] theorem State.issueHeld_time (s : State) (k : Strand) (tk : Tok) : (s.issueHeld k tk).time = s.time := by unfold State.issueHeld; dsimp only; split <;> rfl
@[simp] theorem State.issueHeld_tickSeen (s : State) (k : Strand) (tk : Tok) : (s.issueHeld k tk).tickSeen = s.tickSeen := by unfold State.issueHeld; dsimp only; split <;> rfl
@[simp] theorem State.issueHeld_parts (s : State) (k : Strand) (tk : Tok) : (s.issueHeld k tk).parts = s.parts := by unfold State.issueHeld; dsimp only; split <;> rfl
@[simp] theorem State.issueHeld_queues (s : State) (k : Strand) (tk : Tok) : (s.issueHeld k tk).queues = s.queues := by unfold State.issueHeld; dsimp only; split <;> rfl
@[simp] theorem State.issueHeld_boot (s : State) (k : Strand) (tk : Tok) : (s.issueHeld k tk).boot = s.boot := by unfold State.issueHeld; dsimp only; split <;> rfl
@[simp] theorem State.issueHeld_cfgrec (s : State) (k : Strand) (tk : Tok) : (s.issueHeld k tk).cfgrec = s.cfgrec := by unfold State.issueHeld; dsimp only; split <;> rfl
@[simp] theorem State.issueHeld_power (s : State) (k : Strand) (tk : Tok) : (s.issueHeld k tk).power = s.power := by unfold State.issueHeld; dsimp only; split <;> rfl
@[simp] theorem State.issueHeld_rings (s : State) (k : Strand) (tk : Tok) : (s.issueHeld k tk).rings = s.rings := by unfold State.issueHeld; dsimp only; split <;> rfl
@[simp] theorem State.issueHeld_switches (s : State) (k : Strand) (tk : Tok) : (s.issueHeld k tk).switches = s.switches := by unfold State.issueHeld; dsimp only; split <;> rfl
@[simp] theorem State.issueHeld_ports (s : State) (k : Strand) (tk : Tok) : (s.issueHeld k tk).ports = s.ports := by unfold State.issueHeld; dsimp only; split <;> rfl
@[simp] theorem State.issueHeld_fabric (s : State) (k : Strand) (tk : Tok) : (s.issueHeld k tk).fabric = s.fabric := by unfold State.issueHeld; dsimp only; split <;> rfl
@[simp] theorem State.issueHeld_funcs (s : State) (k : Strand) (tk : Tok) : (s.issueHeld k tk).funcs = s.funcs := by unfold State.issueHeld; dsimp only; split <;> rfl
@[simp] theorem State.issueHeld_errlog (s : State) (k : Strand) (tk : Tok) : (s.issueHeld k tk).errlog = s.errlog := by unfold State.issueHeld; dsimp only; split <;> rfl
@[simp] theorem State.issueHeld_frames (s : State) (k : Strand) (tk : Tok) : (s.issueHeld k tk).frames = s.frames := by unfold State.issueHeld; dsimp only; split <;> rfl
@[simp] theorem State.issueHeld_nextQ (s : State) (k : Strand) (tk : Tok) : (s.issueHeld k tk).nextQ = s.nextQ := by unfold State.issueHeld; dsimp only; split <;> rfl
@[simp] theorem State.issueHeld_agenda (s : State) (k : Strand) (tk : Tok) : (s.issueHeld k tk).agenda = s.agenda := by unfold State.issueHeld; dsimp only; split <;> rfl
@[simp] theorem State.issueHeld_ir (s : State) (k : Strand) (tk : Tok) : (s.issueHeld k tk).ir = s.ir := by unfold State.issueHeld; dsimp only; split <;> rfl
@[simp] theorem State.issueHeld_cur (s : State) (k : Strand) (tk : Tok) : (s.issueHeld k tk).cur = s.cur := by unfold State.issueHeld; dsimp only; split <;> rfl
@[simp] theorem State.issueHeld_turn (s : State) (k : Strand) (tk : Tok) : (s.issueHeld k tk).turn = s.turn := by unfold State.issueHeld; dsimp only; split <;> rfl
@[simp] theorem State.issueHeld_reply (s : State) (k : Strand) (tk : Tok) : (s.issueHeld k tk).reply = s.reply := by unfold State.issueHeld; dsimp only; split <;> rfl
@[simp] theorem State.issueHeld_freeN (s : State) (k : Strand) (tk : Tok) : (s.issueHeld k tk).freeN = s.freeN := by unfold State.issueHeld; dsimp only; split <;> rfl
@[simp] theorem State.issueHeld_hostLog (s : State) (k : Strand) (tk : Tok) : (s.issueHeld k tk).hostLog = s.hostLog := by unfold State.issueHeld; dsimp only; split <;> rfl
@[simp] theorem State.issueHeld_outbox (s : State) (k : Strand) (tk : Tok) : (s.issueHeld k tk).outbox = s.outbox := by unfold State.issueHeld; dsimp only; split <;> rfl
@[simp] theorem State.issueHeld_waits (s : State) (k : Strand) (tk : Tok) : (s.issueHeld k tk).waits = s.waits := by unfold State.issueHeld; dsimp only; split <;> rfl
@[simp] theorem State.issueHeld_posts (s : State) (k : Strand) (tk : Tok) : (s.issueHeld k tk).posts = s.posts := by unfold State.issueHeld; dsimp only; split <;> rfl
@[simp] theorem State.issueHeld_dups (s : State) (k : Strand) (tk : Tok) : (s.issueHeld k tk).dups = s.dups := by unfold State.issueHeld; dsimp only; split <;> rfl
@[simp] theorem State.issueHeld_nextTag (s : State) (k : Strand) (tk : Tok) : (s.issueHeld k tk).nextTag = s.nextTag := by unfold State.issueHeld; dsimp only; split <;> rfl
@[simp] theorem State.issueHeld_dev (s : State) (k : Strand) (tk : Tok) : (s.issueHeld k tk).dev = s.dev := by unfold State.issueHeld; dsimp only; split <;> rfl
@[simp] theorem State.issueHeld_hostQ (s : State) (k : Strand) (tk : Tok) : (s.issueHeld k tk).hostQ = s.hostQ := by unfold State.issueHeld; dsimp only; split <;> rfl

/-! ### `State.dropWaits` -/

@[simp] theorem State.dropWaits_mem (s : State) (c : BitVec 7) (k : Strand) : (s.dropWaits c k).mem = s.mem := by unfold State.dropWaits; split <;> rfl
@[simp] theorem State.dropWaits_rowTick (s : State) (c : BitVec 7) (k : Strand) : (s.dropWaits c k).rowTick = s.rowTick := by unfold State.dropWaits; split <;> rfl
@[simp] theorem State.dropWaits_rowLive (s : State) (c : BitVec 7) (k : Strand) : (s.dropWaits c k).rowLive = s.rowLive := by unfold State.dropWaits; split <;> rfl
@[simp] theorem State.dropWaits_poison (s : State) (c : BitVec 7) (k : Strand) : (s.dropWaits c k).poison = s.poison := by unfold State.dropWaits; split <;> rfl
@[simp] theorem State.dropWaits_flaws (s : State) (c : BitVec 7) (k : Strand) : (s.dropWaits c k).flaws = s.flaws := by unfold State.dropWaits; split <;> rfl
@[simp] theorem State.dropWaits_time (s : State) (c : BitVec 7) (k : Strand) : (s.dropWaits c k).time = s.time := by unfold State.dropWaits; split <;> rfl
@[simp] theorem State.dropWaits_tickSeen (s : State) (c : BitVec 7) (k : Strand) : (s.dropWaits c k).tickSeen = s.tickSeen := by unfold State.dropWaits; split <;> rfl
@[simp] theorem State.dropWaits_cores (s : State) (c : BitVec 7) (k : Strand) : (s.dropWaits c k).cores = s.cores := by unfold State.dropWaits; split <;> rfl
@[simp] theorem State.dropWaits_parts (s : State) (c : BitVec 7) (k : Strand) : (s.dropWaits c k).parts = s.parts := by unfold State.dropWaits; split <;> rfl
@[simp] theorem State.dropWaits_queues (s : State) (c : BitVec 7) (k : Strand) : (s.dropWaits c k).queues = s.queues := by unfold State.dropWaits; split <;> rfl
@[simp] theorem State.dropWaits_boot (s : State) (c : BitVec 7) (k : Strand) : (s.dropWaits c k).boot = s.boot := by unfold State.dropWaits; split <;> rfl
@[simp] theorem State.dropWaits_cfgrec (s : State) (c : BitVec 7) (k : Strand) : (s.dropWaits c k).cfgrec = s.cfgrec := by unfold State.dropWaits; split <;> rfl
@[simp] theorem State.dropWaits_power (s : State) (c : BitVec 7) (k : Strand) : (s.dropWaits c k).power = s.power := by unfold State.dropWaits; split <;> rfl
@[simp] theorem State.dropWaits_rings (s : State) (c : BitVec 7) (k : Strand) : (s.dropWaits c k).rings = s.rings := by unfold State.dropWaits; split <;> rfl
@[simp] theorem State.dropWaits_switches (s : State) (c : BitVec 7) (k : Strand) : (s.dropWaits c k).switches = s.switches := by unfold State.dropWaits; split <;> rfl
@[simp] theorem State.dropWaits_ports (s : State) (c : BitVec 7) (k : Strand) : (s.dropWaits c k).ports = s.ports := by unfold State.dropWaits; split <;> rfl
@[simp] theorem State.dropWaits_fabric (s : State) (c : BitVec 7) (k : Strand) : (s.dropWaits c k).fabric = s.fabric := by unfold State.dropWaits; split <;> rfl
@[simp] theorem State.dropWaits_funcs (s : State) (c : BitVec 7) (k : Strand) : (s.dropWaits c k).funcs = s.funcs := by unfold State.dropWaits; split <;> rfl
@[simp] theorem State.dropWaits_errlog (s : State) (c : BitVec 7) (k : Strand) : (s.dropWaits c k).errlog = s.errlog := by unfold State.dropWaits; split <;> rfl
@[simp] theorem State.dropWaits_frames (s : State) (c : BitVec 7) (k : Strand) : (s.dropWaits c k).frames = s.frames := by unfold State.dropWaits; split <;> rfl
@[simp] theorem State.dropWaits_nextQ (s : State) (c : BitVec 7) (k : Strand) : (s.dropWaits c k).nextQ = s.nextQ := by unfold State.dropWaits; split <;> rfl
@[simp] theorem State.dropWaits_agenda (s : State) (c : BitVec 7) (k : Strand) : (s.dropWaits c k).agenda = s.agenda := by unfold State.dropWaits; split <;> rfl
@[simp] theorem State.dropWaits_ir (s : State) (c : BitVec 7) (k : Strand) : (s.dropWaits c k).ir = s.ir := by unfold State.dropWaits; split <;> rfl
@[simp] theorem State.dropWaits_cur (s : State) (c : BitVec 7) (k : Strand) : (s.dropWaits c k).cur = s.cur := by unfold State.dropWaits; split <;> rfl
@[simp] theorem State.dropWaits_turn (s : State) (c : BitVec 7) (k : Strand) : (s.dropWaits c k).turn = s.turn := by unfold State.dropWaits; split <;> rfl
@[simp] theorem State.dropWaits_reply (s : State) (c : BitVec 7) (k : Strand) : (s.dropWaits c k).reply = s.reply := by unfold State.dropWaits; split <;> rfl
@[simp] theorem State.dropWaits_freeN (s : State) (c : BitVec 7) (k : Strand) : (s.dropWaits c k).freeN = s.freeN := by unfold State.dropWaits; split <;> rfl
@[simp] theorem State.dropWaits_hostLog (s : State) (c : BitVec 7) (k : Strand) : (s.dropWaits c k).hostLog = s.hostLog := by unfold State.dropWaits; split <;> rfl
@[simp] theorem State.dropWaits_outbox (s : State) (c : BitVec 7) (k : Strand) : (s.dropWaits c k).outbox = s.outbox := by unfold State.dropWaits; split <;> rfl
@[simp] theorem State.dropWaits_posts (s : State) (c : BitVec 7) (k : Strand) : (s.dropWaits c k).posts = s.posts := by unfold State.dropWaits; split <;> rfl
@[simp] theorem State.dropWaits_dups (s : State) (c : BitVec 7) (k : Strand) : (s.dropWaits c k).dups = s.dups := by unfold State.dropWaits; split <;> rfl
@[simp] theorem State.dropWaits_nextTag (s : State) (c : BitVec 7) (k : Strand) : (s.dropWaits c k).nextTag = s.nextTag := by unfold State.dropWaits; split <;> rfl
@[simp] theorem State.dropWaits_dev (s : State) (c : BitVec 7) (k : Strand) : (s.dropWaits c k).dev = s.dev := by unfold State.dropWaits; split <;> rfl
@[simp] theorem State.dropWaits_hostQ (s : State) (c : BitVec 7) (k : Strand) : (s.dropWaits c k).hostQ = s.hostQ := by unfold State.dropWaits; split <;> rfl

/-! ### `State.modFunc` -/

@[simp] theorem State.modFunc_mem (s : State) (f : Nat) (g : Func → Func) : (s.modFunc f g).mem = s.mem := by unfold State.modFunc; split <;> rfl
@[simp] theorem State.modFunc_rowTick (s : State) (f : Nat) (g : Func → Func) : (s.modFunc f g).rowTick = s.rowTick := by unfold State.modFunc; split <;> rfl
@[simp] theorem State.modFunc_rowLive (s : State) (f : Nat) (g : Func → Func) : (s.modFunc f g).rowLive = s.rowLive := by unfold State.modFunc; split <;> rfl
@[simp] theorem State.modFunc_poison (s : State) (f : Nat) (g : Func → Func) : (s.modFunc f g).poison = s.poison := by unfold State.modFunc; split <;> rfl
@[simp] theorem State.modFunc_flaws (s : State) (f : Nat) (g : Func → Func) : (s.modFunc f g).flaws = s.flaws := by unfold State.modFunc; split <;> rfl
@[simp] theorem State.modFunc_time (s : State) (f : Nat) (g : Func → Func) : (s.modFunc f g).time = s.time := by unfold State.modFunc; split <;> rfl
@[simp] theorem State.modFunc_tickSeen (s : State) (f : Nat) (g : Func → Func) : (s.modFunc f g).tickSeen = s.tickSeen := by unfold State.modFunc; split <;> rfl
@[simp] theorem State.modFunc_cores (s : State) (f : Nat) (g : Func → Func) : (s.modFunc f g).cores = s.cores := by unfold State.modFunc; split <;> rfl
@[simp] theorem State.modFunc_parts (s : State) (f : Nat) (g : Func → Func) : (s.modFunc f g).parts = s.parts := by unfold State.modFunc; split <;> rfl
@[simp] theorem State.modFunc_queues (s : State) (f : Nat) (g : Func → Func) : (s.modFunc f g).queues = s.queues := by unfold State.modFunc; split <;> rfl
@[simp] theorem State.modFunc_boot (s : State) (f : Nat) (g : Func → Func) : (s.modFunc f g).boot = s.boot := by unfold State.modFunc; split <;> rfl
@[simp] theorem State.modFunc_cfgrec (s : State) (f : Nat) (g : Func → Func) : (s.modFunc f g).cfgrec = s.cfgrec := by unfold State.modFunc; split <;> rfl
@[simp] theorem State.modFunc_power (s : State) (f : Nat) (g : Func → Func) : (s.modFunc f g).power = s.power := by unfold State.modFunc; split <;> rfl
@[simp] theorem State.modFunc_rings (s : State) (f : Nat) (g : Func → Func) : (s.modFunc f g).rings = s.rings := by unfold State.modFunc; split <;> rfl
@[simp] theorem State.modFunc_switches (s : State) (f : Nat) (g : Func → Func) : (s.modFunc f g).switches = s.switches := by unfold State.modFunc; split <;> rfl
@[simp] theorem State.modFunc_ports (s : State) (f : Nat) (g : Func → Func) : (s.modFunc f g).ports = s.ports := by unfold State.modFunc; split <;> rfl
@[simp] theorem State.modFunc_fabric (s : State) (f : Nat) (g : Func → Func) : (s.modFunc f g).fabric = s.fabric := by unfold State.modFunc; split <;> rfl
@[simp] theorem State.modFunc_errlog (s : State) (f : Nat) (g : Func → Func) : (s.modFunc f g).errlog = s.errlog := by unfold State.modFunc; split <;> rfl
@[simp] theorem State.modFunc_frames (s : State) (f : Nat) (g : Func → Func) : (s.modFunc f g).frames = s.frames := by unfold State.modFunc; split <;> rfl
@[simp] theorem State.modFunc_nextQ (s : State) (f : Nat) (g : Func → Func) : (s.modFunc f g).nextQ = s.nextQ := by unfold State.modFunc; split <;> rfl
@[simp] theorem State.modFunc_agenda (s : State) (f : Nat) (g : Func → Func) : (s.modFunc f g).agenda = s.agenda := by unfold State.modFunc; split <;> rfl
@[simp] theorem State.modFunc_ir (s : State) (f : Nat) (g : Func → Func) : (s.modFunc f g).ir = s.ir := by unfold State.modFunc; split <;> rfl
@[simp] theorem State.modFunc_cur (s : State) (f : Nat) (g : Func → Func) : (s.modFunc f g).cur = s.cur := by unfold State.modFunc; split <;> rfl
@[simp] theorem State.modFunc_turn (s : State) (f : Nat) (g : Func → Func) : (s.modFunc f g).turn = s.turn := by unfold State.modFunc; split <;> rfl
@[simp] theorem State.modFunc_reply (s : State) (f : Nat) (g : Func → Func) : (s.modFunc f g).reply = s.reply := by unfold State.modFunc; split <;> rfl
@[simp] theorem State.modFunc_freeN (s : State) (f : Nat) (g : Func → Func) : (s.modFunc f g).freeN = s.freeN := by unfold State.modFunc; split <;> rfl
@[simp] theorem State.modFunc_hostLog (s : State) (f : Nat) (g : Func → Func) : (s.modFunc f g).hostLog = s.hostLog := by unfold State.modFunc; split <;> rfl
@[simp] theorem State.modFunc_outbox (s : State) (f : Nat) (g : Func → Func) : (s.modFunc f g).outbox = s.outbox := by unfold State.modFunc; split <;> rfl
@[simp] theorem State.modFunc_waits (s : State) (f : Nat) (g : Func → Func) : (s.modFunc f g).waits = s.waits := by unfold State.modFunc; split <;> rfl
@[simp] theorem State.modFunc_posts (s : State) (f : Nat) (g : Func → Func) : (s.modFunc f g).posts = s.posts := by unfold State.modFunc; split <;> rfl
@[simp] theorem State.modFunc_dups (s : State) (f : Nat) (g : Func → Func) : (s.modFunc f g).dups = s.dups := by unfold State.modFunc; split <;> rfl
@[simp] theorem State.modFunc_nextTag (s : State) (f : Nat) (g : Func → Func) : (s.modFunc f g).nextTag = s.nextTag := by unfold State.modFunc; split <;> rfl
@[simp] theorem State.modFunc_dev (s : State) (f : Nat) (g : Func → Func) : (s.modFunc f g).dev = s.dev := by unfold State.modFunc; split <;> rfl
@[simp] theorem State.modFunc_hostQ (s : State) (f : Nat) (g : Func → Func) : (s.modFunc f g).hostQ = s.hostQ := by unfold State.modFunc; split <;> rfl

/-! ### `State.modPort` -/

@[simp] theorem State.modPort_mem (s : State) (i : Nat) (f : TorusPort → TorusPort) : (s.modPort i f).mem = s.mem := by unfold State.modPort; split <;> rfl
@[simp] theorem State.modPort_rowTick (s : State) (i : Nat) (f : TorusPort → TorusPort) : (s.modPort i f).rowTick = s.rowTick := by unfold State.modPort; split <;> rfl
@[simp] theorem State.modPort_rowLive (s : State) (i : Nat) (f : TorusPort → TorusPort) : (s.modPort i f).rowLive = s.rowLive := by unfold State.modPort; split <;> rfl
@[simp] theorem State.modPort_poison (s : State) (i : Nat) (f : TorusPort → TorusPort) : (s.modPort i f).poison = s.poison := by unfold State.modPort; split <;> rfl
@[simp] theorem State.modPort_flaws (s : State) (i : Nat) (f : TorusPort → TorusPort) : (s.modPort i f).flaws = s.flaws := by unfold State.modPort; split <;> rfl
@[simp] theorem State.modPort_time (s : State) (i : Nat) (f : TorusPort → TorusPort) : (s.modPort i f).time = s.time := by unfold State.modPort; split <;> rfl
@[simp] theorem State.modPort_tickSeen (s : State) (i : Nat) (f : TorusPort → TorusPort) : (s.modPort i f).tickSeen = s.tickSeen := by unfold State.modPort; split <;> rfl
@[simp] theorem State.modPort_cores (s : State) (i : Nat) (f : TorusPort → TorusPort) : (s.modPort i f).cores = s.cores := by unfold State.modPort; split <;> rfl
@[simp] theorem State.modPort_parts (s : State) (i : Nat) (f : TorusPort → TorusPort) : (s.modPort i f).parts = s.parts := by unfold State.modPort; split <;> rfl
@[simp] theorem State.modPort_queues (s : State) (i : Nat) (f : TorusPort → TorusPort) : (s.modPort i f).queues = s.queues := by unfold State.modPort; split <;> rfl
@[simp] theorem State.modPort_boot (s : State) (i : Nat) (f : TorusPort → TorusPort) : (s.modPort i f).boot = s.boot := by unfold State.modPort; split <;> rfl
@[simp] theorem State.modPort_cfgrec (s : State) (i : Nat) (f : TorusPort → TorusPort) : (s.modPort i f).cfgrec = s.cfgrec := by unfold State.modPort; split <;> rfl
@[simp] theorem State.modPort_power (s : State) (i : Nat) (f : TorusPort → TorusPort) : (s.modPort i f).power = s.power := by unfold State.modPort; split <;> rfl
@[simp] theorem State.modPort_rings (s : State) (i : Nat) (f : TorusPort → TorusPort) : (s.modPort i f).rings = s.rings := by unfold State.modPort; split <;> rfl
@[simp] theorem State.modPort_switches (s : State) (i : Nat) (f : TorusPort → TorusPort) : (s.modPort i f).switches = s.switches := by unfold State.modPort; split <;> rfl
@[simp] theorem State.modPort_fabric (s : State) (i : Nat) (f : TorusPort → TorusPort) : (s.modPort i f).fabric = s.fabric := by unfold State.modPort; split <;> rfl
@[simp] theorem State.modPort_funcs (s : State) (i : Nat) (f : TorusPort → TorusPort) : (s.modPort i f).funcs = s.funcs := by unfold State.modPort; split <;> rfl
@[simp] theorem State.modPort_errlog (s : State) (i : Nat) (f : TorusPort → TorusPort) : (s.modPort i f).errlog = s.errlog := by unfold State.modPort; split <;> rfl
@[simp] theorem State.modPort_frames (s : State) (i : Nat) (f : TorusPort → TorusPort) : (s.modPort i f).frames = s.frames := by unfold State.modPort; split <;> rfl
@[simp] theorem State.modPort_nextQ (s : State) (i : Nat) (f : TorusPort → TorusPort) : (s.modPort i f).nextQ = s.nextQ := by unfold State.modPort; split <;> rfl
@[simp] theorem State.modPort_agenda (s : State) (i : Nat) (f : TorusPort → TorusPort) : (s.modPort i f).agenda = s.agenda := by unfold State.modPort; split <;> rfl
@[simp] theorem State.modPort_ir (s : State) (i : Nat) (f : TorusPort → TorusPort) : (s.modPort i f).ir = s.ir := by unfold State.modPort; split <;> rfl
@[simp] theorem State.modPort_cur (s : State) (i : Nat) (f : TorusPort → TorusPort) : (s.modPort i f).cur = s.cur := by unfold State.modPort; split <;> rfl
@[simp] theorem State.modPort_turn (s : State) (i : Nat) (f : TorusPort → TorusPort) : (s.modPort i f).turn = s.turn := by unfold State.modPort; split <;> rfl
@[simp] theorem State.modPort_reply (s : State) (i : Nat) (f : TorusPort → TorusPort) : (s.modPort i f).reply = s.reply := by unfold State.modPort; split <;> rfl
@[simp] theorem State.modPort_freeN (s : State) (i : Nat) (f : TorusPort → TorusPort) : (s.modPort i f).freeN = s.freeN := by unfold State.modPort; split <;> rfl
@[simp] theorem State.modPort_hostLog (s : State) (i : Nat) (f : TorusPort → TorusPort) : (s.modPort i f).hostLog = s.hostLog := by unfold State.modPort; split <;> rfl
@[simp] theorem State.modPort_outbox (s : State) (i : Nat) (f : TorusPort → TorusPort) : (s.modPort i f).outbox = s.outbox := by unfold State.modPort; split <;> rfl
@[simp] theorem State.modPort_waits (s : State) (i : Nat) (f : TorusPort → TorusPort) : (s.modPort i f).waits = s.waits := by unfold State.modPort; split <;> rfl
@[simp] theorem State.modPort_posts (s : State) (i : Nat) (f : TorusPort → TorusPort) : (s.modPort i f).posts = s.posts := by unfold State.modPort; split <;> rfl
@[simp] theorem State.modPort_dups (s : State) (i : Nat) (f : TorusPort → TorusPort) : (s.modPort i f).dups = s.dups := by unfold State.modPort; split <;> rfl
@[simp] theorem State.modPort_nextTag (s : State) (i : Nat) (f : TorusPort → TorusPort) : (s.modPort i f).nextTag = s.nextTag := by unfold State.modPort; split <;> rfl
@[simp] theorem State.modPort_dev (s : State) (i : Nat) (f : TorusPort → TorusPort) : (s.modPort i f).dev = s.dev := by unfold State.modPort; split <;> rfl
@[simp] theorem State.modPort_hostQ (s : State) (i : Nat) (f : TorusPort → TorusPort) : (s.modPort i f).hostQ = s.hostQ := by unfold State.modPort; split <;> rfl

/-! ### `Core.setStr` -/

@[simp] theorem Core.setStr_crew (c : Core) (k : Strand) (t : StrandSt) : (c.setStr k t).crew = c.crew := rfl
@[simp] theorem Core.setStr_clearing (c : Core) (k : Strand) (t : StrandSt) : (c.setStr k t).clearing = c.clearing := rfl
@[simp] theorem Core.setStr_x (c : Core) (k : Strand) (t : StrandSt) : (c.setStr k t).x = c.x := rfl
@[simp] theorem Core.setStr_pend (c : Core) (k : Strand) (t : StrandSt) : (c.setStr k t).pend = c.pend := rfl
@[simp] theorem Core.setStr_p (c : Core) (k : Strand) (t : StrandSt) : (c.setStr k t).p = c.p := rfl
@[simp] theorem Core.setStr_v (c : Core) (k : Strand) (t : StrandSt) : (c.setStr k t).v = c.v := rfl
@[simp] theorem Core.setStr_masks (c : Core) (k : Strand) (t : StrandSt) : (c.setStr k t).masks = c.masks := rfl
@[simp] theorem Core.setStr_shape (c : Core) (k : Strand) (t : StrandSt) : (c.setStr k t).shape = c.shape := rfl
@[simp] theorem Core.setStr_tok (c : Core) (k : Strand) (t : StrandSt) : (c.setStr k t).tok = c.tok := rfl
@[simp] theorem Core.setStr_xs (c : Core) (k : Strand) (t : StrandSt) : (c.setStr k t).xs = c.xs := rfl
@[simp] theorem Core.setStr_ms (c : Core) (k : Strand) (t : StrandSt) : (c.setStr k t).ms = c.ms := rfl
@[simp] theorem Core.setStr_ev (c : Core) (k : Strand) (t : StrandSt) : (c.setStr k t).ev = c.ev := rfl
@[simp] theorem Core.setStr_yld (c : Core) (k : Strand) (t : StrandSt) : (c.setStr k t).yld = c.yld := rfl
@[simp] theorem Core.setStr_trace (c : Core) (k : Strand) (t : StrandSt) : (c.setStr k t).trace = c.trace := rfl
@[simp] theorem Core.setStr_slog (c : Core) (k : Strand) (t : StrandSt) : (c.setStr k t).slog = c.slog := rfl
@[simp] theorem Core.setStr_wcb (c : Core) (k : Strand) (t : StrandSt) : (c.setStr k t).wcb = c.wcb := rfl
@[simp] theorem Core.setStr_posted (c : Core) (k : Strand) (t : StrandSt) : (c.setStr k t).posted = c.posted := rfl
@[simp] theorem Core.setStr_tcs (c : Core) (k : Strand) (t : StrandSt) : (c.setStr k t).tcs = c.tcs := rfl
@[simp] theorem Core.setStr_dtabs (c : Core) (k : Strand) (t : StrandSt) : (c.setStr k t).dtabs = c.dtabs := rfl
@[simp] theorem Core.setStr_gens (c : Core) (k : Strand) (t : StrandSt) : (c.setStr k t).gens = c.gens := rfl
@[simp] theorem Core.setStr_genUpd (c : Core) (k : Strand) (t : StrandSt) : (c.setStr k t).genUpd = c.genUpd := rfl
@[simp] theorem Core.setStr_dtabUpd (c : Core) (k : Strand) (t : StrandSt) : (c.setStr k t).dtabUpd = c.dtabUpd := rfl
@[simp] theorem Core.setStr_units (c : Core) (k : Strand) (t : StrandSt) : (c.setStr k t).units = c.units := rfl
@[simp] theorem Core.setStr_stops (c : Core) (k : Strand) (t : StrandSt) : (c.setStr k t).stops = c.stops := rfl
@[simp] theorem Core.setStr_stopped (c : Core) (k : Strand) (t : StrandSt) : (c.setStr k t).stopped = c.stopped := rfl
@[simp] theorem Core.setStr_steal (c : Core) (k : Strand) (t : StrandSt) : (c.setStr k t).steal = c.steal := rfl
@[simp] theorem Core.setStr_monitor (c : Core) (k : Strand) (t : StrandSt) : (c.setStr k t).monitor = c.monitor := rfl

/-! ### `Core.setX` -/

@[simp] theorem Core.setX_crew (c : Core) (n : BitVec 6) (v : Word) : (c.setX n v).crew = c.crew := by unfold Core.setX; split <;> rfl
@[simp] theorem Core.setX_clearing (c : Core) (n : BitVec 6) (v : Word) : (c.setX n v).clearing = c.clearing := by unfold Core.setX; split <;> rfl
@[simp] theorem Core.setX_strands (c : Core) (n : BitVec 6) (v : Word) : (c.setX n v).strands = c.strands := by unfold Core.setX; split <;> rfl
@[simp] theorem Core.setX_p (c : Core) (n : BitVec 6) (v : Word) : (c.setX n v).p = c.p := by unfold Core.setX; split <;> rfl
@[simp] theorem Core.setX_v (c : Core) (n : BitVec 6) (v : Word) : (c.setX n v).v = c.v := by unfold Core.setX; split <;> rfl
@[simp] theorem Core.setX_masks (c : Core) (n : BitVec 6) (v : Word) : (c.setX n v).masks = c.masks := by unfold Core.setX; split <;> rfl
@[simp] theorem Core.setX_shape (c : Core) (n : BitVec 6) (v : Word) : (c.setX n v).shape = c.shape := by unfold Core.setX; split <;> rfl
@[simp] theorem Core.setX_tok (c : Core) (n : BitVec 6) (v : Word) : (c.setX n v).tok = c.tok := by unfold Core.setX; split <;> rfl
@[simp] theorem Core.setX_xs (c : Core) (n : BitVec 6) (v : Word) : (c.setX n v).xs = c.xs := by unfold Core.setX; split <;> rfl
@[simp] theorem Core.setX_ms (c : Core) (n : BitVec 6) (v : Word) : (c.setX n v).ms = c.ms := by unfold Core.setX; split <;> rfl
@[simp] theorem Core.setX_ev (c : Core) (n : BitVec 6) (v : Word) : (c.setX n v).ev = c.ev := by unfold Core.setX; split <;> rfl
@[simp] theorem Core.setX_yld (c : Core) (n : BitVec 6) (v : Word) : (c.setX n v).yld = c.yld := by unfold Core.setX; split <;> rfl
@[simp] theorem Core.setX_trace (c : Core) (n : BitVec 6) (v : Word) : (c.setX n v).trace = c.trace := by unfold Core.setX; split <;> rfl
@[simp] theorem Core.setX_slog (c : Core) (n : BitVec 6) (v : Word) : (c.setX n v).slog = c.slog := by unfold Core.setX; split <;> rfl
@[simp] theorem Core.setX_wcb (c : Core) (n : BitVec 6) (v : Word) : (c.setX n v).wcb = c.wcb := by unfold Core.setX; split <;> rfl
@[simp] theorem Core.setX_posted (c : Core) (n : BitVec 6) (v : Word) : (c.setX n v).posted = c.posted := by unfold Core.setX; split <;> rfl
@[simp] theorem Core.setX_tcs (c : Core) (n : BitVec 6) (v : Word) : (c.setX n v).tcs = c.tcs := by unfold Core.setX; split <;> rfl
@[simp] theorem Core.setX_dtabs (c : Core) (n : BitVec 6) (v : Word) : (c.setX n v).dtabs = c.dtabs := by unfold Core.setX; split <;> rfl
@[simp] theorem Core.setX_gens (c : Core) (n : BitVec 6) (v : Word) : (c.setX n v).gens = c.gens := by unfold Core.setX; split <;> rfl
@[simp] theorem Core.setX_genUpd (c : Core) (n : BitVec 6) (v : Word) : (c.setX n v).genUpd = c.genUpd := by unfold Core.setX; split <;> rfl
@[simp] theorem Core.setX_dtabUpd (c : Core) (n : BitVec 6) (v : Word) : (c.setX n v).dtabUpd = c.dtabUpd := by unfold Core.setX; split <;> rfl
@[simp] theorem Core.setX_units (c : Core) (n : BitVec 6) (v : Word) : (c.setX n v).units = c.units := by unfold Core.setX; split <;> rfl
@[simp] theorem Core.setX_stops (c : Core) (n : BitVec 6) (v : Word) : (c.setX n v).stops = c.stops := by unfold Core.setX; split <;> rfl
@[simp] theorem Core.setX_stopped (c : Core) (n : BitVec 6) (v : Word) : (c.setX n v).stopped = c.stopped := by unfold Core.setX; split <;> rfl
@[simp] theorem Core.setX_steal (c : Core) (n : BitVec 6) (v : Word) : (c.setX n v).steal = c.steal := by unfold Core.setX; split <;> rfl
@[simp] theorem Core.setX_monitor (c : Core) (n : BitVec 6) (v : Word) : (c.setX n v).monitor = c.monitor := by unfold Core.setX; split <;> rfl

/-! ### `Core.setTok` -/

@[simp] theorem Core.setTok_crew (c : Core) (i n : Nat) : (c.setTok i n).crew = c.crew := by unfold Core.setTok; split <;> rfl
@[simp] theorem Core.setTok_clearing (c : Core) (i n : Nat) : (c.setTok i n).clearing = c.clearing := by unfold Core.setTok; split <;> rfl
@[simp] theorem Core.setTok_strands (c : Core) (i n : Nat) : (c.setTok i n).strands = c.strands := by unfold Core.setTok; split <;> rfl
@[simp] theorem Core.setTok_x (c : Core) (i n : Nat) : (c.setTok i n).x = c.x := by unfold Core.setTok; split <;> rfl
@[simp] theorem Core.setTok_pend (c : Core) (i n : Nat) : (c.setTok i n).pend = c.pend := by unfold Core.setTok; split <;> rfl
@[simp] theorem Core.setTok_p (c : Core) (i n : Nat) : (c.setTok i n).p = c.p := by unfold Core.setTok; split <;> rfl
@[simp] theorem Core.setTok_v (c : Core) (i n : Nat) : (c.setTok i n).v = c.v := by unfold Core.setTok; split <;> rfl
@[simp] theorem Core.setTok_masks (c : Core) (i n : Nat) : (c.setTok i n).masks = c.masks := by unfold Core.setTok; split <;> rfl
@[simp] theorem Core.setTok_shape (c : Core) (i n : Nat) : (c.setTok i n).shape = c.shape := by unfold Core.setTok; split <;> rfl
@[simp] theorem Core.setTok_xs (c : Core) (i n : Nat) : (c.setTok i n).xs = c.xs := by unfold Core.setTok; split <;> rfl
@[simp] theorem Core.setTok_ms (c : Core) (i n : Nat) : (c.setTok i n).ms = c.ms := by unfold Core.setTok; split <;> rfl
@[simp] theorem Core.setTok_ev (c : Core) (i n : Nat) : (c.setTok i n).ev = c.ev := by unfold Core.setTok; split <;> rfl
@[simp] theorem Core.setTok_yld (c : Core) (i n : Nat) : (c.setTok i n).yld = c.yld := by unfold Core.setTok; split <;> rfl
@[simp] theorem Core.setTok_trace (c : Core) (i n : Nat) : (c.setTok i n).trace = c.trace := by unfold Core.setTok; split <;> rfl
@[simp] theorem Core.setTok_slog (c : Core) (i n : Nat) : (c.setTok i n).slog = c.slog := by unfold Core.setTok; split <;> rfl
@[simp] theorem Core.setTok_wcb (c : Core) (i n : Nat) : (c.setTok i n).wcb = c.wcb := by unfold Core.setTok; split <;> rfl
@[simp] theorem Core.setTok_posted (c : Core) (i n : Nat) : (c.setTok i n).posted = c.posted := by unfold Core.setTok; split <;> rfl
@[simp] theorem Core.setTok_tcs (c : Core) (i n : Nat) : (c.setTok i n).tcs = c.tcs := by unfold Core.setTok; split <;> rfl
@[simp] theorem Core.setTok_dtabs (c : Core) (i n : Nat) : (c.setTok i n).dtabs = c.dtabs := by unfold Core.setTok; split <;> rfl
@[simp] theorem Core.setTok_gens (c : Core) (i n : Nat) : (c.setTok i n).gens = c.gens := by unfold Core.setTok; split <;> rfl
@[simp] theorem Core.setTok_genUpd (c : Core) (i n : Nat) : (c.setTok i n).genUpd = c.genUpd := by unfold Core.setTok; split <;> rfl
@[simp] theorem Core.setTok_dtabUpd (c : Core) (i n : Nat) : (c.setTok i n).dtabUpd = c.dtabUpd := by unfold Core.setTok; split <;> rfl
@[simp] theorem Core.setTok_units (c : Core) (i n : Nat) : (c.setTok i n).units = c.units := by unfold Core.setTok; split <;> rfl
@[simp] theorem Core.setTok_stops (c : Core) (i n : Nat) : (c.setTok i n).stops = c.stops := by unfold Core.setTok; split <;> rfl
@[simp] theorem Core.setTok_stopped (c : Core) (i n : Nat) : (c.setTok i n).stopped = c.stopped := by unfold Core.setTok; split <;> rfl
@[simp] theorem Core.setTok_steal (c : Core) (i n : Nat) : (c.setTok i n).steal = c.steal := by unfold Core.setTok; split <;> rfl
@[simp] theorem Core.setTok_monitor (c : Core) (i n : Nat) : (c.setTok i n).monitor = c.monitor := by unfold Core.setTok; split <;> rfl

/-! ### Counters of a core -/

/-- Counting events changes the counters alone. -/
theorem Core.count_eq (c : Core) (src n : Nat) : ∃ e, c.count src n = { c with ev := e } := by
  unfold Core.count
  exact ⟨_, rfl⟩

@[simp] theorem Core.count_crew (c : Core) (src n : Nat) : (c.count src n).crew = c.crew := by obtain ⟨e, h⟩ := c.count_eq src n; rw [h]
@[simp] theorem Core.count_clearing (c : Core) (src n : Nat) : (c.count src n).clearing = c.clearing := by obtain ⟨e, h⟩ := c.count_eq src n; rw [h]
@[simp] theorem Core.count_strands (c : Core) (src n : Nat) : (c.count src n).strands = c.strands := by obtain ⟨e, h⟩ := c.count_eq src n; rw [h]
@[simp] theorem Core.count_x (c : Core) (src n : Nat) : (c.count src n).x = c.x := by obtain ⟨e, h⟩ := c.count_eq src n; rw [h]
@[simp] theorem Core.count_pend (c : Core) (src n : Nat) : (c.count src n).pend = c.pend := by obtain ⟨e, h⟩ := c.count_eq src n; rw [h]
@[simp] theorem Core.count_p (c : Core) (src n : Nat) : (c.count src n).p = c.p := by obtain ⟨e, h⟩ := c.count_eq src n; rw [h]
@[simp] theorem Core.count_v (c : Core) (src n : Nat) : (c.count src n).v = c.v := by obtain ⟨e, h⟩ := c.count_eq src n; rw [h]
@[simp] theorem Core.count_masks (c : Core) (src n : Nat) : (c.count src n).masks = c.masks := by obtain ⟨e, h⟩ := c.count_eq src n; rw [h]
@[simp] theorem Core.count_shape (c : Core) (src n : Nat) : (c.count src n).shape = c.shape := by obtain ⟨e, h⟩ := c.count_eq src n; rw [h]
@[simp] theorem Core.count_tok (c : Core) (src n : Nat) : (c.count src n).tok = c.tok := by obtain ⟨e, h⟩ := c.count_eq src n; rw [h]
@[simp] theorem Core.count_xs (c : Core) (src n : Nat) : (c.count src n).xs = c.xs := by obtain ⟨e, h⟩ := c.count_eq src n; rw [h]
@[simp] theorem Core.count_ms (c : Core) (src n : Nat) : (c.count src n).ms = c.ms := by obtain ⟨e, h⟩ := c.count_eq src n; rw [h]
@[simp] theorem Core.count_yld (c : Core) (src n : Nat) : (c.count src n).yld = c.yld := by obtain ⟨e, h⟩ := c.count_eq src n; rw [h]
@[simp] theorem Core.count_trace (c : Core) (src n : Nat) : (c.count src n).trace = c.trace := by obtain ⟨e, h⟩ := c.count_eq src n; rw [h]
@[simp] theorem Core.count_slog (c : Core) (src n : Nat) : (c.count src n).slog = c.slog := by obtain ⟨e, h⟩ := c.count_eq src n; rw [h]
@[simp] theorem Core.count_wcb (c : Core) (src n : Nat) : (c.count src n).wcb = c.wcb := by obtain ⟨e, h⟩ := c.count_eq src n; rw [h]
@[simp] theorem Core.count_posted (c : Core) (src n : Nat) : (c.count src n).posted = c.posted := by obtain ⟨e, h⟩ := c.count_eq src n; rw [h]
@[simp] theorem Core.count_tcs (c : Core) (src n : Nat) : (c.count src n).tcs = c.tcs := by obtain ⟨e, h⟩ := c.count_eq src n; rw [h]
@[simp] theorem Core.count_dtabs (c : Core) (src n : Nat) : (c.count src n).dtabs = c.dtabs := by obtain ⟨e, h⟩ := c.count_eq src n; rw [h]
@[simp] theorem Core.count_gens (c : Core) (src n : Nat) : (c.count src n).gens = c.gens := by obtain ⟨e, h⟩ := c.count_eq src n; rw [h]
@[simp] theorem Core.count_genUpd (c : Core) (src n : Nat) : (c.count src n).genUpd = c.genUpd := by obtain ⟨e, h⟩ := c.count_eq src n; rw [h]
@[simp] theorem Core.count_dtabUpd (c : Core) (src n : Nat) : (c.count src n).dtabUpd = c.dtabUpd := by obtain ⟨e, h⟩ := c.count_eq src n; rw [h]
@[simp] theorem Core.count_units (c : Core) (src n : Nat) : (c.count src n).units = c.units := by obtain ⟨e, h⟩ := c.count_eq src n; rw [h]
@[simp] theorem Core.count_stops (c : Core) (src n : Nat) : (c.count src n).stops = c.stops := by obtain ⟨e, h⟩ := c.count_eq src n; rw [h]
@[simp] theorem Core.count_stopped (c : Core) (src n : Nat) : (c.count src n).stopped = c.stopped := by obtain ⟨e, h⟩ := c.count_eq src n; rw [h]
@[simp] theorem Core.count_steal (c : Core) (src n : Nat) : (c.count src n).steal = c.steal := by obtain ⟨e, h⟩ := c.count_eq src n; rw [h]
@[simp] theorem Core.count_monitor (c : Core) (src n : Nat) : (c.count src n).monitor = c.monitor := by obtain ⟨e, h⟩ := c.count_eq src n; rw [h]

/-! ### Reading back -/

@[simp] theorem State.core_setCore (s : State) (c : BitVec 7) (k : Core) : (s.setCore c k).core c = k := by
  simp [State.setCore, State.core]

theorem State.core_setCore_ne (s : State) {c d : BitVec 7} (k : Core) (h : d ≠ c) : (s.setCore c k).core d = s.core d := by
  have : c.toNat ≠ d.toNat := fun e => h (BitVec.eq_of_toNat_eq e.symm)
  simp [State.setCore, State.core, this]

@[simp] theorem State.core_modCore (s : State) (c : BitVec 7) (f : Core → Core) : (s.modCore c f).core c = f (s.core c) := by
  simp [State.modCore]

theorem State.core_modCore_ne (s : State) {c d : BitVec 7} (f : Core → Core) (h : d ≠ c) : (s.modCore c f).core d = s.core d := by
  simp [State.modCore, State.core_setCore_ne, h]

@[simp] theorem State.part_setPart (s : State) (p : BitVec 5) (k : Part) : (s.setPart p k).part p = k := by
  simp [State.setPart, State.part]

theorem State.part_setPart_ne (s : State) {p q : BitVec 5} (k : Part) (h : q ≠ p) : (s.setPart p k).part q = s.part q := by
  have : p.toNat ≠ q.toNat := fun e => h (BitVec.eq_of_toNat_eq e.symm)
  simp [State.setPart, State.part, this]

@[simp] theorem State.part_modPart (s : State) (p : BitVec 5) (f : Part → Part) : (s.modPart p f).part p = f (s.part p) := by
  simp [State.modPart]

theorem State.part_modPart_ne (s : State) {p q : BitVec 5} (f : Part → Part) (h : q ≠ p) : (s.modPart p f).part q = s.part q := by
  simp [State.modPart, State.part_setPart_ne, h]

@[simp] theorem State.core_push (s : State) (i : Instr) (c : BitVec 7) : (s.push i).core c = s.core c := rfl

@[simp] theorem State.part_push (s : State) (i : Instr) (p : BitVec 5) : (s.push i).part p = s.part p := rfl

@[simp] theorem State.core_modPart (s : State) (p : BitVec 5) (f : Part → Part) (c : BitVec 7) : (s.modPart p f).core c = s.core c := rfl

@[simp] theorem State.part_modCore (s : State) (c : BitVec 7) (f : Core → Core) (p : BitVec 5) : (s.modCore c f).part p = s.part p := rfl

@[simp] theorem Core.str_setStr (c : Core) (k : Strand) (t : StrandSt) : (c.setStr k t).str k = t := by
  simp [Core.setStr, Core.str]

theorem Core.str_setStr_ne (c : Core) {k j : Strand} (t : StrandSt) (h : j ≠ k) : (c.setStr k t).str j = c.str j := by
  have : (strandFin k).val ≠ (strandFin j).val := by revert h; cases j <;> cases k <;> decide
  simp [Core.setStr, Core.str, this]

@[simp] theorem Core.str_setX (c : Core) (n : BitVec 6) (v : Word) (k : Strand) : (c.setX n v).str k = c.str k := by
  simp [Core.str]

@[simp] theorem Core.str_setTok (c : Core) (i n : Nat) (k : Strand) : (c.setTok i n).str k = c.str k := by simp [Core.str]

@[simp] theorem Core.str_count (c : Core) (src n : Nat) (k : Strand) : (c.count src n).str k = c.str k := by simp [Core.str]

@[simp] theorem Core.xr_setStr (c : Core) (k : Strand) (t : StrandSt) (n : BitVec 6) : (c.setStr k t).xr n = c.xr n := rfl

/-- An x register after a write (R279): the value, but x0 reads as zero. -/
theorem Core.xr_setX (c : Core) (n : BitVec 6) (v : Word) (m : BitVec 6) :
    (c.setX n v).xr m = if m = n ∧ n ≠ 0 then v else c.xr m := by
  unfold Core.setX
  by_cases hn : n = 0
  · rw [if_pos hn, if_neg (fun e => e.2 hn)]
  · rw [if_neg hn]
    by_cases hm : m = n
    · subst hm
      have hz : ¬ m = 0#6 := hn
      simp [Core.xr, hz]
    · have h : n.toNat ≠ m.toNat := fun e => hm (BitVec.eq_of_toNat_eq e.symm)
      simp [Core.xr, hm, h]

/-- Writing x0 changes nothing (R279). -/
@[simp] theorem Core.setX_zero (c : Core) (v : Word) : c.setX 0 v = c := by simp [Core.setX]

/-- The strand that an instruction issued on holds its entry. -/
theorem State.issueHeld_held (s : State) (k : Strand) (tk : Tok) :
    ∃ h, ((s.issueHeld k tk).core s.cur).str k = { ((s.core s.cur).str k) with held := some h } := by
  unfold State.issueHeld State.keepHeld
  dsimp only
  split
  · exact ⟨_, by simp; rfl⟩
  · exact ⟨_, by simp; rfl⟩

@[simp] theorem State.issueHeld_str_pc (s : State) (k : Strand) (tk : Tok) : (((s.issueHeld k tk).core s.cur).str k).pc = ((s.core s.cur).str k).pc := by obtain ⟨h, e⟩ := s.issueHeld_held k tk; rw [e]
@[simp] theorem State.issueHeld_str_live (s : State) (k : Strand) (tk : Tok) : (((s.issueHeld k tk).core s.cur).str k).live = ((s.core s.cur).str k).live := by obtain ⟨h, e⟩ := s.issueHeld_held k tk; rw [e]
@[simp] theorem State.issueHeld_str_headOk (s : State) (k : Strand) (tk : Tok) : (((s.issueHeld k tk).core s.cur).str k).headOk = ((s.core s.cur).str k).headOk := by obtain ⟨h, e⟩ := s.issueHeld_held k tk; rw [e]
@[simp] theorem State.issueHeld_str_region (s : State) (k : Strand) (tk : Tok) : (((s.issueHeld k tk).core s.cur).str k).region = ((s.core s.cur).str k).region := by obtain ⟨h, e⟩ := s.issueHeld_held k tk; rw [e]
@[simp] theorem State.issueHeld_str_lost (s : State) (k : Strand) (tk : Tok) : (((s.issueHeld k tk).core s.cur).str k).lost = ((s.core s.cur).str k).lost := by obtain ⟨h, e⟩ := s.issueHeld_held k tk; rw [e]
@[simp] theorem State.issueHeld_str_loops (s : State) (k : Strand) (tk : Tok) : (((s.issueHeld k tk).core s.cur).str k).loops = ((s.core s.cur).str k).loops := by obtain ⟨h, e⟩ := s.issueHeld_held k tk; rw [e]
@[simp] theorem State.issueHeld_str_armed (s : State) (k : Strand) (tk : Tok) : (((s.issueHeld k tk).core s.cur).str k).armed = ((s.core s.cur).str k).armed := by obtain ⟨h, e⟩ := s.issueHeld_held k tk; rw [e]
@[simp] theorem State.issueHeld_str_fault (s : State) (k : Strand) (tk : Tok) : (((s.issueHeld k tk).core s.cur).str k).fault = ((s.core s.cur).str k).fault := by obtain ⟨h, e⟩ := s.issueHeld_held k tk; rw [e]
@[simp] theorem State.issueHeld_str_relNext (s : State) (k : Strand) (tk : Tok) : (((s.issueHeld k tk).core s.cur).str k).relNext = ((s.core s.cur).str k).relNext := by obtain ⟨h, e⟩ := s.issueHeld_held k tk; rw [e]
@[simp] theorem State.issueHeld_core_crew (s : State) (k : Strand) (tk : Tok) : ((s.issueHeld k tk).core s.cur).crew = (s.core s.cur).crew := by unfold State.issueHeld State.keepHeld; dsimp only; split <;> simp
@[simp] theorem State.issueHeld_core_clearing (s : State) (k : Strand) (tk : Tok) : ((s.issueHeld k tk).core s.cur).clearing = (s.core s.cur).clearing := by unfold State.issueHeld State.keepHeld; dsimp only; split <;> simp
@[simp] theorem State.issueHeld_core_x (s : State) (k : Strand) (tk : Tok) : ((s.issueHeld k tk).core s.cur).x = (s.core s.cur).x := by unfold State.issueHeld State.keepHeld; dsimp only; split <;> simp
@[simp] theorem State.issueHeld_core_pend (s : State) (k : Strand) (tk : Tok) : ((s.issueHeld k tk).core s.cur).pend = (s.core s.cur).pend := by unfold State.issueHeld State.keepHeld; dsimp only; split <;> simp
@[simp] theorem State.issueHeld_core_p (s : State) (k : Strand) (tk : Tok) : ((s.issueHeld k tk).core s.cur).p = (s.core s.cur).p := by unfold State.issueHeld State.keepHeld; dsimp only; split <;> simp
@[simp] theorem State.issueHeld_core_v (s : State) (k : Strand) (tk : Tok) : ((s.issueHeld k tk).core s.cur).v = (s.core s.cur).v := by unfold State.issueHeld State.keepHeld; dsimp only; split <;> simp
@[simp] theorem State.issueHeld_core_masks (s : State) (k : Strand) (tk : Tok) : ((s.issueHeld k tk).core s.cur).masks = (s.core s.cur).masks := by unfold State.issueHeld State.keepHeld; dsimp only; split <;> simp
@[simp] theorem State.issueHeld_core_shape (s : State) (k : Strand) (tk : Tok) : ((s.issueHeld k tk).core s.cur).shape = (s.core s.cur).shape := by unfold State.issueHeld State.keepHeld; dsimp only; split <;> simp
@[simp] theorem State.issueHeld_core_xs (s : State) (k : Strand) (tk : Tok) : ((s.issueHeld k tk).core s.cur).xs = (s.core s.cur).xs := by unfold State.issueHeld State.keepHeld; dsimp only; split <;> simp
@[simp] theorem State.issueHeld_core_ms (s : State) (k : Strand) (tk : Tok) : ((s.issueHeld k tk).core s.cur).ms = (s.core s.cur).ms := by unfold State.issueHeld State.keepHeld; dsimp only; split <;> simp
@[simp] theorem State.issueHeld_core_ev (s : State) (k : Strand) (tk : Tok) : ((s.issueHeld k tk).core s.cur).ev = (s.core s.cur).ev := by unfold State.issueHeld State.keepHeld; dsimp only; split <;> simp
@[simp] theorem State.issueHeld_core_yld (s : State) (k : Strand) (tk : Tok) : ((s.issueHeld k tk).core s.cur).yld = (s.core s.cur).yld := by unfold State.issueHeld State.keepHeld; dsimp only; split <;> simp
@[simp] theorem State.issueHeld_core_trace (s : State) (k : Strand) (tk : Tok) : ((s.issueHeld k tk).core s.cur).trace = (s.core s.cur).trace := by unfold State.issueHeld State.keepHeld; dsimp only; split <;> simp
@[simp] theorem State.issueHeld_core_slog (s : State) (k : Strand) (tk : Tok) : ((s.issueHeld k tk).core s.cur).slog = (s.core s.cur).slog := by unfold State.issueHeld State.keepHeld; dsimp only; split <;> simp
@[simp] theorem State.issueHeld_core_wcb (s : State) (k : Strand) (tk : Tok) : ((s.issueHeld k tk).core s.cur).wcb = (s.core s.cur).wcb := by unfold State.issueHeld State.keepHeld; dsimp only; split <;> simp
@[simp] theorem State.issueHeld_core_posted (s : State) (k : Strand) (tk : Tok) : ((s.issueHeld k tk).core s.cur).posted = (s.core s.cur).posted := by unfold State.issueHeld State.keepHeld; dsimp only; split <;> simp
@[simp] theorem State.issueHeld_core_tcs (s : State) (k : Strand) (tk : Tok) : ((s.issueHeld k tk).core s.cur).tcs = (s.core s.cur).tcs := by unfold State.issueHeld State.keepHeld; dsimp only; split <;> simp
@[simp] theorem State.issueHeld_core_dtabs (s : State) (k : Strand) (tk : Tok) : ((s.issueHeld k tk).core s.cur).dtabs = (s.core s.cur).dtabs := by unfold State.issueHeld State.keepHeld; dsimp only; split <;> simp
@[simp] theorem State.issueHeld_core_gens (s : State) (k : Strand) (tk : Tok) : ((s.issueHeld k tk).core s.cur).gens = (s.core s.cur).gens := by unfold State.issueHeld State.keepHeld; dsimp only; split <;> simp
@[simp] theorem State.issueHeld_core_genUpd (s : State) (k : Strand) (tk : Tok) : ((s.issueHeld k tk).core s.cur).genUpd = (s.core s.cur).genUpd := by unfold State.issueHeld State.keepHeld; dsimp only; split <;> simp
@[simp] theorem State.issueHeld_core_dtabUpd (s : State) (k : Strand) (tk : Tok) : ((s.issueHeld k tk).core s.cur).dtabUpd = (s.core s.cur).dtabUpd := by unfold State.issueHeld State.keepHeld; dsimp only; split <;> simp
@[simp] theorem State.issueHeld_core_units (s : State) (k : Strand) (tk : Tok) : ((s.issueHeld k tk).core s.cur).units = (s.core s.cur).units := by unfold State.issueHeld State.keepHeld; dsimp only; split <;> simp
@[simp] theorem State.issueHeld_core_stops (s : State) (k : Strand) (tk : Tok) : ((s.issueHeld k tk).core s.cur).stops = (s.core s.cur).stops := by unfold State.issueHeld State.keepHeld; dsimp only; split <;> simp
@[simp] theorem State.issueHeld_core_stopped (s : State) (k : Strand) (tk : Tok) : ((s.issueHeld k tk).core s.cur).stopped = (s.core s.cur).stopped := by unfold State.issueHeld State.keepHeld; dsimp only; split <;> simp
@[simp] theorem State.issueHeld_core_steal (s : State) (k : Strand) (tk : Tok) : ((s.issueHeld k tk).core s.cur).steal = (s.core s.cur).steal := by unfold State.issueHeld State.keepHeld; dsimp only; split <;> simp
@[simp] theorem State.issueHeld_core_monitor (s : State) (k : Strand) (tk : Tok) : ((s.issueHeld k tk).core s.cur).monitor = (s.core s.cur).monitor := by unfold State.issueHeld State.keepHeld; dsimp only; split <;> simp

@[simp] theorem State.issueHeld_xr (s : State) (k : Strand) (tk : Tok) (n : BitVec 6) :
    ((s.issueHeld k tk).core s.cur).xr n = (s.core s.cur).xr n := by simp [Core.xr]

@[simp] theorem State.issueHeld_part (s : State) (k : Strand) (tk : Tok) (p : BitVec 5) : (s.issueHeld k tk).part p = s.part p := by
  simp [State.part]

end Sys2Proof.Machine
end

