-- ==== Sys2Proof/Laws/Frame.lean ====
section
/-! SUPPORT. What the frame of an S, V or M instruction does (R194, R241, R286, R338): one lemma per way it can end. -/

namespace Sys2Proof.Machine

/-- On S, V and X an entry that finishes leaves its strand without one (R293). -/
theorem Core.freeEntry_of_ne {k : Strand} (hk : k ≠ .m) (r : Core) : r.freeEntry k = r.setStr k { (r.str k) with held := none } := if_neg hk

/-- On M the second entry moves up (R294). -/
theorem Core.freeEntry_m (r : Core) :
    r.freeEntry .m = { r.setStr .m { (r.str .m) with held := r.ms.second } with ms := { r.ms with second := none } } := rfl

/-- Only M issues behind the command in progress. -/
theorem Core.behind_of_ne {k : Strand} (hk : k ≠ .m) (r : Core) : r.behind k = false := by
  cases k <;> first | rfl | exact absurd rfl hk

/-- With no command behind, the pc moves past the instruction. -/
theorem State.pass_of_not_behind {s : State} {c : BitVec 7} {k : Strand} (h : (s.core c).behind k = false) (pc : W32) (len : Nat) :
    s.pass c k pc len = s.advance c k pc len := by
  simp only [State.pass, h, Bool.false_eq_true, if_false]

/-- An instruction that can issue and whose body answers completes. -/
theorem runInstr_complete {k : Strand} {len : Nat} {tk : Tok} {check issue : Op Unit} {body : Op Next} {s t : State} {x : Next}
    (hh : ((s.core s.cur).str k).held = none) (ht : tk.wait = 0 ∨ (s.core s.cur).tokAt (waitIdx k tk.wait.toNat) ≠ 0)
    (hx : k = .x → (s.core s.cur).xs.blocked ≠ true) (h1 : (check.run s).1 = .ok ()) (h2 : (issue.run s).1 = .ok ()) (hb : body.run (s.issueHeld k tk) = (.ok x, t)) :
    runInstr k len tk check issue body s = t.complete s.cur k ((t.core s.cur).heldOf k) len x := by
  have hn : ¬ ((tk.wait ≠ 0 ∧ (s.core s.cur).tokAt (waitIdx k tk.wait.toNat) = 0) ∨ (k = .x ∧ (s.core s.cur).xs.blocked = true)) := by
    rintro (⟨a, b⟩ | ⟨a, b⟩)
    · exact ht.elim a fun ht => ht b
    · exact hx a b
  unfold runInstr issueInstr
  simp only [hh, h1, h2, hn, if_false]
  unfold runBody
  simp only [hb, State.issueHeld_cur]

/-- An instruction that the strand holds and whose body answers completes. -/
theorem runInstr_held {k : Strand} {len : Nat} {tk : Tok} {check issue : Op Unit} {body : Op Next} {s t : State} {x : Next} {h : Held}
    (hh : ((s.core s.cur).str k).held = some h) (hp : k = .m → h.seq.isSome = true) (hb : body.run s = (.ok x, t)) :
    runInstr k len tk check issue body s = t.complete s.cur k ((t.core s.cur).heldOf k) len x := by
  have hp : h.probing k = false := by
    cases k <;> simp_all [Held.probing]
  unfold runInstr runBody
  simp only [hh, hb, hp, Bool.false_eq_true, if_false]

/-- A check that faults: the fault is taken, nothing else happens (R338). -/
theorem runInstr_fault {k : Strand} {len : Nat} {tk : Tok} {check issue : Op Unit} {body : Op Next} {s : State} {f : FaultInfo}
    (hh : ((s.core s.cur).str k).held = none) (h1 : (check.run s).1 = .error (.fault f)) :
    runInstr k len tk check issue body s = s.takeFault s.cur k ((s.core s.cur).str k).pc (s.ir.headD 0) f := by
  unfold runInstr issueInstr
  simp only [hh, h1]

/-- Without the token that it waits for, an instruction changes nothing (R287). -/
theorem runInstr_noToken {k : Strand} {len : Nat} {tk : Tok} {check issue : Op Unit} {body : Op Next} {s : State}
    (hh : ((s.core s.cur).str k).held = none) (h1 : (check.run s).1 = .ok ()) (hw : tk.wait ≠ 0)
    (ht : (s.core s.cur).tokAt (waitIdx k tk.wait.toNat) = 0) : runInstr k len tk check issue body s = s := by
  unfold runInstr issueInstr
  simp only [hh, h1, hw, ht, ne_eq, not_false_eq_true, and_self, true_or, if_true]

end Sys2Proof.Machine
end

