-- ==== Sys2Proof/Laws/Lengths.lean ====
section
/-! SUPPORT. How long what is written is: numbers as bytes, the image of an accumulator tile (R284), the image of a crew (R245). -/

namespace Sys2Proof.Machine

theorem leBytes_length : ∀ n v, (leBytes n v).length = n := by
  intro n
  induction n with
  | zero => intro v; rfl
  | succ n ih => intro v; rw [leBytes, List.length_cons, ih]

theorem bvBytes_length {w : Nat} (n : Nat) (v : BitVec w) : (bvBytes n v).length = n := leBytes_length n _

theorem flatMap_length {α : Type} (f : α → List Byte) (k : Nat) (items : List α) (each : ∀ a ∈ items, (f a).length = k) : (items.flatMap f).length = items.length * k := by
  rw [List.length_flatMap, List.map_congr_left each, List.map_const', List.sum_replicate_nat]

theorem tile_image_length (t : Tile) : t.image.length = 135168 := by
  unfold Tile.image
  simp only [List.length_append, bvBytes_length, List.length_replicate, List.length_cons, List.length_nil]
  rw [flatMap_length _ 8 _ (fun _ _ => bvBytes_length 8 _), flatMap_length _ 16 _ (fun _ _ => bvBytes_length 16 _), List.length_range, List.length_range]

/-- The length of bytes laid out, from where each part starts and its length. -/
def layLen (a stop : Nat) : List (Nat × Nat) → Nat
  | [] => stop - a
  | (o, n) :: r => (o - a) + n + layLen (o + n) stop r

theorem layOut_length : ∀ (l : List (Nat × List Byte)) (a stop : Nat), (layOut a stop l).length = layLen a stop (l.map fun x => (x.1, x.2.length)) := by
  intro l
  induction l with
  | nil => intro a stop; simp [layOut, layLen]
  | cons x l ih => intro a stop; simp only [layOut, layLen, List.length_append, List.length_replicate, List.map_cons, ih]

theorem freeBytes_length (s : State) (n : Nat) : (s.freeBytes n).1.length = n := bvBytes_length n _

theorem SMap.read_length (m : SMap Byte) : ∀ n a, (SMap.read 0 m a n).length = n := by
  intro n a
  unfold SMap.read
  rw [List.length_map, List.length_range]

/-- The image of a crew on a core with no loop, no stop record and no held instruction is 1 MiB long. -/
theorem image_length (s : State) (c : BitVec 7) (w : Crew) (hw : (s.core c).crew = some w) (hs : (s.core c).stops = []) (he : (s.core c).ev = {})
    (h3 : ((s.core c).block300 (strandList.map fun k => (s.core c).pcShown k)).length = 256)
    (hl : (loopBytes ((s.core c).str .v).loops).length = 64 ∧ (loopBytes ((s.core c).str .m).loops).length = 64 ∧ (loopBytes ((s.core c).str .x).loops).length = 64)
    (hb : (s.core c).sbImage.length = 1312) : (s.image c true).1.length = 0x100000 := by
  unfold State.image
  simp only [hw, if_true, layOut_length, List.map_append, List.map_cons, List.map_nil, Ctx.items, bvBytes_length, List.length_append, freeBytes_length, h3, hl.1, hl.2.1, hl.2.2, hb, hs, he]
  have tab : ∀ (d : DTab) (k : Strand), (d.bytes k).length = 2048 := fun d k => by
    unfold DTab.bytes
    rw [flatMap_length _ 2 _ (fun _ _ => bvBytes_length 2 _), List.length_range]
  have el : ∀ t : Tile, t.elBytes.length = 131072 := fun t => by
    unfold Tile.elBytes
    rw [flatMap_length _ 16 _ (fun _ _ => bvBytes_length 16 _), List.length_range]
  rw [flatMap_length _ 8 (s.core c).x.toList (fun _ _ => bvBytes_length 8 _), flatMap_length _ 8 (s.core c).p.toList (fun _ _ => bvBytes_length 8 _),
    flatMap_length _ 8 [0, 0, 0, 0, 0, 0, 0, 0] (fun _ _ => bvBytes_length 8 _), flatMap_length _ 4 (List.range 256) (fun _ _ => bvBytes_length 4 _),
    flatMap_length _ 1024 (s.core c).masks.toList (fun _ _ => bvBytes_length 1024 _), flatMap_length _ 2048 strandList (fun _ _ => tab _ _),
    flatMap_length _ 320 (List.range 16) (fun _ _ => by rw [List.length_append, bvBytes_length, bvBytes_length]),
    flatMap_length _ 16 (List.range 16) (fun _ _ => bvBytes_length 16 _), flatMap_length _ 32 (List.range 64) (fun _ _ => bvBytes_length 32 _),
    flatMap_length _ 8192 (s.core c).v.toList (fun _ _ => bvBytes_length 8192 _), el, el, SMap.read_length]
  simp only [Vector.length_toList, List.length_range, List.flatMap_nil]
  decide +kernel

end Sys2Proof.Machine
end

