-- ==== Sys2Proof/Laws/Store.lean ====
section
/-! SUPPORT. What the operations on sparse tables do: a read after a write, and that every write keeps the canonical form. -/

namespace Sys2Proof.Machine

variable {β : Type}

theorem SMap.rising_cons (e : Nat × β) (m : SMap β) :
    SMap.rising (e :: m) = true ↔ (∀ x ∈ m, e.1 < x.1) ∧ SMap.rising m = true := by
  induction m generalizing e with
  | nil => simp [SMap.rising]
  | cons f r ih =>
    obtain ⟨k, v⟩ := e
    obtain ⟨k', v'⟩ := f
    have h := ih (k', v')
    simp only [SMap.rising, Bool.and_eq_true, decide_eq_true_eq, List.mem_cons, forall_eq_or_imp]
    refine ⟨fun ⟨a, b⟩ => ⟨⟨a, fun x hx => Nat.lt_trans a ((h.1 b).1 x hx)⟩, b⟩, fun ⟨⟨a, _⟩, b⟩ => ⟨a, b⟩⟩

theorem SMap.rising_append (m r : SMap β) (hm : SMap.rising m = true) (hr : SMap.rising r = true)
    (h : ∀ x ∈ m, ∀ y ∈ r, x.1 < y.1) : SMap.rising (m ++ r) = true := by
  induction m with
  | nil => simpa using hr
  | cons e m ih =>
    rw [SMap.rising_cons] at hm
    rw [List.cons_append, SMap.rising_cons]
    refine ⟨fun x hx => ?_, ih hm.2 fun x hx => h x (List.mem_cons_of_mem _ hx)⟩
    rcases List.mem_append.1 hx with hx | hx
    · exact hm.1 x hx
    · exact h e (List.mem_cons_self ..) x hx

theorem SMap.wf_iff [DecidableEq β] (d : β) (m : SMap β) :
    SMap.wf d m = true ↔ SMap.rising m = true ∧ ∀ x ∈ m, x.2 ≠ d := by
  simp [SMap.wf, List.all_eq_true]

theorem SMap.mem_run [DecidableEq β] {d : β} (vs : List β) (a : Nat) {x : Nat × β} (hx : x ∈ SMap.run d a vs) :
    a ≤ x.1 ∧ x.1 < a + vs.length ∧ x.2 ≠ d := by
  induction vs generalizing a with
  | nil => simp [SMap.run] at hx
  | cons v vs ih =>
    unfold SMap.run at hx
    split at hx
    · have := ih (a + 1) hx
      rw [List.length_cons]
      exact ⟨by omega, by omega, this.2.2⟩
    · rcases List.mem_cons.1 hx with rfl | hx
      · simp; assumption
      · have := ih (a + 1) hx
        rw [List.length_cons]
        exact ⟨by omega, by omega, this.2.2⟩

theorem SMap.rising_run [DecidableEq β] (d : β) (vs : List β) (a : Nat) : SMap.rising (SMap.run d a vs) = true := by
  induction vs generalizing a with
  | nil => rfl
  | cons v vs ih =>
    unfold SMap.run
    split
    · exact ih _
    · rw [SMap.rising_cons]
      exact ⟨fun x hx => (SMap.mem_run vs (a + 1) hx).1, ih _⟩

theorem SMap.mem_below {m : SMap β} {a : Nat} {x : Nat × β} (hx : x ∈ m.below a) : x ∈ m ∧ x.1 < a := by
  induction m with
  | nil => simp [SMap.below] at hx
  | cons e m ih =>
    obtain ⟨k, v⟩ := e
    unfold SMap.below at hx
    split at hx
    · rcases List.mem_cons.1 hx with rfl | hx
      · simp; assumption
      · have := ih hx
        simp [this]
    · simp at hx

theorem SMap.rising_below (m : SMap β) (a : Nat) (h : SMap.rising m = true) : SMap.rising (m.below a) = true := by
  induction m with
  | nil => rfl
  | cons e m ih =>
    obtain ⟨k, v⟩ := e
    rw [SMap.rising_cons] at h
    unfold SMap.below
    split
    · rw [SMap.rising_cons]
      exact ⟨fun x hx => h.1 x (SMap.mem_below hx).1, ih h.2⟩
    · rfl

theorem SMap.mem_from {m : SMap β} {a : Nat} {x : Nat × β} (hx : x ∈ m.from a) : x ∈ m := by
  induction m with
  | nil => simp [SMap.from] at hx
  | cons e m ih =>
    obtain ⟨k, v⟩ := e
    unfold SMap.from at hx
    split at hx
    · exact List.mem_cons_of_mem _ (ih hx)
    · exact hx

theorem SMap.le_from {m : SMap β} {a : Nat} (h : SMap.rising m = true) {x : Nat × β} (hx : x ∈ m.from a) : a ≤ x.1 := by
  induction m with
  | nil => simp [SMap.from] at hx
  | cons e m ih =>
    obtain ⟨k, v⟩ := e
    rw [SMap.rising_cons] at h
    unfold SMap.from at hx
    split at hx
    · exact ih h.2 hx
    · rcases List.mem_cons.1 hx with rfl | hx
      · omega
      · have := h.1 x hx
        simp only at this
        omega

theorem SMap.rising_from (m : SMap β) (a : Nat) (h : SMap.rising m = true) : SMap.rising (m.from a) = true := by
  induction m with
  | nil => rfl
  | cons e m ih =>
    obtain ⟨k, v⟩ := e
    unfold SMap.from
    split
    · exact ih ((SMap.rising_cons _ _).1 h).2
    · exact h

/-- A write keeps the canonical form. -/
theorem SMap.wf_write [DecidableEq β] (d : β) (m : SMap β) (a : Nat) (vs : List β) (h : SMap.wf d m = true) :
    SMap.wf d (SMap.write d m a vs) = true := by
  rw [SMap.wf_iff] at h ⊢
  have hf := SMap.rising_from _ (a + vs.length) (SMap.rising_from m a h.1)
  refine ⟨SMap.rising_append _ _ (SMap.rising_below _ _ h.1) (SMap.rising_append _ _ (SMap.rising_run ..) hf ?_) ?_, ?_⟩
  · intro x hx y hy
    have := SMap.le_from (SMap.rising_from m a h.1) hy
    have := SMap.mem_run vs a hx
    omega
  · intro x hx y hy
    have h1 := (SMap.mem_below hx).2
    rcases List.mem_append.1 hy with hy | hy
    · have := SMap.mem_run vs a hy
      omega
    · have := SMap.le_from (SMap.rising_from m a h.1) hy
      omega
  · intro x hx
    rcases List.mem_append.1 hx with hx | hx
    · exact h.2 x (SMap.mem_below hx).1
    · rcases List.mem_append.1 hx with hx | hx
      · exact (SMap.mem_run vs a hx).2.2
      · exact h.2 x (SMap.mem_from (SMap.mem_from hx))

/-- A write of one value keeps the canonical form. -/
theorem SMap.wf_put [DecidableEq β] (d : β) (m : SMap β) (a : Nat) (v : β) (h : SMap.wf d m = true) :
    SMap.wf d (SMap.put d m a v) = true := SMap.wf_write d m a [v] h

theorem SMap.get_none (d : β) (m : SMap β) (x : Nat) (h : ∀ e ∈ m, e.1 ≠ x) : SMap.get d m x = d := by
  induction m with
  | nil => rfl
  | cons e m ih =>
    obtain ⟨k, v⟩ := e
    unfold SMap.get
    rw [if_neg (h (k, v) (List.mem_cons_self ..))]
    exact ih fun e he => h e (List.mem_cons_of_mem _ he)

theorem SMap.get_append (d : β) (m r : SMap β) (x : Nat) (h : ∀ e ∈ m, e.1 ≠ x) : SMap.get d (m ++ r) x = SMap.get d r x := by
  induction m with
  | nil => rfl
  | cons e m ih =>
    obtain ⟨k, v⟩ := e
    rw [List.cons_append]
    unfold SMap.get
    rw [if_neg (h (k, v) (List.mem_cons_self ..)), ih fun e he => h e (List.mem_cons_of_mem _ he)]
    cases r <;> rfl

theorem SMap.get_append_left (d : β) (m r : SMap β) (x : Nat) (h : ∀ e ∈ r, e.1 ≠ x) : SMap.get d (m ++ r) x = SMap.get d m x := by
  induction m with
  | nil => exact SMap.get_none d r x h
  | cons e m ih =>
    obtain ⟨k, v⟩ := e
    rw [List.cons_append]
    unfold SMap.get
    rw [ih]

theorem SMap.get_below (d : β) (m : SMap β) (a x : Nat) (h : SMap.rising m = true) (hx : x < a) :
    SMap.get d (m.below a) x = SMap.get d m x := by
  induction m with
  | nil => rfl
  | cons e m ih =>
    obtain ⟨k, v⟩ := e
    rw [SMap.rising_cons] at h
    unfold SMap.below
    split
    · unfold SMap.get
      rw [ih h.2]
    · rename_i hk
      exact (SMap.get_none d _ x (by
        intro e he
        rcases List.mem_cons.1 he with rfl | he
        · simp only
          omega
        · have := h.1 e he
          simp only at this
          omega)).symm

theorem SMap.get_from (d : β) (m : SMap β) (a x : Nat) (hx : a ≤ x) : SMap.get d (m.from a) x = SMap.get d m x := by
  induction m with
  | nil => rfl
  | cons e m ih =>
    obtain ⟨k, v⟩ := e
    unfold SMap.from
    split
    · rw [ih]
      conv => rhs; unfold SMap.get
      rw [if_neg (by omega)]
    · rfl

theorem SMap.get_run [DecidableEq β] (d : β) (vs : List β) (a x : Nat) (h1 : a ≤ x) :
    SMap.get d (SMap.run d a vs) x = vs.getD (x - a) d := by
  induction vs generalizing a with
  | nil => simp [SMap.run, SMap.get]
  | cons v vs ih =>
    unfold SMap.run
    by_cases hxa : x = a
    · subst hxa
      split
      · rename_i hv
        rw [SMap.get_none]
        · simp [hv]
        · intro e he
          have := SMap.mem_run vs (x + 1) he
          omega
      · simp [SMap.get]
    · have e : x - a = (x - (a + 1)) + 1 := by omega
      rw [e]
      split
      · rw [ih (a + 1) (by omega)]
        simp
      · unfold SMap.get
        rw [if_neg (by omega), ih (a + 1) (by omega)]
        simp

/-- A read after a write of consecutive values. -/
theorem SMap.get_write [DecidableEq β] (d : β) (m : SMap β) (a : Nat) (vs : List β) (x : Nat) (h : SMap.wf d m = true) :
    SMap.get d (SMap.write d m a vs) x = if a ≤ x ∧ x < a + vs.length then vs.getD (x - a) d else SMap.get d m x := by
  rw [SMap.wf_iff] at h
  unfold SMap.write
  by_cases h1 : x < a
  · rw [if_neg (by omega), SMap.get_append_left, SMap.get_below d m a x h.1 h1]
    intro e he
    rcases List.mem_append.1 he with he | he
    · have := SMap.mem_run vs a he
      omega
    · have := SMap.le_from h.1 (SMap.mem_from he)
      omega
  · rw [SMap.get_append _ _ _ _ (by
      intro e he
      have := (SMap.mem_below he).2
      omega)]
    by_cases h2 : x < a + vs.length
    · rw [if_pos (by omega), SMap.get_append_left, SMap.get_run d vs a x (by omega)]
      intro e he
      have := SMap.le_from (SMap.rising_from m a h.1) he
      omega
    · rw [if_neg (by omega), SMap.get_append, SMap.get_from _ _ _ _ (by omega), SMap.get_from _ _ _ _ (by omega)]
      intro e he
      have := SMap.mem_run vs a he
      omega

/-- A read after a write of one value. -/
theorem SMap.get_put [DecidableEq β] (d : β) (m : SMap β) (a : Nat) (v : β) (x : Nat) (h : SMap.wf d m = true) :
    SMap.get d (SMap.put d m a v) x = if x = a then v else SMap.get d m x := by
  rw [SMap.put, SMap.get_write d m a [v] x h]
  by_cases hx : x = a
  · subst hx
    simp
  · rw [if_neg hx, if_neg (by simp; omega)]

/-- Reading consecutive values is reading each. -/
theorem SMap.read_eq [DecidableEq β] (d : β) (m : SMap β) (a n : Nat) (h : SMap.rising m = true) :
    SMap.read d m a n = (List.range n).map fun i => SMap.get d m (a + i) := by
  unfold SMap.read
  refine List.map_congr_left fun i hi => ?_
  have hi := List.mem_range.1 hi
  rw [SMap.get_below _ _ _ _ (SMap.rising_from m a h) (by omega), SMap.get_from _ _ _ _ (by omega)]

theorem mem_insertBy {α : Type} (le : α → α → Bool) (new x : α) (sorted : List α) : x ∈ insertBy le new sorted ↔ x = new ∨ x ∈ sorted := by
  have whole : x ∈ sorted ↔ x ∈ sorted.takeWhile (fun b => !le new b) ∨ x ∈ sorted.dropWhile (fun b => !le new b) := by
    rw [← List.mem_append, List.takeWhile_append_dropWhile]
  rw [whole, insertBy, List.mem_append, List.mem_cons, or_left_comm]

@[simp] theorem mem_sortBy {α : Type} (le : α → α → Bool) (x : α) (unsorted : List α) : x ∈ sortBy le unsorted ↔ x ∈ unsorted := by
  unfold sortBy
  induction unsorted with
  | nil => rfl
  | cons head rest sorted => rw [List.foldr_cons, mem_insertBy, sorted, List.mem_cons]

end Sys2Proof.Machine
end

