-- ==== Sys2Proof/Laws/Memory.lean ====
section
/-! SUPPORT. The operations on storage keep its canonical form, and what a read of one byte gives after each. -/

namespace Sys2Proof.Machine

theorem State.memWf_iff (s : State) : s.memWf = true ↔
    SMap.wf 0 s.mem = true ∧ SMap.wf 0 s.rowTick = true ∧ SMap.wf false s.rowLive = true ∧ SMap.wf false s.poison = true := by
  simp [State.memWf, Bool.and_eq_true, and_assoc]

/-- Storage is canonical in every state with the same tables. -/
theorem State.memWf_of_eq {s t : State} (h : s.memWf = true) (h1 : t.mem = s.mem) (h2 : t.rowTick = s.rowTick) (h3 : t.rowLive = s.rowLive)
    (h4 : t.poison = s.poison) : t.memWf = true := by
  rw [State.memWf_iff] at h ⊢
  rwa [h1, h2, h3, h4]

theorem State.poke_memWf (s : State) (pa : Nat) (bs : List Byte) (h : s.memWf = true) : (s.poke pa bs).memWf = true := by
  rw [State.memWf_iff] at h ⊢
  exact ⟨SMap.wf_write _ _ _ _ h.1, h.2⟩

theorem State.freshen_memWf (s : State) (row : Nat) (h : s.memWf = true) : (s.freshen row).memWf = true := by
  rw [State.memWf_iff] at h ⊢
  exact ⟨h.1, SMap.wf_put _ _ _ _ h.2.1, SMap.wf_put _ _ _ _ h.2.2.1, h.2.2.2⟩

theorem State.expireRow_memWf (s : State) (row : Nat) (h : s.memWf = true) : (s.expireRow row).memWf = true := by
  rw [State.memWf_iff] at h ⊢
  exact ⟨h.1, h.2.1, SMap.wf_put _ _ _ _ h.2.2.1, h.2.2.2⟩

theorem State.expireRows_memWf (s : State) (row n : Nat) (h : s.memWf = true) : (s.expireRows row n).memWf = true := by
  rw [State.memWf_iff] at h ⊢
  exact ⟨h.1, h.2.1, SMap.wf_write _ _ _ _ h.2.2.1, h.2.2.2⟩

theorem State.poisonBlock_memWf (s : State) (pa : Nat) (h : s.memWf = true) : (s.poisonBlock pa).memWf = true := by
  rw [State.memWf_iff] at h ⊢
  exact ⟨h.1, h.2.1, h.2.2.1, SMap.wf_put _ _ _ _ h.2.2.2⟩

theorem State.eccFound_memWf (s : State) (pa : Nat) (e : Ecc) (h : s.memWf = true) : (s.eccFound pa e).memWf = true := by
  cases e
  · exact h
  · exact State.memWf_of_eq h rfl rfl rfl rfl
  · exact State.poisonBlock_memWf s pa h

@[simp] theorem State.eccFound_mem (s : State) (pa : Nat) (e : Ecc) : (s.eccFound pa e).mem = s.mem := by cases e <;> rfl

/-- What a read meets keeps every property that a finding keeps. -/
theorem State.meet_keeps {P : State → Prop} (s : State) (pa n : Nat) (h : P (s.mended pa n)) (k : ∀ t a e, P t → P (State.eccFound t a e)) : P (s.meet pa n) := by
  unfold State.meet
  generalize s.flawsIn pa n = l
  generalize s.mended pa n = t at h
  induction l generalizing t with
  | nil => exact h
  | cons x l ih => exact ih _ (k _ _ _ h)

theorem State.meet_memWf (s : State) (pa n : Nat) (h : s.memWf = true) : (s.meet pa n).memWf = true :=
  State.meet_keeps (P := fun t => t.memWf = true) s pa n (State.memWf_of_eq h rfl rfl rfl rfl) fun t a e => State.eccFound_memWf t a e

@[simp] theorem State.meet_mem (s : State) (pa n : Nat) : (s.meet pa n).mem = s.mem :=
  State.meet_keeps (P := fun t => t.mem = s.mem) s pa n rfl fun t a e h => (State.eccFound_mem t a e).trans h

theorem State.unpoison_memWf (s : State) (pa n : Nat) (h : s.memWf = true) : (s.unpoison pa n).memWf = true := by
  unfold State.unpoison
  split
  · rw [State.memWf_iff] at h ⊢
    exact ⟨h.1, h.2.1, h.2.2.1, SMap.wf_write _ _ _ _ h.2.2.2⟩
  · exact h

/-- The state with the rest of an expired row reading zero, and none of it poisoned (R161). -/
def State.cleared (s : State) (pa : Nat) : State :=
  if s.expired pa then (s.poke (2048 * rowOf pa) (List.replicate 2048 0)).unpoison (2048 * rowOf pa) 2048 else s

/-- The state in which a write at its bank pokes its bytes: the rest of an expired row is cleared (R161), the row is fresh (R159). -/
def State.readied (s : State) (pa : Nat) : State :=
  if isGain pa then (s.cleared pa).freshen (rowOf pa) else s.cleared pa

theorem State.bankWrite_eq (s : State) (pa : Nat) (bs : List Byte) :
    s.bankWrite pa bs = ((s.readied pa).poke pa bs).unpoison pa bs.length := rfl

theorem State.cleared_memWf (s : State) (pa : Nat) (h : s.memWf = true) : (s.cleared pa).memWf = true := by
  unfold State.cleared
  split
  · exact State.unpoison_memWf _ _ _ (State.poke_memWf _ _ _ h)
  · exact h

theorem State.readied_memWf (s : State) (pa : Nat) (h : s.memWf = true) : (s.readied pa).memWf = true := by
  unfold State.readied
  split
  · exact State.freshen_memWf _ _ (State.cleared_memWf s pa h)
  · exact State.cleared_memWf s pa h

/-- A write at its bank keeps storage canonical. -/
theorem State.bankWrite_memWf (s : State) (pa : Nat) (bs : List Byte) (h : s.memWf = true) : (s.bankWrite pa bs).memWf = true := by
  rw [State.bankWrite_eq]
  exact State.unpoison_memWf _ _ _ (State.poke_memWf _ _ _ (State.readied_memWf _ _ h))

/-- A read at its bank keeps storage canonical. -/
theorem State.bankRead_memWf (s : State) (pa n : Nat) (h : s.memWf = true) : (s.bankRead pa n).1.memWf = true := by
  unfold State.bankRead
  split
  · have := State.expireRow_memWf s (rowOf pa) h
    dsimp only
    split <;> exact this
  · exact State.meet_memWf s pa n h

@[simp] theorem State.unpoison_mem (s : State) (pa n : Nat) : (s.unpoison pa n).mem = s.mem := by
  unfold State.unpoison
  split <;> rfl

@[simp] theorem State.bankRead_mem (s : State) (pa n : Nat) : (s.bankRead pa n).1.mem = s.mem := by
  unfold State.bankRead
  split
  · dsimp only
    split <;> rfl
  · exact State.meet_mem s pa n

/-- A byte of storage after a write at its bank: the byte written, zero in the rest of a row that had expired (R161), and otherwise the byte
that stood there. -/
theorem State.bankWrite_byte (s : State) (pa : Nat) (bs : List Byte) (a : Nat) (h : s.memWf = true) :
    SMap.get 0 (s.bankWrite pa bs).mem a =
      if pa ≤ a ∧ a < pa + bs.length then bs.getD (a - pa) 0
      else if s.expired pa = true ∧ rowOf a = rowOf pa then 0 else SMap.get 0 s.mem a := by
  have hw := (State.memWf_iff _).1 (State.readied_memWf s pa h)
  rw [State.bankWrite_eq, State.unpoison_mem]
  show SMap.get 0 (SMap.write 0 (s.readied pa).mem pa bs) a = _
  rw [SMap.get_write _ _ _ _ _ hw.1]
  split
  · rfl
  · have hm : (s.readied pa).mem = if s.expired pa then SMap.write 0 s.mem (2048 * rowOf pa) (List.replicate 2048 0) else s.mem := by
      have hc : (s.readied pa).mem = (s.cleared pa).mem := by
        unfold State.readied
        split <;> rfl
      rw [hc]
      unfold State.cleared
      split
      · rw [State.unpoison_mem]; rfl
      · rfl
    rw [hm]
    by_cases h1 : s.expired pa = true
    · simp only [h1, if_true, true_and]
      rw [SMap.get_write _ _ _ _ _ ((State.memWf_iff s).1 h).1]
      simp only [List.length_replicate]
      unfold rowOf
      by_cases h2 : a / 2048 = pa / 2048
      · rw [if_pos (by omega), if_pos h2]
        simp only [List.getD_eq_getElem?_getD, List.getElem?_replicate]
        split <;> rfl
      · rw [if_neg (by omega), if_neg h2]
    · simp [h1]

end Sys2Proof.Machine
end

