-- ==== Sys2Proof/Tests/Bench.lean ====
section
/-! SUPPORT. A small machine for the tests and the witnesses: partition 0 with quad 0, context 0 with three tensors, a crew on core 0. -/

namespace Sys2Proof.Tests

set_option Elab.async false

open Sys2Proof.Machine

/-- Does a reading answer? -/
def good {α : Type} (r : Except Stop α) : Bool :=
  match r with
  | .ok _ => true
  | .error _ => false

/-- What it answers. -/
def val {α : Type} (d : α) (r : Except Stop α) : α :=
  match r with
  | .ok a => a
  | .error _ => d

theorem good_val {α : Type} {x : Op α} {s : State} (d : α) (h : good (x.run s).1 = true) :
    x.run s = (.ok (val d (x.run s).1), (x.run s).2) := by
  revert h
  rcases x.run s with ⟨a | a, t⟩
  · intro h; cases h
  · intro _; rfl

theorem good_unit {x : Op Unit} {s : State} (h : good (x.run s).1 = true) : (x.run s).1 = .ok () := by
  revert h
  rcases (x.run s).1 with a | a
  · intro h; cases h
  · intro _; rfl

/-- The state that an outcome leaves. -/
def after (o : Host.Outcome State Fault Refusal) : State :=
  match o with
  | .next t => t
  | _ => {}

/-- A descriptor (R140): kind, rank, format, log of element bits, log of the first tile extent, first extent, tile table. -/
def tensorDesc (kind rank fmt elog tlog ext ttptr : Nat) : BitVec 512 :=
  BitVec.ofNat 512 (kind + rank * 4 + fmt * 2 ^ 8 + elog * 2 ^ 64 + tlog * 2 ^ 96 + ext * 2 ^ 128 + ttptr * 2 ^ 320)

/-- The crew: slot 0 names the linear tensor 0, slots 1 and 2 the FP32 tensors 1 and 2. -/
def crew0 : Crew :=
  { acc := 1, size := 1, slots := [0x8000, 0x8001, 0x8002] ++ List.replicate 29 0, secOff := [128, 128, 128, 128], secLen := [4, 4, 4, 4], groups := [5] }

/-- Partition 0 with quad 0. -/
def part0 : Part :=
  ({ pquads := 1, bound := 1, pframes := 64, pqueues := 4, pwalks := 0x0100010001000100, pxwalks := 0x0100010001000100 } : Part).modCtx 0 fun _ => { ndesc := 3 }

/-- The small machine: descriptors at byte 0, tile tables from byte 1,024, tiles in the frames from 16 KiB on. -/
def bench : State :=
  let s := State.reset.setCore 0 { crew := some crew0, strands := Vector.replicate 4 { live := true, headOk := true } }
  let s := s.setPart 0 part0
  let s := s.poke 0 (bvBytes 64 (tensorDesc 1 1 0 3 14 16384 1024) ++ bvBytes 64 (tensorDesc 1 1 1 5 12 64 1032) ++ bvBytes 64 (tensorDesc 1 1 1 5 12 64 1040))
  s.poke 1024 (bvBytes 8 (hbmEntry 0 1) ++ bvBytes 8 (hbmEntry 0 2) ++ bvBytes 8 (hbmEntry 0 3))

/-- The small machine with x registers set. -/
def benchX (l : List (BitVec 6 × Word)) : State := bench.modCore 0 fun c => l.foldl (fun c e => c.setX e.1 e.2) c

/-- The small machine with p registers set. -/
def benchP (l : List (Fin 32 × Word)) : State := bench.modCore 0 fun c => l.foldl (fun c e => { c with p := c.p.set e.1.val e.2 }) c

end Sys2Proof.Tests
end

