-- ==== Sys2Proof/Tests/Slice0.lean ====
section
/-! SUPPORT. Tests of the decoder and of well-formedness: one word for each constructor, written from the opcode table and from the
layouts of 17_encoding.md, 20_matrix_isa.md and 21_transfer_isa.md, the words of the spec's programs, and an ill-formed term for each
check of WellFormed.lean. -/

namespace Sys2Proof.Tests

set_option Elab.async false

/-- What the published table of a strand reads from some words, where it takes them all. -/
noncomputable def reads (k : Strand) (l : List (List W32)) : List Instr :=
  l.filterMap fun ws => match decodeWords k (defaultEntry k) ws with
    | some (i, n) => if n = ws.length then some i else none
    | none => none

/-- S words from the opcode table and the layouts of ch. 17, 20 and 21: add to sra. -/
theorem test_decode_s0 : reads .s [[0x006BD811],
    [0x00B0EC61],
    [0x00F504B1],
    [0x013A1501],
    [0x017F2951],
    [0x01843DA1],
    [0x01C951F1],
    [0x020E6641],
    [0x02537A91],
    [0x02988EE1],
    [0x02DDA331],
    [0x0322B781],
    [0x0367CBD1],
    [0x03ACDC21],
    [0x03F1F071],
    [0x043604C1]] =
  [.add 0x2b 0x36 1 true,
   .sub 0x30 0x3b 6 true,
   .mul 0x35 1 0xb true,
   .mulh 0x3a 5 0x10 true,
   .mulhu 0x3f 0xa 0x15 true,
   .div 4 0xf 0x1a true,
   .divu 9 0x14 0x1f true,
   .rem 0xe 0x19 0x24 true,
   .remu 0x13 0x1e 0x29 true,
   .and 0x18 0x23 0x2e true,
   .or 0x1d 0x28 0x33 true,
   .xor 0x22 0x2d 0x38 true,
   .andn 0x27 0x32 0x3d true,
   .shl 0x2c 0x37 2 true,
   .shr 0x31 0x3c 7 true,
   .sra 0x36 1 0xc true] := by decide +kernel

/-- S words from the opcode table and the layouts of ch. 17, 20 and 21: rotr to ori. -/
theorem test_decode_s1 : reads .s [[0x047B1911],
    [0x04812D61],
    [0x04C541B1],
    [0x050A5601],
    [0x054F6A51],
    [0x05947EA4],
    [0x05D992F0],
    [0x061EA401],
    [0x0663B801],
    [0x06A8CC01],
    [0x06EDE001],
    [0x0732F481],
    [0x077708D1],
    [0x083C1CD2],
    [0x084130D7],
    [0x088644DC]] =
  [.rotr 0x3b 6 0x11 true,
   .min 1 0xb 0x16 true,
   .max 5 0x10 0x1b true,
   .minu 0xa 0x15 0x20 true,
   .maxu 0xf 0x1a 0x25 true,
   .cmp .ltu 0x14 0x1f 0x2a,
   .sel 0x19 0x24 0x2f,
   .clz 0x1e 0x29 true,
   .ctz 0x23 0x2e true,
   .popc 0x28 0x33 true,
   .brev 0x2d 0x38 true,
   .bext 0x32 0x3d 8 true,
   .bins 0x37 2 0xd true,
   .addi 0x3c 7 0xd2,
   .andi 1 0xc 0xd7,
   .ori 6 0x11 0xdc] := by decide +kernel

/-- S words from the opcode table and the layouts of ch. 17, 20 and 21: xori to bgeu. -/
theorem test_decode_s2 : reads .s [[0x08CB58E1],
    [0x09106C26],
    [0x0955802B],
    [0x099A9430],
    [0x09DFA8F5],
    [0x0B6FE905],
    [0x0C2900F4],
    [0x0C6E00F9],
    [0x0C95F800],
    [0x0CF85400],
    [0x103D2113],
    [0x10423518],
    [0x1087491D],
    [0x10CC5D22],
    [0x11117127],
    [0x1156852C]] =
  [.xori 0xb 0x16 0xe1,
   .shli 0x10 0x1b 0x26,
   .shri 0x15 0x20 0x2b,
   .srai 0x1a 0x25 0x30,
   .muli 0x1f 0x2a 0xf5,
   .cmpi .geu 0x2f 0x3a 0x105,
   .li 0x29 0xf4,
   .lsi 0x2e 0xf9,
   .pmovToP 0x15 0x3e,
   .pmovFromP 0x38 0x15,
   .beq 0x3d 8 0x113,
   .bne 2 0xd 0x118,
   .blt 7 0x12 0x11d,
   .bge 0xc 0x17 0x122,
   .bltu 0x11 0x1c 0x127,
   .bgeu 0x16 0x21 0x12c] := by decide +kernel

/-- S words from the opcode table and the layouts of ch. 17, 20 and 21: j to st64. -/
theorem test_decode_s3 : reads .s [[0x1180011B],
    [0x11C00120],
    [0x12009400],
    [0x1240A800],
    [0x1280BD3A],
    [0x1434FD55],
    [0x147911FA],
    [0x14BE269F],
    [0x14C33B24],
    [0x15084FC9],
    [0x154D606E],
    [0x15927513],
    [0x161789B8],
    [0x165C9E5D],
    [0x16A1B2E2],
    [0x16E6C787]] =
  [.j 0x11b,
   .call 0x120,
   .jr 0x25,
   .callr 0x2a,
   .sLoop 0x2f 0x13a,
   .ldS8 0x34 0x3f 0xa 0x15,
   .ldN8 0x39 4 0xf 0x1a,
   .ldS16 0x3e 9 0x14 0x1f,
   .ldN16 3 0xe 0x19 4,
   .ldS32 8 0x13 0x1e 9,
   .ldN32 0xd 0x18 3 0xe,
   .ld64 0x12 0x1d 8 0x13,
   .st8 0x17 0x22 0xd 0x18,
   .st16 0x1c 0x27 0x12 0x1d,
   .st32 0x21 0x2c 0x17 2,
   .st64 0x26 0x31 0x1c 7] := by decide +kernel

/-- S words from the opcode table and the layouts of ch. 17, 20 and 21: stNt8 to grpInit. -/
theorem test_decode_s4 : reads .s [[0x172BD82C],
    [0x1770ECD1],
    [0x17B50576],
    [0x17FA161B],
    [0x198A542B],
    [0x19CF68B0],
    [0x1D947D55],
    [0x1DD991FA],
    [0x20C00000],
    [0x22C00000],
    [0x24C00000],
    [0x26000000],
    [0x282700B2],
    [0x286C00B7],
    [0x28B100BC],
    [0x28F60400]] =
  [.stNt8 0x2b 0x36 1 0xc,
   .stNt16 0x30 0x3b 6 0x11,
   .stNt32 0x35 1 0xb 0x16,
   .stNt64 0x3a 5 0x10 0x1b,
   .ldAcqN32 .pkg 0xa 0x15 1 0xb,
   .ldAcq64 .pkg 0xf 0x1a 5 0x10,
   .stRel32 .pkg 0x14 0x1f 0xa 0x15,
   .stRel64 .pkg 0x19 0x24 0xf 0x1a,
   .fenceRel .pkg,
   .fenceAcq .pkg,
   .fenceFull .pkg,
   .fenceAlias,
   .phase 0x27 0xb2,
   .phaseArrive 0x2c 0xb7,
   .phaseWait 0x31 0xbc,
   .grpInit 0x36 1] := by decide +kernel

/-- S words from the opcode table and the layouts of ch. 17, 20 and 21: grpFree to trap. -/
theorem test_decode_s5 : reads .s [[0x290000BB],
    [0x29400007],
    [0x29800015],
    [0x2AD58176],
    [0x2C003DA0],
    [0x2C547C00],
    [0x2C9992F0],
    [0x2CC07A90],
    [0x2D000000],
    [0x2D400000],
    [0x2D800000],
    [0x2DC001F2],
    [0x2E000000],
    [0x2E4B1E5D],
    [0x2E8B3170],
    [0xE0000206]] =
  [.grpFree 0xbb,
   .tokWait 3 1,
   .tokPost 1 5,
   .mwait .pkg 0x15 0x20 0xb 0x16,
   .chunkInit 0xf 0x1a,
   .chunkFetch 0x14 0x1f,
   .spawn 0x19 0x24 0x2f,
   .notify 0x1e 0x29,
   .yield,
   .sExit,
   .sNop,
   .sRegionEnter 0x1f2,
   .sRegionLeave,
   .genSet 0xb 7 0x12 0x1d,
   .genSkip 0xb 0xc 0x17,
   .trap 0x206] := by decide +kernel

/-- S words from the opcode table and the layouts of ch. 17, 20 and 21: resume to halt. -/
theorem test_decode_s6 : reads .s [[0xE0402C00],
    [0xE080A800],
    [0xE0C0A800],
    [0xE1006A50],
    [0xE15FAB50],
    [0xE1809000],
    [0xE1E9D000],
    [0xE200BB90],
    [0xE273F800],
    [0xE2B80C00],
    [0xE2C0F480],
    [0xE30008D0],
    [0xE3401D20],
    [0xE3803170],
    [0xE3C00001],
    [0xE4000000]] =
  [.resume 0xb,
   .ctxSave 0x2a,
   .ctxLoad 0x2a,
   .dtabLoad 0x1a 0x25,
   .capDeleg 0x1f 0x2a 0x35,
   .capRevoke 0x24,
   .capCheck 0x29 0x34,
   .evSel 0x2e 0x39,
   .evRead 0x33 0x3e,
   .snapRead 0x38 3,
   .ttInval 0x3d 8,
   .slogReplay 2 0xd,
   .migrate 7 0x12,
   .stop 0xc 0x17,
   .xmode true,
   .halt] := by decide +kernel

/-- S words from the opcode table and the layouts of ch. 17, 20 and 21: wfi to amoSmax. -/
theorem test_decode_s7 : reads .s [[0xE4400000],
    [0xE4A0026B],
    [0xE4E50270],
    [0x4614793F],
    [0x45E80834],
    [0x53557D5E],
    [0x50A90C53],
    [0x6096817D],
    [0x5B6A1072],
    [0x6DD7859C],
    [0x662B1491],
    [0x7A1889BB],
    [0x71EC18B0],
    [0x87598DDA],
    [0x7CAD1CCF],
    [0x8E9A91F9]] =
  [.wfi,
   .sysr 0x20 0x26b,
   .sysw 0x25 0x270,
   .amoAdd true .core .rlx 20 30 9 31,
   .amoAdd false .sys .acqrel 40 2 1 20,
   .amoAnd true .gang .acq 21 31 10 30,
   .amoAnd false .fab .rel 41 3 2 19,
   .amoOr true .die .rel 22 32 11 29,
   .amoOr false .pkg .acq 42 4 3 18,
   .amoXor true .pkg .acqrel 23 33 12 28,
   .amoXor false .die .rlx 43 5 4 17,
   .amoSwap true .fab .rlx 24 34 13 27,
   .amoSwap false .gang .acqrel 44 6 5 16,
   .amoSmin true .sys .acq 25 35 14 26,
   .amoSmin false .core .rel 45 7 6 15,
   .amoSmax true .core .rel 26 36 15 25] := by decide +kernel

/-- S words from the opcode table and the layouts of ch. 17, 20 and 21: amoSmax to amoFmaxF32. -/
theorem test_decode_s8 : reads .s [[0x8D6E20EE],
    [0x9BDB9618],
    [0x982F250D],
    [0xA81C9A37],
    [0xA3F0292C],
    [0xAD141CA3],
    [0xB4561CA3],
    [0xBB981CA3],
    [0xC0E1B225],
    [0xC7A2B646],
    [0xCE63BA67],
    [0xD524BE88]] =
  [.amoSmax false .sys .acq 46 8 7 14,
   .amoUmin true .gang .acqrel 27 37 16 24,
   .amoUmin false .fab .rlx 47 9 8 13,
   .amoUmax true .die .rlx 28 38 17 23,
   .amoUmax false .pkg .acqrel 48 10 9 12,
   .amoCas .w32 .gang .rlx 20 7 5 3,
   .amoCas .w64 .die .acq 22 7 5 3,
   .amoCas .w128 .pkg .rel 24 7 5 3,
   .amoFaddF32 .die .acqrel 33 44 17 5,
   .amoFaddBf16 .pkg .rel 34 45 18 6,
   .amoFminF32 .fab .acq 35 46 19 7,
   .amoFmaxF32 .sys .rlx 36 47 20 8] := by decide +kernel

/-- V words from the opcode table and the layouts of ch. 17, 20 and 21: vNop to vmul. -/
theorem test_decode_v0 : reads .v [[0x00640000],
    [0x00B80000],
    [0x00DCA295],
    [0x0114028F],
    [0x01640000],
    [0x02380019],
    [0x025C001E],
    [0x04143181],
    [0x046410C6],
    [0x04B85043],
    [0x04DC2141],
    [0x05147080],
    [0x056441C0],
    [0x08381317],
    [0x085C645C],
    [0x0894B5A1]] =
  [.vNop ⟨2, 1⟩,
   .vExit ⟨3, 2⟩,
   .vLoop ⟨1, 3⟩ 0x28a 0x15,
   .vRegionEnter ⟨1, 1⟩ 0x28f,
   .vRegionLeave ⟨2, 1⟩,
   .vshape ⟨3, 2⟩ 0x19,
   .vsetlen ⟨1, 3⟩ 0x1e,
   .mand ⟨1, 1⟩ 3 6 1,
   .mor ⟨2, 1⟩ 1 3 6,
   .mxor ⟨3, 2⟩ 5 1 3,
   .mandn ⟨1, 3⟩ 2 5 1,
   .mnot ⟨1, 1⟩ 7 2,
   .mfromv ⟨2, 1⟩ 4 7,
   .vadd ⟨3, 2⟩ 1 0xc 0x17,
   .vsub ⟨1, 3⟩ 6 0x11 0x1c,
   .vmul ⟨1, 1⟩ 0xb 0x16 0x21] := by decide +kernel

/-- V words from the opcode table and the layouts of ch. 17, 20 and 21: vfma to vfmsS. -/
theorem test_decode_v1 : reads .v [[0x08E506E6],
    [0x0939582B],
    [0x095DA970],
    [0x0995FAB5],
    [0x09E64BFA],
    [0x0A3A9D3F],
    [0x0A5EEE44],
    [0x0A973F89],
    [0x0AE780CE],
    [0x0B3BD213],
    [0x0B5C2358],
    [0x0C14749D],
    [0x0C64C5C2],
    [0x0CB91707],
    [0x0CDD684C],
    [0x0D15B991]] =
  [.vfma ⟨2, 1⟩ 0x10 0x1b 0x26,
   .vfms ⟨3, 2⟩ 0x15 0x20 0x2b,
   .vmin ⟨1, 3⟩ 0x1a 0x25 0x30,
   .vmax ⟨1, 1⟩ 0x1f 0x2a 0x35,
   .vdiv ⟨2, 1⟩ 0x24 0x2f 0x3a,
   .vand ⟨3, 2⟩ 0x29 0x34 0x3f,
   .vor ⟨1, 3⟩ 0x2e 0x39 4,
   .vxor ⟨1, 1⟩ 0x33 0x3e 9,
   .vshl ⟨2, 1⟩ 0x38 3 0xe,
   .vshr ⟨3, 2⟩ 0x3d 8 0x13,
   .vsra ⟨1, 3⟩ 2 0xd 0x18,
   .vaddS ⟨1, 1⟩ 7 0x12 0x1d,
   .vsubS ⟨2, 1⟩ 0xc 0x17 2,
   .vmulS ⟨3, 2⟩ 0x11 0x1c 7,
   .vfmaS ⟨1, 3⟩ 0x16 0x21 0xc,
   .vfmsS ⟨1, 1⟩ 0x1b 0x26 0x11] := by decide +kernel

/-- V words from the opcode table and the layouts of ch. 17, 20 and 21: vminS to vlog2. -/
theorem test_decode_v2 : reads .v [[0x0D660AD6],
    [0x0DBA5C1B],
    [0x0DDEAD41],
    [0x0E16FE85],
    [0x0E674FCA],
    [0x0EBB910F],
    [0x0EDFE254],
    [0x0F143399],
    [0x0F6484DE],
    [0x1038D600],
    [0x105D2740],
    [0x10957880],
    [0x10E5C9C0],
    [0x113A1B00],
    [0x115E6C40],
    [0x1196BD80]] =
  [.vminS ⟨2, 1⟩ 0x20 0x2b 0x16,
   .vmaxS ⟨3, 2⟩ 0x25 0x30 0x1b,
   .vdivS ⟨1, 3⟩ 0x2a 0x35 1,
   .vandS ⟨1, 1⟩ 0x2f 0x3a 5,
   .vorS ⟨2, 1⟩ 0x34 0x3f 0xa,
   .vxorS ⟨3, 2⟩ 0x39 4 0xf,
   .vshlS ⟨1, 3⟩ 0x3e 9 0x14,
   .vshrS ⟨1, 1⟩ 3 0xe 0x19,
   .vsraS ⟨2, 1⟩ 8 0x13 0x1e,
   .vabs ⟨3, 2⟩ 0xd 0x18,
   .vneg ⟨1, 3⟩ 0x12 0x1d,
   .vrcp ⟨1, 1⟩ 0x17 0x22,
   .vsqrt ⟨2, 1⟩ 0x1c 0x27,
   .vrsqrt ⟨3, 2⟩ 0x21 0x2c,
   .vexp2 ⟨1, 3⟩ 0x26 0x31,
   .vlog2 ⟨1, 1⟩ 0x2b 0x36] := by decide +kernel

/-- V words from the opcode table and the layouts of ch. 17, 20 and 21: vsin to vlut. -/
theorem test_decode_v3 : reads .v [[0x11E70EC0],
    [0x123B5040],
    [0x125FA140],
    [0x14DC2560],
    [0x15A443DA],
    [0x1638951F],
    [0x165CE644],
    [0x16953789],
    [0x182588C0],
    [0x1879DA00],
    [0x189E2B40],
    [0x1A167CBD],
    [0x1A66CDC2],
    [0x1ABB1F07],
    [0x1ADF6001],
    [0x1B17B191]] =
  [.vsin ⟨2, 1⟩ 0x30 0x3b,
   .vcos ⟨3, 2⟩ 0x35 1,
   .vmov ⟨1, 3⟩ 0x3a 5,
   .vcmp ⟨1, 3⟩ .le 2 0x15 0x20,
   .vsel ⟨2, 1⟩ 4 0xf 0x1a,
   .vcvt ⟨3, 2⟩ 9 0x14 0x1f,
   .vpack ⟨1, 3⟩ 0xe 0x19 4,
   .vunpack ⟨1, 1⟩ 0x13 0x1e 9,
   .vrsum ⟨2, 1⟩ 0x18 0x23,
   .vrmax ⟨3, 2⟩ 0x1d 0x28,
   .vrmin ⟨1, 3⟩ 0x22 0x2d,
   .vperm ⟨1, 1⟩ 0x27 0x32 0x3d,
   .vslup ⟨2, 1⟩ 0x2c 0x37 2,
   .vsldn ⟨3, 2⟩ 0x31 0x3c 7,
   .vbcast ⟨1, 3⟩ 0x36 1,
   .vlut ⟨1, 1⟩ 0x3b 6 0x11] := by decide +kernel

/-- V words from the opcode table and the layouts of ch. 17, 20 and 21: vld to vupd. -/
theorem test_decode_v4 : reads .v [[0x1C2412D6],
    [0x1C78541B],
    [0x1C9CA541],
    [0x1CD4F6A5],
    [0x1D2547EA],
    [0x1D79910F]] =
  [.vld ⟨2, 1⟩ 1 0xb 0x16,
   .vst ⟨3, 2⟩ 5 0x10 0x1b,
   .vstNt ⟨1, 3⟩ 0xa 0x15 1,
   .vgather ⟨1, 1⟩ 0xf 0x1a 0x25,
   .vscatter ⟨2, 1⟩ 0x14 0x1f 0x2a,
   .vupd ⟨3, 2⟩ 0x19 4 0xf] := by decide +kernel

/-- M words from the opcode table and the layouts of ch. 17, 20 and 21: mNop to mtab. -/
theorem test_decode_m0 : reads .m [[0x005C0000],
    [0x00940000],
    [0x00E503F3],
    [0x013803ED],
    [0x015C0000],
    [0x04140017],
    [0x04640807],
    [0x04780C00],
    [0x049C0800],
    [0x04D402ED],
    [0x05240ECD],
    [0x08383800, 0x11000000, 0x19800000],
    [0x08501015, 0x4A000000, 0x3F800000, 0x000000B9],
    [0x08870803, 0x08800000, 0x19000000, 0x0000000E],
    [0x08EC201F, 0x21400000, 0x31C00000, 0xF7400000],
    [0x0A100001, 0x12400000]] =
  [.mNop ⟨1, 3⟩,
   .mExit ⟨1, 1⟩,
   .mLoop ⟨2, 1⟩ 8 0x3f3,
   .mRegionEnter ⟨3, 2⟩ 0x3ed,
   .mRegionLeave ⟨1, 3⟩,
   .mcfg ⟨1, 1⟩ 0x17,
   .manchor ⟨2, 1⟩ true 7,
   .manchorAuto ⟨3, 2⟩ true,
   .mzero ⟨1, 3⟩ true,
   .mstat ⟨1, 1⟩ 0xb 0x16 true,
   .msamp ⟨2, 1⟩ true 0x1b 6 true,
   .mmd ⟨3, 2⟩ ⟨3, true, 0, ⟨2, 4⟩, ⟨3, 6⟩⟩,
   .mms ⟨1, 0⟩ ⟨1, false, 21, ⟨9, 8⟩, ⟨7, 30⟩⟩ 9 (some 5),
   .mmn ⟨0, 1⟩ ⟨48, true, 3, ⟨1, 2⟩, ⟨3, 4⟩⟩ 14 none,
   .mmc ⟨2, 3⟩ ⟨2, false, 31, ⟨4, 5⟩, ⟨6, 7⟩⟩ ⟨30, 29⟩,
   .mtab ⟨1, 0⟩ true ⟨2, 9⟩] := by decide +kernel

/-- M words from the opcode table and the layouts of ch. 17, 20 and 21: mrd to mmerge. -/
theorem test_decode_m1 : reads .m [[0x0C0C6813, 0x41CC1964, 0x29010000],
    [0x0C440000, 0x32000000],
    [0x0CA00800, 0xFF800000],
    [0x0E100000, 0x32000000, 0x00000080]] =
  [.mrd ⟨0, 3⟩ ⟨6, true, true, false, 3, ⟨8, 7, 6⟩, 100, 50, some ⟨5, 4⟩⟩,
   .mst ⟨0, 1⟩ false ⟨6, 8⟩,
   .mld ⟨2, 0⟩ true ⟨31, 30⟩,
   .mmerge ⟨1, 0⟩ 0 false ⟨6, 8⟩ 0 1] := by decide +kernel

/-- X words from the opcode table and the layouts of ch. 17, 20 and 21: xNop to metaLoadOrder. -/
theorem test_decode_x0 : reads .x [[0x00780000],
    [0x009C0000],
    [0x00D7E42A],
    [0x01240424],
    [0x01780000],
    [0x0A9C0171],
    [0x041A3228, 0x298E0000, 0x42540000],
    [0x045A3228, 0x298E0000, 0x42540000, 0x00000F85],
    [0x04840040, 0x08860000, 0x214C0085],
    [0x04C40040, 0x08860000, 0x214C0085, 0x00000F85],
    [0x0533FF00, 0x5B1BAD80, 0x73E00000],
    [0x0573FF00, 0x5B1BAD80, 0x73E00000, 0x00000F85],
    [0x05800010, 0x08860000, 0x214C7424],
    [0x05C00010, 0x08860000, 0x214C7424, 0x00000F85],
    [0x060C002D, 0x0CC00000],
    [0x064C002D, 0x0CC00000, 0x00000F85]] =
  [.xNop ⟨3, 2⟩,
   .xExit ⟨1, 3⟩,
   .xLoop ⟨1, 1⟩ 0x1f 0x42a,
   .xRegionEnter ⟨2, 1⟩ 0x424,
   .xRegionLeave ⟨3, 2⟩,
   .permit ⟨1, 3⟩ 0x2e 1,
   .copy ⟨1, 2⟩ ⟨some ⟨3, 4⟩, 2, true, ⟨5, 6, 7⟩, ⟨8, 9, 10⟩⟩,
   .copyOrder ⟨1, 2⟩ ⟨some ⟨3, 4⟩, 2, true, ⟨5, 6, 7⟩, ⟨8, 9, 10⟩⟩ ⟨5, 62⟩,
   .copyEnc ⟨0, 1⟩ ⟨none, 4, false, ⟨1, 2, 3⟩, ⟨4, 5, 6⟩⟩ 0x85,
   .copyEncOrder ⟨0, 1⟩ ⟨none, 4, false, ⟨1, 2, 3⟩, ⟨4, 5, 6⟩⟩ 0x85 ⟨5, 62⟩,
   .copyDec ⟨3, 0⟩ ⟨some ⟨31, 30⟩, 0, false, ⟨11, 12, 13⟩, ⟨14, 15, 16⟩⟩ (some ⟨21, 22⟩),
   .copyDecOrder ⟨3, 0⟩ ⟨some ⟨31, 30⟩, 0, false, ⟨11, 12, 13⟩, ⟨14, 15, 16⟩⟩ (some ⟨21, 22⟩) ⟨5, 62⟩,
   .copySt ⟨0, 0⟩ ⟨none, 1, false, ⟨1, 2, 3⟩, ⟨4, 5, 6⟩⟩ ⟨7, 8, 9⟩,
   .copyStOrder ⟨0, 0⟩ ⟨none, 1, false, ⟨1, 2, 3⟩, ⟨4, 5, 6⟩⟩ ⟨7, 8, 9⟩ ⟨5, 62⟩,
   .metaLoad ⟨0, 3⟩ 2 13 ⟨1, 19⟩,
   .metaLoadOrder ⟨0, 3⟩ 2 13 ⟨1, 19⟩ ⟨5, 62⟩] := by decide +kernel

/-- X words from the opcode table and the layouts of ch. 17, 20 and 21: gather to walkOrder. -/
theorem test_decode_x1 : reads .x [[0x06866380, 0x4800A580, 0x190A0000],
    [0x06C66380, 0x4800A580, 0x190A0000, 0x00000F85],
    [0x07040000, 0x190A0000, 0x4800A580],
    [0x07440000, 0x190A0000, 0x4800A580, 0x00000F85],
    [0x07A80000, 0x190AA580, 0x8C800000],
    [0x07E80000, 0x190AA580, 0x8C800000, 0x00000F85],
    [0x0804003B, 0x8C800000],
    [0x0844003B, 0x8C800000, 0x00000F85],
    [0x08860B84, 0x190A0000, 0x31D00000],
    [0x08C60B84, 0x190A0000, 0x31D00000, 0x00000F85],
    [0x09074A80, 0x190A0000, 0x31C00000],
    [0x09474A80, 0x190A0000, 0x31C00000, 0x00000F85],
    [0x09874A80, 0x190A0000, 0x31D14800],
    [0x09C74A80, 0x190A0000, 0x31D14800, 0x00000F85],
    [0x0A114C60, 0x10020000, 0x28814800],
    [0x0A514C60, 0x10020000, 0x28814800, 0x00000F85]] =
  [.gather ⟨0, 1⟩ ⟨some ⟨6, 7⟩, ⟨3, 4, 5⟩, 9, ⟨10, 11⟩⟩,
   .gatherOrder ⟨0, 1⟩ ⟨some ⟨6, 7⟩, ⟨3, 4, 5⟩, 9, ⟨10, 11⟩⟩ ⟨5, 62⟩,
   .scatter ⟨0, 1⟩ ⟨none, ⟨3, 4, 5⟩, 9, ⟨10, 11⟩⟩,
   .scatterOrder ⟨0, 1⟩ ⟨none, ⟨3, 4, 5⟩, 9, ⟨10, 11⟩⟩ ⟨5, 62⟩,
   .scatterBin ⟨2, 2⟩ ⟨3, 4, 5⟩ ⟨10, 11⟩ ⟨17, 18⟩,
   .scatterBinOrder ⟨2, 2⟩ ⟨3, 4, 5⟩ ⟨10, 11⟩ ⟨17, 18⟩ ⟨5, 62⟩,
   .binApply ⟨0, 1⟩ 29 true ⟨17, 18⟩,
   .binApplyOrder ⟨0, 1⟩ 29 true ⟨17, 18⟩ ⟨5, 62⟩,
   .put ⟨0, 1⟩ (some 23) (some 8) ⟨3, 4, 5⟩ 6 7,
   .putOrder ⟨0, 1⟩ (some 23) (some 8) ⟨3, 4, 5⟩ 6 7 ⟨5, 62⟩,
   .get ⟨0, 1⟩ (some ⟨20, 21⟩) ⟨3, 4, 5⟩ 6 7,
   .getOrder ⟨0, 1⟩ (some ⟨20, 21⟩) ⟨3, 4, 5⟩ 6 7 ⟨5, 62⟩,
   .mcast ⟨0, 1⟩ (some ⟨20, 21⟩) ⟨3, 4, 5⟩ ⟨6, 7, 8⟩ (some 9),
   .mcastOrder ⟨0, 1⟩ (some ⟨20, 21⟩) ⟨3, 4, 5⟩ ⟨6, 7, 8⟩ (some 9) ⟨5, 62⟩,
   .walk ⟨1, 0⟩ ⟨false, 5, 1, some 3, ⟨2, 0, 1⟩, ⟨5, 2⟩, some 9⟩,
   .walkOrder ⟨1, 0⟩ ⟨false, 5, 1, some 3, ⟨2, 0, 1⟩, ⟨5, 2⟩, some 9⟩ ⟨5, 62⟩] := by decide +kernel

/-- X words from the opcode table and the layouts of ch. 17, 20 and 21: permitOrder to coll. -/
theorem test_decode_x2 : reads .x [[0x0AC40646, 0x00000F85],
    [0x0B040004, 0x28C00000],
    [0x0B440004, 0x28C00000, 0x00000F85],
    [0x0B840C6E, 0x28C80000],
    [0x0BC40C6E, 0x28C80000, 0x00000F85],
    [0x0C040000, 0x28C80000],
    [0x0C440000, 0x28C80000, 0x00000F85],
    [0x0C840000, 0x28C80000],
    [0x0CC40000, 0x28C80000, 0x00000F85],
    [0x0D040002, 0x28C00000, 0x30000000],
    [0x0D440002, 0x28C00000, 0x30000000, 0x00000F85],
    [0x0D840006, 0x30000000, 0x3A009500],
    [0x0DC40006, 0x30000000, 0x3A009500, 0x00000F85],
    [0x0E040000, 0x30000000],
    [0x0E440000, 0x30000000, 0x00000F85],
    [0x0E855C87, 0x08860000, 0x214C7000]] =
  [.permitOrder ⟨0, 1⟩ 200 6 ⟨5, 62⟩,
   .lockSet ⟨0, 1⟩ 4 ⟨5, 3⟩,
   .lockSetOrder ⟨0, 1⟩ 4 ⟨5, 3⟩ ⟨5, 62⟩,
   .alloc ⟨0, 1⟩ ⟨12, 13⟩ true 2 ⟨5, 3, 4⟩,
   .allocOrder ⟨0, 1⟩ ⟨12, 13⟩ true 2 ⟨5, 3, 4⟩ ⟨5, 62⟩,
   .free ⟨0, 1⟩ ⟨5, 3, 4⟩,
   .freeOrder ⟨0, 1⟩ ⟨5, 3, 4⟩ ⟨5, 62⟩,
   .renew ⟨0, 1⟩ ⟨5, 3, 4⟩,
   .renewOrder ⟨0, 1⟩ ⟨5, 3, 4⟩ ⟨5, 62⟩,
   .ringPut ⟨0, 1⟩ 2 ⟨5, 3⟩ 6,
   .ringPutOrder ⟨0, 1⟩ 2 ⟨5, 3⟩ 6 ⟨5, 62⟩,
   .ringTake ⟨0, 1⟩ 6 6 ⟨7, 8⟩ ⟨9, 10⟩,
   .ringTakeOrder ⟨0, 1⟩ 6 6 ⟨7, 8⟩ ⟨9, 10⟩ ⟨5, 62⟩,
   .ringClose ⟨0, 1⟩ 6,
   .ringCloseOrder ⟨0, 1⟩ 6 ⟨5, 62⟩,
   .coll ⟨0, 1⟩ ⟨21, 200, 1, 3, ⟨1, 2, 3⟩, ⟨4, 5, 6⟩, 7⟩] := by decide +kernel

/-- X words from the opcode table and the layouts of ch. 17, 20 and 21: collOrder to collOrder. -/
theorem test_decode_x3 : reads .x [[0x0EC55C87, 0x08860000, 0x214C7000, 0x00000F85]] =
  [.collOrder ⟨0, 1⟩ ⟨21, 200, 1, 3, ⟨1, 2, 3⟩, ⟨4, 5, 6⟩, 7⟩ ⟨5, 62⟩] := by decide +kernel

/-! ### Words of the spec's own programs (17, 20, 21, 22, 23, 24) -/

/-- S words of 17_encoding.md, 22_system_isa.md, 23_programs_compute.md and 24_programs_coordination.md. -/
theorem test_program_words_s : reads .s [[0x0C060001], [0x49851062], [0x29800005], [0x2D400000], [0xE1451870], [0xE1D45400], [0xE3802090],
    [0xE0802800], [0xE0402000], [0x090A0C08], [0x088A2880], [0x0C0B010D], [0xE20028B0], [0xE24C2800], [0x11BFFFF8], [0x12806404],
    [0x2E400020], [0x2E8024A0], [0x28170005]] =
  [.li 6 1, .amoAdd true .pkg .rel 5 4 3 2, .tokPost 1 1, .sExit, .capDeleg 5 6 7, .capCheck 20 21, .stop 8 9, .ctxSave 10, .resume 8,
   .shli 10 3 8, .ori 10 10 0x80, .li 11 0x10D, .evSel 10 11, .evRead 12 10, .j 0x3FFFF8, .sLoop 25 4, .genSet 0 0 1 0, .genSkip 0 9 10, .phase 23 5] := by decide +kernel

/-- V, M and X words of the same chapters. -/
theorem test_program_words_vmx :
    reads .v [[0x08D03042], [0x1C001040], [0x180040C0], [0x02100002], [0x16002044], [0x1AC03002]] =
      [.vfma ⟨1, 0⟩ 3 1 2, .vld ⟨0, 0⟩ 1 1 0, .vrsum ⟨0, 0⟩ 4 3, .vshape ⟨1, 0⟩ 2, .vcvt ⟨0, 0⟩ 2 1 4, .vbcast ⟨0, 0⟩ 3 2] ∧
    reads .m [[0x04000007], [0x04400400], [0x04C00047], [0x0C000000, 0x200A0000, 0], [0x0A100000, 0x10000000], [0x008C0000]] =
      [.mcfg ⟨0, 0⟩ 7, .manchorAuto ⟨0, 0⟩ false, .mstat ⟨0, 0⟩ 1 3 true, .mrd ⟨0, 0⟩ ⟨0, false, false, false, 0, ⟨4, 0, 5⟩, 0, 0, none⟩,
       .mtab ⟨1, 0⟩ false ⟨2, 0⟩, .mExit ⟨0, 3⟩] ∧
    reads .x [[0x04140000, 0x12040000, 0x1A040000], [0x060C0020, 0x08000000], [0x0B040004, 0x28C00000],
        [0x0A100C60, 0x10020000, 0x28800000], [0x0A800010], [0x00C0A001]] =
      [.copy ⟨1, 1⟩ ⟨none, 0, false, ⟨2, 8, 2⟩, ⟨3, 8, 2⟩⟩, .metaLoad ⟨0, 3⟩ 2 0 ⟨1, 0⟩, .lockSet ⟨0, 1⟩ 4 ⟨5, 3⟩,
       .walk ⟨1, 0⟩ ⟨false, 0, 1, some 3, ⟨2, 0, 1⟩, ⟨5, 2⟩, none⟩, .permit ⟨0, 0⟩ 2 0, .xLoop ⟨0, 0⟩ 5 1] := by decide +kernel

/-- R337: words of the spec that are no instruction: `add` with mod 8, the zero word on every strand, a continuation word with a
reserved bit. -/
theorem test_reserved_words : reads .s [[0x00451878], [0]] = [] ∧ reads .v [[0]] = [] ∧ reads .m [[0, 0, 0, 0], [0x0A100000, 0x10020000]] = [] ∧
    reads .x [[0, 0, 0, 0], [0x0B040004, 0x28C00001]] = [] := by decide +kernel

/-! ### Ill-formed terms: each check of WellFormed.lean refuses one, and no word decodes to it -/

/-- Loops with an empty body, and the words that would name them (R332, R334, R392). -/
theorem test_wf_loops : (Instr.sLoop 1 0).wf = false ∧ (Instr.vLoop ⟨0, 0⟩ 0 1).wf = false ∧ (Instr.mLoop ⟨0, 0⟩ 1 0).wf = false ∧
    (Instr.xLoop ⟨0, 0⟩ 1 0).wf = false ∧ reads .s [[0x12800400]] = [] ∧ reads .v [[0x00C00001]] = [] ∧ reads .m [[0x00C02000]] = [] ∧
    reads .x [[0x00C02000]] = [] := by decide +kernel

/-- Token forms that name nothing, or a count of 0 (R361). -/
theorem test_wf_tokens : (Instr.tokWait 0 1).wf = false ∧ (Instr.tokWait 1 0).wf = false ∧ (Instr.tokPost 0 1).wf = false ∧
    (Instr.tokPost 1 0).wf = false ∧ reads .s [[0x29400004], [0x29400001], [0x29800004], [0x29800001]] = [] := by decide +kernel

/-- Register pairs beyond x63 (R332, R340). -/
theorem test_wf_pairs : (Instr.chunkFetch 63 1).wf = false ∧ (Instr.ctxSave 63).wf = false ∧ (Instr.ctxLoad 63).wf = false ∧
    (Instr.amoAdd true .pkg .rlx 63 1 1 1).wf = false ∧ (Instr.amoAnd true .pkg .rlx 63 1 1 1).wf = false ∧
    (Instr.amoOr true .pkg .rlx 63 1 1 1).wf = false ∧ (Instr.amoXor true .pkg .rlx 63 1 1 1).wf = false ∧
    (Instr.amoSwap true .pkg .rlx 63 1 1 1).wf = false ∧ (Instr.amoSmin true .pkg .rlx 63 1 1 1).wf = false ∧
    (Instr.amoSmax true .pkg .rlx 63 1 1 1).wf = false ∧ (Instr.amoUmin true .pkg .rlx 63 1 1 1).wf = false ∧
    (Instr.amoUmax true .pkg .rlx 63 1 1 1).wf = false ∧ (Instr.amoFaddF32 .pkg .rlx 63 1 1 1).wf = false ∧
    (Instr.amoFaddBf16 .pkg .rlx 63 1 1 1).wf = false ∧ (Instr.amoFminF32 .pkg .rlx 63 1 1 1).wf = false ∧
    (Instr.amoFmaxF32 .pkg .rlx 63 1 1 1).wf = false ∧ (Instr.amoCas .w64 .pkg .rlx 63 1 1 1).wf = false ∧
    (Instr.amoCas .w128 .pkg .rlx 5 1 1 1).wf = false ∧ (Instr.amoCas .w128 .pkg .rlx 62 1 1 1).wf = false ∧
    reads .s [[0x2C7F0400], [0xE080FC00], [0xE0C0FC00], [0x467F0421]] = [] := by decide +kernel

/-- Profiles and modes of the M forms (R268, R398, R409). -/
theorem test_wf_matrix : (Instr.mmd ⟨0, 0⟩ ⟨7, false, 0, ⟨1, 0⟩, ⟨2, 0⟩⟩).wf = false ∧ (Instr.mms ⟨0, 0⟩ ⟨4, false, 0, ⟨1, 0⟩, ⟨2, 0⟩⟩ 0 none).wf = false ∧
    (Instr.mmn ⟨0, 0⟩ ⟨4, false, 0, ⟨1, 0⟩, ⟨2, 0⟩⟩ 0 none).wf = false ∧ (Instr.mmc ⟨0, 0⟩ ⟨5, false, 0, ⟨1, 0⟩, ⟨2, 0⟩⟩ ⟨3, 0⟩).wf = false ∧
    (Instr.mrd ⟨0, 0⟩ ⟨9, false, false, false, 0, ⟨1, 0, 0⟩, 0, 0, none⟩).wf = false ∧
    (Instr.mrd ⟨0, 0⟩ ⟨0, false, false, false, 1, ⟨1, 0, 0⟩, 0, 0, none⟩).wf = false ∧
    (Instr.mrd ⟨0, 0⟩ ⟨2, false, false, false, 5, ⟨1, 0, 0⟩, 0, 0, none⟩).wf = false ∧ (Instr.mmerge ⟨0, 0⟩ 7 false ⟨1, 0⟩ 0 1).wf = false ∧
    reads .m [[0x08007000, 0x08000000, 0x10000000], [0x0C000001, 0x200A0000, 0]] = [] := by decide +kernel

/-- Fields of the X commands (R416, R417, R420, R425, R430, R433, R437). -/
theorem test_wf_transfer :
    let t : TBox := ⟨1, 0, 0⟩
    (Instr.copy ⟨0, 0⟩ ⟨none, 5, false, t, t⟩).wf = false ∧ (Instr.copyOrder ⟨0, 0⟩ ⟨none, 5, false, t, t⟩ ⟨0, 0⟩).wf = false ∧
    (Instr.copyEnc ⟨0, 0⟩ ⟨none, 0, false, t, t⟩ 0x80).wf = false ∧ (Instr.copyEncOrder ⟨0, 0⟩ ⟨none, 0, false, t, t⟩ 0x89 ⟨0, 0⟩).wf = false ∧
    (Instr.copyDec ⟨0, 0⟩ ⟨none, 6, false, t, t⟩ none).wf = false ∧ (Instr.copyDecOrder ⟨0, 0⟩ ⟨none, 6, false, t, t⟩ none ⟨0, 0⟩).wf = false ∧
    (Instr.copySt ⟨0, 0⟩ ⟨none, 7, false, t, t⟩ ⟨0, 0, 0⟩).wf = false ∧ (Instr.copyStOrder ⟨0, 0⟩ ⟨none, 7, false, t, t⟩ ⟨0, 0, 0⟩ ⟨0, 0⟩).wf = false ∧
    (Instr.metaLoad ⟨0, 0⟩ 0 1 ⟨1, 0⟩).wf = false ∧ (Instr.metaLoadOrder ⟨0, 0⟩ 4 13 ⟨1, 0⟩ ⟨0, 0⟩).wf = false ∧
    (Instr.walk ⟨0, 0⟩ ⟨true, 0, 0, none, t, ⟨1, 0⟩, some 1⟩).wf = false ∧ (Instr.walkOrder ⟨0, 0⟩ ⟨true, 0, 0, none, t, ⟨1, 0⟩, some 1⟩ ⟨0, 0⟩).wf = false ∧
    (Instr.permit ⟨0, 0⟩ 0 1).wf = false ∧ (Instr.permitOrder ⟨0, 0⟩ 0 1 ⟨0, 0⟩).wf = false ∧ (Instr.ringPut ⟨0, 0⟩ 3 ⟨1, 0⟩ 2).wf = false ∧
    (Instr.ringPutOrder ⟨0, 0⟩ 3 ⟨1, 0⟩ 2 ⟨0, 0⟩).wf = false ∧ (Instr.coll ⟨0, 0⟩ ⟨0, 0, 3, 0, t, t, 0⟩).wf = false ∧
    (Instr.collOrder ⟨0, 0⟩ ⟨1, 0, 0, 0, t, t, 0⟩ ⟨0, 0⟩).wf = false ∧
    reads .x [[0x04000050, 0x08000000, 0x08000000], [0x04800000, 0x08000000, 0x08000080], [0x06000001, 0x08000000], [0x0A800001],
      [0x0D000003, 0x08000000, 0x10000000], [0x0E80000C, 0x08000000, 0x08000000]] = [] := by decide +kernel


end Sys2Proof.Tests
end

