-- ==== Sys2Proof/Tests/WitnessScalar.lean ====
section
/-! SUPPORT. Witnesses for the statements about S: concrete states and operands that meet the hypotheses of each clause. -/

namespace Sys2Proof.Tests

set_option Elab.async false

open Sys2Proof.Machine Sys2Proof.Stmt

/-- A reading that answers gives its value. -/
theorem gives_val {α : Type} {x : Op α} {s : State} (d : α) (h : good (x.run s).1 = true) : Gives x s (val d (x.run s).1) (x.run s).2 :=
  good_val d h

theorem gives_unit {x : Op Unit} {s : State} (h : good (x.run s).1 = true) : Gives x s () (x.run s).2 := good_val () h

theorem passes_of {x : Op Unit} {s : State} (h : good (x.run s).1 = true) : Passes x s := good_unit h

theorem untraced_bench : Untraced bench := by
  intro h w e
  have hw : w = crew0 := Option.some.inj (e.symm.trans rfl)
  subst hw
  revert h
  decide +kernel

theorem sready_bench : SReady [] bench := ⟨⟨by decide +kernel, Or.inl rfl, by decide +kernel⟩, by decide +kernel⟩

/-- The scalar tables hold their forms, and no register of the small machine waits. -/
theorem witness_scalar_tables : (arithValue (cur bench) (.div 3 1 2 true)).isSome = true ∧ (logicValue (cur bench) (.sel 3 1 2)).isSome = true ∧
    (fieldValue (cur bench) (.bins 63 1 2 false)).isSome = true ∧ (compareValue (cur bench) (.cmpi .geu 0 1 0x3FF)).isSome = true ∧
    (immValue (cur bench) (.lsi 3 0xFFFF)).isSome = true ∧ (cur bench).waitsOn [3, 1, 2] = false ∧ (3 : BitVec 6) ≠ 0 := by decide +kernel

/-- A transfer that is taken, one that is not, and one that links. -/
theorem witness_transfers : transfer (cur bench) (pcOf .s bench) (.beq 0 0 0x3FF) = some ([0, 0], some 0xFFFFFFFF, false) ∧
    transfer (cur bench) (pcOf .s bench) (.bne 0 0 5) = some ([0, 0], none, false) ∧
    transfer (cur bench) (pcOf .s bench) (.callr 63) = some ([63], some 0, true) ∧ (cur bench).waitsOn [63] = false := by decide +kernel

/-- Loops that end, go round and do not end at a word. -/
theorem witness_loop_ends : (⟨4, 9, 1⟩ : LoopEnt).stop = 9 ∧ (⟨4, 9, 1⟩ : LoopEnt).remain.toNat ≠ 0 ∧ (⟨4, 9, 0⟩ : LoopEnt).remain.toNat = 0 ∧
    (⟨4, 9, 0⟩ : LoopEnt).stop ≠ 8 := by decide +kernel

/-- The small machine with `n` loops on strand k. -/
def looped (k : Strand) (n : Nat) : State := bench.modCore 0 fun c => c.setStr k { (c.str k) with loops := List.replicate n ⟨1, 2, 3⟩ }

/-- Scalar loops: a full stack, a count of 0, a count that enters. -/
theorem witness_scalar_loops : 4 ≤ ((cur (looped .s 4)).str .s).loops.length ∧ ((cur (looped .s 3)).str .s).loops.length < 4 ∧
    (cur bench).xr 1 = 0 ∧ (cur (benchX [(1, 7)])).xr 1 ≠ 0 ∧ (cur (looped .s 4)).waitsOn [1] = false ∧
    (cur (benchX [(1, 7)])).waitsOn [1] = false := by decide +kernel

/-- A load of 8 bytes at the last aligned place of the tensor. -/
theorem witness_load : ∃ bs t, loadForm (.ld64 3 1 0 1) = some (false, 8, 3, 1, 0, 1) ∧ SReady [1] (benchX [(1, 16368)]) ∧
    Passes (slotBound 0) (benchX [(1, 16368)]) ∧ NoAcquire (benchX [(1, 16368)]) ∧
    Gives (readLin .s 0 (coordOf (benchX [(1, 16368)]) 1 1 8) 8 8) (sIssued (benchX [(1, 16368)])) bs t :=
  ⟨_, _, rfl, ⟨⟨by decide +kernel, Or.inl rfl, by decide +kernel⟩, by decide +kernel⟩, passes_of (by decide +kernel), by unfold NoAcquire; decide +kernel,
    gives_val [] (by decide +kernel)⟩

/-- An access of nothing, for `val`. -/
def noAcc : Acc := ⟨0, 0, Desc.ofBits 0, 0, 0⟩

/-- The small machine about to store x3 at byte 8 of the linear tensor. -/
def storing : State := benchX [(3, 0x1122334455667788), (4, 5), (1, 0)]

theorem linAcc_good : good ((storeAcc 0 (coordOf storing 1 1 8) 8 8).run (sIssued storing)).1 = true := by decide +kernel

/-- The access of that store. -/
def storeAccess : Acc := val noAcc ((storeAcc 0 (coordOf storing 1 1 8) 8 8).run (sIssued storing)).1

/-- The state after its access has been found, and after a release has been made. -/
def storeAt : State := ((storeAcc 0 (coordOf storing 1 1 8) 8 8).run (sIssued storing)).2
def storeReleased : State := ((opRelease .pkg).run storeAt).2
def storeFenced : State := ((opFencedRelease .s).run storeAt).2
def releaseFenced : State := ((opFencedRelease .s).run storeReleased).2

theorem storeAt_gives : Gives (storeAcc 0 (coordOf storing 1 1 8) 8 8) (sIssued storing) storeAccess storeAt := by
  unfold storeAccess storeAt
  exact gives_val noAcc linAcc_good

theorem storeFenced_gives : Gives (opFencedRelease .s) storeAt () storeFenced := by
  unfold storeFenced
  exact gives_unit (by decide +kernel)

theorem storeReleased_gives : Gives (opRelease .pkg) storeAt () storeReleased := by
  unfold storeReleased
  exact gives_unit (by decide +kernel)

theorem releaseFenced_gives : Gives (opFencedRelease .s) storeReleased () releaseFenced := by
  unfold releaseFenced
  exact gives_unit (by decide +kernel)

theorem sready_storing : SReady [1, 3, 4] storing := ⟨⟨by decide +kernel, Or.inl rfl, by decide +kernel⟩, by decide +kernel⟩

theorem noAcquire_storing : NoAcquire storing := by unfold NoAcquire; decide +kernel

theorem slot_storing : Passes (storeCheck 0) storing := passes_of (by decide +kernel)

theorem witness_store_ready : storeForm (.st64 3 1 0 1) = some (8, false, none, 3, 1, 0, 1) ∧ StoreReady storing 8 none 3 1 0 1 storeAccess storeFenced :=
  ⟨rfl, ⟨sready_storing.1, by decide +kernel⟩, slot_storing, noAcquire_storing, storeAt, storeAt, storeAt_gives, rfl, storeFenced_gives⟩

theorem witness_store_release : storeForm (.stRel64 .pkg 3 1 0 1) = some (8, false, some .pkg, 3, 1, 0, 1) ∧
    StoreReady storing 8 (some .pkg) 3 1 0 1 storeAccess releaseFenced :=
  ⟨rfl, ⟨sready_storing.1, by decide +kernel⟩, slot_storing, noAcquire_storing, storeAt, storeReleased, storeAt_gives, storeReleased_gives,
    releaseFenced_gives⟩

/-- Where the store goes: byte 16,392 of HBM; the machine's storage is canonical, and nothing traces it. -/
theorem witness_store_place : (∃ u, Gives (storePlace .s storeAccess 1) storeFenced (some (.inl 16392), false) u) ∧ storeAccess.d.nt = false ∧
    storing.memWf = true ∧ ∃ v, exec (.st64 3 1 0 1) storing = .next v := by
  refine ⟨⟨((storePlace .s storeAccess 1).run storeFenced).2, ?_⟩, by decide +kernel, by decide +kernel, _, rfl⟩
  have h := gives_val (none, false) (x := storePlace .s storeAccess 1) (s := storeFenced) (by decide +kernel)
  rwa [show val (none, false) ((storePlace .s storeAccess 1).run storeFenced).1 = (some (.inl 16392), false) by decide +kernel] at h

/-- The access of a store of x3 at x1 + 8, and the states in which it has been found and its release has been made. -/
def accOf (s : State) : Acc := val noAcc ((storeAcc 0 (coordOf s 1 1 8) 8 8).run (sIssued s)).1
def foundOf (s : State) : State := ((storeAcc 0 (coordOf s 1 1 8) 8 8).run (sIssued s)).2
def fencedOf (s : State) : State := ((opFencedRelease .s).run (foundOf s)).2
def placeOfStore (s : State) : Option (Nat ⊕ (Nat × Nat)) × Bool := val (none, false) ((storePlace .s (accOf s) 1).run (fencedOf s)).1
def placedOf (s : State) : State := ((storePlace .s (accOf s) 1).run (fencedOf s)).2

theorem store_ready_of {s : State} (h1 : SReady [3, 1] s) (h2 : good ((storeCheck 0).run s).1 = true) (h3 : NoAcquire s)
    (h4 : good ((storeAcc 0 (coordOf s 1 1 8) 8 8).run (sIssued s)).1 = true) (h5 : good ((opFencedRelease .s).run (foundOf s)).1 = true) :
    StoreReady s 8 none 3 1 0 1 (accOf s) (fencedOf s) := by
  refine ⟨h1, passes_of h2, h3, foundOf s, foundOf s, ?_, rfl, ?_⟩
  · unfold accOf foundOf
    exact gives_val noAcc h4
  · unfold fencedOf
    exact gives_unit h5

/-- The tile lies on the other package of a domain of two, or is not present. -/
def storingFar : State :=
  let s := storing.poke 1024 (bvBytes 8 (hbmEntry 1 1))
  { s with fabric := { s.fabric with size := (2, 1, 1), domSize := (2, 1, 1) } }
def storingAbsent : State := storing.poke 1024 (bvBytes 8 (0 : BitVec 64))

theorem witness_store_far : StoreReady storingFar 8 none 3 1 0 1 (accOf storingFar) (fencedOf storingFar) ∧
    good ((storePlace .s (accOf storingFar) 1).run (fencedOf storingFar)).1 = true ∧ placeOfStore storingFar = (some (.inr (1, 16392)), false) ∧
    (∃ w, Has w (placedOf storingFar)) ∧ (placedOf storingFar).outstanding (placedOf storingFar).cur < 1024 :=
  ⟨store_ready_of ⟨⟨by decide +kernel, Or.inl rfl, by decide +kernel⟩, by decide +kernel⟩ (by decide +kernel) (by unfold NoAcquire; decide +kernel) (by decide +kernel) (by decide +kernel),
    by decide +kernel, by decide +kernel, Option.isSome_iff_exists.1 (by decide +kernel), by decide +kernel⟩

theorem witness_store_logged : StoreReady storingAbsent 8 none 3 1 0 1 (accOf storingAbsent) (fencedOf storingAbsent) ∧
    good ((storePlace .s (accOf storingAbsent) 1).run (fencedOf storingAbsent)).1 = true ∧ placeOfStore storingAbsent = (none, false) ∧
    good ((logOp .s (accOf storingAbsent) (.store (leBytes 8 5)) .core .rlx false).run (placedOf storingAbsent)).1 = true :=
  ⟨store_ready_of ⟨⟨by decide +kernel, Or.inl rfl, by decide +kernel⟩, by decide +kernel⟩ (by decide +kernel) (by unfold NoAcquire; decide +kernel) (by decide +kernel) (by decide +kernel),
    by decide +kernel⟩

theorem witness_store_nt : storeForm (.stNt64 3 1 0 1) = some (8, true, none, 3, 1, 0, 1) ∧ StoreReady storing 8 none 3 1 0 1 (accOf storing) (fencedOf storing) ∧
    (∃ w, Has w (placedOf storing)) ∧ good ((keepNt .s crew0.ctx (accOf storing) (leBytes 8 5)).run (placedOf storing)).1 = true :=
  ⟨rfl, store_ready_of ⟨⟨by decide +kernel, Or.inl rfl, by decide +kernel⟩, by decide +kernel⟩ (by decide +kernel) (by unfold NoAcquire; decide +kernel) (by decide +kernel) (by decide +kernel),
    Option.isSome_iff_exists.1 (by decide +kernel), by decide +kernel⟩

theorem witness_amo : amoForm (.amoAdd true .pkg .rlx 3 1 0 1) = some (.add, 8, .pkg, .rlx, 3, 1, 0, 1) ∧
    AmoReady storing 8 .pkg .rlx [4] 1 0 1 storeAccess storeFenced ∧ AmoReady storing 8 .pkg .acqrel [4] 1 0 1 storeAccess releaseFenced ∧
    val none ((opAtomic .s storeAccess .add 8 0 ((cur storing).xr 4).toNat .pkg .rlx).run storeFenced).1 = some (List.replicate 8 0) :=
  ⟨rfl, ⟨⟨sready_storing.1, by decide +kernel⟩, slot_storing, noAcquire_storing, storeAt, storeAt, storeAt_gives, rfl, storeFenced_gives⟩,
    ⟨⟨sready_storing.1, by decide +kernel⟩, slot_storing, noAcquire_storing, storeAt, storeReleased, storeAt_gives,
      by rw [if_pos (Or.inr rfl)]; exact storeReleased_gives, releaseFenced_gives⟩, by decide +kernel⟩

/-- A read at a home, and the value that R156 makes of it. -/
theorem witness_atomic_value : (bench.bankRead 16384 8) = ((bench.bankRead 16384 8).1, .data (List.replicate 8 0)) ∧
    atomValue .cas 8 0 0 7 = some 7 ∧ atomValue .smin 4 0 0 (2 ^ 32 - 1) = some (2 ^ 32 - 1) := by
  refine ⟨Prod.ext rfl ?_, ?_, ?_⟩ <;> decide +kernel

/-- Nothing outstanding for the fences, and a release that answers. -/
theorem witness_fences : SReady [] bench ∧ (cur bench).wcb = [] ∧ (cur bench).sAtomics = [] ∧ ∃ t, Gives (opRelease .sys) (sIssued bench) () t :=
  ⟨sready_bench, by decide +kernel, by decide +kernel, _, gives_unit (by decide +kernel)⟩

/-- The small machine with a lock word of GEN 7 at byte 16. -/
def locked (x : Word) : State := (bench.poke (16384 + 24) [7]).modCore 0 fun c => c.setX 3 x

/-- `mwait` on a GEN that differs and on one that does not. -/
theorem witness_mwait (x : Word) (hx : x = 6 ∨ x = 7) : ∃ a t bs u, SReady [1, 3] (locked x) ∧ Passes (slotBound 0) (locked x) ∧ NoAcquire (locked x) ∧
    Gives (linAcc 0 (coordOf (locked x) 1 1 16) 16 16) (sIssued (locked x)) a t ∧ Gives (opRead .s a 16) t bs u ∧
    (leBV 32 ((bs.drop 8).take 4) = (7 : W32)) ∧ ∃ pa v, Gives (placeOf a) u (some pa) v := by
  have key : ∀ y : Word, y = 6 ∨ y = 7 → SReady [1, 3] (locked y) ∧ good ((slotBound 0).run (locked y)).1 = true ∧ NoAcquire (locked y) ∧
      (let r := (linAcc 0 (coordOf (locked y) 1 1 16) 16 16).run (sIssued (locked y))
       let b := (opRead .s (val noAcc r.1) 16).run r.2
       good r.1 = true ∧ good b.1 = true ∧ leBV 32 (((val [] b.1).drop 8).take 4) = (7 : W32) ∧ good ((placeOf (val noAcc r.1)).run b.2).1 = true ∧
         val none ((placeOf (val noAcc r.1)).run b.2).1 = some 16400) := by
    rintro y (rfl | rfl) <;>
      exact ⟨⟨⟨by decide +kernel, Or.inl rfl, by decide +kernel⟩, by decide +kernel⟩, by decide +kernel, by unfold NoAcquire; decide +kernel, by decide +kernel⟩
  obtain ⟨h1, h2, h3, h4, h5, h6, h7, h8⟩ := key x hx
  exact ⟨_, _, _, _, h1, passes_of h2, h3, gives_val noAcc h4, gives_val [] h5, h6, 16400, _, h8 ▸ gives_val none h7⟩


end Sys2Proof.Tests
end

