-- ==== Sys2Proof/Tests/WitnessCoord.lean ====
section
/-! SUPPORT. Witnesses for the statements about coordination: phases, groups, tokens, chunks, spawn, notify, exit, loops, regions, yield
and generators. -/

namespace Sys2Proof.Tests

set_option Elab.async false

open Sys2Proof.Machine Sys2Proof.Stmt

/-- The small machine with group 5 of three crews, in use by the running context. -/
def grouped : State := bench.modPart 0 fun p => p.modGroup 5 fun _ => ⟨true, 0, 7, 0, 0, 3, 3⟩

/-- The same once the crew's held `phase` has arrived at phase 7 and the group stands at phase 8. -/
def phaseHeld : State :=
  let s := grouped.modPart 0 fun p => p.modGroup 5 fun g => { g with phase := 8 }
  s.modCore 0 fun c => c.setStr .s { (c.str .s) with held := some { (c.heldOf .s) with arrival := some 7, progress := .part } }

theorem has_bench : Has crew0 bench := rfl
theorem has_grouped : Has crew0 grouped := rfl
theorem has_phaseHeld : Has crew0 phaseHeld := rfl

theorem witness_phase_forms : Has crew0 grouped ∧ GroupOpen grouped crew0 5 ∧ SReady [] grouped ∧ SReady [4] grouped ∧ crew0.groups.contains 5 = true ∧
    (grouped.part crew0.part).hasArrived crew0.acc crew0.rank 5 = false ∧ (cur grouped).slog = [] ∧
    (groupOf grouped crew0 5).phase ≠ BitVec.ofNat 32 ((cur grouped).xr 4).toNat := by
  refine ⟨rfl, ?_, ⟨⟨?_, Or.inl rfl, by decide +kernel⟩, ?_⟩, ⟨⟨?_, Or.inl rfl, by decide +kernel⟩, ?_⟩, ?_⟩ <;> (try unfold GroupOpen) <;> decide +kernel

theorem witness_phase_held : Has crew0 phaseHeld ∧ GroupOpen phaseHeld crew0 5 ∧ (cur phaseHeld).waitsOn [] = false ∧
    (((cur phaseHeld).str .s).held.bind (·.arrival)) = some 7 ∧ (groupOf phaseHeld crew0 5).phase ≠ 7 := by
  refine ⟨rfl, ?_⟩
  unfold GroupOpen
  decide +kernel

/-- Group 3 is free to be dissolved, group 4 is not; x1 = 128, x2 = 0, x4 = 129. -/
def freeing : State := (benchX [(1, 128), (4, 129)]).modPart 0 fun p => (p.modGroup 3 fun _ => ⟨true, 0, 7, 0, 2, 2, 2⟩).modGroup 4 fun _ => ⟨true, 0, 7, 0, 1, 2, 2⟩

/-- Every group entry is in use. -/
def fullGroups : State := (benchX [(1, 1)]).modPart 0 fun p => (List.range 256).foldl (fun p j => p.modGroup (BitVec.ofNat 8 j) fun _ => ⟨true, 0, 0, 0, 0, 0, 1⟩) p

theorem witness_group_forms : SReady [1] freeing ∧ SReady [4] freeing ∧ SReady [2] freeing ∧ ((cur freeing).xr 1).toNat = 128 ∧
    ((cur freeing).xr 4).toNat = 129 ∧ ((cur freeing).xr 2).toNat = 0 ∧ ((freeing.part crew0.part).group 0).inuse = false ∧
    (GroupOpen freeing crew0 3 ∧ (groupOf freeing crew0 3).joined = (groupOf freeing crew0 3).done) ∧
    ¬(GroupOpen freeing crew0 4 ∧ (groupOf freeing crew0 4).joined = (groupOf freeing crew0 4).done) := by
  refine ⟨⟨⟨?_, Or.inl rfl, by decide +kernel⟩, ?_⟩, ⟨⟨?_, Or.inl rfl, by decide +kernel⟩, ?_⟩, ⟨⟨?_, Or.inl rfl, by decide +kernel⟩, ?_⟩, ?_⟩ <;> (try unfold GroupOpen) <;> decide +kernel

theorem witness_group_full : SReady [1] fullGroups ∧ ((cur fullGroups).xr 1).toNat = 1 ∧
    ∀ j, j < 256 → ((fullGroups.part crew0.part).group (BitVec.ofNat 8 j)).inuse = true := by
  refine ⟨⟨⟨?_, Or.inl rfl, by decide +kernel⟩, ?_⟩, ?_⟩ <;> decide +kernel

/-- The small machine with one token counter set. -/
def tokened (i n : Nat) : State := bench.modCore 0 fun c => c.setTok i n

/-- A counter that just holds n, one that does not, a post that just fits and one that does not; an entry that is done and has room. -/
theorem witness_token_forms : SReady [] bench ∧ (5 : BitVec 6).toNat ≤ (cur (tokened (waitIdx .s 1) 5)).tokAt (waitIdx .s 1) ∧
    (cur (tokened (waitIdx .s 1) 4)).tokAt (waitIdx .s 1) < (5 : BitVec 6).toNat ∧ (cur (tokened (tokIdx .s 1) 58)).tokAt (tokIdx .s 1) + 5 ≤ 63 ∧
    63 < (cur (tokened (tokIdx .s 1) 59)).tokAt (tokIdx .s 1) + 5 ∧ (cur bench).sAtomics = [] ∧ Untraced bench :=
  ⟨sready_bench, by decide +kernel, by decide +kernel, by decide +kernel, by decide +kernel, by decide +kernel, untraced_bench⟩

/-- An S entry that is done and owes five tokens. -/
def owing : State := (tokened 1 58).modCore 0 fun c => c.setStr .s { (c.str .s) with held := some { (c.heldOf .s) with progress := .all, post := some (1, 5) } }

theorem witness_token_owed : ((owing.core 0).str .s).held = some (((owing.core 0).str .s).held.getD {}) ∧
    (((owing.core 0).str .s).held.getD {}).progress = .all ∧ (((owing.core 0).str .s).held.getD {}).post = some (1, 5) ∧
    (owing.core 0).tokAt 1 + 5 ≤ 63 := by decide +kernel

/-- The same of M, with a command in its second entry (R294). -/
def owingM : State := owing.modCore 0 fun c =>
  { c.setStr .m { (c.str .m) with held := some { progress := .all, post := some (6, 1) } } with ms := { c.ms with second := some { pc := 7 } } }

theorem witness_token_second : (owingM.core 0).tokAt 6 + 1 ≤ 63 ∧ (owingM.core 0).ms.second = some { pc := 7 } := by decide +kernel

/-- Chunk queue 2: configured with a range, dry, or not configured; x1 names it, x4 and x5 configure it. -/
def chunked (k : Chunk) : State :=
  (benchX [(1, 2), (4, 2 + 0x40 + 7 * 2 ^ 16 + 2 * 2 ^ 32 + 4 * 2 ^ 48), (5, 1000)]).modPart 0 fun p => p.modChunk 0 2 fun _ => k

/-- A queue with a range, and a dry one. -/
def chunkFull : Chunk := ⟨true, false, 2, 2, 4, 100, 0, 50⟩
def chunkDry : Chunk := ⟨true, false, 2, 2, 4, 0, 0, 150⟩

theorem alone_chunked (k : Chunk) (h : k = chunkFull ∨ k = chunkDry) : Alone (chunked k) crew0 2 := by
  unfold Alone
  rcases h with rfl | rfl <;> decide +kernel

theorem witness_chunk_init : SReady [4, 5] (chunked chunkDry) ∧ NoAcquire (chunked chunkDry) ∧ Alone (chunked chunkDry) crew0 2 ∧ fld ((cur (chunked chunkDry)).xr 4) 7 9 = 0 ∧ fld ((cur (chunked chunkDry)).xr 5) 48 16 = 0 ∧
    fld ((cur (chunked chunkDry)).xr 4) 32 16 ≠ 0 ∧ fld ((cur (chunked chunkDry)).xr 4) 48 16 ≠ 0 := by
  refine ⟨⟨⟨?_, Or.inl rfl, by decide +kernel⟩, ?_⟩, ?_, alone_chunked _ (Or.inr rfl), ?_⟩ <;> (try unfold NoAcquire) <;> decide +kernel

theorem witness_chunk_fetch : SReady [1] bench ∧ SReady [1] (chunked chunkFull) ∧ SReady [1] (chunked chunkDry) ∧
    Alone bench crew0 0 ∧ Alone (chunked chunkFull) crew0 2 ∧ Alone (chunked chunkDry) crew0 2 ∧ (chunkOf bench crew0 0).conf = false ∧
    (chunkOf (chunked chunkFull) crew0 2).conf = true ∧ (chunkOf (chunked chunkFull) crew0 2).remain ≠ 0 ∧
    (chunkOf (chunked chunkDry) crew0 2).conf = true ∧ (chunkOf (chunked chunkDry) crew0 2).remain = 0 ∧
    (chunkOf (chunked chunkDry) crew0 2).steal = false ∧ NoAcquire bench ∧ NoAcquire (chunked chunkFull) := by
  refine ⟨⟨⟨?_, Or.inl rfl, by decide +kernel⟩, ?_⟩, ⟨⟨?_, Or.inl rfl, by decide +kernel⟩, ?_⟩, ⟨⟨?_, Or.inl rfl, by decide +kernel⟩, ?_⟩, ?_, alone_chunked _ (Or.inl rfl), alone_chunked _ (Or.inr rfl), ?_⟩
    <;> (try unfold Alone) <;> (try unfold NoAcquire) <;> decide +kernel

/-- The dry queue steals in domain 9, and package 1 has advertised work there. -/
def asking : State :=
  let s := chunked ⟨true, true, 2, 2, 4, 0, 9, 150⟩
  let s : State := { s with fabric := { s.fabric with size := (2, 1, 1), domSize := (2, 1, 1) } }
  s.modPort 1 fun t => { t with up := true, adverts := [⟨9, 7, 0, s.fabric.wexp, s.time⟩] }

theorem witness_chunk_steal : SReady [1] asking ∧ Alone asking crew0 2 ∧ (chunkOf asking crew0 2).conf = true ∧
    (chunkOf asking crew0 2).remain = 0 ∧ (chunkOf asking crew0 2).steal = true ∧ asking.victims 9 = [1] ∧ NoAcquire asking := by
  refine ⟨⟨⟨?_, Or.inl rfl, by decide +kernel⟩, ?_⟩, ?_⟩ <;> (try unfold Alone) <;> (try unfold NoAcquire) <;> decide +kernel

/-- A fetch whose results have come. -/
def fetchDone : State := (chunked chunkFull).modCore 0 fun c => c.setStr .s { (c.str .s) with held := some { performed := true, results := [(3, 7), (4, 2)] } }

theorem witness_chunk_done : ((cur fetchDone).str .s).held = some { performed := true, results := [(3, 7), (4, 2)] } ∧ NoAcquire fetchDone ∧
    (cur fetchDone).waitsOn [1] = false ∧ (cur fetchDone).waitsOn [1, 2] = false := by
  unfold NoAcquire
  decide +kernel

theorem witness_chunk_grant : 0 < chunkFull.remain ∧ 0 < chunkFull.gran := by decide

/-- The chunk queue that shares stealing domain 9, and the thief of a steal under way, which its fetch still waits for or has left. -/
def stealing (left : List Nat) (orphan : Bool) : State :=
  (bench.modPart 0 fun p => p.modChunk 0 2 fun _ => ⟨true, true, 2, 2, 4, 100, 9, 50⟩).modCore 0 fun c =>
    { c with steal := some { part := 0, ctx := 0, q := 3, came := 0, asked := true, left := left, orphan := orphan } }

theorem witness_steal_events : victimOf (stealing [] false) 9 = some (0, 2) ∧ victimOf bench 9 = none ∧
    ((stealing [1] false).core 0).steal = some { part := 0, ctx := 0, q := 3, came := 0, asked := true, left := [1] } ∧
    ((stealing [1, 2] false).core 0).steal = some { part := 0, ctx := 0, q := 3, came := 0, asked := true, left := [1, 2] } ∧
    ((stealing [1, 2] true).core 0).steal = some { part := 0, ctx := 0, q := 3, came := 0, asked := true, left := [1, 2], orphan := true } ∧
    (bench.core 0).steal = none := by
  refine ⟨?_, ?_, ?_⟩ <;> (try unfold victimOf) <;> decide +kernel

/-- A strand that is live beside S, and one alone. -/
def alone (k : Strand) : State := bench.setCore 0 ((bench.core 0) |> fun c => [Strand.s, .v, .m, .x].foldl (fun c j => if j = k then c else c.setStr j { (c.str j) with live := false }) c)

theorem witness_exit_forms : exitForm (.mExit noTok) = some (.m, noTok) ∧ Ready .m noTok bench ∧ OthersLive .m bench ∧ Ready .m noTok (alone .m) ∧
    ¬ OthersLive .m (alone .m) ∧ (alone .m).quiet (alone .m).cur = true ∧ (∀ t ∈ (cur (alone .m)).ms.tabs, t.table.isSome = true) ∧
    ((cur (alone .m)).str .m).armed = false ∧ Ready .v noTok (alone .v) ∧ ¬ OthersLive .v (alone .v) ∧ Ready .s noTok (alone .s) ∧ ¬ OthersLive .s (alone .s) ∧
    (cur (alone .s)).waitsOn [] = false := by
  have no : ∀ k, k = .m ∨ k = .v ∨ k = .s → ¬ OthersLive k (alone k) := by
    rintro k (rfl | rfl | rfl) ⟨j, h1, h2⟩ <;> cases j <;> first | exact h1 rfl | (revert h2; decide +kernel)
  exact ⟨rfl, ⟨by decide +kernel, Or.inl rfl, by decide +kernel⟩, ⟨.s, by decide, by decide +kernel⟩, ⟨by decide +kernel, Or.inl rfl, by decide +kernel⟩, no _ (Or.inl rfl), by decide +kernel,
    by decide +kernel, by decide +kernel, ⟨by decide +kernel, Or.inl rfl, by decide +kernel⟩, no _ (Or.inr (Or.inl rfl)), ⟨by decide +kernel, Or.inl rfl, by decide +kernel⟩, no _ (Or.inr (Or.inr rfl)),
    by decide +kernel⟩

/-- The small machine with full loop stacks, and with a count in p3, for V. -/
def counting (n : Nat) : State := (benchP [(3, 9)]).modCore 0 fun c => c.setStr .v { (c.str .v) with loops := List.replicate n ⟨1, 2, 3⟩ }

theorem witness_strand_loops : nopForm (.vNop noTok) = some (.v, noTok) ∧ loopForm (.vLoop noTok 5 3) = some (.v, noTok, 3, 5) ∧ Ready .v noTok (counting 4) ∧
    Ready .v noTok (counting 3) ∧ 4 ≤ ((cur (counting 4)).str .v).loops.length ∧ ((cur (counting 3)).str .v).loops.length < 4 ∧
    (cur (counting 3)).p.toList.getD 3 0 ≠ 0 ∧ (cur (counting 3)).p.toList.getD 4 0 = 0 := by
  refine ⟨rfl, rfl, ⟨?_, Or.inl rfl, by decide +kernel⟩, ⟨?_, Or.inl rfl, by decide +kernel⟩, ?_⟩ <;> decide +kernel

theorem witness_regions : regionForm (.xRegionEnter noTok 5) = some (.x, noTok, some 5) ∧ regionForm (.sRegionLeave) = some (.s, noTok, none) ∧ Has crew0 bench ∧
    Ready .x noTok bench ∧ Ready .s noTok bench ∧ (cur bench).waitsOn [] = false ∧ ((cur bench).str .x).armed = false ∧ ((cur bench).str .s).armed = false ∧
    Untraced bench :=
  ⟨rfl, rfl, rfl, ⟨by decide +kernel, Or.inl rfl, by decide +kernel⟩, ⟨by decide +kernel, Or.inl rfl, by decide +kernel⟩, by decide +kernel, by decide +kernel, by decide +kernel, untraced_bench⟩

/-- A crew asked to yield whose S strand holds its `yield`. -/
def yielding : State :=
  bench.modCore 0 fun c => { (c.setStr .s { (c.str .s) with held := some { words := [0] } }) with yld := { deadline := some 100, draining := true } }

theorem witness_yield : (cur bench).yld.deadline = none ∧ ((cur yielding).str .s).held = some { words := [0] } ∧ (cur yielding).waitsOn [] = false ∧
    (cur yielding).yld.deadline ≠ none ∧ (∀ k, k ≠ Strand.s → ((cur yielding).str k).held = none) ∧ (cur yielding).xs.queue = [] := by
  refine ⟨by decide +kernel, by decide +kernel, by decide +kernel, by decide +kernel, ?_, by decide +kernel⟩
  intro k hk; cases k <;> first | exact absurd rfl hk | decide +kernel

/-- The small machine with queue 3 of partition 0, local 2, its header at linear byte 4,096; x1 names it for a spawn of two images at byte 64,
x4 for a notify, x5 for a notify of package (1, 0, 0). -/
def queued : State :=
  let s := ((benchX [(1, 0x1002), (2, 64), (4, 3), (5, 0x18003), (6, 5)]).modQueue 3 fun _ => { header := 4096, enable := true, part := 0, local_ := 2 }).poke
    (16384 + 64) (0x81 :: List.replicate 63 0 ++ 0x86 :: List.replicate 63 0)
  { s with fabric := { s.fabric with size := (2, 1, 1) } }

/-- The two images, where they are read, and what the claim answers. -/
def spawnAcc : Acc := val noAcc ((sysAcc ((cur queued).xr 2).toNat 128 64).run (sIssued queued)).1
def spawnU : State := ((sysAcc ((cur queued).xr 2).toNat 128 64).run (sIssued queued)).2
def spawnV : State := ((readRange .s spawnAcc 128).run spawnU).2
def spawnBs : List Byte := val [] ((readRange .s spawnAcc 128).run spawnU).1
def spawnClaim : Op Word := claimOp crew0.part crew0.ctx 3 ((List.range 2).map fun i => (spawnBs.drop (64 * i)).take 64)
def spawnT : State := (spawnClaim.run spawnV).2

theorem witness_spawn : Has crew0 queued ∧ SReady [1, 2] queued ∧ fld ((cur queued).xr 1) 10 2 = 0 ∧ fld ((cur queued).xr 1) 13 51 = 0 ∧
    ((cur queued).xr 1).getLsbD 12 = true ∧ (cur queued).slog = [] ∧ queued.localQueue 0 (fld ((cur queued).xr 1) 0 10) = some 3 ∧
    Gives (sysAcc ((cur queued).xr 2).toNat 128 64) (sIssued queued) spawnAcc spawnU ∧ Gives (readRange .s spawnAcc 128) spawnU spawnBs spawnV ∧
    Gives spawnClaim spawnV 0 spawnT := by
  refine ⟨rfl, ⟨⟨by decide +kernel, Or.inl rfl, by decide +kernel⟩, by decide +kernel⟩, ?_, ?_, ?_, ?_, ?_, ?_, ?_, ?_⟩
  iterate 5 decide +kernel
  · unfold spawnAcc spawnU
    exact gives_val _ (by decide +kernel)
  · unfold spawnBs spawnV
    exact gives_val _ (by decide +kernel)
  · have h : Gives spawnClaim spawnV (val 9 (spawnClaim.run spawnV).1) spawnT := by
      unfold spawnT
      exact gives_val _ (by decide +kernel)
    rwa [show val 9 (spawnClaim.run spawnV).1 = 0 by decide +kernel] at h

theorem witness_notify : NoRelease queued ∧ SReady [4, 6] queued ∧ SReady [5, 6] queued ∧ fld ((cur queued).xr 4) 10 6 = 0 ∧ fld ((cur queued).xr 4) 16 48 = 0 ∧
    (queued.queue (((cur queued).xr 4).extractLsb' 0 10)).enable = true ∧ (queued.queue (((cur queued).xr 4).extractLsb' 0 10)).part = crew0.part ∧
    fld ((cur queued).xr 5) 10 5 = 0 ∧ ((cur queued).xr 5).getLsbD 15 = true ∧ fld ((cur queued).xr 5) 31 33 = 0 ∧
    fld ((cur queued).xr 5) 16 5 = 1 ∧ queued.fabric.size = (2, 1, 1) ∧ queued.fabric.pos = (0, 0, 0) := by
  refine ⟨by unfold NoRelease; decide +kernel, ⟨⟨by decide +kernel, Or.inl rfl, by decide +kernel⟩, by decide +kernel⟩, ⟨⟨by decide +kernel, Or.inl rfl, by decide +kernel⟩, by decide +kernel⟩, ?_⟩
  decide +kernel

/-- The small machine with a generator descriptor of a kind at byte 64 (a strided one of kind 1, or the frequency table of kind 3 in 320 bytes). -/
def genAt (kind : Byte) : State := (bench.poke (16384 + 64) [kind]).modCore 0 fun c => c.setX 1 64

theorem witness_gen_set : SReady [1] (genAt 1) ∧ Passes (slotBound 0) (genAt 1) ∧ NoAcquire (genAt 1) ∧
    good ((readLin .s 0 (coordOf (genAt 1) 1 0 64) 64 64).run (sIssued (genAt 1))).1 = true ∧
    (let bs := val [] ((readLin .s 0 (coordOf (genAt 1) 1 0 64) 64 64).run (sIssued (genAt 1))).1
     fld (leBV 512 bs) 0 3 ≠ 3 ∧ genOk (leBV 512 bs) = true) := by
  refine ⟨⟨⟨by decide +kernel, Or.inl rfl, by decide +kernel⟩, by decide +kernel⟩, passes_of (by decide +kernel), by unfold NoAcquire; decide +kernel, ?_⟩
  decide +kernel

theorem witness_gen_table : (let r := (readLin .s 0 (coordOf (genAt 3) 1 0 64) 64 64).run (sIssued (genAt 3))
     let q := (readLin .s 0 (coordOf (genAt 3) 1 0 64) 320 64).run r.2
     good r.1 = true ∧ fld (leBV 512 (val [] r.1)) 0 3 = 3 ∧ good q.1 = true ∧ genOk (leBV 512 (val [] q.1)) = true) := by
  decide +kernel

/-- An S entry that waits for its update, which every copy has applied; and a generator home with an update of generator 1. -/
def genWait : State := bench.modCore 0 fun c => c.setStr .s { (c.str .s) with held := some { point := 1 } }
def genHome (d : Option GenDesc) : State :=
  (bench.modPart 0 fun p => { p with genQ := [(0, 1, d, 7)] }).modPart 0 fun p => p.modCtx 0 fun x => { x with gens := SMap.put {} x.gens 1 ⟨4, 0⟩ }

theorem witness_generators : Has crew0 genWait ∧ ((cur genWait).str .s).held = some { point := 1 } ∧ (cur genWait).waitsOn [1] = false ∧
    (genWait.part 0).genQ.all (fun e => e.1 != genWait.cur) = true ∧ (∀ c ∈ (genWait.part 0).cores, (genWait.core c).genUpd = []) ∧
    ((genHome none).part 0).genQ = [(0, 1, none, 7)] ∧ fld (SMap.get {} (((genHome none).part 0).ctx 0).gens 1).d 0 3 = 4 := by
  refine ⟨rfl, ?_⟩
  decide +kernel

end Sys2Proof.Tests
end

