-- ==== Sys2Proof/Tests/WitnessHost.lean ====
section
/-! SUPPORT. Witnesses for the statements about the host, the mailbox and the command processor. -/

namespace Sys2Proof.Tests

set_option Elab.async false

open Sys2Proof.Machine Sys2Proof.Stmt

/-! ### The host -/

/-- The small machine READY, with one virtual function, whose partition is 0. -/
def hosted : State := { bench with cfgrec := { bench.cfgrec with nvf := 1 }, boot := { bench.boot with state := 5 } }

/-- A place as data that can be compared. -/
def placeOf (r : Except LinErr (Option Nat)) : LinErr ⊕ Option Nat :=
  match r with
  | .ok x => .inr x
  | .error e => .inl e

theorem placeOf_inj {a b : Except LinErr (Option Nat)} (h : placeOf a = placeOf b) : a = b := by
  cases a <;> cases b <;> simp_all [placeOf]

theorem one_piece (s : State) (f : BitVec 6) (addr n : Nat) (w : Bool) (pl : Except LinErr (Option Nat)) (hi : s.inBar2 f addr n = true)
    (h : (s.hostPieces f (s.bar2At f addr) n w).map (fun p => (p.1, p.2.1, placeOf p.2.2)) = [(s.bar2At f addr, n, placeOf pl)]) : OnePiece s f addr n w pl := by
  refine ⟨hi, ?_⟩
  obtain ⟨p, hp, e⟩ := List.map_eq_singleton_iff.mp h
  injection e with e1 e2
  injection e2 with e2 e3
  rw [hp, ← e1, ← e2, ← placeOf_inj e3]

theorem witness_host_access : OnePiece hosted 0 16384 8 false (.ok (some 16384)) ∧ (hosted.bankRead 16384 8).2 = .data (List.replicate 8 0) ∧
    OnePiece (hosted.poisonBlock 16384) 0 16384 8 false (.ok (some 16384)) ∧ ((hosted.poisonBlock 16384).bankRead 16384 8).2 = .poison ∧
    OnePiece hosted 0 16384 8 true (.ok (some 16384)) ∧ hosted.heldFrame 16384 = false ∧ hosted.inBar2 0 (2 ^ 30) 1 = false ∧
    OnePiece hosted 1 (16384 - 8) 8 false (.ok (some (32768 - 8))) :=
  ⟨one_piece _ _ _ _ _ _ (by decide +kernel) (by decide +kernel), by decide +kernel, one_piece _ _ _ _ _ _ (by decide +kernel) (by decide +kernel),
    by decide +kernel, one_piece _ _ _ _ _ _ (by decide +kernel) (by decide +kernel), by decide +kernel, by decide +kernel,
    one_piece _ _ _ _ _ _ (by decide +kernel) (by decide +kernel)⟩

/-- The linear tensor with no tile present, and with its tile on the other package of a domain of two. -/
def unmapped : State := hosted.poke 1024 (bvBytes 8 (0 : BitVec 64))
def offPackage : State :=
  let s := hosted.poke 1024 (bvBytes 8 (hbmEntry 1 1))
  { s with fabric := { s.fabric with size := (2, 1, 1), domSize := (2, 1, 1) } }

theorem witness_host_absent : OnePiece unmapped 1 64 8 false (.error .absent) := one_piece _ _ _ _ _ _ (by decide +kernel) (by decide +kernel)

/-- A read that has been asked of the other package, with its answer. -/
def answered (op addr : Nat) (act : DevAct) (bs : List Byte) : State :=
  { offPackage with dev := [{ op := op, tag := 3, part := 0, ctx := 0, addr := addr, act := act, answer := some (.data 3 bs) }] }

theorem witness_host_away : OnePiece offPackage 1 64 8 false (.error (.away 1 16448)) ∧ offPackage.devAnswer (partOf 1) 0 (offPackage.bar2At 1 64) (.read 8) = none ∧
    offPackage.hostQ = [] ∧ OnePiece (answered opHost 64 (.read 8) [1, 2, 3, 4, 5, 6, 7, 8]) 1 64 8 false (.error (.away 1 16448)) ∧
    (answered opHost 64 (.read 8) [1, 2, 3, 4, 5, 6, 7, 8]).devAnswer (partOf 1) 0 ((answered opHost 64 (.read 8) [1, 2, 3, 4, 5, 6, 7, 8]).bar2At 1 64) (.read 8) =
      some (.data 3 [1, 2, 3, 4, 5, 6, 7, 8]) :=
  ⟨one_piece _ _ _ _ _ _ (by decide +kernel) (by decide +kernel), by decide +kernel, by decide +kernel,
    one_piece _ _ _ _ _ _ (by decide +kernel) (by decide +kernel), by decide +kernel⟩

/-- A host access whose turn it is at once, one whose turn has come in the queue, and one that comes while another waits. -/
def hostWaiting (called : Bool) : State := { hosted with hostQ := [(.hostRead 0 16384 8, called)] }

theorem witness_host_turn : Turn hosted (.hostRead 0 16384 8) (fun t => t.devDone opHost) ∧
    Turn (hostWaiting true) (.hostRead 0 16384 8) (fun t => (({ t with hostQ := [] } : State).devDone opHost).kickHost) ∧
    (hostWaiting false).hostQ = [(.hostRead 0 16384 8, false)] ∧ (hostWaiting true).hostQ = [(.hostRead 0 16384 8, true)] ∧
    Instr.hostRead 0 16384 8 ≠ .hostWrite 0 16384 [1] :=
  ⟨Or.inl ⟨by decide +kernel, rfl⟩, Or.inr ⟨[], by decide +kernel, rfl⟩, by decide +kernel, by decide +kernel, by decide⟩

/-- A frame that other packages have copies of. -/
def sharedFrame : State := { hosted with frames := [(1, 0, [1])] }

theorem witness_host_held : OnePiece sharedFrame 0 16384 8 true (.ok (some 16384)) ∧ sharedFrame.hostQ = [] ∧ (sharedFrame.heldBack [16384]).isSome = true :=
  ⟨one_piece _ _ _ _ _ _ (by decide +kernel) (by decide +kernel), by decide +kernel⟩

theorem one_atom (s : State) (f : BitVec 6) (addr w pa : Nat) (h : (s.inBar2 f addr w && addr % w == 0 && !s.heldFrame pa) = true)
    (hp : placeOf (s.hostPlace f (s.bar2At f addr) w true) = placeOf (.ok (some pa))) : OneAtom s f addr w pa := by
  simp only [Bool.and_eq_true, Bool.not_eq_true', beq_iff_eq] at h
  exact ⟨h.1.1, h.1.2, placeOf_inj hp, h.2⟩

theorem witness_host_atomics : OneAtom hosted 0 16384 4 16384 ∧ OneAtom hosted 0 16384 8 16384 ∧ OneAtom hosted 1 0 16 16384 ∧
    (hosted.atomAt ⟨.cas, 16384, 16, 0, 5⟩).2.bytes = List.replicate 16 0 ∧ (hosted.atomAt ⟨.add, 16384, 8, 0, 5⟩).2.bytes = List.replicate 8 0 :=
  ⟨one_atom _ _ _ _ _ (by decide +kernel) (by decide +kernel), one_atom _ _ _ _ _ (by decide +kernel) (by decide +kernel),
    one_atom _ _ _ _ _ (by decide +kernel) (by decide +kernel), by decide +kernel⟩

/-! ### Signals -/

/-- A signal's update of −1 at byte 8,192 of linear space, that nothing holds back. -/
def signalJob : SigJob := { id := 4, ctx := 0, addr := 8192, add := some (-1), intr := some (0, 3), queue := 7, index := 0, off := 24 }
def owed (s : State) : State := s.modPart 0 fun p => { p with jobs := [signalJob] }

/-- Has linear space been written? -/
def wrote (r : Except LinErr State) : Bool :=
  match r with
  | .ok _ => true
  | .error _ => false

/-- Where a byte range lies, as data. -/
def linOf (r : Except LinErr Nat) : LinErr ⊕ Nat :=
  match r with
  | .ok x => .inr x
  | .error e => .inl e

theorem witness_signal : ((hosted.part 0).jobs.find? fun i => i.id == 4) = none ∧ (hosted.part 0).launches = [] ∧
    ((owed hosted).part 0).jobs.find? (fun i => i.id == 4) = some signalJob ∧ (owed hosted).dev = [] ∧
    linOf ((owed hosted).linPa 0 0 8192 8 true) = .inr 24576 ∧
    (match (owed hosted).linRead 0 0 8192 8 with
      | (t, .ok bs) => linOf (t.linPa 0 0 8192 1 true) == .inr 24576 && (t.turnAway 24576 true).isNone &&
          wrote (t.linWrite 0 0 8192 (bvBytes 8 (leBV 64 bs + -1)))
      | _ => false) = true := by decide +kernel

theorem witness_signal_away : ((owed offPackage).part 0).jobs.find? (fun i => i.id == 4) = some signalJob ∧
    linOf ((owed offPackage).linPa 0 0 8192 8 true) = .inl (.away 1 24576) ∧
    (owed offPackage).devAnswer 0 0 8192 (.atomic .add 8 0 (BitVec.setWidth 128 (-1 : Word))) = none ∧
    (let s := owed (answered (opJob 0 4) 8192 (.atomic .add 8 0 (BitVec.setWidth 128 (-1 : Word))) (List.replicate 8 1))
     s.devAnswer 0 0 8192 (.atomic .add 8 0 (BitVec.setWidth 128 (-1 : Word))) = some (.data 3 (List.replicate 8 1)) ∧ signalJob.after ≤ 3) := by
  decide +kernel

/-! ### The mailbox -/

/-- A command in progress with this data in. -/
def mailed (s : State) (l : List (Nat × List Byte)) : State :=
  s.modFunc 0 fun f => { f with mbox := { f.mbox with stat := 1, inp := l.foldl (fun b e => SMap.write 0 b e.1 e.2) [] } }

/-- Queue 7 of partition 0, its local queue 0, with its header at byte 2,048 of the linear tensor. -/
def withQueue (n : Nat) : State :=
  hosted.modQueue 7 fun _ => { header := 2048, notified := BitVec.ofNat 64 n, budget := 3, enable := true }

/-- Queue 0 is taken too. -/
def withQueues : State := (withQueue 0).modQueue 0 fun _ => { enable := true, local_ := 1 }

theorem witness_not_ready : (((mailed bench []).func (0 : BitVec 6).toNat).mbox.stat.getLsbD 0) = true ∧ (mailed bench []).boot.state ≠ 5 := by decide +kernel

theorem witness_unlisted : Command (mailed hosted [(0x100, [1])]) 0 [(0x100, 0xF00)] := by
  unfold Command
  decide +kernel

theorem witness_attest : Command (mailed hosted [(0x100, [1])]) 0
    [(0x100, 0x20), (0x108, 0x20), (0x128, 0x40), (0x168, 0x40), (0x1A8, 4), (0x1B0, 0x40), (0x1F0, 0x500), (0x700, 1793)] := by
  unfold Command
  decide +kernel

/-- `queue_create` of a queue of 2^16 slots at byte 4,096 of partition 0, of priority 7 and budget 1,023. -/
def creating : State := mailed withQueues [(0x100, [0, 16]), (0x108, [16, 7, 0xFF, 3]), (0x10C, [0])]

theorem witness_queue_create : Command creating 0 (partField 0 ++ [(0x100, 8), (0x108, 4), (0x110, 4)]) ∧
    (let m := (creating.func 0).mbox
     let mine := creating.queues.filter fun e => e.2.enable && e.2.part == 0
     creating.mailPart 0 m = some 0 ∧ leNat (m.input 0x100 8) = 4096 ∧ leNat (m.input 0x108 1) = 16 ∧ leNat (m.input 0x109 1) = 7 ∧ leNat (m.input 0x10A 2) = 1023 ∧
       mine.length < (creating.part 0).pqueues.toNat ∧ (SMap.get {} creating.queues 1).enable = false ∧ (∀ j, j < 1 → (SMap.get {} creating.queues j).enable = true) ∧
       (∀ e ∈ mine, e.2.local_ ≠ 2) ∧ ∀ j, j < 2 → ∃ e ∈ mine, e.2.local_ = j) := by
  unfold Command
  decide +kernel

theorem witness_queue_destroy : Command (mailed withQueues [(0x10C, [0])]) 0 (partField 0 ++ [(0x100, 2)]) ∧
    (mailed withQueues [(0x10C, [0])]).localQueue 0 0 = some 7 ∧
    (let u := (mailed withQueues [(0x10C, [0])]).discardPackets 7
     u.queueRead 7 = some 0 ∧ (match u.linWrite (u.queue 7).part 0 (u.queue 7).header.toNat (leBytes 8 0) with | .ok _ => true | .error _ => false) = true) := by
  unfold Command
  decide +kernel

/-- A partition halted for a fault. -/
def faulted : State := mailed (hosted.modPart 0 fun p => { p with halted := true, halt := some ⟨1, 0, [], true⟩ }) [(0x10C, [0])]

theorem witness_mail_resume : Command faulted 0 (partField 0 ++ [(0x100, 1)]) ∧ faulted.mailPart 0 (faulted.func 0).mbox = some 0 ∧
    leNat ((faulted.func 0).mbox.input 0x100 1) = (faulted.part 0).runctx.toNat ∧ (faulted.part 0).bound.getLsbD (faulted.part 0).runctx.toNat = true ∧
    (faulted.part 0).resumable = true := by
  unfold Command
  decide +kernel

/-! ### Packets -/

/-- A packet's 64 bytes from the ones that are not zero. -/
def pkt (l : List (Nat × Byte)) : List Byte := (List.range 64).map fun i => ((l.find? (·.1 == i)).map (·.2)).getD 0

/-- A queue with these slots. -/
def slotted (ps : List (List Byte)) : State := ps.zipIdx.foldl (fun s e => s.poke (16384 + 2048 + 64 + 64 * e.2) e.1) (withQueue ps.length)

/-- A LAUNCH of one crew with an S strand at 0; one whose gang is 0. -/
def launchPkt : List Byte := pkt ([(0, 0x81), (4, 1)] ++ (List.range 6).map fun i => (18 + i, 0xFF))
def launchBadPkt : List Byte := pkt ([(0, 0x81)] ++ (List.range 6).map fun i => (18 + i, 0xFF))

/-- Every piece of a range of linear space lies on this package. -/
def nearby (s : State) (p : BitVec 5) (ctx : BitVec 3) (rs : List (Nat × Nat)) : Bool :=
  rs.all fun r => (pieces64 (r.2 / 64 + 2) r.1 r.2).all fun e => match s.linPa p ctx e.1 e.2 false with
    | .error (.away _ _) => false
    | _ => true

theorem answered_nearby {s : State} {p : BitVec 5} {ctx : BitVec 3} {rs : List (Nat × Nat)} (h : nearby s p ctx rs = true) : Answered s p ctx rs := by
  intro r hr e he pkg pa hp
  have := List.all_eq_true.mp (List.all_eq_true.mp h r hr) e he
  rw [hp] at this
  cases this

/-- No error stands in storage, and no piece of a range of linear space lies in an expired row. -/
def lively (s : State) (p : BitVec 5) (r : Nat × Nat) : Bool :=
  s.flaws.isEmpty && (pieces64 (r.2 / 64 + 2) r.1 r.2).all fun e => match s.linPa p 0 e.1 e.2 false with
    | .ok pa => !s.expired pa
    | _ => true

theorem read_lively {s : State} {p : BitVec 5} {r : Nat × Nat} (h : lively s p r = true) : (s.linRead p 0 r.1 r.2).1 = s := by
  have ⟨noFlaw, fresh⟩ := Bool.and_eq_true_iff.1 h
  refine State.linRead_clean fun e he pa hl => ⟨?_, by rw [State.flawsIn, List.isEmpty_iff.1 noFlaw]; rfl⟩
  have now := List.all_eq_true.1 fresh e he
  rw [hl] at now
  exact Bool.not_eq_true' _ ▸ now

/-- READ of queue 7 is `i`, and what the head reads lies here, in rows that live and hold no error. -/
def headNear (s : State) (i : Nat) : Bool :=
  let p := (s.queue 7).part
  s.queueRead 7 == some i && lively s p ((s.queue 7).header.toNat + 8, 8) && lively s p ((s.queue 7).slotAt i, 64) &&
    lively s p ((s.queue 7).slotAt (i + 1), 64) && nearby s p 0 [((s.queue 7).header.toNat + 8, 8)] &&
    nearby s p 0 [((s.queue 7).slotAt i, 64), ((s.queue 7).slotAt (i + 1), 64)]

theorem head_met {s : State} {i : Nat} (hi : s.queueRead 7 = some i) (h0 : (s.linRead (s.queue 7).part 0 ((s.queue 7).header.toNat + 8) 8).1 = s)
    (h1 : (s.linRead (s.queue 7).part 0 ((s.queue 7).slotAt i) 64).1 = s) (h2 : (s.linRead (s.queue 7).part 0 ((s.queue 7).slotAt (i + 1)) 64).1 = s) :
    s.headMet 7 = s := by
  revert hi h0
  unfold State.queueRead State.headMet State.linRead64
  dsimp only
  generalize s.linRead (s.queue 7).part 0 ((s.queue 7).header.toNat + 8) 8 = first
  obtain ⟨t, e | bs⟩ := first
  · exact fun _ same => same
  · intro hi (same : t = s)
    subst same
    cases hi
    dsimp only
    split
    · rfl
    · revert h1
      generalize t.linRead (t.queue 7).part 0 ((t.queue 7).slotAt (leBV 64 bs : Word).toNat) 64 = slot
      obtain ⟨u, e | body⟩ := slot
      · exact id
      · intro (same : u = t)
        subst same
        dsimp only
        split
        · exact h2
        · rfl

theorem head_read {s : State} {i : Nat} (h : headNear s i = true) : HeadRead s 7 := by
  simp only [headNear, Bool.and_eq_true, beq_iff_eq] at h
  obtain ⟨⟨⟨⟨⟨reads, l0⟩, l1⟩, l2⟩, n0⟩, n1⟩ := h
  refine ⟨head_met reads (read_lively l0) (read_lively l1) (read_lively l2), answered_nearby n0, fun j hj => ?_⟩
  cases reads.symm.trans hj
  exact answered_nearby n1

theorem witness_poll : ((slotted [launchPkt]).queue 7).headAcc = none ∧ ((slotted [launchPkt]).queue 7).met = none ∧
    (slotted [launchPkt]).queueHead 7 = some (0, launchPkt, none) ∧ headEvent 7 launchPkt = some (.launchPacket 7) ∧
    (slotted [pkt [(0, 0x8F)]]).queueHead 7 = some (0, pkt [(0, 0x8F)], none) ∧ headEvent 7 (pkt [(0, 0x8F)]) = none ∧ hosted.cfgrec.nvf = 1 ∧
    (withQueue 0).localQueue (BitVec.ofNat 5 ((1 : BitVec 6).toNat - 1)) (0 : BitVec 10).toNat = some 7 := by decide +kernel

theorem witness_poll_near : HeadRead (slotted [launchPkt]) 7 ∧ HeadRead (slotted [pkt [(0, 0x8F)]]) 7 := ⟨head_read (i := 0) (by decide +kernel), head_read (i := 0) (by decide +kernel)⟩

theorem at_head (s : State) (kind i : Nat) (bs : List Byte) (b2 : Option (List Byte))
    (h : (headNear s i && (s.queue 7).headAcc == none && (s.queue 7).met == none && s.queueHead 7 == some (i, bs, b2) && pktKind bs == kind &&
      (s.queue 7).spawned.isEmpty) = true) :
    AtHead s 7 kind i bs b2 := by
  have ⟨tested, unspawned⟩ := Bool.and_eq_true_iff.1 h
  have ⟨tested, ofKind⟩ := Bool.and_eq_true_iff.1 tested
  have ⟨tested, head⟩ := Bool.and_eq_true_iff.1 tested
  have ⟨near, free⟩ := Bool.and_eq_true_iff.1 tested
  have ⟨near, unaccepted⟩ := Bool.and_eq_true_iff.1 near
  exact ⟨head_read near, eq_of_beq unaccepted, eq_of_beq free, eq_of_beq head, eq_of_beq ofKind, fun e spawned =>
    absurd (List.isEmpty_iff.1 unspawned ▸ spawned) List.not_mem_nil⟩

theorem witness_launch : AtHead (slotted [launchPkt]) 7 1 0 launchPkt none ∧ firstBad ((slotted [launchPkt]).launchBad 7 launchPkt none) = none ∧
    (slotted [launchPkt]).fullGroup 0 1 (launchGroups launchPkt) = none ∧
    ((slotted [launchPkt]).part 0).fits (pf launchPkt 4 1 % 64)
      (if pf launchPkt 4 1 / 64 = 1 then (slotted [launchPkt]).producerDie 7 0 1 launchPkt else none) = true ∧ AtHead (slotted [launchBadPkt]) 7 1 0 launchBadPkt none ∧
    firstBad ((slotted [launchBadPkt]).launchBad 7 launchBadPkt none) = some 4 :=
  ⟨at_head _ _ _ _ _ (by decide +kernel), by decide +kernel, by decide +kernel, by decide +kernel, at_head _ _ _ _ _ (by decide +kernel),
    by decide +kernel⟩

/-- A LAUNCH with one inline region, and its REGIONS packet with one more. -/
def launchRegs : List Byte := pkt ([(0, 0x81), (1, 0x18), (4, 1), (5, 8), (40, 1), (44, 0)] ++ (List.range 6).map fun i => (18 + i, 0xFF))
def regionsPkt : List Byte := pkt [(0, 0x86), (4, 1), (8, 2)]

theorem witness_launch_regions : AtHead (slotted [launchRegs, regionsPkt]) 7 1 0 launchRegs (some regionsPkt) ∧ pktKind regionsPkt = 6 ∧
    firstBad ((slotted [launchRegs, regionsPkt]).launchBad 7 launchRegs (some regionsPkt)) = none ∧ AtHead (slotted [regionsPkt]) 7 6 0 regionsPkt none ∧
    AtHead (slotted [launchRegs, launchPkt]) 7 1 0 launchRegs (some launchPkt) ∧ pktKind launchPkt ≠ 6 ∧
    (((slotted [launchRegs, regionsPkt]).part 0).launches.filter fun l => !l.regions.isEmpty).length < 256 :=
  ⟨at_head _ _ _ _ _ (by decide +kernel), by decide +kernel, by decide +kernel, at_head _ _ _ _ _ (by decide +kernel),
    at_head _ _ _ _ _ (by decide +kernel), by decide +kernel⟩

/-- A COPY of 65 bytes from 0 to 8,192, a SIGNAL of the word at 8,192, and a WAIT with one condition there. -/
def copyPkt : List Byte := pkt [(0, 0x82), (17, 0x20), (32, 65)]
def signalPkt : List Byte := pkt [(0, 0x83), (9, 0x20), (16, 1)]
def waitPkt : List Byte := pkt [(0, 0x84), (4, 1), (9, 0x20)]

/-- The COPY with a stamp, one out of bounds, and one with a stamp whose destination lies on another package: the second tile of a linear space of two. -/
def copyStamp : List Byte := pkt [(0, 0x82), (1, 4), (17, 0x20), (32, 65), (40, 7)]
def copyOut : List Byte := pkt [(0, 0x82), (17, 0x3F), (33, 2)]
def copyFar : List Byte := pkt [(0, 0x82), (1, 4), (17, 0x40), (32, 65), (40, 7)]
def twoTiles : State :=
  let s := ((slotted [copyFar]).poke 0 (bvBytes 64 (tensorDesc 1 1 0 3 14 32768 1056))).poke 1056 (bvBytes 8 (hbmEntry 0 1) ++ bvBytes 8 (hbmEntry 1 1))
  { s with fabric := { s.fabric with size := (2, 1, 1), domSize := (2, 1, 1) } }

theorem witness_copy : AtHead (slotted [copyPkt]) 7 2 0 copyPkt none ∧ firstBad ((slotted [copyPkt]).copyBad 7 copyPkt) = none ∧
    ((slotted [copyPkt]).queue 7).clear copyPkt = true ∧ (pf copyPkt 1 1).testBit 2 = false ∧
    Answered (slotted [copyPkt]) 0 0 [(pf copyPkt 8 6, pf copyPkt 32 4)] ∧
    ((slotted [copyPkt]).copyBytes 0 0 (pf copyPkt 8 6) (pf copyPkt 16 6) (pf copyPkt 32 4)).2 = none :=
  ⟨at_head _ _ _ _ _ (by decide +kernel), by decide +kernel, by decide +kernel, by decide +kernel, answered_nearby (by decide +kernel), by decide +kernel⟩

theorem witness_copy_stamp : AtHead (slotted [copyStamp]) 7 2 0 copyStamp none ∧ firstBad ((slotted [copyStamp]).copyBad 7 copyStamp) = none ∧
    ((slotted [copyStamp]).queue 7).clear copyStamp = true ∧ (pf copyStamp 1 1).testBit 2 = true ∧ Answered (slotted [copyStamp]) 0 0 [(pf copyStamp 8 6, pf copyStamp 32 4)] ∧
    (let t := (slotted [copyStamp]).copyBytes 0 0 (pf copyStamp 8 6) (pf copyStamp 16 6) (pf copyStamp 32 4)
     t.2 = none ∧ t.1.dev.length ≤ (slotted [copyStamp]).dev.length ∧
     wrote (t.1.linWrite 0 0 (pf copyStamp 16 6 + 8 * ((pf copyStamp 32 4 + 7) / 8)) ((copyStamp.drop 40).take 8)) = true) :=
  ⟨at_head _ _ _ _ _ (by decide +kernel), by decide +kernel, by decide +kernel, by decide +kernel, answered_nearby (by decide +kernel), by decide +kernel⟩

theorem witness_copy_late : AtHead twoTiles 7 2 0 copyFar none ∧ firstBad (twoTiles.copyBad 7 copyFar) = none ∧
    (twoTiles.queue 7).clear copyFar = true ∧ (pf copyFar 1 1).testBit 2 = true ∧ Answered twoTiles 0 0 [(pf copyFar 8 6, pf copyFar 32 4)] ∧
    (let t := twoTiles.copyBytes 0 0 (pf copyFar 8 6) (pf copyFar 16 6) (pf copyFar 32 4)
     t.2 = none ∧ twoTiles.dev.length < t.1.dev.length) :=
  ⟨at_head _ _ _ _ _ (by decide +kernel), by decide +kernel, by decide +kernel, by decide +kernel, answered_nearby (by decide +kernel), by decide +kernel⟩

theorem witness_copy_fault : AtHead (slotted [copyOut]) 7 2 0 copyOut none ∧ firstBad ((slotted [copyOut]).copyBad 7 copyOut) = none ∧
    ((slotted [copyOut]).queue 7).clear copyOut = true ∧
    ((slotted [copyOut]).copyBytes 0 0 (pf copyOut 8 6) (pf copyOut 16 6) (pf copyOut 32 4)).2.isSome = true :=
  ⟨at_head _ _ _ _ _ (by decide +kernel), by decide +kernel⟩

/-- The WAIT with BARRIER while an earlier packet of its queue is outstanding. -/
def waitBarrier : List Byte := pkt [(0, 0x84), (1, 2), (4, 1), (9, 0x20)]
def waitHeld : State := (slotted [waitBarrier]).modQueue 7 fun k => { k with busy := [⟨5, 3⟩] }

theorem witness_signal_wait : AtHead (slotted [signalPkt]) 7 3 0 signalPkt none ∧ firstBad ((slotted [signalPkt]).signalBad 7 signalPkt) = none ∧
    ((slotted [signalPkt]).queue 7).clear signalPkt = true ∧
    AtHead (slotted [waitPkt]) 7 4 0 waitPkt none ∧ firstBad ((slotted [waitPkt]).waitBad 7 waitPkt) = none ∧ ((slotted [waitPkt]).queue 7).clear waitPkt = true ∧
    AtHead waitHeld 7 4 0 waitBarrier none ∧ firstBad (waitHeld.waitBad 7 waitBarrier) = none ∧ (waitHeld.queue 7).clear waitBarrier = false :=
  ⟨at_head _ _ _ _ _ (by decide +kernel), by decide +kernel, by decide +kernel, at_head _ _ _ _ _ (by decide +kernel), by decide +kernel, by decide +kernel,
    at_head _ _ _ _ _ (by decide +kernel), by decide +kernel⟩

/-- A WAIT all of whose conditions have been met. -/
def waited : State := (slotted [waitPkt]).modQueue 7 fun k => { k with met := some ([true], false) }

theorem witness_wait_recheck : HeadRead waited 7 ∧ (waited.queue 7).met = some ([true], false) ∧ waited.queueHead 7 = some (0, waitPkt, none) :=
  ⟨head_read (i := 0) (by decide +kernel), by decide +kernel⟩

/-- A pipeline of one stage: tensor 3 is its input ring, of two slots and one cursor; it gives nothing out. -/
def ringDesc : BitVec 512 := BitVec.ofNat 512 (3 + 4 + 9 * 2 ^ 64 + 2 ^ 72 + 2 ^ 80 + 2 * 2 ^ 128 + 1048 * 2 ^ 320)
def stageTable : List Byte :=
  (pkt [(0, 2), (2, 1), (4, 9)]).take 64 ++ (List.range 32).map fun i => ((([(10, 0xFF), (11, 0xFF), (12, 0xFF), (13, 0xFF), (14, 0xFF), (15, 0xFF), (24, 3), (28, 1), (29, 2), (30, 2)] :
    List (Nat × Byte)).find? (·.1 == i)).map (·.2)).getD 0
def stagesPkt : List Byte := pkt [(0, 0x85), (4, 1), (9, 0x10)]

/-- The machine with that ring, its table at byte 4,096, and its STAGES packet. -/
def staging : State := (((slotted [stagesPkt]).poke 192 (bvBytes 64 ringDesc)).poke 1048 (bvBytes 8 (hbmEntry 0 32))).poke (16384 + 4096) stageTable

theorem witness_stages : AtHead staging 7 5 0 stagesPkt none ∧ Answered staging 0 0 [(pf stagesPkt 8 6, 64 + 32 * pf stagesPkt 4 1)] ∧ firstBad (staging.stagesBad 7 stagesPkt) = none ∧
    (match (staging.linRead 0 0 (pf stagesPkt 8 6) (64 + 32 * pf stagesPkt 4 1)).2 with | .ok tab => tab == stageTable | .error _ => false) = true ∧
    (staging.linRead 0 0 (pf stagesPkt 8 6) (64 + 32 * pf stagesPkt 4 1)).1.tableBad 0 0 stagesPkt stageTable = [] ∧
    pf stageTable 2 1 ≤ (staging.part 0).cores.length :=
  ⟨at_head _ _ _ _ _ (by decide +kernel), answered_nearby (by decide +kernel), by decide +kernel⟩

end Sys2Proof.Tests
end

