-- ==== Sys2Proof/Tests/WitnessVector.lean ====
section
/-! SUPPORT. Witnesses for the statements about V and M. -/

namespace Sys2Proof.Tests

set_option Elab.async false

open Sys2Proof.Machine Sys2Proof.Stmt

/-- A descriptor of rank 2. -/
def tensorDesc2 (fmt elog t0 t1 e0 e1 ttptr : Nat) : BitVec 512 :=
  BitVec.ofNat 512 (1 + 2 * 4 + fmt * 2 ^ 8 + elog * 2 ^ 64 + t0 * 2 ^ 96 + t1 * 2 ^ 100 + e0 * 2 ^ 128 + e1 * 2 ^ 192 + ttptr * 2 ^ 320)

/-- The small machine with more tensors, each in the slot of its number: 3 FP32 in the own scratchpad, 4 a generator, 5 FP32 in shared memory,
6 blocks, 7 FP32 of rank 2, 8 BF16 of rank 2, 9 tables, 10 CB3 blocks of rank 2; p10 a geometry of 2 × 2 × 2, p11 and p12 a box, p13 a SHAPE of BF16,
p14 INT8, p15 the code of block FP8; 11 nine linear tiles. -/
def lanes (shape : Word) : State :=
  let s := benchP [(10, 0x20202), (11, 2), (12, 2), (13, 0x0000000800000503), (14, 0x11), (15, 0x83), (16, 5)]
  let s := s.modCore 0 fun c => { c with shape := shape, crew := some { crew0 with slots := ((List.range 12).map fun i => BitVec.ofNat 16 (0x8000 + i)) ++ List.replicate 20 0 } }
  let s := s.modPart 0 fun p => ({ p with pstripe := SMap.put 0 [] 0 8 } : Part).modCtx 0 fun x => { x with ndesc := 11 }
  let s := s.modCore 0 fun c => { c with gens := SMap.put {} [] 0 ⟨BitVec.ofNat 512 1, 0⟩ }
  let s := s.poke 192 (bvBytes 64 (tensorDesc 1 1 1 5 12 64 1048) ++ bvBytes 64 (tensorDesc 2 1 1 5 0 64 0) ++ bvBytes 64 (tensorDesc 1 1 1 5 12 64 1056) ++
    bvBytes 64 (tensorDesc 1 1 0xFF 9 8 8 1064) ++ bvBytes 64 (tensorDesc2 1 5 6 6 8 8 1072) ++ bvBytes 64 (tensorDesc2 3 4 7 6 8 8 1080) ++
    bvBytes 64 (tensorDesc 1 1 0 7 10 8 1088) ++ bvBytes 64 (tensorDesc2 0xFF 9 4 4 4 4 1096) ++ bvBytes 64 (tensorDesc 1 1 0 3 14 147456 1104))
  let s := s.poke 1048 (bvBytes 8 (0x23 : BitVec 64) ++ bvBytes 8 (0x13 : BitVec 64) ++ bvBytes 8 (hbmEntry 0 4) ++ bvBytes 8 (hbmEntry 0 5) ++
    bvBytes 8 (hbmEntry 0 6) ++ bvBytes 8 (hbmEntry 0 7) ++ bvBytes 8 (hbmEntry 0 8) ++
    (List.range 9).flatMap fun i => bvBytes 8 (hbmEntry 0 (16 + i)))
  let s := (s.bankWrite (scrPa 0 0) (List.replicate 64 7)).bankWrite (shmPa 0 0) (List.replicate 64 9)
  s.poke (8 * 16384) [0x89]

/-- SHAPE of FP32, of BF16 and of INT8 with five elements. -/
def shapeF32 : Word := 0x0000000800000501
def shapeBF16 : Word := 0x0000000800000503
def shapeI8 : Word := 0x0000000800000519

theorem ready_v (sh : Word) (h : sh = shapeF32 ∨ sh = shapeBF16 ∨ sh = shapeI8) : Ready .v noTok (lanes sh) := by
  refine ⟨?_, Or.inl rfl, nofun⟩
  rcases h with rfl | rfl | rfl <;> decide +kernel

theorem ready_m : Ready .m noTok (lanes shapeF32) := ⟨by decide +kernel, Or.inl rfl, by decide +kernel⟩

/-- The tables hold their forms; a format that a form accepts and one that it does not. -/
theorem witness_vector_tables : (laneForm (cur (lanes shapeF32)) (.vrcp noTok 3 1)).isSome = true ∧ (laneForm (cur (lanes shapeI8)) (.vbcast noTok 3 1)).isSome = true ∧
    classF (cur (lanes shapeF32)).shp.fmt = true ∧ classF (cur (lanes shapeI8)).shp.fmt = false ∧ (maskForm (cur (lanes shapeI8)) (.vcmp noTok .lt 3 1 2)).isSome = true ∧
    (reduceForm (.vrsum noTok 3 1)).isSome = true ∧ classRed (cur (lanes shapeF32)).shp.fmt = true ∧ (cur (lanes shapeF32)).shp.len = 5 ∧
    (cur (lanes 0x0000000800000001)).shp.len = 0 := by decide +kernel

/-- Widths, elements and operands of the lane statements at the ends of their ranges. -/
theorem witness_lanes : (64 : Nat) ∈ [8, 16, 32, 64, 512] ∧ (∀ j ∈ [0, 1023], j < 65536 / 64) ∧ 1023 < 65536 / 64 ∧ ifmt 0x19 = some (8, false) ∧
    ifmt 0x11 = some (8, true) ∧ 255 < 2 ^ 8 := by decide +kernel

theorem witness_shapes : shapeOk (pOf (cur (lanes shapeF32)) 13) = true ∧ shapeOk (pOf (cur (lanes shapeF32)) 12) = false := by decide +kernel

/-- The small machine whose v1 holds one FP8 block. -/
def blocked : State := onCore (fun c => c.setV 1 0x83) (lanes shapeF32)

theorem witness_conversions : shapeFmt (fld (pOf (cur blocked) 14) 0 8) = true ∧ fld (pOf (cur blocked) 14) 8 56 = 0 ∧
    (cur blocked).shp.len * max (fmtWidth (fld (pOf (cur blocked) 14) 0 8)) (cur blocked).shp.w ≤ 65536 ∧ blockOk (cur blocked) 15 = true ∧
    (let p := pOf (cur blocked) 15
     let per := (blockCount (fld p 0 8)).getD 1
     ∀ k, k < ((cur blocked).shp.len + per - 1) / per → (vbytes ((cur blocked).vr 1) (64 * k) 64).getD 0 0 = BitVec.ofNat 8 (fld p 0 8)) := by decide +kernel

/-- The descriptor that a slot of the small machine names. -/
def slotD (n : BitVec 5) : Nat × Desc := val (0, Desc.ofBits 0) ((slotDesc n).run ((lanes shapeF32).issueHeld .v noTok)).1
def slotS (n : BitVec 5) : State := ((slotDesc n).run ((lanes shapeF32).issueHeld .v noTok)).2
def crdS (n : BitVec 5) : State := ((coordsAt .v 1 (slotD n).2.rank).run (slotS n)).2

theorem slotD_gives (n : BitVec 5) (h : good ((slotDesc n).run ((lanes shapeF32).issueHeld .v noTok)).1 = true) :
    Gives (slotDesc n) ((lanes shapeF32).issueHeld .v noTok) ((slotD n).1, (slotD n).2) (slotS n) := by
  unfold slotD slotS
  exact gives_val _ h

theorem crd_gives (n : BitVec 5) (h : good ((coordsAt .v 1 (slotD n).2.rank).run (slotS n)).1 = true)
    (e : val [] ((coordsAt .v 1 (slotD n).2.rank).run (slotS n)).1 = [0]) : Gives (coordsAt .v 1 (slotD n).2.rank) (slotS n) [0] (crdS n) := by
  have g := gives_val [] h
  rw [e] at g
  unfold crdS
  exact g

/-- Coordinates that go on from an element at 0. -/
def from0 (e : Nat) : List Nat := [0 + e]

/-- A load of FP32 elements, of a generator's values, of blocks; a gather from the own scratchpad and from a generator. -/
theorem witness_vld : Passes (vaccCheck .load 1 1) (lanes shapeF32) ∧ good ((slotDesc 1).run ((lanes shapeF32).issueHeld .v noTok)).1 = true ∧
    Gives (coordsAt .v 1 (slotD 1).2.rank) (slotS 1) [0] (crdS 1) ∧ elemMode? (cur (lanes shapeF32)).shp (slotD 1).2 = true ∧ (slotD 1).2.kind ≠ 2 ∧
    good ((readRuns 4 anyTile (vruns 4 1 (slotD 1).1 (slotD 1).2 (cur (lanes shapeF32)).active from0)).run (crdS 1)).1 = true :=
  ⟨passes_of (by decide +kernel), by decide +kernel, crd_gives 1 (by decide +kernel) (by decide +kernel), by decide +kernel⟩

theorem witness_vld_generator : Passes (vaccCheck .load 4 1) (lanes shapeF32) ∧ Passes (vaccCheck .gather 4 0) (lanes shapeF32) ∧
    good ((slotDesc 4).run ((lanes shapeF32).issueHeld .v noTok)).1 = true ∧
    Gives (coordsAt .v 1 (slotD 4).2.rank) (slotS 4) [0] (crdS 4) ∧ elemMode? (cur (lanes shapeF32)).shp (slotD 4).2 = true ∧ (slotD 4).2.kind = 2 ∧
    good ((tryAll ((cur (lanes shapeF32)).active.map fun e => do return (e, ← genRead 4 (slotD 4).1 (slotD 4).2 (from0 e)))).run (crdS 4)).1 = true ∧
    good ((tryAll ((cur (lanes shapeF32)).active.map fun e => do
      return (e, ← genRead 4 (slotD 4).1 (slotD 4).2 (indexCoords (slotD 4).2 ((cur (lanes shapeF32)).vr 5) e)))).run (slotS 4)).1 = true :=
  ⟨passes_of (by decide +kernel), passes_of (by decide +kernel), by decide +kernel, crd_gives 4 (by decide +kernel) (by decide +kernel), by decide +kernel⟩

theorem witness_vld_blocks : Passes (vaccCheck .load 6 1) (lanes shapeF32) ∧ good ((slotDesc 6).run ((lanes shapeF32).issueHeld .v noTok)).1 = true ∧
    Gives (coordsAt .v 1 (slotD 6).2.rank) (slotS 6) [0] (crdS 6) ∧ elemMode? (cur (lanes shapeF32)).shp (slotD 6).2 = false ∧
    good ((readRuns 64 anyTile (blockRuns 6 (slotD 6).1 (slotD 6).2 1 [0])).run (crdS 6)).1 = true :=
  ⟨passes_of (by decide +kernel), by decide +kernel, crd_gives 6 (by decide +kernel) (by decide +kernel), by decide +kernel⟩

theorem witness_vgather : Passes (vaccCheck .gather 3 0) (lanes shapeF32) ∧ good ((slotDesc 3).run ((lanes shapeF32).issueHeld .v noTok)).1 = true ∧
    (slotD 3).2.kind ≠ 2 ∧
    good ((readRuns 4 ownScratch (vruns 4 3 (slotD 3).1 (slotD 3).2 (cur (lanes shapeF32)).active
      (indexCoords (slotD 3).2 ((cur (lanes shapeF32)).vr 5)))).run (slotS 3)).1 = true :=
  ⟨passes_of (by decide +kernel), by decide +kernel⟩

/-- The bytes that a store writes of v3. -/
def storeRuns (w : Nat) (rs : List VRun) : List (VRun × List Byte) :=
  rs.map fun r => (r, r.es.flatMap fun e => leBytes (w / 8) (velem ((cur (lanes shapeF32)).vr 3) w e))

theorem witness_vst : Passes (vaccCheck .store 1 1) (lanes shapeF32) ∧ Passes (vaccCheck .store 6 1) (lanes shapeF32) ∧
    good ((writeRuns false anyTile (storeRuns 32 (vruns 4 1 (slotD 1).1 (slotD 1).2 (cur (lanes shapeF32)).active from0))).run (crdS 1)).1 = true ∧
    good ((writeRuns true anyTile (storeRuns 512 (blockRuns 6 (slotD 6).1 (slotD 6).2 1 [0]))).run (crdS 6)).1 = true :=
  ⟨passes_of (by decide +kernel), passes_of (by decide +kernel), by decide +kernel⟩

theorem witness_vscatter_vupd : Passes (vaccCheck .scatter 3 0) (lanes shapeF32) ∧ Passes (vaccCheck .upd 5 1) (lanes shapeF32) ∧
    good ((writeRuns false ownScratch (storeRuns 32 (vruns 4 3 (slotD 3).1 (slotD 3).2 (cur (lanes shapeF32)).active
      (indexCoords (slotD 3).2 ((cur (lanes shapeF32)).vr 5))))).run (slotS 3)).1 = true ∧
    good ((slotDesc 5).run ((lanes shapeF32).issueHeld .v noTok)).1 = true ∧ Gives (coordsAt .v 1 (slotD 5).2.rank) (slotS 5) [0] (crdS 5) ∧
    good ((updateRuns (cur ((lanes shapeF32).issueHeld .v noTok)) 3 (vruns 4 5 (slotD 5).1 (slotD 5).2 (cur (lanes shapeF32)).active from0)).run (crdS 5)).1 = true :=
  ⟨passes_of (by decide +kernel), passes_of (by decide +kernel), by decide +kernel, by decide +kernel, crd_gives 5 (by decide +kernel) (by decide +kernel), by decide +kernel⟩

end Sys2Proof.Tests
end

