-- ==== Sys2Proof/Tests/WitnessMatrix.lean ====
section
/-! SUPPORT. Witnesses for the statements about M. -/

namespace Sys2Proof.Tests

set_option Elab.async false

open Sys2Proof.Machine Sys2Proof.Stmt

/-- The machine of the vector witnesses, and the state in which an M command has issued. -/
def mats : State := lanes shapeF32
def matsM : State := mNumbered noTok mats

theorem witness_mcfg : mcfgOk (pOf (cur mats) 1) = true ∧ mcfgOk (pOf (cur mats) 14) = true ∧ mcfgOk 0x20 = false := by decide +kernel

/-- FP32 times FP32 under NP4, and BF16 times CB3 under NP2. -/
def mulF32 : MulArgs := ⟨4, false, 10, ⟨7, 1⟩, ⟨7, 1⟩⟩
def mulCb3 : MulArgs := ⟨2, true, 10, ⟨8, 1⟩, ⟨10, 1⟩⟩

theorem witness_mmd : Ready .m noTok mats ∧ Passes (geoCheck mulF32) mats ∧ Passes (mulCheck mulF32 false) mats ∧
    good ((denseOp mulF32 none).run matsM).1 = true :=
  ⟨ready_m, passes_of (by decide +kernel), passes_of (by decide +kernel), by decide +kernel⟩

theorem witness_mmc : Passes (geoCheck mulCb3) mats ∧ Passes (do mulCheck mulCb3 true; tabCheck ⟨9, 1⟩) mats ∧
    good ((denseOp mulCb3 (some ⟨9, 1⟩)).run matsM).1 = true :=
  ⟨passes_of (by decide +kernel), passes_of (by decide +kernel), by decide +kernel⟩

/-- A geometry of no rows. -/
theorem witness_geometry : geoOk (pOf (cur mats) 1) = false ∧ good ((slotDesc 7).run mats).1 = true ∧ Passes (mulCheck { mulF32 with g := 1 } false) mats :=
  ⟨by decide +kernel, by decide +kernel, passes_of (by decide +kernel)⟩

/-- Metadata slots with the header of a bitmap stream of two rows. -/
def streams (kind items vals : Byte) : State := onCore (fun c => { c with ms := { c.ms with index := SMap.write 0 [] 0 [kind, 1, 2, 0, 2, 0, 0, 0, items, 0, 0, 0, vals] } }) mats

theorem witness_mms : sparseForm (.mms noTok mulF32 0 none) = some (noTok, mulF32, 0, none, [1, 2]) ∧ Ready .m noTok (streams 1 1 1) ∧
    Passes (mulCheck mulF32 false) (streams 1 1 1) ∧ Passes (geoCheck mulF32) (streams 1 1 1) ∧ (cur (streams 1 1 1)).ms.run = none ∧
    good ((sparseStart mulF32 0 none [1, 2]).run (mNumbered noTok (streams 1 1 1))).1 = true :=
  ⟨rfl, ⟨by decide +kernel, Or.inl rfl, by decide +kernel⟩, passes_of (by decide +kernel), passes_of (by decide +kernel), by decide +kernel⟩

/-- A sparse command whose cycles have ended, with a fault or without. -/
def endedRun (bad : Option (Nat × Nat × BitVec 320)) : MRun :=
  { a := mulF32, ah := ⟨1, 0, 1, 1, 1⟩, bh := none, seq := 0, lag := 16, geo := (2, 2, 2), aCode := 1, bCode := 1, split := [], item := 1, loads := [9],
    bad := bad, fin := true }
def endedHeld : Held := { seq := some 0, words := [0], ps := [] }
def endedMms (bad : Option (Nat × Nat × BitVec 320)) : State :=
  onCore (fun c => { (c.setStr .m { (c.str .m) with held := some endedHeld }) with ms := { c.ms with run := some (endedRun bad) } }) mats

theorem witness_mms_ended (bad : Option (Nat × Nat × BitVec 320)) : ((cur (endedMms bad)).str .m).held = some endedHeld ∧ endedHeld.seq.isSome = true ∧
    (cur (endedMms bad)).ms.run = some (endedRun bad) ∧ (endedRun bad).fin = true ∧ (endedRun bad).bad = bad ∧ mulF32.prof ≠ 48 :=
  ⟨rfl, rfl, rfl, rfl, rfl, by decide⟩

theorem witness_np48 : good ((np48Finish false 2 2).run (endedMms none)).1 = true := by
  decide +kernel

theorem witness_mtab : Passes (tabCheck ⟨9, 1⟩) mats ∧ good ((mOperand ⟨9, 1⟩).run matsM).1 = true := ⟨passes_of (by decide +kernel), by decide +kernel⟩

/-- A readout of 2 × 2 to the FP32 tensor with CLR and its OVF bits to the linear one. -/
def readArgs : MrdArgs := ⟨4, false, true, false, 0, ⟨7, 1, 11⟩, 126, 62, some ⟨11, 1⟩⟩
def readU : State := ((slotDesc 7).run matsM).2
def readD : Nat × Desc := val (0, Desc.ofBits 0) ((slotDesc 7).run matsM).1
def readV : State := ((coordsAt .m 1 readD.2.rank).run readU).2

theorem witness_mrd : Passes (mrdCheck readArgs) mats ∧ Passes (mrdBox readArgs) mats ∧ good ((slotDesc 7).run matsM).1 = true ∧
    good ((coordsAt .m 1 readD.2.rank).run readU).1 = true ∧ (pOf (cur mats) 11).toNat = 2 ∧
    (let cs := val [] ((coordsAt .m 1 readD.2.rank).run readU).1
     let o := (Machine.mrdOvf readArgs (tileNow false mats) 2 2).run readV
     good o.1 = true ∧
     good ((writePieces .m (elemPieces .m 7 readD.1 readD.2 (mrdElems readArgs readD.2.format (tileNow false mats) cs 2 2) ++ val [] o.1)).run o.2).1 = true) :=
  ⟨passes_of (by decide +kernel), passes_of (by decide +kernel), by decide +kernel⟩

/-- A canonical tile with an element at its last place. -/
theorem witness_image_round_trip : SMap.wf 0 ({ el := [(8191, 5)] } : Tile).el = true ∧ ∀ e ∈ ({ el := [(8191, 5)] } : Tile).el, e.1 < 8192 := by decide +kernel

/-- A merge of row 127 from an image of zeros at the start of the linear tensor, whose header is its first 64 bytes. -/
def mergeU : State := ((linAcc 11 (pOf (cur mats) 1).toNat 64 64).run matsM).2
def mergeA : Acc := val noAcc ((linAcc 11 (pOf (cur mats) 1).toNat 64 64).run matsM).1
def mergeV : State := ((readChecked .m mergeA 64).run mergeU).2

theorem witness_mmerge : Passes (trefCheck ⟨11, 1⟩) mats ∧ good ((slotDesc 11).run mats).1 = true ∧ (1 : BitVec 8) ≠ 0 ∧ (127 : BitVec 7).toNat + (1 : BitVec 8).toNat ≤ 128 ∧
    good ((linAcc 11 (pOf (cur mats) 1).toNat 64 64).run matsM).1 = true ∧ val [] ((readChecked .m mergeA 64).run mergeU).1 = List.replicate 64 0 ∧
    good ((mergeRows 4 false 11 (pOf (cur mats) 1).toNat 127 1 0).run (onTile false (fun y => y.anchorAuto 4 0) mergeV)).1 = true :=
  ⟨passes_of (by decide +kernel), by decide +kernel⟩

theorem witness_statistics : Passes (do slotBound 11; writable 11) mats ∧ good ((linAcc 11 (fld (pOf (cur mats) 1) 0 48) 16 16).run matsM).1 = true ∧
    good ((writePieces .m (linWPieces mergeA ((cur mats).ms.stats.flatMap fun v => bvBytes 8 v))).run mergeU).1 = true ∧
    good ((writePieces .m (linWPieces (val noAcc ((linAcc 11 (fld (pOf (cur mats) 1) 0 48) 16 16).run matsM).1) (List.replicate 16 0))).run
      ((linAcc 11 (fld (pOf (cur mats) 1) 0 48) 16 16).run matsM).2).1 = true :=
  ⟨passes_of (by decide +kernel), by decide +kernel⟩

end Sys2Proof.Tests
end

