-- ==== Sys2Proof/Tests/WitnessImages.lean ====
section
/-! SUPPORT. Witnesses for the statements that move large images: of accumulator tiles and of saved crews. An image is too long for the
kernel to move byte by byte, so the reading and the writing of a linear tensor are followed by lemmas. -/

namespace Sys2Proof.Tests

set_option Elab.async false

open Sys2Proof.Machine Sys2Proof.Stmt

/-! ### A linear tensor of 64 tiles -/

/-- A linear tensor of 1 MiB whose tile table lies above it. -/
def wideDesc : BitVec 512 := tensorDesc 1 1 0 3 14 0x100000 0x1000400

/-- The crew of core 0, which holds that descriptor. -/
def wideCrew : Crew := { crew0 with descs := [(0, wideDesc)] }

/-- The tiles of a linear tensor of 1 MiB, in the first 64 frames of HBM, as a translation cache holds them. -/
def cached : List TcEnt := (List.range 64).map fun i => ⟨0, 0, i, hbmEntry 0 i⟩

theorem cached_find : ∀ t, t < 64 → cached.find? (fun e => e.ctx == wideCrew.ctx && e.tensor == BitVec.ofNat 12 0 && e.tile == t) = some ⟨0, 0, t, hbmEntry 0 t⟩ := by
  decide +kernel

theorem cached_entry : ∀ t, t < 64 → (hbmEntry 0 t).getLsbD 3 = false ∧ (hbmEntry 0 t).getLsbD 1 = true ∧ (hbmEntry 0 t).getLsbD 2 = false ∧
    fld (hbmEntry 0 t) 6 10 = 0 ∧ fld (hbmEntry 0 t) 25 7 = 0 ∧ fld (hbmEntry 0 t) 4 2 = 0 ∧ fld (hbmEntry 0 t) 57 7 = 0 ∧ fld (hbmEntry 0 t) 32 25 = t ∧
    fld (hbmEntry 0 t) 16 9 = 0 := by
  decide +kernel

/-- A machine whose core 0 acts, with every tile of that tensor in its translation caches and nothing held back, over given bytes. -/
structure Wide (m : SMap Byte) (s : State) : Prop where
  cur : s.cur = 0
  crew : (s.core 0).crew = some wideCrew
  sent : ∀ k, ((s.core 0).heldOf k).sent = 0
  tcs : (s.core 0).tcs = Vector.replicate 5 cached
  wcb : (s.core 0).wcb = []
  slog : (s.core 0).slog = []
  frames : s.frames = []
  poison : s.poison = []
  flaws : s.flaws = []
  fabric : s.fabric = {}
  mem : s.mem = m

theorem Wide.count {m : SMap Byte} {s : State} (h : Wide m s) (src n : Nat) : Wide m (s.modCore 0 fun c => c.count src n) := by
  refine ⟨h.cur, ?_, ?_, ?_, ?_, ?_, h.frames, h.poison, h.flaws, h.fabric, h.mem⟩ <;> rw [State.core_modCore]
  · exact h.crew
  · exact h.sent
  · exact h.tcs
  · exact h.wcb
  · exact h.slog

theorem wide_translate {m : SMap Byte} {s : State} (h : Wide m s) (k : Strand) (slot : Nat) (d : Desc) (t off ak : Nat) (ht : t < 64) :
    (Sys2Proof.Machine.translate k ⟨slot, 0, d, t, off⟩ ak).run s = (.ok (some (hbmEntry 0 t)), s) := by
  refine translate_hit (e := ⟨0, 0, t, hbmEntry 0 t⟩) (w := wideCrew) (by rw [h.cur]; exact h.crew) ?_
  have e : (s.core s.cur).tcs[(strandFin k).castSucc] = cached := by
    rw [h.cur, h.tcs]
    simp
  rw [e]
  exact cached_find t ht

theorem wide_located {m : SMap Byte} {s : State} (h : Wide m s) (d : Desc) (t off : Nat) (ht : t < 64) (hd : d.tileBytes = 16384) :
    s.locate wideCrew.part wideCrew.ctx (hbmEntry 0 t) (d.tileBytes == 65536) off = .here (t * 16384 + off) := by
  obtain ⟨-, -, -, h1, h2, h3, h4, h5, h6⟩ := cached_entry t ht
  have hi : s.fabric.index = 0 := by rw [h.fabric]; decide +kernel
  unfold State.locate
  simp [h1, h2, h3, h4, h5, h6, hd, hi]

theorem wide_locate {m : SMap Byte} {s : State} (h : Wide m s) (d : Desc) (t off : Nat) (rights : BitVec 16) (ht : t < 64) (hd : d.tileBytes = 16384) :
    (s.locate wideCrew.part wideCrew.ctx (hbmEntry 0 t) (d.tileBytes == 65536) off).under rights = .here (t * 16384 + off) := by
  rw [wide_located h d t off ht hd]
  rfl

theorem wide_frame {m : SMap Byte} {s : State} (h : Wide m s) (pa : Nat) : s.frameState pa = (0, []) := by
  unfold State.frameState
  rw [h.frames]
  rfl

theorem wide_bankRead {m : SMap Byte} {s : State} (h : Wide m s) (pa n : Nat) (hp : pa < 64 * 16384) : s.bankRead pa n = (s, .data (SMap.read 0 m pa n)) := by
  have g : isGain pa = false := by
    unfold isGain
    simp only [decide_eq_false_iff_not, Nat.not_le]
    exact Nat.lt_of_lt_of_le hp (by decide +kernel)
  have e : s.expired pa = false := by simp [State.expired, g]
  have p : s.anyPoison pa n = false := by
    unfold State.anyPoison
    rw [h.poison]
    simp [SMap.get]
  simp [State.bankRead, e, p, State.peek, h.mem, State.meet_none (s := s) (pa := pa) (n := n) (by simp [State.flawsIn, h.flaws])]

/-- One piece is read, and only counters change. -/
theorem wide_read {m : SMap Byte} {s : State} (h : Wide m s) (k : Strand) (slot : Nat) (d : Desc) (t off n : Nat) (ht : t < 64) (ho : off < 16384)
    (hd : d.tileBytes = 16384) : ∃ u, (opRead k ⟨slot, 0, d, t, off⟩ n).run s = (.ok (SMap.read 0 m (t * 16384 + off) n), u) ∧ Wide m u := by
  have hl := wide_locate h d t off (s.memNow k) ht hd
  have hp : t * 16384 + off < 64 * 16384 := by omega
  have e0 := (cached_entry t ht).1
  have tr := wide_translate h k slot d t off 0 ht
  generalize t * 16384 + off = pa at *
  generalize hbmEntry 0 t = e at *
  have hg : pa < shmBase := Nat.lt_of_lt_of_le hp (by decide +kernel)
  have hx : s.expired pa = false := by
    have : isGain pa = false := by
      unfold isGain
      rw [decide_eq_false_iff_not, Nat.not_le]
      exact hg
    rw [State.expired, this, Bool.false_and]
  have q : s.unsettled wideCrew ⟨slot, 0, d, t, off⟩ (none, pa) n = false := by
    unfold State.unsettled
    rw [h.cur, h.slog]
    rfl
  have f : s.forward wideCrew ⟨slot, 0, d, t, off⟩ (none, pa) (SMap.read 0 m pa n) = SMap.read 0 m pa n := by
    unfold State.forward
    rw [h.cur, h.wcb, h.slog]
    rfl
  have r := opRead_present (a := ⟨slot, 0, d, t, off⟩) (by rw [h.cur]; exact h.crew) tr e0 hl q (by rw [wide_frame h]) (wide_bankRead h pa n hp)
  rw [h.cur, f] at r
  exact ⟨_, r, h.count _ 1⟩

/-- The pieces of a range: each lies in it. -/
theorem pieces_in (c n : Nat) : ∀ fuel a k, (∀ p ∈ pieces64 fuel a k, c ≤ a → a + k ≤ c + n → c ≤ p.1 ∧ p.1 < c + n) := by
  intro fuel
  induction fuel with
  | zero => intro a k p hp; cases hp
  | succ fuel ih =>
    intro a k p hp h1 h2
    unfold pieces64 at hp
    split at hp
    · cases hp
    · next hk =>
      have hpos : 0 < min k (64 - a % 64) := by
        have := Nat.mod_lt a (by decide : 64 > 0)
        omega
      rcases List.mem_cons.1 hp with rfl | hp
      · exact ⟨h1, by show a < c + n; omega⟩
      · exact ih _ _ p hp (by omega) (by omega)

/-- Operations that answer one after the other. -/
theorem mapM_wide {m : SMap Byte} {α β : Type} (f : α → Op β) (g : α → β) (l : List α)
    (h : ∀ a ∈ l, ∀ s, Wide m s → ∃ u, (f a).run s = (.ok (g a), u) ∧ Wide m u) :
    ∀ s, Wide m s → ∃ u, (l.mapM f).run s = (.ok (l.map g), u) ∧ Wide m u := by
  induction l with
  | nil => exact fun s wide => ⟨s, rfl, wide⟩
  | cons first rest later =>
    intro s wide
    have ⟨between, ran, still⟩ := h first (by simp) s wide
    have ⟨final, ended, last⟩ := later (fun b inRest => h b (by simp [inRest])) between still
    exact ⟨final, by rw [List.mapM_cons, Op.run_bind_ok ran, Op.run_bind_ok ended]; rfl, last⟩

/-- A range of the tensor is read. -/
theorem wide_range {m : SMap Byte} {s : State} (h : Wide m s) (k : Strand) (slot : Nat) (d : Desc) (n : Nat) (hd : d.tileBytes = 16384) (hn : n ≤ 64 * 16384) :
    ∃ u, Gives (readRange k ⟨slot, 0, d, 0, 0⟩ n) s (((pieces64 (n / 64 + 2) 0 n).map fun p => SMap.read 0 m (p.1 / 16384 * 16384 + p.1 % 16384) p.2).flatten) u ∧ Wide m u := by
  unfold Gives readRange
  simp only [hd, Nat.zero_mul, Nat.add_zero]
  obtain ⟨u, hu, wu⟩ := mapM_wide (fun p : Nat × Nat => opRead k ⟨slot, 0, d, p.1 / 16384, p.1 % 16384⟩ p.2) (fun p => SMap.read 0 m (p.1 / 16384 * 16384 + p.1 % 16384) p.2)
    (pieces64 (n / 64 + 2) 0 n) (fun p hp s hs => by
      have b := pieces_in 0 n _ _ _ p hp (Nat.le_refl 0) (Nat.le_refl _)
      exact wide_read hs k slot d _ _ _ (by omega) (Nat.mod_lt _ (by decide)) hd) s h
  exact ⟨u, by rw [Op.run_bind_ok hu]; rfl, wu⟩

/-- Operations of which none stops, tried one after the other. -/
theorem tryAll_wide {m : SMap Byte} {α β : Type} (f : α → Op β) (g : α → β) (l : List α)
    (h : ∀ a ∈ l, ∀ s, Wide m s → ∃ u, (f a).run s = (.ok (g a), u) ∧ Wide m u) :
    ∀ s, Wide m s → ∃ u, (tryAll (l.map f)).run s = (.ok (l.map g), u) ∧ Wide m u := by
  intro s hs
  obtain ⟨u, hu, wu⟩ := mapM_wide (fun a => tryOp (f a)) (fun a => (.ok (g a) : Except Stop β)) l (fun a ha s hs => by
    obtain ⟨u, hu, wu⟩ := h a ha s hs
    refine ⟨u, ?_, wu⟩
    show tryOp (f a) s = _
    unfold tryOp
    rw [hu]) s hs
  refine ⟨u, ?_, wu⟩
  unfold tryAll
  rw [List.mapM_map]
  rw [Op.run_bind_ok (show ((l.mapM (tryOp ∘ f)).run s = _) from hu)]
  have none_bad : (l.map fun a => (.ok (g a) : Except Stop β)).find? isFault = none := by
    rw [List.find?_eq_none]
    intro x hx
    obtain ⟨a, -, rfl⟩ := List.mem_map.1 hx
    simp [isFault]
  rw [none_bad]
  have pure_all : ∀ l : List α, ((l.map fun a => (Except.ok (g a) : Except Stop β)).mapM fun r : Except Stop β => match r with
      | Except.ok a => (pure a : Op β)
      | Except.error e => throw e).run u = (Except.ok (l.map g), u) := by
    intro l
    induction l with
    | nil => rfl
    | cons a l ih =>
      rw [List.map_cons, List.mapM_cons]
      show ((pure (g a) : Op β) >>= _).run u = _
      rw [Op.run_bind_ok (Op.run_pure (g a) u), Op.run_bind_ok ih]
      rfl
  exact pure_all l

/-- The same where every piece is checked before any is taken. -/
theorem wide_checked {m : SMap Byte} {s : State} (h : Wide m s) (k : Strand) (slot : Nat) (d : Desc) (n : Nat) (hd : d.tileBytes = 16384) (hn : n ≤ 64 * 16384) :
    ∃ bs u, Gives (readChecked k ⟨slot, 0, d, 0, 0⟩ n) s bs u := by
  unfold Gives readChecked
  simp only [hd, Nat.zero_mul, Nat.add_zero]
  obtain ⟨u, hu, -⟩ := tryAll_wide (fun p : Nat × Nat => opRead k ⟨slot, 0, d, p.1 / 16384, p.1 % 16384⟩ p.2) (fun p => SMap.read 0 m (p.1 / 16384 * 16384 + p.1 % 16384) p.2)
    (pieces64 (n / 64 + 2) 0 n) (fun p hp s hs => by
      have b := pieces_in 0 n _ _ _ p hp (Nat.le_refl 0) (Nat.le_refl _)
      exact wide_read hs k slot d _ _ _ (by omega) (Nat.mod_lt _ (by decide)) hd) s h
  exact ⟨_, u, by rw [Op.run_bind_ok hu]; rfl⟩

/-- One piece may be written, and nothing changes yet. -/
theorem wide_place {m : SMap Byte} {s : State} (h : Wide m s) (k : Strand) (slot : Nat) (d : Desc) (t off : Nat) (log : Bool) (ht : t < 64) (hd : d.tileBytes = 16384) :
    (placePiece k ⟨slot, 0, d, t, off⟩ log).run s = (.ok (some (.inl (t * 16384 + off)), false), s) := by
  obtain ⟨h1, h2, h3, -⟩ := cached_entry t ht
  have hw : (s.core s.cur).crew = some wideCrew := by rw [h.cur]; exact h.crew
  exact placePiece_some (storePlace_present hw (by rw [h.cur, h.slog]; rfl) (wide_translate h k slot d t off 1 ht) h1 h2 h3 (wide_locate h d t off _ ht hd) (wide_frame h _))

/-- A machine whose core 0 acts with a crew. -/
structure Acting (s : State) : Prop where
  cur : s.cur = 0
  crew : (s.core 0).crew = some wideCrew

/-- A write at a bank changes no core. -/
theorem bankWrite_kept (s : State) (pa : Nat) (bs : List Byte) : (s.bankWrite pa bs).cur = s.cur ∧ (s.bankWrite pa bs).cores = s.cores := by
  have p : ∀ (u : State) (a : Nat) (b : List Byte), (u.poke a b).cur = u.cur ∧ (u.poke a b).cores = u.cores := fun _ _ _ => ⟨rfl, rfl⟩
  have q : ∀ (u : State) (a n : Nat), (u.unpoison a n).cur = u.cur ∧ (u.unpoison a n).cores = u.cores := by
    intro u a n
    unfold State.unpoison
    split <;> exact ⟨rfl, rfl⟩
  unfold State.bankWrite
  simp only [p, q]
  have f : ∀ u : State, ∀ r, (u.freshen r).cur = u.cur ∧ (u.freshen r).cores = u.cores := fun _ _ => ⟨rfl, rfl⟩
  split <;> split <;> simp only [p, q, f, and_self]

/-- A piece that is present is performed. -/
theorem acting_perform {s : State} (h : Acting s) (k : Strand) (a : Acc) (bs : List Byte) (pa : Nat) :
    ∃ u, (performPiece k a bs false (some (.inl pa), false)).run s = (.ok (), u) ∧ Acting u := by
  refine ⟨s.bankWrite pa bs, ?_, ?_, ?_⟩
  · exact performPiece_here (by rw [h.cur]; exact h.crew) k a bs pa false
  · exact (bankWrite_kept s pa bs).1.trans h.cur
  · have e := (bankWrite_kept s pa bs).2
    unfold State.core
    rw [e]
    exact h.crew

/-- A list of operations that are each performed. -/
theorem acting_all {α : Type} (f : α → Op Unit) (l : List α) (h : ∀ a ∈ l, ∀ s, Acting s → ∃ u, (f a).run s = (.ok (), u) ∧ Acting u) :
    ∀ s, Acting s → ∃ u, (l.forM f).run s = (.ok (), u) := by
  induction l with
  | nil => exact fun s _ => ⟨s, rfl⟩
  | cons first rest later =>
    intro s acting
    have ⟨between, ran, still⟩ := h first (by simp) s acting
    have ⟨final, ended⟩ := later (fun b inRest => h b (by simp [inRest])) between still
    exact ⟨final, (show ((f first >>= fun _ => rest.forM f) : Op Unit).run s = _ by rw [Op.run_bind_ok ran]; exact ended)⟩

/-- The place of a piece of a linear tensor. -/
def pieceAt (slot : Nat) (d : Desc) (p : Nat × Nat) : Acc := ⟨slot, 0, d, p.1 / 16384, p.1 % 16384⟩

theorem linPieces_zero (slot : Nat) (d : Desc) (bs : List Byte) (hd : d.tileBytes = 16384) :
    linPieces ⟨slot, 0, d, 0, 0⟩ bs = (pieces64 (bs.length / 64 + 2) 0 bs.length).map fun p => (pieceAt slot d p, (bs.drop p.1).take p.2) := by
  unfold linPieces pieceAt
  simp only [hd, Nat.zero_mul, Nat.add_zero, Nat.sub_zero]

/-- A piece of the tensor may be written. -/
theorem wide_pieceAt {m : SMap Byte} {s : State} (h : Wide m s) (k : Strand) (slot : Nat) (d : Desc) (log : Bool) (p : Nat × Nat) (hp : p.1 < 64 * 16384)
    (hd : d.tileBytes = 16384) :
    (placePiece k (pieceAt slot d p) log).run s = (.ok (some (.inl (p.1 / 16384 * 16384 + p.1 % 16384)), false), s) :=
  wide_place h k slot d _ _ log (by omega) hd

/-- Where a piece of the tensor lands. -/
def landAt (p : Nat × Nat) : Option (Nat ⊕ (Nat × Nat)) × Bool := (some (.inl (p.1 / 16384 * 16384 + p.1 % 16384)), false)

/-- Bytes are written to the tensor for S. -/
theorem wide_writeAll {m : SMap Byte} {s : State} (h : Wide m s) (k : Strand) (slot : Nat) (d : Desc) (log : Bool) (bs : List Byte) (hd : d.tileBytes = 16384)
    (hn : bs.length ≤ 64 * 16384) : ∃ t, Gives (writeAll k false log (linPieces ⟨slot, 0, d, 0, 0⟩ bs)) s () t := by
  unfold Gives writeAll
  rw [Op.run_bind_ok (unsent_all _ (by rw [h.cur]; exact h.sent k)), linPieces_zero slot d bs hd, List.map_map]
  obtain ⟨u, hu, wu⟩ := tryAll_wide (m := m)
    ((fun p : Acc × List Byte => do return (p, ← placePiece k p.1 log)) ∘ fun p : Nat × Nat => (pieceAt slot d p, (bs.drop p.1).take p.2))
    (fun p => ((pieceAt slot d p, (bs.drop p.1).take p.2), landAt p))
    (pieces64 (bs.length / 64 + 2) 0 bs.length) (fun p hp s hs => by
      have b := pieces_in 0 bs.length _ _ _ p hp (Nat.le_refl 0) (Nat.le_refl _)
      refine ⟨s, ?_, hs⟩
      show ((placePiece k (pieceAt slot d p) log >>= fun x => pure ((pieceAt slot d p, (bs.drop p.1).take p.2), x)) : Op _).run s = _
      rw [Op.run_bind_ok (wide_pieceAt hs k slot d log p (by omega) hd)]
      rfl) s h
  have z : (((pieces64 (bs.length / 64 + 2) 0 bs.length).map fun p => ((pieceAt slot d p, (bs.drop p.1).take p.2), landAt p)).filter fun p => p.2.1.isNone).length = 0 := by
    rw [List.length_eq_zero_iff, List.filter_eq_nil_iff]
    intro x hx
    obtain ⟨p, -, rfl⟩ := List.mem_map.1 hx
    simp [landAt]
  have y : (((pieces64 (bs.length / 64 + 2) 0 bs.length).map fun p => ((pieceAt slot d p, (bs.drop p.1).take p.2), landAt p)).filter fun p => isFar p.2).length = 0 := by
    rw [List.length_eq_zero_iff, List.filter_eq_nil_iff]
    intro x hx
    obtain ⟨p, -, rfl⟩ := List.mem_map.1 hx
    simp [landAt, isFar]
  have e : (u.core u.cur).slog = [] := by rw [wu.cur]; exact wu.slog
  obtain ⟨t, ht⟩ := acting_all (fun p : (Acc × List Byte) × (Option (Nat ⊕ (Nat × Nat)) × Bool) => performPiece k p.1.1 p.1.2 false p.2)
    ((pieces64 (bs.length / 64 + 2) 0 bs.length).map fun p => ((pieceAt slot d p, (bs.drop p.1).take p.2), landAt p)) (fun x hx s hs => by
      obtain ⟨p, -, rfl⟩ := List.mem_map.1 hx
      exact acting_perform hs k _ _ _) u ⟨wu.cur, wu.crew⟩
  refine ⟨t, ?_⟩
  rw [Op.run_bind_ok hu]
  generalize ((pieces64 (bs.length / 64 + 2) 0 bs.length).map fun p => ((pieceAt slot d p, (bs.drop p.1).take p.2), landAt p)) = placed at z y ht
  show ((curCore >>= fun c => holdUnless (decide (c.slog.length + (placed.filter fun p => p.2.1.isNone).length ≤ 128)) >>= fun _ =>
    performAll k (fun p => isFar p.2) (fun p => performPiece k p.1.1 p.1.2 false p.2) placed) : Op Unit).run u = _
  rw [z, Op.run_bind_ok (Op.run_curCore u), e]
  show ((performAll k _ _ placed : Op Unit)).run u = _
  rw [performAll_near k y]
  exact ht

/-- Bytes are written to the tensor for M. -/
theorem wide_writePieces {m : SMap Byte} {s : State} (h : Wide m s) (k : Strand) (slot : Nat) (d : Desc) (bs : List Byte) (hd : d.tileBytes = 16384) (hnt : d.nt = false)
    (hn : bs.length ≤ 64 * 16384) : ∃ t, Gives (writePieces k (linWPieces ⟨slot, 0, d, 0, 0⟩ bs)) s () t := by
  unfold Gives writePieces linWPieces
  rw [Op.run_bind_ok (unsent_all _ (by rw [h.cur]; exact h.sent k)), linPieces_zero slot d bs hd, List.map_map, List.map_map]
  obtain ⟨u, hu, wu⟩ := tryAll_wide (m := m)
    (((fun p : WPiece => do
      need p.ok kTensor 3 p.acc.det
      let bs ← p.bytes
      let pl ← placePiece k p.acc true
      return (p, bs, pl)) ∘ fun p : Acc × List Byte => (⟨p.1, true, d.nt, pure p.2⟩ : WPiece)) ∘ fun p : Nat × Nat => (pieceAt slot d p, (bs.drop p.1).take p.2))
    (fun p => ((⟨pieceAt slot d p, true, d.nt, pure ((bs.drop p.1).take p.2)⟩ : WPiece), (bs.drop p.1).take p.2, landAt p))
    (pieces64 (bs.length / 64 + 2) 0 bs.length) (fun p hp s hs => by
      have b := pieces_in 0 bs.length _ _ _ p hp (Nat.le_refl 0) (Nat.le_refl _)
      refine ⟨s, ?_, hs⟩
      show ((placePiece k (pieceAt slot d p) true >>= fun x => pure ((⟨pieceAt slot d p, true, d.nt, pure ((bs.drop p.1).take p.2)⟩ : WPiece), (bs.drop p.1).take p.2, x)) : Op _).run s = _
      rw [Op.run_bind_ok (wide_pieceAt hs k slot d true p (by omega) hd)]
      rfl) s h
  have z : (((pieces64 (bs.length / 64 + 2) 0 bs.length).map fun p => ((⟨pieceAt slot d p, true, d.nt, pure ((bs.drop p.1).take p.2)⟩ : WPiece), (bs.drop p.1).take p.2, landAt p)).filter
      fun x => !x.1.nt && x.2.2.1.isNone).length = 0 := by
    rw [List.length_eq_zero_iff, List.filter_eq_nil_iff]
    intro x hx
    obtain ⟨p, -, rfl⟩ := List.mem_map.1 hx
    simp [landAt]
  have y : (((pieces64 (bs.length / 64 + 2) 0 bs.length).map fun p => ((⟨pieceAt slot d p, true, d.nt, pure ((bs.drop p.1).take p.2)⟩ : WPiece), (bs.drop p.1).take p.2, landAt p)).filter
      fun x => !x.1.nt && isFar x.2.2).length = 0 := by
    rw [List.length_eq_zero_iff, List.filter_eq_nil_iff]
    intro x hx
    obtain ⟨p, -, rfl⟩ := List.mem_map.1 hx
    simp [landAt, isFar]
  have e : (u.core u.cur).slog = [] := by rw [wu.cur]; exact wu.slog
  obtain ⟨t, ht⟩ := acting_all (fun x : WPiece × List Byte × (Option (Nat ⊕ (Nat × Nat)) × Bool) => performPiece k x.1.acc x.2.1 x.1.nt x.2.2)
    ((pieces64 (bs.length / 64 + 2) 0 bs.length).map fun p => ((⟨pieceAt slot d p, true, d.nt, pure ((bs.drop p.1).take p.2)⟩ : WPiece), (bs.drop p.1).take p.2, landAt p)) (fun x hx s hs => by
      obtain ⟨p, -, rfl⟩ := List.mem_map.1 hx
      show ∃ u, (performPiece k _ _ d.nt _).run s = _ ∧ _
      rw [hnt]
      exact acting_perform hs k _ _ _) u ⟨wu.cur, wu.crew⟩
  refine ⟨t, ?_⟩
  rw [Op.run_bind_ok hu]
  generalize ((pieces64 (bs.length / 64 + 2) 0 bs.length).map fun p => ((⟨pieceAt slot d p, true, d.nt, pure ((bs.drop p.1).take p.2)⟩ : WPiece), (bs.drop p.1).take p.2, landAt p)) = placed at z y ht
  show ((curCore >>= fun c => holdUnless (decide (c.slog.length + (placed.filter fun x => !x.1.nt && x.2.2.1.isNone).length ≤ 128)) >>= fun _ =>
    performAll k (fun x => !x.1.nt && isFar x.2.2) (fun x => performPiece k x.1.acc x.2.1 x.1.nt x.2.2) placed) : Op Unit).run u = _
  rw [z, Op.run_bind_ok (Op.run_curCore u), e]
  show ((performAll k _ _ placed : Op Unit)).run u = _
  rw [performAll_near k y]
  exact ht

/-- Unwritten bytes change one counter only. -/
theorem Wide.freeBytes {m : SMap Byte} {s : State} (h : Wide m s) (n : Nat) : Wide m (s.freeBytes n).2 :=
  ⟨h.cur, h.crew, h.sent, h.tcs, h.wcb, h.slog, h.frames, h.poison, h.flaws, h.fabric, h.mem⟩

theorem Wide.image {m : SMap Byte} {s : State} (h : Wide m s) (c : BitVec 7) : Wide m (s.image c true).2 :=
  ((h.freeBytes 16384).freeBytes 1024).freeBytes 4096

/-! ### The machine -/

/-- A machine whose tensor 0 is linear and of 1 MiB, in the first 64 frames of HBM; its tables lie above. Entry 2 of context 0 names partition 1,
which is halted for a stop with a crew on core 4. Byte 0x310 of the tensor holds a SHAPE: FP32, 16 elements. -/
def wideBench : State :=
  let s := State.reset.setCore 0 { crew := some wideCrew, tcs := Vector.replicate 5 cached, strands := Vector.replicate 4 { live := true, headOk := true } }
  let s := s.setCore 4 { crew := some { crew0 with part := 1 }, strands := Vector.replicate 4 { live := true, headOk := true } }
  let s := s.setPart 0 (part0.modCtx 0 fun x => { x with ttable := 0x1000000 })
  let s := s.setPart 1 { part0 with pquads := 2, halted := true, halt := some { cause := 3, time := 0, done := true } }
  let s := s.setCap 0 0 2 (Cap.bits ⟨true, 0, 1, 0x1F, 0⟩)
  let s := s.poke 0x310 (bvBytes 8 (State.reset.core 0).shape)
  let s := s.poke 0x1000000 (bvBytes 64 wideDesc)
  (s.poke 0x1000400 ((List.range 64).flatMap fun i => bvBytes 8 (hbmEntry 0 i))).modCore 0 fun c => c.setX 1 0x402

/-- Its linear tensor as M and as S find it. -/
def imgAcc : Acc := val noAcc ((linAcc 0 0 135168 64).run (mNumbered noTok wideBench)).1
def imgU : State := ((linAcc 0 0 135168 64).run (mNumbered noTok wideBench)).2
def savAcc : Acc := val noAcc ((sysAcc ((cur wideBench).xr 2).toNat 0x100000 64).run (sIssued wideBench)).1
def savU : State := ((sysAcc ((cur wideBench).xr 2).toNat 0x100000 64).run (sIssued wideBench)).2

theorem img_ok : good ((linAcc 0 0 135168 64).run (mNumbered noTok wideBench)).1 = true ∧ imgAcc = ⟨0, 0, imgAcc.d, 0, 0⟩ ∧ imgAcc.d.tileBytes = 16384 ∧ imgAcc.d.nt = false := by
  decide +kernel

theorem sav_ok : good ((sysAcc ((cur wideBench).xr 2).toNat 0x100000 64).run (sIssued wideBench)).1 = true ∧ savAcc = ⟨0, 0, savAcc.d, 0, 0⟩ ∧ savAcc.d.tileBytes = 16384 ∧
    savAcc.d.nt = false := by
  decide +kernel

theorem img_wide : Wide imgU.mem imgU := by
  refine ⟨?_, ?_, fun k => ?_, ?_, ?_, ?_, ?_, ?_, ?_, ?_, rfl⟩ <;> (try cases k) <;> decide +kernel

theorem sav_wide : Wide savU.mem savU := by
  refine ⟨?_, ?_, fun k => ?_, ?_, ?_, ?_, ?_, ?_, ?_, ?_, rfl⟩ <;> (try cases k) <;> decide +kernel

/-- `mst` and `mld` of tile 0 with the linear tensor: every hypothesis of their statement holds. -/
theorem witness_mst_mld : Ready .m noTok wideBench ∧ Passes (trefCheck ⟨0, 0⟩) wideBench ∧
    Gives (linAcc 0 (pOf (cur wideBench) 0).toNat 135168 64) (mNumbered noTok wideBench) imgAcc imgU ∧
    Passes (do trefCheck ⟨0, 0⟩; writable 0) wideBench ∧
    (∃ t, Gives (writePieces .m (linWPieces imgAcc (tileNow false wideBench).image)) imgU () t) ∧
    ∃ bs t, Gives (readChecked .m imgAcc 135168) imgU bs t := by
  obtain ⟨h1, h2, h3, h4⟩ := img_ok
  refine ⟨⟨by decide +kernel, Or.inl rfl, by decide +kernel⟩, passes_of (by decide +kernel), good_val noAcc h1, passes_of (by decide +kernel), ?_, ?_⟩
  · rw [h2]
    exact wide_writePieces img_wide .m 0 imgAcc.d _ h3 h4 (by rw [tile_image_length]; decide)
  · rw [h2]
    exact wide_checked img_wide .m 0 imgAcc.d 135168 h3 (by decide)

/-- `ctx.save` and `ctx.load` for the crew on core 4, to and from the linear tensor: every hypothesis of their statement holds. -/
theorem witness_ctx_save_load : NoAcquire wideBench ∧ Has wideCrew wideBench ∧ SReady [1, 2] wideBench ∧ TargetOk wideBench wideCrew ((cur wideBench).xr 1) 1 1 0 ∧
    ((cur wideBench).xr 1).getLsbD 7 = false ∧ fld ((cur wideBench).xr 1) 15 49 = 0 ∧ fld ((cur wideBench).xr 1) 4 3 = 0 ∧
    (wideBench.part 1).runctx = 0 ∧ (wideBench.part 1).halted = true ∧ (((wideBench.part 1).halt.map (·.cause)).getD 0 ≠ 2) ∧
    wideBench.holds (tgtCore ((cur wideBench).xr 1)) 1 0 = true ∧ Gives (sysAcc ((cur wideBench).xr 2).toNat 0x100000 64) (sIssued wideBench) savAcc savU ∧
    (∃ bs v t, savU.image (tgtCore ((cur wideBench).xr 1)) true = (bs, v) ∧ Gives (writeAll .s savAcc.d.nt false (linPieces savAcc bs)) v () t) ∧
    (wideBench.part 1).fatal = false ∧
    ∃ bs t, Gives (readRange .s savAcc 0x100000) savU bs t ∧ shapeOk (leBV 64 ((bs.drop 0x310).take 8)) = true := by
  obtain ⟨h1, h2, h3, h4⟩ := sav_ok
  refine ⟨by unfold NoAcquire; decide +kernel, by unfold Has; decide +kernel, ⟨⟨by decide +kernel, Or.inl rfl, by decide +kernel⟩, by decide +kernel⟩, Or.inr (by decide +kernel), ?_, ?_, ?_, ?_, ?_, ?_, ?_,
    good_val noAcc h1, ?_, by decide +kernel, ?_⟩
  iterate 7 decide +kernel
  · have e : tgtCore ((cur wideBench).xr 1) = 4 := by decide +kernel
    have l : (savU.image 4 true).1.length = 0x100000 :=
      image_length savU 4 { crew0 with part := 1 } (by decide +kernel) (by decide +kernel) (by decide +kernel) (by decide +kernel) (by decide +kernel) (by decide +kernel)
    obtain ⟨t, ht⟩ := wide_writeAll (sav_wide.image 4) .s 0 savAcc.d false (savU.image 4 true).1 h3 (by omega)
    refine ⟨_, _, t, by rw [e], ?_⟩
    rw [h4, h2]
    exact ht
  · obtain ⟨u, hu, -⟩ := wide_range sav_wide .s 0 savAcc.d 0x100000 h3 (by decide)
    exact ⟨_, u, by rw [h2]; exact hu, by decide +kernel⟩

end Sys2Proof.Tests
end

