-- ==== Sys2Proof/Tests/WitnessPackage.lean ====
section
/-! SUPPORT. Witnesses for the statements about the package: power, heat, resets, boot, rings, torus ports, fabric time and packets. -/

namespace Sys2Proof.Tests

set_option Elab.async false

open Sys2Proof.Machine Sys2Proof.Stmt

/-- The machine after reset at some time, with its power state changed. -/
def powered (t : Nat) (f : Power → Power) : State := { State.reset with time := t, power := f State.reset.power }

theorem witness_power_states : (powered 0 id).power.ps = 0 ∧ (∀ c : BitVec 7, ((powered 0 id).core c).crew = none) ∧
    (∀ p : BitVec 5, ((powered 0 id).part p).launches = [] ∧ ((powered 0 id).part p).jobs = [] ∧ ((powered 0 id).part p).migrs = []) ∧
    (powered 0 fun p => { p with ps := 2 }).power.ps = 2 := by decide +kernel

/-- The samples that a state holds after one more (R15). -/
def withSample (s : State) (watts : Nat) : List Nat := (watts :: s.power.samples).take 10

/-- Level 1, low for 10 ms; level 0 with die 2 one step down, low for 10 ms. -/
def lowLevel : State := powered 10000005 fun p => { p with lowSince := some 5, level := 1 }
def lowDie : State := powered 10000005 fun p => { p with lowSince := some 5, therm := [0, 0, 1, 0] }

/-- A first sample of 2,401 W; another within the millisecond; ten milliseconds below 90 % at level 1 and at level 0; a mean between. -/
theorem witness_power_samples :
    (powered 0 id).power.limit * (withSample (powered 0 id) 2401).length < sumL (withSample (powered 0 id) 2401) ∧
    (powered 0 id).power.level < 3 ∧ (powered 0 id).power.stepped = none ∧
    (powered 1000004 fun p => { p with stepped := some 5 }).power.stepped = some 5 ∧ (powered 1000004 fun p => { p with stepped := some 5 }).time < 5 + 1000000 ∧
    lowLevel.power.lowSince = some 5 ∧ 5 + 10000000 ≤ lowLevel.time ∧
    sumL (withSample lowLevel 2159) * 10 < lowLevel.power.limit * 9 * (withSample lowLevel 2159).length ∧
    ¬ lowLevel.power.limit * (withSample lowLevel 2159).length < sumL (withSample lowLevel 2159) ∧ 0 < lowLevel.power.level ∧
    lowDie.power.lowSince = some 5 ∧ 5 + 10000000 ≤ lowDie.time ∧ lowDie.power.level = 0 ∧ lowDie.power.therm[2]? = some 1 ∧
    sumL (withSample lowDie 2159) * 10 < lowDie.power.limit * 9 * (withSample lowDie 2159).length ∧
    ¬ sumL (withSample lowDie 2160) * 10 < lowDie.power.limit * 9 * (withSample lowDie 2160).length ∧
    ¬ lowDie.power.limit * (withSample lowDie 2160).length < sumL (withSample lowDie 2160) := by decide +kernel

theorem witness_thermal : (109 : Nat) < 110 ∧ 110 ≤ (110 : Nat) ∧ (powered 0 id).power.ps ≠ 3 ∧ (powered 0 id).power.sensors.length = 48 ∧ (powered 0 id).power.hot.length = 4 ∧
    (powered 1000007 fun p => { p with coolSince := [none, none, none, some 7] }).power.coolSince.getD (3 : BitVec 2).toNat none = some 7 ∧
    (powered 0 fun p => { p with sensors := p.sensors.set 47 100 }).throttleDue (3 : BitVec 2).toNat = true := by decide +kernel

theorem witness_resets : (({ powered 100000003 (fun p => { p with below90 := some 3, tripped := true }) with boot := { State.reset.boot with hold := true } } : State)).boot.hold = true ∧
    (powered 100000003 fun p => { p with below90 := some 3 }).power.below90 = some 3 ∧ 3 + 100000000 ≤ (powered 100000003 fun p => { p with below90 := some 3 }).time := by
  decide +kernel

/-- An image is awaited, and its length is out of range. Whether an image passes is a free value (log 8). -/
theorem witness_boot : ({ State.reset.boot with state := 1 } : Boot).state = 1 ∧ State.reset.boot.memFail = false ∧ State.reset.power.ps ≠ 3 ∧
    ({ State.reset.boot with len := 0xFFFFFFFF } : Boot).check (0xFFFFFFFF : BitVec 32).toNat ≠ 0 := by decide +kernel

/-- An empty packet to this package, one to the package beside it, one with a reserved bit set. -/
def packet0 : Packet := ⟨0, .empty⟩
def packetOn : Packet := ⟨1#128 <<< 32, .empty⟩
def packetBad : Packet := ⟨1#128 <<< 9, .empty⟩

/-- A die switch with one packet for output 12. -/
def switching : State := { State.reset with switches := State.reset.switches.set (3 : BitVec 2).toFin ⟨[(15, 12, packet0)], []⟩ }

theorem witness_switch : (∀ o, o < 13 → o ≠ 12 → switching.switches[(3 : BitVec 2).toFin].pick o = none) ∧
    switching.switches[(3 : BitVec 2).toFin].pick 12 = some (15, packet0) ∧ (1 : BitVec 6) ≠ 0 := by decide +kernel

/-- The torus port +x: up; with 600 flits sent; training. -/
def ported (t : TorusPort) : State := State.reset.modPort 0 fun _ => t

theorem witness_torus : (ported { up := true }).ports.toList[(0 : BitVec 3).toNat]? = some { up := true } ∧
    (ported { up := true, sent := 600 }).ports.toList[(0 : BitVec 3).toNat]? = some { up := true, sent := 600 } ∧
    (ported { training := true }).ports.toList[(0 : BitVec 3).toNat]? = some { training := true } ∧
    (ported {}).ports.toList[(0 : BitVec 3).toNat]? = some {} ∧ ({} : TorusPort).up = false ∧ ({ up := true } : TorusPort).training = false ∧
    ({ up := true } : TorusPort).down = false ∧ 1 ≤ 512 ∧ 512 ≤ 600 := by decide +kernel

/-- Bring-up at one end of a ring of two packages. -/
def pair : BringUp := ⟨1, 0, 0, 2, 1, 1, 0, 0, 0, 2, 1, 1, 3, false, none⟩
def slaved (t : Nat) : State := { State.reset with time := t, fabric := { State.reset.fabric with master := false } }

theorem witness_fabric_time : State.reset.fabric.master = true ∧ State.reset.fabric.others = [] ∧ (slaved 0).fabric.master = false ∧ (slaved 10000000).holdoverDue = true ∧
    pair.ports ≠ 0 ∧ bringUpOk pair = true ∧
    transitBound (pair.dx, pair.dy, pair.dz) (pair.nx, pair.ny, pair.nz) ≤ 250 * 2 ^ (State.reset.fabric.at_ State.reset.time).wexp.toNat ∧
    (State.reset.fabric.at_ State.reset.time).pending = none ∧
    (5 : BitVec 3).toNat < 6 ∧ (∀ q, State.reset.ports.toList[(5 : BitVec 3).toNat]? = some q → ∀ e ∈ q.adverts, e.dom ≠ 9) := by
  refine ⟨?_, ?_, ?_, ?_, ?_, ?_, ?_, ?_, ?_, ?_⟩
  iterate 9 decide +kernel
  intro q h
  have e : State.reset.ports.toList[(5 : BitVec 3).toNat]? = some {} := by decide +kernel
  rw [e] at h
  cases h
  intro e he
  cases he

/-- A package of a torus of two, where a packet to the other goes on at port 0. -/
def paired : State := { State.reset with fabric := { State.reset.fabric with size := (2, 1, 1), domSize := (2, 1, 1) } }

/-- The same with the input port of that packet full: 192 flits in its slots, and one in the escape channel. -/
def crowded : State :=
  let a := paired.fabric.arrival (paired.fabric.srcPos packetOn) (pktPos packetOn)
  paired.modPort a.1 fun t => { t with slots := List.replicate 192 (packetOn, a.2, false) ++ [(packetOn, a.2, true)] }

theorem witness_packets : pktBad packetBad = true ∧ pktBad packetOn = false ∧ paired.fabric.egress (pktPos packetOn) = some 0 ∧ pktField packetOn 6 2 ≠ 3 ∧
    (let a := paired.fabric.arrival (paired.fabric.srcPos packetOn) (pktPos packetOn); paired.admitIn a.1 packetOn a.2 = some false) ∧
    crowded.fabric.egress (pktPos packetOn) = some 0 ∧
    (let a := crowded.fabric.arrival (crowded.fabric.srcPos packetOn) (pktPos packetOn); crowded.admitIn a.1 packetOn a.2 = none) ∧
    pktBad packet0 = false ∧ paired.fabric.egress (pktPos packet0) = none ∧ ∀ x y z c, packet0.body ≠ .outside x y z c := by
  refine ⟨?_, ?_, ?_, ?_, ?_, ?_, ?_, ?_, ?_, fun _ _ _ _ h => nomatch h⟩ <;> decide +kernel

end Sys2Proof.Tests
end

