-- ==== Sys2Proof/Tests/WitnessPartition.lean ====
section
/-! SUPPORT. Witnesses for the statements about placement, pre-emption, stage pipelines, contexts, halts and the registers of firmware. -/

namespace Sys2Proof.Tests

set_option Elab.async false

open Sys2Proof.Machine Sys2Proof.Stmt

/-! ### Placement -/

/-- The small machine with no crew and these launches. -/
def launching (ls : List Launch) : State := (hosted.setCore 0 {}).modPart 0 fun p => { p with launches := ls, bound := 3 }

/-- A launch of two crews, whose parameters are read; a pipeline of one stage with two crews; one that was saved. -/
def gang2 : Launch := { acc := 1, queue := 7, index := 0, ctx := 0, life := .placewait, gang := 2, loaded := true, entries := [0, 0xFFFF, 0xFFFF, 0xFFFF] }
def stage0 : Stage := { code := 0, entries := [0, 0xFFFF, 0xFFFF, 0xFFFF], param := 0, params := List.replicate 32 0, inring := 3, outring := 0, min := 1, max := 2, inorder := false, noout := true, cursor := 0 }
def pipe1 : Pipeline := { stages := [stage0], pool := 2, counts := [0] }
def piped : Launch := { gang2 with pipe := some pipe1 }

theorem witness_placement : ((launching [gang2]).part 0).launch 1 = some gang2 ∧ (launching [gang2]).position 0 gang2 = some [0, 1] ∧
    (launching [gang2]).placeable 0 gang2 = true ∧ gang2.pipe = none ∧ gang2.life ≠ .saved ∧ gang2.loaded = true ∧
    ((launching [piped]).part 0).launch 1 = some piped ∧ (launching [piped]).position 0 piped = some [0, 1] ∧ (launching [piped]).placeable 0 piped = true ∧
    piped.pipe = some pipe1 := by decide +kernel

/-- The same before its parameters are read, from byte 0 of linear space and with none. -/
def unread (param : Nat) : Launch := { gang2 with loaded := false, param := param }

theorem witness_parameters : (unread 0).life ≠ .saved ∧ (unread 0).loaded = false ∧ (unread 0).pipe = none ∧ (unread 64).param ≠ 0 ∧
    Answered (launching [gang2]) 0 0 gang2.blocks ∧ Answered (launching [piped]) 0 0 piped.blocks ∧ Answered (launching [unread 64]) 0 0 (unread 64).blocks ∧
    (match ((launching [unread 64]).linRead 0 0 64 224).2 with | .ok _ => true | .error _ => false) = true :=
  ⟨by decide, rfl, rfl, by decide, answered_nearby (by decide +kernel), answered_nearby (by decide +kernel), answered_nearby (by decide +kernel),
    by decide +kernel⟩

/-- 100 µs later; with a reservation made. -/
def later (s : State) (t : Nat) : State := { s with time := t }

theorem witness_reservation : ((later (launching [gang2]) 100000).part 0).reserve = none ∧
    ((later (launching [gang2]) 100000).part 0).overdue (later (launching [gang2]) 100000).time = some gang2 ∧
    (((launching [gang2]).modPart 0 fun p => { p with reserve := some 1 }).part 0).reserve ≠ none := by decide +kernel

theorem witness_context_select : (launching [{ gang2 with ctx := 1 }]).chooseCtx 0 = some 1 ∧ (launching [gang2]).chooseCtx 0 = none := by decide +kernel

theorem witness_crew_start : ∃ j, j < 4 ∧ ([0, 0xFFFF, 0xFFFF, 0xFFFF] : List (BitVec 16)).getD j 0xFFFF ≠ 0xFFFF := ⟨0, by decide⟩

/-- A launch of context 1 at priority 1 beside the resident gang of context 0, which may be killed. -/
def urgent : Launch := { gang2 with acc := 2, ctx := 1, prio := 1 }
def contested : State := hosted.modPart 0 fun p =>
  { p with launches := [{ gang2 with life := .resident, cores := [0] }, urgent], bound := 3, ptcost := 0, ppolicy := 0x0001006400640000 }

theorem witness_preemption : contested.preemptor 0 = some urgent ∧ hosted.preemptor 0 = none ∧
    (∀ l ∈ (contested.part 0).launches, l.life = .resident → (contested.part 0).policyFor l contested.time ≠ .drain) := by decide +kernel

def yieldingAt (t : Nat) : State := later (contested.modPart 0 fun p => { p with preempt := some ⟨1, 2, 100000⟩, launches := [{ gang2 with life := .resident, cores := [0], policy := some .drain }] }) t

theorem witness_yield_deadline : (yieldingAt 100000).yieldDue 0 = true ∧ (yieldingAt 99999).yieldDue 0 = false := by decide +kernel

/-! ### Stage pipelines -/

/-- A set of two stages whose input is the ring of tensor 3, with one record written and not yet admitted; stage 0 runs on core 0. -/
def pipe2 (recs : List SetRec) (move : Option (BitVec 7 × Nat)) : Pipeline :=
  { stages := [stage0, stage0], clen := 2, dweight := 1, pool := 2, counts := [2, 1], recs := recs, queues := [[], []], windows := [firstWindow, firstWindow], move := move }
def resident (recs : List SetRec) (move : Option (BitVec 7 × Nat)) : Launch := { gang2 with life := .resident, cores := [0], pipe := some (pipe2 recs move) }
def stream (put : Nat) (recs : List SetRec) (move : Option (BitVec 7 × Nat)) : State :=
  let s := (staging.poke (32 * 16384) (leBytes 8 put)).modPart 0 fun p => { p with launches := [resident recs move] }
  let m : XCmd := { seq := 1, pc := 0, word := 0, kind := .ringTake 0 3 ⟨0, 0⟩ ⟨0, 0⟩, order := none, ps := [], det := false, post := none }
  s.setCore 0 { (s.core 0) with crew := some { crew0 with stage := some 0 }, xs := { (s.core 0).xs with queue := [m] } }

/-- Bytes of linear space or of a ring, as they are read. -/
def bytesOf (r : Except LinErr (List Byte)) : List Byte :=
  match r with
  | .ok b => b
  | .error _ => []

theorem witness_router : (stream 1 [] none).routing 0 1 = some (resident [] none, pipe2 [] none, stage0) ∧ ((pipe2 [] none).recs.filter fun r => !r.gone).length < 256 ∧
    (pipe2 [] none).recs = [] ∧
    (let r := (stream 1 [] none).ringRead (opRing 0 1 0) 0 0 3 0 8
     let q := r.1.ringRead (opRing 0 1 0) 0 0 3 16 8
     bytesOf r.2 = leBytes 8 1 ∧ bytesOf q.2 = leBytes 8 0 ∧ wrote (q.1.ringWrite 0 0 3 (q.1.ringSlot 0 0 3 0 + 4) [0]) = true) ∧
    (let r := (stream 0 [] none).ringRead (opRing 0 1 0) 0 0 3 0 8
     bytesOf r.2 = leBytes 8 0 ∧ bytesOf (r.1.ringRead (opRing 0 1 0) 0 0 3 16 8).2 = leBytes 8 0) := by decide +kernel

theorem witness_router_decision : (stream 1 [{ seq := 0 }] none).routing 0 1 = some (resident [{ seq := 0 }] none, pipe2 [{ seq := 0 }] none, stage0) ∧
    (pipe2 [{ seq := 0 }] none).nextExit = none ∧ (pipe2 [{ seq := 0 }] none).recs.takeWhile (·.gone) = [] ∧
    ((pipe2 [{ seq := 0 }] none).decide { seq := 0 }).isSome = true ∧ (pipe2 [{ seq := 0 }] none).toClose = [] ∧
    (resident [{ seq := 0 }] none).exited.length < (resident [{ seq := 0 }] none).cores.length := by decide +kernel

/-- A donor at its record boundary: its take leaves the ring, or X stands at its exit with nothing in its queue. -/
def donorTake : State := (stream 0 [] (some (0, 1))).modCore 0 fun c => { c with xs := { c.xs with queue := c.xs.queue.map fun m => { m with started := true, inner := 2 } } }
def donorExit : State := (stream 0 [] (some (0, 1))).modCore 0 fun c =>
  { (c.setStr .x { (c.str .x) with held := some { point := 1 } }) with xs := { c.xs with queue := [] } }

theorem witness_derailleur : (donorTake.part 0).launch 1 = some (resident [] (some (0, 1))) ∧ (donorExit.part 0).launch 1 = some (resident [] (some (0, 1))) ∧
    (pipe2 [] (some (0, 1))).move = some (0, 1) ∧ (donorTake.core 0).crew = some { crew0 with stage := some 0 } ∧
    (pipe2 [] (some (0, 1))).stages[0]? = some stage0 ∧ (pipe2 [] (some (0, 1))).stages[1]? = some stage0 ∧ stage0.min < (pipe2 [] (some (0, 1))).counts.getD 0 0 ∧
    (donorTake.core 0).atBoundary = true ∧ donorTake.coreRuns 0 = true ∧ (donorExit.core 0).atBoundary = true ∧ donorExit.coreRuns 0 = true := by decide +kernel

/-- A pipeline without a set; then with its ring's tile on the other package of a domain of two. -/
def lined : Pipeline := { pipe2 [] none with clen := 0, queues := [] }
def linedStream : State := (stream 3 [] none).modPart 0 fun p => { p with launches := [{ resident [] none with pipe := some lined }] }
def farStream : State :=
  let s := linedStream.poke 1048 (bvBytes 8 (hbmEntry 1 32))
  { s with fabric := { s.fabric with size := (2, 1, 1), domSize := (2, 1, 1) } }

theorem witness_measures : (linedStream.part 0).launch 1 = some { resident [] none with pipe := some lined } ∧
    (farStream.part 0).launch 1 = some { resident [] none with pipe := some lined } ∧ lined.fixed = false ∧ lined.nextEval ≤ linedStream.time ∧
    lined.nextEval ≤ farStream.time ∧ (linedStream.part 0).halt = none ∧ (farStream.part 0).halt = none ∧
    (measured linedStream 0 1 0 lined).2 = [some 3, some 3] ∧ none ∈ (measured farStream 0 1 0 lined).2 := by decide +kernel

/-! ### Contexts -/

/-- Context 2's entry is one that can be bound; nothing uses context 1. -/
def bindable : State := (launching []).modPart 0 fun p => (p.modCtx 2 fun _ => { key := 1 })

theorem witness_bind : (bindable.part 0).bound.getLsbD (2 : BitVec 3).toNat = false ∧ ((bindable.part 0).ctx 2).bindable = true ∧
    ((bindable.part 0).ctx 3).bindable = false ∧ (bindable.part 0).bound.getLsbD (1 : BitVec 3).toNat = true ∧ bindable.inUse 0 1 = false ∧
    (bindable.part 0).fatal = false ∧ hosted.inUse 0 0 = true ∧ (hosted.part 0).bound.getLsbD (0 : BitVec 3).toNat = true ∧ (hosted.part 0).fatal = false := by
  decide +kernel

/-- A pre-emption whose halt is complete; a swap at a step, quiet or with a store that is under way. -/
def preempted : State := (launching []).modPart 0 fun p => { p with preempt := some ⟨1, 2, 0⟩, halt := some ⟨2, 0, [], true⟩, halted := true }
def swapping (step : Nat) : State := (launching []).modPart 0 fun p => { p with swap := some ⟨0, 1, step⟩ }
def busySwap : State := (swapping 2).modPart 0 fun p => { p with migrs := [⟨0, 1, 0, 0, 0, 0, 0, none, 0, [], 0, []⟩] }

theorem witness_swap : (preempted.part 0).fatal = false ∧ (preempted.part 0).swap = none ∧ (preempted.part 0).preempt = some ⟨1, 2, 0⟩ ∧
    (preempted.part 0).halt = some ⟨2, 0, [], true⟩ ∧ ((swapping 3).part 0).swap = some ⟨0, 1, 3⟩ ∧ (swapping 2).swapQuiet 0 = true ∧ busySwap.swapQuiet 0 = false ∧
    ((swapping 3).part 0).bound.getLsbD (0 : BitVec 3).toNat = true ∧
    (((swapping 3).modPart 0 fun p => { p with bound := 2 }).part 0).bound.getLsbD (0 : BitVec 3).toNat = false ∧ ((swapping 3).part 0).fatal = false := by decide +kernel

/-! ### Halts -/

/-- The line is on its way to core 3 of partition 0, and to none; then with a posted write of core 0 that is not yet visible. -/
def lineAt (left : List (BitVec 7)) : State := hosted.modPart 0 fun p => { p with halt := some ⟨1, 0, left, false⟩ }
def linePosted : State := { lineAt [] with posts := [{ tag := 9, core := 0, strand := .s, body := ⟨0, .posted 9 (.write [(0, [1])] 9)⟩, admitted := false }] }

theorem witness_halt : (lineAt [3]).ownerOf 3 = some 0 ∧ ((lineAt [3]).part 0).halt = some ⟨1, 0, [3], false⟩ ∧ ([3] : List (BitVec 7)).contains 3 = true ∧
    ((lineAt []).part 0).halt = some ⟨1, 0, [], false⟩ ∧ (∀ c ∈ ((lineAt []).part 0).cores, (lineAt []).ntGoes c = false ∧ (lineAt []).posting c = false) ∧
    (linePosted.part 0).halt = some ⟨1, 0, [], false⟩ ∧ (∀ c ∈ (linePosted.part 0).cores, linePosted.ntGoes c = false) ∧ linePosted.posting 0 = true ∧
    (0 : BitVec 7) ∈ (linePosted.part 0).cores ∧ ((hosted.modCore 3 fun c => { c with clearing := true }).core 3).clearing = true := by decide +kernel

theorem witness_stop_area : Answered (lineAt []) 0 0 [(((lineAt []).part 0).pstop.toNat, 8)] := answered_nearby (by decide +kernel)

/-! ### Registers -/

/-- What the other partitions have of a register. -/
def othersOf (s : State) (p : BitVec 5) (reg : Part → Nat) : Nat := sumL (((List.range 32).filter fun q => q != p.toNat).map fun q => reg (s.part (BitVec.ofNat 5 q)))

theorem witness_pquads : bindable.running 0 = false ∧ hosted.running 0 = true ∧ (hosted.part 0).fatal = false ∧
    ((hosted.modPart 0 fun t => { t with fatal := true }).part 0).fatal = true ∧ (∀ q, q ≠ 0 → (bindable.part q).pquads &&& (0x3 : BitVec 32) = 0) ∧
    (0x3 : BitVec 32) &&& bindable.cfgrec.quadsOff = 0 ∧
    (∀ d, d < 4 → (0x3 : BitVec 32).toNat / 2 ^ (8 * d) % 2 ^ 8 ≠ 0 →
      (bindable.part 0).pwalks.toNat / 2 ^ (16 * d) % 2 ^ 16 ≠ 0 ∧ (bindable.part 0).pxwalks.toNat / 2 ^ (16 * d) % 2 ^ 16 ≠ 0) := by decide +kernel

theorem witness_quotas : (∀ d, d < 4 → (0x1800180018001800 : BitVec 64).toNat / 2 ^ (16 * d) % 2 ^ 16 +
      othersOf bindable 0 (fun q => q.pshm.toNat / 2 ^ (16 * d) % 2 ^ 16) ≤ 6144) ∧
    (0x800000 : BitVec 64).toNat % 2 ^ 24 + othersOf bindable 0 (·.pframes.toNat) ≤ 2 ^ 23 ∧
    ¬ (0x800001 : BitVec 64).toNat % 2 ^ 24 + othersOf bindable 0 (·.pframes.toNat) ≤ 2 ^ 23 ∧
    (0x400 : BitVec 64).toNat % 2 ^ 11 + othersOf bindable 0 (·.pqueues.toNat) ≤ 1024 ∧
    (∀ d, d < 4 → (0x0100010001000100 : BitVec 64).toNat / 2 ^ (16 * d) % 2 ^ 16 + othersOf bindable 0 (fun q => q.pwalks.toNat / 2 ^ (16 * d) % 2 ^ 16) ≤ 256 ∧
      (0x0100010001000100 : BitVec 64).toNat / 2 ^ (16 * d) % 2 ^ 16 + othersOf bindable 0 (fun q => q.pxwalks.toNat / 2 ^ (16 * d) % 2 ^ 16) ≤ 256) ∧
    (∀ d, d < 4 → (bindable.part 0).pquads.toNat / 2 ^ (8 * d) % 2 ^ 8 ≠ 0 → (0x0100010001000100 : BitVec 64).toNat / 2 ^ (16 * d) % 2 ^ 16 ≠ 0) := by decide +kernel

/-- A quota of one stripe's worth of shared memory on die 3, and the stripe there taken. -/
def striped : State := bindable.modPart 0 fun p => { p with pshm := 0x0020000000000000 }
def taken (s : State) : Part := { s.part 0 with pstripe := SMap.put 0 (s.part 0).pstripe (stripeIdx 3 191) ((1 : BitVec 1) ++ (7 : BitVec 3)) }

theorem witness_pstripe : (191 : BitVec 8).toNat < 192 ∧ 192 ≤ (192 : BitVec 8).toNat ∧ striped.running 0 = false ∧
    (SMap.get 0 (striped.part 0).pstripe (stripeIdx 3 191)).getLsbD 3 = false ∧
    (∀ q, q ≠ 0 → (SMap.get 0 (striped.part q).pstripe (stripeIdx 3 191)).getLsbD 3 = false) ∧
    (taken striped).stripes 3 ≤ ((striped.part 0).pshm.toNat / 2 ^ 48 % 2 ^ 16 + 31) / 32 ∧
    ¬ (taken bindable).stripes 3 ≤ ((bindable.part 0).pshm.toNat / 2 ^ 48 % 2 ^ 16 + 31) / 32 ∧
    (SMap.get 0 ((striped.setPart 0 (taken striped)).part 0).pstripe (stripeIdx 3 191)).getLsbD 3 = true := by decide +kernel

/-- Registers without an event of their own: a context that is bound and one that is not, the bounds of a BAR and of the boot window, a mailbox that is busy and one that is not. -/
theorem witness_registers : (hosted.part 0).bound.getLsbD (0 : BitVec 3).toNat = true ∧ (hosted.part 0).bound.getLsbD (1 : BitVec 3).toNat = false ∧
    (1 : BitVec 6).toNat ≤ hosted.cfgrec.nvf ∧ hosted.boot.hold = false ∧ ({ hosted with boot := { hosted.boot with hold := true } } : State).boot.hold = true ∧
    (30 ≤ 38 ∧ 38 ≤ (if (1 : BitVec 6) = 0 then 40 else 38)) ∧ (if (1 : BitVec 6) = 0 then 40 else 38) < 39 ∧ hosted.cfgrec.nvf < (2 : BitVec 6).toNat ∧
    (0xFFFFF8 : BitVec 24).toNat + 8 ≤ 2 ^ 24 ∧ 2 ^ 24 < (0xFFFFF9 : BitVec 24).toNat + 8 ∧ (0xFF8 : BitVec 12).toNat + 8 ≤ 0x1000 ∧ 0x100 ≤ (0x100 : BitVec 12).toNat ∧
    (hosted.func 0).mbox.stat.getLsbD 0 = false ∧
    ((hosted.modFunc 0 fun f => { f with mbox := { f.mbox with stat := 1 } }).func 0).mbox.stat.getLsbD 0 = true := by decide +kernel

end Sys2Proof.Tests
end

