-- ==== Sys2Proof/Tests/WitnessStep.lean ====
section
/-! SUPPORT. Witnesses for the statements about memory units, migration, phases and the monitor, and about steps, words and frames. -/

namespace Sys2Proof.Tests

set_option Elab.async false

open Sys2Proof.Machine Sys2Proof.Stmt

theorem tablesWf_lanes : TablesWf (lanes shapeF32) := by
  unfold TablesWf
  decide +kernel

/-! ### Banks -/

/-- Reads of a clean word and after a single error; writes up to the end of a row; an atomic and an update of two lanes in shared memory. -/
theorem witness_bank_access : (0 < 64 ∧ 64 ≤ 64 ∧ (16384 + 1984) % 2048 + 64 ≤ 2048) ∧ ((lanes shapeF32).bankRead (16384 + 1984) 64).2 = .data (List.replicate 64 0) ∧
    (List.replicate 64 (5 : Byte)).length ≤ 64 ∧ isGain (scrPa 0 0) = true ∧ 8 ∈ atomWidths .add ∧ shmPa 0 0 % 8 = 0 ∧
    ((lanes shapeF32).atomAt ⟨.add, shmPa 0 0, 8, 0, 1⟩).2.bytes = List.replicate 8 9 ∧ shmBase ≤ shmPa 0 0 ∧ shmPa 0 0 + 64 ≤ scrBase ∧ shmPa 0 0 % 64 = 0 ∧
    (∀ l ∈ [(shmPa 0 0, (1 : BitVec 32)), (shmPa 0 0 + 60, 2)], shmPa 0 0 ≤ l.1 ∧ l.1 < shmPa 0 0 + 64 ∧ l.1 % updBytes .fp32 = 0) := by decide +kernel

/-- A row of the scratchpad of core 0 that was written long ago, in a unit that is renewed. -/
def aged (t : Nat) : State := { (lanes shapeF32).modCore 0 fun c => { c with units := c.units.set 0 3 } with time := t * 1000, tickSeen := t - 1 }

theorem witness_retention : (aged 300).coreDue 0 ≠ [] ∧ (aged 32000).rowLive ≠ [] ∧ 32000 ≤ (aged 32000).rowAge (rowOf (scrPa 0 0)) ∧ dieOf (scrPa 0 0) = (0 : BitVec 2).toNat ∧
    (aged 300).tickSeen < 300 := by decide +kernel

/-- A row of owned shared memory that was written long ago. -/
def agedShm : State :=
  let s := ((lanes shapeF32).modPart 0 fun p => { p with pshm := 0x20, pstripe := SMap.put 0 p.pstripe (stripeIdx 0 0) 8 }).bankWrite (shmPa 0 0) [1]
  { s with time := 300000, tickSeen := 299 }

/-- An error that stands in a word of a row of core 0 that is due, and of a shadow row of core 0; no partition owns the core. -/
def flawed (e : Ecc) : State := { (aged 300).modPart 0 fun p => { p with pquads := 0 } with flaws := [(scrPa 0 8 / 8, e)] }

/-- The first number of the shadow stripe of core 0. -/
def shadowPa : Nat := shmPa 0 (192 * 2 ^ 19)

def flawedShm (e : Ecc) : State :=
  let s := ((lanes shapeF32).modPart 0 fun p => { p with pquads := 0 }).bankWrite shadowPa [1]
  { s with time := 300000, tickSeen := 299, flaws := [(shadowPa / 8, e)] }

theorem witness_flaws : rowOf (8 * (scrPa 0 8 / 8)) ∈ ((flawed .single).coreDue (0 : BitVec 7).toNat).take 32 ∧
    rowOf (8 * (scrPa 0 8 / 8)) ∈ ((flawed .uncorrectable).coreDue (0 : BitVec 7).toNat).take 32 ∧
    (flawed .uncorrectable).rowOwner (8 * (scrPa 0 8 / 8)) = none ∧
    rowOf (8 * (shadowPa / 8)) ∈ (flawedShm .uncorrectable).shmDue (0 : BitVec 2).toNat ∧
    (flawedShm .uncorrectable).rowOwner (8 * (shadowPa / 8)) = none := by
  decide +kernel

theorem witness_sound : Sound (aged 300) ∧ Sound agedShm ∧ (aged 300).coreDue 0 ≠ [] ∧ agedShm.shmDue 0 ≠ [] := by
  refine ⟨fun x h => ?_, fun x h => ?_, ?_, ?_⟩
  · exact absurd (show x ∈ ([] : List (Nat × Ecc)) from h) List.not_mem_nil
  · exact absurd (show x ∈ ([] : List (Nat × Ecc)) from h) List.not_mem_nil
  · decide +kernel
  · decide +kernel

/-- A read of the last word that a flaw meets. -/
theorem witness_read_flaw : ((lanes shapeF32).expired 16384 = false) ∧ 16384 + 56 < 8 * (16440 / 8) + 8 ∧ 8 * (16440 / 8) < 16384 + 56 + 1 ∧
    (lanes shapeF32).anyPoison (16384 + 56) 1 = false := by decide +kernel

/-! ### Memory units -/

/-- The descriptor of tensor 1. -/
def desc1 : Desc := Desc.ofBits (tensorDesc 1 1 1 5 12 64 1032)

theorem witness_tile_walk : Walks (lanes shapeF32) 0 1 0 0 1 0 desc1 ∧
    ((lanes shapeF32).tileEntry desc1 0).getLsbD 0 = true ∧ ((lanes shapeF32).part 0).misses = [] := by
  refine ⟨⟨by decide +kernel, ⟨tensorDesc 1 1 1 5 12 64 1032, by decide +kernel, rfl, by decide +kernel⟩, by decide +kernel⟩, by decide +kernel⟩

/-- Tensor 1 with its tile not present. -/
def absent1 : State := (lanes shapeF32).poke 1032 (bvBytes 8 (0 : BitVec 64))

theorem witness_tile_miss : Walks absent1 0 1 0 0 1 0 desc1 ∧
    (absent1.tileEntry desc1 0).getLsbD 0 = false ∧ (1 : Fin 5).val < 4 := by
  refine ⟨⟨by decide +kernel, ⟨tensorDesc 1 1 1 5 12 64 1032, by decide +kernel, rfl, by decide +kernel⟩, by decide +kernel⟩, by decide +kernel, by decide⟩

/-- A record that waits for a slot of the fault queue at byte 4,096, with so many records written to its 16 slots. -/
def recordWaits (written : Nat) (r : FaultRec) : State :=
  (bench.poke (16384 + 4096) (leBytes 8 written ++ List.replicate 8 0 ++ [4])).modPart 0 fun p => { p with pfaultq := 4096, missWait := [r] }

/-- Records of a TILE_MISS and of a device-wide fault. -/
def missRec : FaultRec := BitVec.ofNat 512 (2 + 16 * 2 ^ 16)
def fatalRec : FaultRec := BitVec.ofNat 512 (3 + 33 * 2 ^ 16)

theorem witness_record_write : isFatal missRec = false ∧ fld missRec 16 16 = kMiss ∧ isFatal fatalRec = true ∧ (recordWaits 15 missRec).recordRoom 0 = true ∧
    (recordWaits 16 missRec).recordRoom 0 = false ∧ ((recordWaits 16 fatalRec).part 0).missWait = [fatalRec] := by decide +kernel

theorem witness_record_near : Answered (recordWaits 16 missRec) 0 0 [(4096, 24)] ∧ Answered (recordWaits 16 fatalRec) 0 0 [(4096, 24), (4160, 1)] :=
  ⟨answered_nearby (by decide +kernel), answered_nearby (by decide +kernel)⟩

/-- A write that was refused and is due. -/
def refused : FarReq := { tag := 9, core := 0, strand := .x, body := ⟨0, .write [(0, [1])] 9⟩, answer := some (.refusal 9 0) }
def refusing : State := { bench with waits := [refused] }

theorem witness_resend : (refusing.waits ++ refusing.posts).find? (fun w => w.core == 0 && w.due refusing.time) = some refused ∧ refused.rewalks = false ∧
    pktField refused.body 8 1 ≠ 1 := by decide +kernel

/-- A load and a store of tensor 1 that met a retired frame at their home; an access of the I/O die that waits to be made. -/
def rewalking : FarReq := { tag := 9, core := 0, strand := .s, body := ⟨0, .read 0 8 9⟩, answer := some (.refusal 9 1) }
def rewriting : FarReq := { tag := 9, core := 0, strand := .s, body := ⟨0, .posted 9 (.write [(0, [1])] 9)⟩, answer := some (.refusal 9 1), key := some ⟨0, 1, 0, 0, 0, none, 0⟩ }
def devWaits : State := { bench with dev := [{ op := opHost, tag := 3, part := 0, ctx := 0, addr := 64, act := .read 8 }] }

theorem witness_rewalk : (({ bench with waits := [rewalking] } : State).waits ++ ({ bench with waits := [rewalking] } : State).posts).find?
      (fun w => w.core == 0 && w.due ({ bench with waits := [rewalking] } : State).time) = some rewalking ∧ rewalking.rewalks = true ∧
    (({ bench with posts := [rewriting] } : State).waits ++ ({ bench with posts := [rewriting] } : State).posts).find?
      (fun w => w.core == 0 && w.due ({ bench with posts := [rewriting] } : State).time) = some rewriting ∧ rewriting.rewalks = false ∧
    rewriting.answer = some (.refusal 9 1) ∧ rewriting.key = some ⟨0, 1, 0, 0, 0, none, 0⟩ ∧ ({ bench with posts := [rewriting] } : State).ownerOf 0 = some 0 ∧
    (devWaits.waits ++ devWaits.posts).find? (fun w => w.core == 0 && w.due devWaits.time) = none ∧ (devWaits.dev.find? devWaits.devReady).isSome = true := by
  decide +kernel

/-- A non-temporal store of eight bytes at byte 64 of the linear tensor. -/
def ntEnt : NtStore := ⟨0, 0, 0, 64, List.replicate 8 1, .s, 0, 0, 0, 0⟩
def buffered : State := bench.modCore 0 fun c => { c with wcb := [ntEnt] }

theorem witness_nt_store : (buffered.core 0).wcb = [ntEnt] ∧ (buffered.core 0).crew = some crew0 ∧
    val (none, false) ((replayPlace ⟨buffered.nextTag, 0, 0, 0, 64, .store (List.replicate 8 1), .s, 0, .core, .rlx, false, 0, 0, 0⟩).run (actAs 0 buffered)).1 =
      (some (.inl 16448), false) := by
  refine ⟨by decide +kernel, rfl, by decide +kernel⟩

/-- A halt that waits for it. -/
def haltBuffered : State := buffered.modPart 0 fun p => { p with halt := some ⟨1, 0, [], false⟩ }

theorem witness_halt_buffered : (haltBuffered.part 0).halt = some ⟨1, 0, [], false⟩ ∧
    (haltBuffered.part 0).cores.find? haltBuffered.ntGoes = some 0 := by decide +kernel

/-- The patrol at a frame that no tile uses. -/
def patrolling : State := { bench with power := { bench.power with scrubAt := 2 ^ 32 } }

theorem witness_patrol : patrolling.flawsIn patrolling.power.scrubAt 64 = [] ∧ patrolling.rowOwner patrolling.power.scrubAt = none ∧ bench.defined = [0] := by decide +kernel

/-! ### Migration -/

/-- Tensor 1's tile under a migration, a duplication (1) or a removal (2), at a step. -/
def mig (op step : Nat) (frame : BitVec 32) : Migr := ⟨0, 1, 0, op, 0, 0, frame, none, step, [], 0, []⟩
def migrating (op step : Nat) (frame : BitVec 32) : State := bench.modPart 0 fun p => { p with migrs := [mig op step frame] }

/-- The tile, where it lies now. -/
def tile1 : MigTile := ⟨desc1, hbmEntry 0 2, some 32768⟩

/-- It fits frame 40, and not the frame that it lies in. -/
theorem witness_migration : Moves (migrating 0 0 40) 0 (mig 0 0 40) desc1 (hbmEntry 0 2) 32768 ∧ (hbmEntry 0 2).getLsbD 3 = false ∧
    (migrating 0 0 40).migFits 0 (mig 0 0 40) tile1 = true ∧ newPlace (migrating 0 0 40) 0 (mig 0 0 40) desc1 ((mig 0 0 40).entry (hbmEntry 0 2) false) = .here 655360 ∧
    Moves (migrating 0 0 2) 0 (mig 0 0 2) desc1 (hbmEntry 0 2) 32768 ∧ (migrating 0 0 2).migFits 0 (mig 0 0 2) tile1 = false := by
  unfold Moves
  decide +kernel

theorem witness_migration_read : Moves (migrating 0 1 40) 0 (mig 0 1 40) desc1 (hbmEntry 0 2) 32768 ∧
    (match ((migrating 0 1 40).readTile 32768 16384).2 with | .ok _ => true | .error _ => false) = true ∧
    (match (((migrating 0 1 40).poisonBlock 32768).readTile 32768 16384).2 with | .ok _ => false | .error w => w == 1) = true := by
  unfold Moves
  decide +kernel

theorem witness_migration_end : Moves (migrating 0 2 40) 0 (mig 0 2 40) desc1 (hbmEntry 0 2) 32768 ∧ (migrating 0 2 40).posting (((mig 0 2 40).core).getD 0) = false := by
  unfold Moves
  decide +kernel

/-- A posted write of core 0 that is not yet visible. -/
def unseen : FarReq := { tag := 9, core := 0, strand := .s, body := ⟨0, .posted 9 (.write [(0, [1])] 9)⟩, admitted := false }

theorem witness_migration_waits : Moves { migrating 0 2 40 with posts := [unseen] } 0 (mig 0 2 40) desc1 (hbmEntry 0 2) 32768 ∧
    ({ migrating 0 2 40 with posts := [unseen] } : State).posting (((mig 0 2 40).core).getD 0) = true := by
  unfold Moves
  decide +kernel

/-- The tensor as one that allows duplicates, or not. -/
def dupBits : BitVec 512 := tensorDesc 1 1 1 5 12 64 1032 ||| (1#512 <<< 17)
def duplicating (step : Nat) : State := (migrating 1 step 40).poke 64 (bvBytes 64 dupBits)
def dupTile : MigTile := ⟨Desc.ofBits dupBits, hbmEntry 0 2, some 32768⟩

theorem witness_duplication : Moves (duplicating 0) 0 (mig 1 0 40) (Desc.ofBits dupBits) (hbmEntry 0 2) 32768 ∧ (duplicating 0).migFits 0 (mig 1 0 40) dupTile = true ∧
    newPlace (duplicating 0) 0 (mig 1 0 40) (Desc.ofBits dupBits) ((mig 1 0 40).entry (hbmEntry 0 2) false) = .here 655360 ∧ (Desc.ofBits dupBits).dupok = true ∧
    (mig 1 0 40).pkg.toNat < (duplicating 0).fabric.packages ∧ ((duplicating 0).frameState 32768).2.length < 3 ∧
    Moves (migrating 1 0 40) 0 (mig 1 0 40) desc1 (hbmEntry 0 2) 32768 ∧ desc1.dupok = false ∧
    Moves (duplicating 2) 0 (mig 1 2 40) (Desc.ofBits dupBits) (hbmEntry 0 2) 32768 ∧ Moves (duplicating 3) 0 (mig 1 3 40) (Desc.ofBits dupBits) (hbmEntry 0 2) 32768 ∧
    (duplicating 2).posting 0 = false := by
  unfold Moves
  decide +kernel

theorem witness_duplication_read : Moves (duplicating 1) 0 (mig 1 1 40) (Desc.ofBits dupBits) (hbmEntry 0 2) 32768 ∧
    (match ((duplicating 1).flushPieces.readTile 32768 16384).2 with | .ok _ => true | .error _ => false) = true ∧
    (match (((duplicating 1).poisonBlock 32768).flushPieces.readTile 32768 16384).2 with | .ok _ => false | .error w => w == 1) = true := by
  unfold Moves
  decide +kernel

/-- The tile with a copy at package 0, poisoned, or with its source on the other package of a domain of two. -/
def shared (step : Nat) : State := { migrating 2 step 40 with frames := [(2, 0, [0])] }
def poisonTile (op step : Nat) : State := (migrating op step 40).poke 1032 (bvBytes 8 (hbmEntry 0 2 ||| 8))
def farTile : State :=
  let s := (migrating 0 0 40).poke 1032 (bvBytes 8 (hbmEntry 1 2))
  { s with fabric := { s.fabric with size := (2, 1, 1), domSize := (2, 1, 1) } }

theorem witness_removal : Moves (shared 0) 0 (mig 2 0 40) desc1 (hbmEntry 0 2) 32768 ∧ ((shared 0).frameState 32768).2.contains (mig 2 0 40).pkg.toNat = true ∧
    Moves (shared 1) 0 (mig 2 1 40) desc1 (hbmEntry 0 2) 32768 ∧ ((shared 1).frameState 32768).2.contains (mig 2 1 40).pkg.toNat = true ∧
    Moves (migrating 2 1 40) 0 (mig 2 1 40) desc1 (hbmEntry 0 2) 32768 ∧ ((migrating 2 1 40).frameState 32768).2.contains (mig 2 1 40).pkg.toNat = false ∧
    (bench.part 0).migrs = [] := by
  unfold Moves
  decide +kernel

theorem witness_migration_stops : Moves (poisonTile 0 0) 0 (mig 0 0 40) desc1 (hbmEntry 0 2 ||| 8) 32768 ∧
    Moves (poisonTile 1 1) 0 (mig 1 1 40) desc1 (hbmEntry 0 2 ||| 8) 32768 ∧ (hbmEntry 0 2 ||| 8).getLsbD 3 = true ∧
    (farTile.part 0).migrs.head? = some (mig 0 0 40) ∧ farTile.migTile 0 (mig 0 0 40) = some ⟨desc1, hbmEntry 1 2, none⟩ ∧
    farTile.farSource 0 (mig 0 0 40) ⟨desc1, hbmEntry 1 2, none⟩ = some (1, 32768) := by
  unfold Moves
  decide +kernel

/-- A tile with a copy being made, and one without. -/
theorem witness_invalidate : bench.migTile 0 ⟨(bench.part 0).runctx, 1, 0, 2, 0, 0, 0, none, 0, [], 0, []⟩ = some tile1 ∧ bench.copying 32768 = false ∧
    (duplicating 1).migTile 0 ⟨((duplicating 1).part 0).runctx, 1, 0, 2, 0, 0, 0, none, 0, [], 0, []⟩ = some dupTile ∧ (duplicating 1).copying 32768 = true ∧
    (shared 0).tileFrames 2 = [2] := by decide +kernel

/-! ### Phases and the monitor -/

def phaseDue : State := (grouped.modPart 0 fun p => { p with due := [5], arrivals := [(1, 0, 5)] }).modCore 0 fun c =>
  { (c.setStr .s { (c.str .s) with held := some endedHeldS }) with monitor := some (0, 0) }
where
  /-- An S entry. -/
  endedHeldS : Held := { words := [0], ps := [] }

theorem witness_phase_monitor : (phaseDue.part 0).due.contains 5 = true ∧ (bench.part 0).due.contains 5 = false ∧ (phaseDue.core 0).monitor.isSome = true ∧
    ((phaseDue.core 0).str .s).held.isSome = true := by decide +kernel

/-! ### Steps -/

/-- S of core 0 about to fetch the word at pc 0: `add x3, x1, x2`; and a word that is no instruction. -/
def fetching (w : W32) : State := { (alone .s).poke (16384 + 128) (bvBytes 4 w) with agenda := [] }

theorem witness_step_fetch : (fetching 0x00430420).agenda = [] ∧ (fetching 0x00430420).nextWork = some (0, .strand 0 .s) ∧
    (((fetching 0x00430420).core 0).str .s).held = none ∧
    (let r : State := { ({ fetching 0x00430420 with turn := 1 } : State).elapse with cur := 0 }
     val ([], 0) ((fetchOp .s).run { r with ir := [] }).1 = ([0x00430420], defaultEntry .s 1)) ∧
    decodeWords .s (fun _ => defaultEntry .s 1) [0x00430420] = some (.add 3 1 2 false, 1) := by decide +kernel

theorem witness_step_illop : (fetching 0x00430422).nextWork = some (0, .strand 0 .s) ∧ decodeWords .s (fun _ => defaultEntry .s 1) [0x00430422] = none := by decide +kernel

/-- A strand that holds an instruction; a machine with nothing to do; one with an event. -/
def heldStep : State := (fetching 0x00430420).modCore 0 fun c => c.setStr .s { (c.str .s) with held := some { words := [0x00430420], entry := defaultEntry .s 1, ps := [] } }

theorem witness_step_held : heldStep.nextWork = some (0, .strand 0 .s) ∧ decodeWords .s (fun _ => defaultEntry .s 1) [0x00430420] = some (.add 3 1 2 false, 1) ∧
    heldStep.agenda = [] := by decide +kernel

/-- M with a command in progress, and the word of another behind it. -/
def heldM (w : W32) : State :=
  let s := (alone .m).poke (16384 + 132) (bvBytes 4 w)
  { s.modCore 0 fun c => c.setStr .m { (c.str .m) with held := some { words := [0x04000007], entry := defaultEntry .m 0x10, seq := some 0 } } with agenda := [] }

/-- `mcfg p7` behind `mcfg p7`; a word that M has not; a first command behind which nothing can go, since the second entry is taken. -/
theorem witness_step_second : (heldM 0x04000007).nextWork = some (2, .strand 0 .m) ∧
    (heldM 0x04000007).secondGoes 0 = true ∧ ((heldM 0x04000007).issueSecond 0 .m).isSome = true ∧
    (((heldM 0x04000007).issueSecond 0 .m).map fun t => ((t.core 0).ms.second.map fun h => (h.pc, h.seq), (t.core 0).ms.seq, ((t.core 0).str .m).pc)) =
      some (some (1, some 1), 1, 1) ∧
    (((heldM 0xFFC00000).issueSecond 0 .m).map fun t => ((t.core 0).ms.second, ((t.core 0).str .m).pc, ((t.core 0).str .m).fault.isSome)) = some (none, 0, true) ∧
    ((heldM 0x04000007).modCore 0 fun c => { c with ms := { c.ms with second := some {} } }).secondGoes 0 = false := by decide +kernel

/-- With no strand that runs, an update that waits at a generator home is what comes next. -/
theorem witness_step_event : ((genHome none).setCore 0 {}).agenda = [] ∧
    (match ((genHome none).setCore 0 {}).nextWork with | some (_, .event i) => decide (i = .genHomeUpdate 0) | _ => false) = true := by decide +kernel

theorem witness_step_idle : ({ State.reset with power := { State.reset.power with ps := 3 } } : State).nextWork = none ∧ State.reset.agenda = [] ∧ ({ State.reset with boot := { State.reset.boot with state := 5 }, fabric := { State.reset.fabric with master := true } } : State).agenda = [] := by
  decide +kernel

/-! ### Encoding and frames -/

theorem witness_encode : strandIs (.beq 1 2 0x3FF) = some .s ∧ (Instr.beq 1 2 0x3FF).wf = true ∧ strandIs (.copy noTok ⟨none, 0, false, ⟨7, 1, 11⟩, ⟨7, 1, 11⟩⟩) = some .x ∧
    (Instr.copy noTok ⟨none, 0, false, ⟨7, 1, 11⟩, ⟨7, 1, 11⟩⟩).wf = true ∧
    (decodeWords .s (defaultEntry .s) [0x0807_1FFF, 0]).isSome = true := by decide +kernel

theorem witness_invariant : TablesWf bench := by
  unfold TablesWf
  decide +kernel

/-- A form of each kind of the scalar frame, and of the V and M frames. -/
theorem witness_frames : (∃ d srcs v, arithValue (cur bench) (.add 3 1 2 false) = some (d, srcs, v) ∧ [3] = [d]) ∧
    (transfer (cur bench) (pcOf .s bench) (.call 5)).isSome = true ∧ ((cur bench).str .s).loops.length < 4 ∧
    (laneForm (cur (lanes shapeF32)) (.vadd noTok 3 1 2)).isSome = true ∧ (maskForm (cur (lanes shapeF32)) (.vcmp noTok .lt 3 1 2)).isSome = true ∧
    (reduceForm (.vrsum noTok 3 1)).isSome = true ∧ mcfgOk (pOf (cur (lanes shapeF32)) 1) = true := by
  refine ⟨⟨_, _, _, rfl, rfl⟩, ?_⟩
  decide +kernel

end Sys2Proof.Tests
end

