-- ==== Sys2Proof/Tests/WitnessSystem.lean ====
section
/-! SUPPORT. Witnesses for the statements about the system and privileged forms. -/

namespace Sys2Proof.Tests

set_option Elab.async false

open Sys2Proof.Machine Sys2Proof.Stmt

/-- A second partition, with quad 1, whose crew runs on core 4; entry 2 of context 0 of partition 0 names it with every right; x registers set. -/
def watching (l : List (BitVec 6 × Word)) : State :=
  let s := (benchX l).setCore 4 { crew := some { crew0 with part := 1 }, strands := Vector.replicate 4 { live := true, headOk := true } }
  let s := s.setPart 1 { part0 with pquads := 2 }
  s.setCap 0 0 2 (Cap.bits ⟨true, 0, 1, 0x1F, 0⟩)

/-- The same with the second partition halted for a cause. -/
def watchHalted (l : List (BitVec 6 × Word)) (cause : Nat) : State :=
  (watching l).modPart 1 fun p => { p with halted := true, halt := some { cause := cause, time := 0, done := true } }

theorem target_self (s : State) (w : Crew) (t : Word) (r : Nat) (h : t.getLsbD 7 = true) : TargetOk s w t r w.part w.ctx := Or.inl ⟨h, rfl, rfl⟩

theorem witness_trap_halt : Has crew0 bench ∧ (15 : Nat) ≤ 15 ∧ ((cur bench).str .s).fault = none := ⟨rfl, Nat.le_refl _, by decide +kernel⟩

theorem witness_wfi : SReady [] (benchX [(1, 0)]) ∧ (cur ((benchX []).modCore 0 fun c => { c with yld := { c.yld with wake := true } })).yld.wake = true ∧
    SReady [1] (benchX [(1, 0)]) ∧ fld ((cur (benchX [(1, 0)])).xr 1) 7 57 = 0 ∧
    (sIssued (benchX [(1, 0)])).holds 0 crew0.part ((benchX [(1, 0)]).part crew0.part).runctx = true ∧
    (sIssued (benchX [(1, 5)])).holds 5 crew0.part ((benchX [(1, 5)]).part crew0.part).runctx = false := by
  refine ⟨⟨⟨?_, Or.inl rfl, by decide +kernel⟩, ?_⟩, ?_, ⟨⟨?_, Or.inl rfl, by decide +kernel⟩, ?_⟩, ?_⟩ <;> decide +kernel

/-- A register that is read, one that is not listed, a trace target on itself with and without ENABLE, a trace buffer. -/
theorem witness_system_registers : bench.sysReg crew0 4 = some 0x101 ∧ bench.sysReg crew0 9 = none ∧ bench.sysReg crew0 13 = none ∧
    tgtOk (0x8000000000000080 &&& 0x7FFFFFFFFFFFFFFF) false false false true = true ∧ (0x8000000000000080 : Word).getLsbD 63 = true ∧
    TargetOk bench crew0 0x8000000000000080 2 0 0 ∧ tgtOk (0x80 &&& 0x7FFFFFFFFFFFFFFF) false false false true = true ∧
    (fld (20 * 2 ^ 48 : Word) 0 6 = 0 ∧ 6 ≤ fld (20 * 2 ^ 48 : Word) 48 5 ∧ fld (20 * 2 ^ 48 : Word) 48 5 ≤ 20 ∧ fld (20 * 2 ^ 48 : Word) 53 11 = 0) := by
  refine ⟨?_, ?_, ?_, ?_, ?_, Or.inl ⟨?_, rfl, rfl⟩, ?_⟩ <;> decide +kernel

/-- A stop of its own context, of another by its entry, of one that is halted, and a precise one of strand V of core 4. -/
theorem witness_stop : SReady [1, 2] (watching [(1, 0x80)]) ∧ TargetOk (watching [(1, 0x80)]) crew0 0x80 0 0 0 ∧
    SReady [1, 2] (watching [(1, 2)]) ∧ TargetOk (watching [(1, 2)]) crew0 2 0 1 0 ∧ ((watching [(1, 2)]).part 1).runctx = 0 ∧
    ((watching [(1, 2)]).part 1).halted = false ∧ (cur (watching [(1, 2)])).xr 2 = 0 ∧
    SReady [1, 2] (watchHalted [(1, 2)] 3) ∧ TargetOk (watchHalted [(1, 2)] 3) crew0 2 0 1 0 ∧ ((watchHalted [(1, 2)] 3).part 1).halted = true ∧
    SReady [1, 2] (watching [(1, 0x10402), (2, 1)]) ∧ TargetOk (watching [(1, 0x10402), (2, 1)]) crew0 0x10402 0 1 0 ∧
    (cur (watching [(1, 0x10402), (2, 1)])).xr 2 = 1 ∧ ((watching [(1, 0x10402), (2, 1)]).part 1).halt = none ∧
    (watching [(1, 0x10402), (2, 1)]).holds (tgtCore 0x10402) 1 0 = true ∧
    (((watching [(1, 0x10402), (2, 1)]).core (tgtCore 0x10402)).str (tgtStrand 0x10402)).live = true ∧
    fld (0x10402 : Word) 18 46 = 0 ∧ fld (0x10402 : Word) 4 3 = 0 ∧ (0x10402 : Word).getLsbD 15 = false := by
  have other : ∀ s : State, (((s.part 0).ctx 0).cap 2 = ⟨true, 0, 1, 0x1F, 0⟩ ∧ ((s.part 1).ctx 0).gen = 0) →
      ∀ t : Word, t.getLsbD 7 = false → t.toNat % 16 = 2 → TargetOk s crew0 t 0 1 0 := by
    intro s h t h7 ht
    refine Or.inr ⟨h7, ?_⟩
    dsimp only
    rw [ht]
    have h1 := h.1
    change ((s.part crew0.part).ctx crew0.ctx).cap 2 = _ at h1
    rw [h1, h.2]
    decide
  refine ⟨⟨⟨?_, Or.inl rfl, by decide +kernel⟩, ?_⟩, target_self _ crew0 _ 0 rfl, ⟨⟨?_, Or.inl rfl, by decide +kernel⟩, ?_⟩, other _ ?_ _ rfl rfl, ?_, ?_, ?_, ⟨⟨?_, Or.inl rfl, by decide +kernel⟩, ?_⟩,
    other _ ?_ _ rfl rfl, ?_, ⟨⟨?_, Or.inl rfl, by decide +kernel⟩, ?_⟩, other _ ?_ _ rfl rfl, ?_⟩ <;> decide +kernel

/-- Resume of a partition that is halted for a stop, and of one that is halted for a pre-emption. -/
theorem witness_resume : SReady [1] (watchHalted [(1, 2)] 3) ∧ ((watchHalted [(1, 2)] 3).part 1).resumable = true ∧ ((watchHalted [(1, 2)] 3).part 1).runctx = 0 ∧
    ((watchHalted [(1, 2)] 2).part 1).resumable = false ∧ fld (2 : Word) 4 3 = 0 ∧ fld (2 : Word) 8 56 = 0 := by
  refine ⟨⟨⟨?_, Or.inl rfl, by decide +kernel⟩, ?_⟩, ?_⟩ <;> decide +kernel

/-- `dtab.load` of edition 3 for S from byte 4,096, and of the published table for V. -/
def tabling : State := benchX [(1, 0x300), (2, 4096), (3, 0x10001)]

theorem witness_dtab : NoAcquire tabling ∧ SReady [1, 2] tabling ∧ fld ((cur tabling).xr 1) 2 6 = 0 ∧ fld ((cur tabling).xr 1) 17 47 = 0 ∧ ((cur tabling).xr 1).getLsbD 16 = false ∧
    fld ((cur tabling).xr 1) 8 8 ≠ 0 ∧
    (let r := (sysAcc ((cur tabling).xr 2).toNat 2048 64).run (sIssued tabling)
     good r.1 = true ∧ good ((readRange .s (val noAcc r.1) 2048).run r.2).1 = true) ∧
    SReady [3, 4] tabling ∧ fld ((cur tabling).xr 3) 2 14 = 0 ∧ fld ((cur tabling).xr 3) 17 47 = 0 ∧ ((cur tabling).xr 3).getLsbD 16 = true ∧
    (cur tabling).xr 4 = 0 := by
  refine ⟨by unfold NoAcquire; decide +kernel, ⟨⟨?_, Or.inl rfl, by decide +kernel⟩, ?_⟩, ?_, ?_, ?_, ?_, ?_, ⟨⟨?_, Or.inl rfl, by decide +kernel⟩, ?_⟩, ?_⟩ <;> decide +kernel

/-- An S entry that has been performed and waits for copies; a core whose copy has a table to apply. -/
def performed : State := bench.modCore 0 fun c => c.setStr .s { (c.str .s) with held := some { performed := true } }
def applying : State := bench.modCore 0 fun c => { c with dtabUpd := [(2, { edition := 9 })] }

theorem witness_dtab_applied : ((cur performed).str .s).held = some { performed := true } ∧ (cur performed).waitsOn [1, 2] = false ∧
    (∀ c ∈ (performed.part crew0.part).cores, (performed.core c).dtabUpd = []) ∧ (applying.core 0).dtabUpd = [(2, { edition := 9 })] ∧
    (∀ m ∈ (performed.part crew0.part).migrs, m.core ≠ some performed.cur) := by decide +kernel

/-- Delegations: none (x2 = 0), of its own context, of one that is not bound, of one that is, of one with a full table. -/
def delegating (full : Bool) : State :=
  let s := watching [(1, 0x100), (2, 3), (3, 0), (4, 0x101), (5, 0xFFFFFFFFFFFFFFFF), (6, 15), (7, 2)]
  if full then (List.range 16).foldl (fun s i => s.setCap 1 0 i (Cap.bits ⟨true, 5, 9, 1, 0⟩)) s else s

theorem witness_capabilities : SReady [1, 2] (delegating false) ∧ SReady [1, 3] (delegating false) ∧ SReady [3, 2] (delegating false) ∧
    SReady [4, 2] (delegating false) ∧ SReady [5] (delegating false) ∧ SReady [6] (delegating false) ∧ SReady [7] (delegating false) ∧
    ((cur (delegating false)).xr 1) = 0x100 ∧ ((cur (delegating false)).xr 2) = 3 ∧ ((delegating false).part 1).bound.getLsbD 0 = true ∧
    ((delegating false).part 1).bound.getLsbD 1 = false ∧ (∀ j, j < 16 → (((delegating false).part 1).ctx 0).cap j = Cap.ofBits 0) ∧
    (cur (delegating false)).xr 5 = BitVec.ofInt 64 (-1) ∧ ((cur (delegating false)).xr 6).toNat ≤ 15 ∧
    (∀ j, j < 16 → (((delegating true).part 1).ctx 0).cap j = ⟨true, 5, 9, 1, 0⟩) := by
  refine ⟨⟨⟨?_, Or.inl rfl, by decide +kernel⟩, ?_⟩, ⟨⟨?_, Or.inl rfl, by decide +kernel⟩, ?_⟩, ⟨⟨?_, Or.inl rfl, by decide +kernel⟩, ?_⟩, ⟨⟨?_, Or.inl rfl, by decide +kernel⟩, ?_⟩, ⟨⟨?_, Or.inl rfl, by decide +kernel⟩, ?_⟩, ⟨⟨?_, Or.inl rfl, by decide +kernel⟩, ?_⟩,
    ⟨⟨?_, Or.inl rfl, by decide +kernel⟩, ?_⟩, ?_⟩ <;> decide +kernel

/-- Counters and snapshots of core 0 through SELF: x1 counter 7, x2 selects source 5 with CLEAR, x3 EVOVF, x4 counter 0; x5 names core 1, which holds no crew. -/
def counted0 : State := benchX [(1, 0x700080), (2, 0x105), (3, 0x800080), (4, 0x80), (5, 0x180), (6, 8192)]

def snapU : State := ((sysAcc ((cur counted0).xr 6).toNat 1088 64).run (sIssued counted0)).2

theorem witness_events : NoAcquire counted0 ∧ SReady [1, 2] counted0 ∧ SReady [1] counted0 ∧ SReady [3] counted0 ∧ SReady [5] counted0 ∧ SReady [6, 4] counted0 ∧
    fld ((cur counted0).xr 1) 20 4 ≤ 7 ∧ fld ((cur counted0).xr 2) 6 2 = 0 ∧ fld ((cur counted0).xr 2) 9 55 = 0 ∧ counted0.holds 0 0 0 = true ∧
    fld ((cur counted0).xr 3) 20 4 = 8 ∧ counted0.holds (tgtCore ((cur counted0).xr 5)) 0 0 = false ∧
    (counted0.part 0).ownsCore (tgtCore ((cur counted0).xr 5)).toNat = true ∧ (counted0.core 0).ev.busy = false ∧ fld ((cur counted0).xr 4) 20 4 = 0 ∧
    (let r := (sysAcc ((cur counted0).xr 6).toNat 1088 64).run (sIssued counted0)
     let a := val noAcc r.1
     good r.1 = true ∧ good ((writeAll .s a.d.nt false (linPieces a (SMap.read 0 (counted0.core 0).ev.snap 0 1088))).run r.2).1 = true) := by
  refine ⟨by unfold NoAcquire; decide +kernel, ⟨⟨?_, Or.inl rfl, by decide +kernel⟩, ?_⟩, ⟨⟨?_, Or.inl rfl, by decide +kernel⟩, ?_⟩, ⟨⟨?_, Or.inl rfl, by decide +kernel⟩, ?_⟩, ⟨⟨?_, Or.inl rfl, by decide +kernel⟩, ?_⟩, ⟨⟨?_, Or.inl rfl, by decide +kernel⟩, ?_⟩, ?_⟩ <;> decide +kernel

/-- A core whose snapshot copy runs. -/
def snapping : State := bench.modCore 0 fun c => { c with ev := { c.ev with busy := true, snap := SMap.write 0 [] 0 (leBytes 8 1) } }

theorem witness_snapshot : (snapping.core 0).ev.busy = true ∧ (snapping.core 0).ev.snap = SMap.write 0 [] 0 (leBytes 8 1) := by decide +kernel

/-- Keys of tensor 3, the last (x1), and of all its tiles (x3); a migration of tile 0 of tensor 0 to the scratchpads (x4), and its duplicate (x5). -/
def translating : State := benchX [(1, 3), (2, 7), (3, 0x10003), (4, 0x5000004000)]

theorem witness_translation : SReady [1, 2] translating ∧ SReady [3, 2] translating ∧ fld ((cur translating).xr 1) 12 4 = 0 ∧ fld ((cur translating).xr 1) 18 46 = 0 ∧
    ((cur translating).xr 1).getLsbD 17 = false ∧ fld ((cur translating).xr 1) 0 12 ≤ ((translating.part crew0.part).ctx crew0.ctx).ndesc.toNat ∧
    fld ((cur translating).xr 3) 12 4 = 0 ∧ fld ((cur translating).xr 3) 18 46 = 0 ∧ (cur translating).slog = [] ∧ translating.accessesBefore crew0.part translating.nextTag = false := by
  refine ⟨⟨⟨?_, Or.inl rfl, by decide +kernel⟩, ?_⟩, ⟨⟨?_, Or.inl rfl, by decide +kernel⟩, ?_⟩, ?_⟩ <;> decide +kernel

/-- With a request of the crew that is still on its way, and with DESC in x1. -/
def pendingAccess : State :=
  { benchX [(1, 0x20003), (2, 7)] with waits := [{ tag := 0, core := 0, strand := .v, body := ⟨0, .read 0 8 0⟩ }], nextTag := 1 }

theorem witness_translation_pending : SReady [1, 2] pendingAccess ∧ fld ((cur pendingAccess).xr 1) 12 4 = 0 ∧ fld ((cur pendingAccess).xr 1) 18 46 = 0 ∧
    ((cur pendingAccess).xr 1).getLsbD 17 = true ∧ (cur pendingAccess).slog = [] ∧ pendingAccess.accessesBefore crew0.part pendingAccess.nextTag = true := by
  refine ⟨⟨⟨?_, Or.inl rfl, by decide +kernel⟩, ?_⟩, ?_⟩ <;> decide +kernel

/-- The descriptor of tensor 0. -/
def desc0 : BitVec 512 := leBV 512 (translating.peek 0 64)

theorem witness_migrate : SReady [4, 5] translating ∧ fld ((cur translating).xr 4) 12 2 = 0 ∧ fld ((cur translating).xr 4) 14 2 = 1 ∧
    fld ((cur translating).xr 4) 25 7 = 0 ∧ translating.descBits 0 0 (fld ((cur translating).xr 4) 0 12) = some desc0 ∧ (Desc.ofBits desc0).kind = 1 ∧
    (Desc.ofBits desc0).wf = true ∧ descPlain desc0 = true ∧ (Desc.ofBits desc0).pinned = false ∧ ((cur translating).xr 5).toNat < (Desc.ofBits desc0).tiles ∧
    (translating.tileEntry (Desc.ofBits desc0) ((cur translating).xr 5).toNat).getLsbD 0 = true := by
  refine ⟨⟨⟨?_, Or.inl rfl, by decide +kernel⟩, ?_⟩, ?_⟩ <;> decide +kernel

end Sys2Proof.Tests
end

