-- ==== Sys2Proof/Tests/WitnessTransfer.lean ====
section
/-! SUPPORT. Witnesses for the statements about X, about its queue, and about the units beside the strands. -/

namespace Sys2Proof.Tests

set_option Elab.async false

open Sys2Proof.Machine Sys2Proof.Stmt

/-- A copy of the box of p11 and p12 in the FP32 tensor of rank 2. -/
def copyArgs : CopyArgs := ⟨none, 0, false, ⟨7, 1, 11⟩, ⟨7, 1, 11⟩⟩
def copyCmd : XCmd := newCommand (.copy copyArgs) none noTok mats

/-- The machine with a command queue. -/
def holdingQ (q : List XCmd) : State := onCore (fun c => { c with xs := { c.xs with queue := q } }) mats

theorem untraced_mats : Untraced mats := by
  intro h w e
  have hw : w.part = 0 ∧ w.ctx = 0 := by
    have : (cur mats).crew = some ((cur mats).crew.getD {}) := by decide +kernel
    rw [this] at e
    rw [← Option.some.inj e]
    decide +kernel
  rw [hw.1, hw.2]
  revert h
  decide +kernel

theorem witness_commands_issue : commandForm (.copy noTok copyArgs) = some (.copy copyArgs, none, noTok, 3) ∧ Passes (xIssueCheck (.copy copyArgs)) mats ∧
    XReady noTok mats ∧ Untraced mats ∧ ((cur mats).str .x).loops = [] :=
  ⟨rfl, passes_of (by decide +kernel), ⟨by decide +kernel, by decide +kernel, Or.inl rfl⟩, untraced_mats, by decide +kernel⟩

/-- A full queue, one that waits to post, and a token that is not there. -/
theorem witness_commands_wait : Passes (xIssueCheck (.copy copyArgs)) (holdingQ (List.replicate 64 copyCmd)) ∧
    64 ≤ (cur (holdingQ (List.replicate 64 copyCmd))).xs.queue.length ∧ Passes (xIssueCheck (.copy copyArgs)) (holdingQ [{ copyCmd with progress := .all }]) ∧
    (∃ m ∈ (cur (holdingQ [{ copyCmd with progress := .all }])).xs.queue, m.progress = .all) ∧ (3 : BitVec 2) ≠ 0 ∧ (cur mats).tokAt (waitIdx .x 3) = 0 :=
  ⟨passes_of (by decide +kernel), by decide +kernel, passes_of (by decide +kernel), ⟨{ copyCmd with progress := .all }, List.mem_singleton.2 rfl, rfl⟩,
    by decide, by decide +kernel⟩

theorem witness_transfer_exit : Has ((cur mats).crew.getD {}) mats ∧ Ready .x noTok mats ∧ (cur mats).xs.queue = [] ∧ ((cur mats).str .x).armed = false ∧
    ((cur mats).crew.getD {}).stage = none ∧ mats.donor mats.cur = false ∧ OthersLive .x mats :=
  ⟨by unfold Has; decide +kernel, ⟨by decide +kernel, Or.inl rfl, by decide +kernel⟩, by decide +kernel, by decide +kernel, by decide +kernel, by decide +kernel,
    ⟨.s, by decide, by decide +kernel⟩⟩

/-- X alone is live, with nothing outstanding. -/
theorem witness_transfer_exit_last : Has crew0 (alone .x) ∧ Ready .x noTok (alone .x) ∧ ¬ OthersLive .x (alone .x) ∧ (alone .x).quiet (alone .x).cur = true ∧
    (cur (alone .x)).xs.queue = [] ∧ crew0.stage = none ∧ (alone .x).donor (alone .x).cur = false := by
  have no : ¬ OthersLive .x (alone .x) := by
    rintro ⟨j, h1, h2⟩
    cases j <;> first | exact h1 rfl | (revert h2; decide +kernel)
  exact ⟨by unfold Has; decide +kernel, ⟨by decide +kernel, Or.inl rfl, by decide +kernel⟩, no, by decide +kernel, by decide +kernel, rfl, by decide +kernel⟩

/-- A crew of a stage that holds no record: its exit is a record boundary. -/
def stageAlone : State := (alone .x).modCore 0 fun c => { c with crew := some { crew0 with stage := some 0 } }

theorem witness_transfer_exit_stage : (alone .x).donor (alone .x).cur = false ∧ Has { crew0 with stage := some 0 } stageAlone ∧ Ready .x noTok stageAlone ∧
    (cur stageAlone).xs.queue = [] ∧
    (let r := boundaryOp.run (stageAlone.issueHeld .x noTok)
     good r.1 = true ∧ (cur r.2).crew.isSome = true ∧ r.2.donor r.2.cur = false ∧ r.2.quiet r.2.cur = true ∧
     ((cur r.2).str .s).live = false ∧ ((cur r.2).str .v).live = false ∧ ((cur r.2).str .m).live = false) :=
  ⟨by decide +kernel, by unfold Has; decide +kernel, ⟨by decide +kernel, Or.inl rfl, by decide +kernel⟩, by decide +kernel⟩

/-- The start of a copy without DET, and with it, in the own scratchpad. -/
def detCmd : XCmd := { copyCmd with det := true, kind := .copy { copyArgs with s := ⟨3, 1, 11⟩, d := ⟨3, 1, 11⟩ } }

theorem witness_command_start : (holdingQ [copyCmd]).coreRuns 0 = true ∧ ((holdingQ [copyCmd]).core 0).xs.nextStart = some copyCmd ∧
    good ((asCmd copyCmd (xFoot copyCmd.kind)).run (actAs 0 (holdingQ [copyCmd]))).1 = true ∧ copyCmd.det = false ∧ detCmd.det = true ∧
    ((holdingQ [detCmd]).core 0).xs.nextStart = some detCmd := by decide +kernel

/-- The units of the copy's boxes. -/
def copyFoot : List Nat × List Nat := val ([], []) ((asCmd detCmd (xFoot detCmd.kind)).run (actAs 0 mats)).1
def clashing : State := holdingQ [{ copyCmd with seq := 9, started := true, ready := true, reads := copyFoot.1, writes := copyFoot.2 }, detCmd]

theorem witness_command_clash : clashing.coreRuns 0 = true ∧ (clashing.core 0).xs.nextStart = some detCmd ∧
    (let r := (asCmd detCmd (xFoot detCmd.kind)).run (actAs 0 clashing)
     good r.1 = true ∧ ((r.2.core 0).xs.queue.find? fun q => q.running && footClash (val ([], []) r.1) (q.reads, q.writes)).isSome = true) := by decide +kernel

/-- A copy that has started and hands its piece. -/
def startedCopy : State := ((actAs 0 (holdingQ [copyCmd])).setCmd { copyCmd with started := true }).cmdStep { copyCmd with started := true } |>.2
def handing : XCmd := ((cur startedCopy).xs.queue.headD copyCmd)

theorem witness_piece_hand : handing.ready = true ∧ (actAs 0 startedCopy).handable 0 = [handing] ∧ ((actAs 0 startedCopy).cmdStep handing).1 = true := by
  decide +kernel

/-- What it leaves: a piece of two rows for this package. -/
def handedOn : State := ((actAs 0 startedCopy).cmdStep handing).2

theorem witness_piece_ack : ((handedOn.core 0).xs.net.find? fun x => x.mem.isSome).isSome = true := by decide +kernel

/-- A command of which nothing is left. -/
def endedCmd : XCmd := { copyCmd with started := true, ready := true, fin := true }

theorem witness_command_retire : ((holdingQ [endedCmd]).core 0).xs.net = [] ∧ ((holdingQ [endedCmd]).core 0).xs.counts = [] ∧
    (actAs 0 (holdingQ [endedCmd])).answered 0 = none ∧ ((holdingQ [endedCmd]).core 0).xs.queue = [endedCmd] ∧ (holdingQ [endedCmd]).coreRuns 0 = true ∧
    endedCmd.progress ≠ .all ∧ endedCmd.owesEnd = false ∧ (actAs 0 (holdingQ [endedCmd])).collBusy 0 endedCmd = false := by decide +kernel

/-- A copy that names the lock word at the start of the linear tensor, with a piece to count; a walk with a permit. -/
def lockedCmd : XCmd := { endedCmd with kind := .copy { copyArgs with lk := some ⟨11, 1⟩ } }
def countDue : State := onCore (fun c => { c with xs := { c.xs with counts := [⟨1, 1, none⟩] } }) (holdingQ [lockedCmd])

theorem witness_lock_count : (countDue.core 0).xs.counts = [⟨1, 1, none⟩] ∧ (countDue.core 0).xs.queue.find? (fun q => q.seq == 1) = some lockedCmd ∧
    good ((countOne lockedCmd none 1).run (actAs 0 countDue)).1 = true := by decide +kernel

def walkCmd : XCmd := { endedCmd with kind := .walk ⟨false, 2, 1, none, ⟨7, 1, 11⟩, ⟨7, 1⟩, none⟩, fin := false }
def walking : State := onCore (fun c => { c with xs := { c.xs with walks := [⟨2, 1, 1⟩] } }) (holdingQ [walkCmd])

theorem witness_walk_start : (walking.core 0).xs.walkOf 2 = some ⟨2, 1, 1⟩ ∧ (walking.core 0).xs.queue.find? (fun q => q.seq == 1) = some walkCmd ∧
    walking.coreRuns 0 = true ∧ walkCmd.running = true ∧ walkCmd.ready = true ∧ walkCmd.moving = false ∧ walkCmd.fin = false := by decide +kernel

/-- Two crews in group 5, each with a `coll` that has started, on the boxes of the FP32 tensors of rank 2; the second reduces otherwise. -/
def collArgs (red : BitVec 2) : CollArgs := ⟨0, 5, red, 0, ⟨7, 1, 11⟩, ⟨7, 1, 11⟩, 30⟩
def collCmd (red : BitVec 2) : XCmd := { endedCmd with kind := .coll (collArgs red), fin := false, vals := [1, 2, 3, 4] }
def gathered (red : BitVec 2) : State :=
  let s := (holdingQ [collCmd 0]).modPart 0 fun p => p.modGroup 5 fun _ => ⟨true, 0, 0, 0, 2, 2, 2⟩
  s.setCore 1 { (cur s) with crew := (cur s).crew.map fun w => { w with rank := 1 }, xs := { (cur s).xs with queue := [collCmd red] } }
def party (c : BitVec 7) (red : BitVec 2) : BitVec 7 × XCmd × CollArgs := (c, collCmd red, collArgs red)

theorem witness_collective : (gathered 0).collParties 0 5 = some [party 0 0, party 1 0] ∧ (((gathered 0).part 0).group 5).size = 2 ∧
    (gathered 0).collSize 0 (collArgs 0) 0 = 2 ∧ (gathered 0).collKeyOf (party 1 0) = (gathered 0).collKeyOf (party 0 0) ∧
    ((gathered 0).collBoxes (party 0 0)).isSome = true := by decide +kernel

/-- The first of two that cannot receive yet, where `gathered` lacks the tile or not. -/
def collWait (s : State) : Option State := match s.collBoxes (party 0 0) with
  | some (b, _) => [party 0 0, party 1 0].zipIdx.findSome? fun y => s.collWaits y.1 b.d.format (0 + y.2)
      (collValues 0 2 (2 ^ b.d.elog) 4 [party 0 0, party 1 0] [])
  | none => none
def gatheredAbsent : State := (gathered 0).poke 1072 (bvBytes 8 (0 : BitVec 64))

theorem witness_collective_wait : (gathered 0).collPlace (collCmd 0) (collArgs 0) = 0 ∧ (collWait (gathered 0)).isNone = true ∧ (collWait gatheredAbsent).isSome = true := by
  decide +kernel

theorem witness_collective_differs : (gathered 1).collParties 0 5 = some [party 0 0, party 1 1] ∧
    (gathered 1).collKeyOf (party 1 1) ≠ (gathered 1).collKeyOf (party 0 0) := by decide +kernel

/-- A sparse command in its cycles, one that is asked for, and a table on its way. -/
def cycling : State := onCore (fun c => { c with ms := { c.ms with run := some { endedRun none with fin := false } } }) mats

theorem witness_matrix_cycle : (cycling.core 0).ms.run = some { endedRun none with fin := false } ∧ (mats.core 0).ms.run = none := ⟨rfl, rfl⟩

def tabWait : TabSlot := ⟨9, 0, none, 9, 0, 0⟩
def awaiting : State := onCore (fun c => { c with ms := { c.ms with tabs := [tabWait] } }) mats

theorem witness_table_arrival : (awaiting.core 0).ms.tabs.reverse.find? (fun y => y.table.isNone) = some tabWait ∧
    (let r := (slotDesc 9).run { awaiting with cur := 0, ir := [0] }
     let q := (elemAcc 9 (val (0, Desc.ofBits 0) r.1).1 (val (0, Desc.ofBits 0) r.1).2 [0]).run r.2
     good r.1 = true ∧ good q.1 = true ∧ good ((opRead .m (val (noAcc, 0) q.1).1 16).run q.2).1 = true) := by decide +kernel

end Sys2Proof.Tests
end

/-! SUPPORT. What a fatal fault of the device leaves of the power state: the mark of a thermal trip stands through the writing of its records (R16, R238). -/

namespace Sys2Proof.Machine

/-! ### A thermal trip stays marked -/

/-- A corrected error is counted among the power controller's state, and that is all it changes there (R18). -/
@[simp] theorem State.eccFound_tripped (s : State) (pa : Nat) (e : Ecc) : (s.eccFound pa e).power.tripped = s.power.tripped := by
  cases e <;> rfl

@[simp] theorem State.meet_tripped (s : State) (pa n : Nat) : (s.meet pa n).power.tripped = s.power.tripped :=
  State.meet_keeps (P := fun t => t.power.tripped = s.power.tripped) s pa n rfl fun t a e h => (t.eccFound_tripped a e).trans h

@[simp] theorem State.bankRead_tripped (s : State) (pa n : Nat) : (s.bankRead pa n).1.power.tripped = s.power.tripped := by
  unfold State.bankRead
  split
  · dsimp only
    split <;> rfl
  · exact s.meet_tripped pa n

@[simp] theorem State.unpoison_power (s : State) (pa n : Nat) : (s.unpoison pa n).power = s.power := by
  unfold State.unpoison
  split <;> rfl

@[simp] theorem State.cleared_power (s : State) (pa : Nat) : (s.cleared pa).power = s.power := by
  unfold State.cleared
  split
  · rw [State.unpoison_power, State.poke_power]
  · rfl

@[simp] theorem State.readied_power (s : State) (pa : Nat) : (s.readied pa).power = s.power := by
  unfold State.readied
  split <;> exact s.cleared_power pa

@[simp] theorem State.bankWrite_power (s : State) (pa : Nat) (bs : List Byte) : (s.bankWrite pa bs).power = s.power := by
  rw [State.bankWrite_eq, State.unpoison_power, State.poke_power, State.readied_power]

/-- A read of the I/O die goes piece by piece, each a read at its bank (R471). -/
@[simp] theorem State.linRead_tripped (s : State) (part : BitVec 5) (ctx : BitVec 3) (addr n : Nat) :
    (s.linRead part ctx addr n).1.power.tripped = s.power.tripped := by
  unfold State.linRead
  refine List.foldlRecOn (motive := fun a : State × Except LinErr (List Byte) => a.1.power.tripped = s.power.tripped) _ _ rfl fun a ha p _ => ?_
  obtain ⟨t, e | bs⟩ := a
  · exact ha
  dsimp only
  split
  · split <;> exact ha
  · exact ha
  next pa _ =>
    have hb := (t.bankRead_tripped pa p.2).trans ha
    split <;> next hu => rw [hu] at hb; exact hb

/-- A write of the I/O die goes piece by piece, each a write at its bank or one that waits (R471). -/
theorem State.linWrite_power {s t : State} {part : BitVec 5} {ctx : BitVec 3} {addr : Nat} {bs : List Byte}
    (h : s.linWrite part ctx addr bs = .ok t) : t.power = s.power := by
  revert t
  unfold State.linWrite
  refine List.foldlRecOn (motive := fun a : Except LinErr State => ∀ {t}, a = .ok t → t.power = s.power) _ _
    (fun h => by cases h; rfl) fun a ha p _ t ht => ?_
  obtain e | u := a
  · cases ht
  have hu : u.power = s.power := ha rfl
  dsimp only at ht
  split at ht
  · cases ht; exact hu
  · cases ht
  · split at ht
    · cases ht; exact hu
    · cases ht; exact (u.bankWrite_power _ _).trans hu

@[simp] theorem State.devWrite_power (s : State) (p : BitVec 5) (addr : Nat) (bs : List Byte) : (s.devWrite p addr bs).power = s.power := by
  unfold State.devWrite
  split
  next h => exact State.linWrite_power h
  · rfl

@[simp] theorem State.faultHeader_tripped (s : State) (p : BitVec 5) : (s.faultHeader p).1.power.tripped = s.power.tripped := by
  have h := s.linRead_tripped p 0 (s.part p).pfaultq.toNat 24
  unfold State.faultHeader
  split <;> next ht => rw [ht] at h; exact h

/-- The reserved slot is written after two reads; each way that this can end keeps the mark (R238). -/
@[simp] theorem State.fatalSlot_tripped (s : State) (p : BitVec 5) (r : FaultRec) : (s.fatalSlot p r).power.tripped = s.power.tripped := by
  have hh := s.faultHeader_tripped p
  unfold State.fatalSlot
  dsimp only
  split
  next ht => rw [ht] at hh; exact hh
  next ht => rw [ht] at hh; exact hh
  next t _ _ _ _ _ ht =>
    rw [ht] at hh
    have hr := (t.linRead_tripped p 0 ((s.part p).pfaultq.toNat + 64) 1).trans hh
    split
    next hu => rw [hu] at hr; exact hr
    next hu =>
      rw [hu] at hr
      rw [apply_ite State.power, State.devWrite_power, State.devWrite_power, ite_self]
      exact hr

@[simp] theorem State.raiseLine_power (s : State) (p : BitVec 5) (cause : Nat) : (s.raiseLine p cause).power = s.power := by
  unfold State.raiseLine
  split
  · split
    · rfl
    · split
      · exact List.foldlRecOn (motive := fun t : State => t.power = s.power) _ _ rfl fun _ h _ _ => h
      · rfl
  · rfl

@[simp] theorem State.sendMsix_power (s : State) (f v : Nat) : (s.sendMsix f v).power = s.power := by
  unfold State.sendMsix
  split
  · exact s.modFunc_power f _
  · rfl

@[simp] theorem State.fatalRecord_tripped (s : State) (p : BitVec 5) (r : FaultRec) : (s.fatalRecord p r).power.tripped = s.power.tripped := by
  simp [State.fatalRecord]

@[simp] theorem State.deviceFatal_tripped (s : State) (f : FaultInfo) : (s.deviceFatal f).power.tripped = s.power.tripped :=
  List.foldlRecOn (motive := fun t : State => t.power.tripped = s.power.tripped) _ _ rfl
    fun t h p _ => (t.fatalRecord_tripped p _).trans h

end Sys2Proof.Machine

/-! PROOFS. Power states, power samples, sensors (R14 to R17): what each event does, case by case, and the statement about them. -/

namespace Sys2Proof.Machine

/-! ### Power states (R14) -/

/-- No crew, no launch, no signal and no migration makes every partition idle (log 103). -/
theorem State.allIdle_of {s : State} (hc : ∀ c : BitVec 7, (s.core c).crew = none)
    (hp : ∀ p : BitVec 5, (s.part p).launches = [] ∧ (s.part p).jobs = [] ∧ (s.part p).migrs = []) : s.allIdle = true := by
  unfold State.allIdle
  rw [Bool.and_eq_true, List.all_eq_true, List.all_eq_true]
  refine ⟨fun c _ => by rw [hc]; rfl, fun p _ => ?_⟩
  obtain ⟨hl, hj, hm⟩ := hp (BitVec.ofNat 5 p)
  dsimp only
  rw [hl, hj, hm]
  rfl

/-- PS2 is entered from PS0 while every partition is idle. -/
theorem exec_ps2Entry {s : State} (h : s.power.ps = 0) (hi : s.allIdle = true) :
    exec .ps2Entry s = .next { s with power := { s.power with ps := 2 } } := congrArg _ (if_pos ⟨h, hi⟩)

/-- PS2 is left to PS0. -/
theorem exec_ps2Exit {s : State} (h : s.power.ps = 2) : exec .ps2Exit s = .next { s with power := { s.power with ps := 0 } } :=
  congrArg _ (if_pos h)

/-! ### Power samples (R15) -/

/-- A sample enters the mean of the last ten. -/
def Power.sampled (p : Power) (watts : Nat) : Power := { p with samples := (watts :: p.samples).take 10 }

/-- What the power controller does at some time with the samples that it has. -/
def Power.settled (p : Power) (now : Nat) : Power :=
  if p.over_ then
    if passed p.stepped 1000000 now && decide (p.level < 3) then p.down now
    else { p with lowSince := none }
  else if p.under then
    match p.lowSince with
    | none => { p with lowSince := some now }
    | some t => if t + 10000000 ≤ now then ({ p with lowSince := some now } : Power).up else p
  else { p with lowSince := none }

/-- `power_sample` takes the sample, then settles the clock. -/
theorem exec_powerSample (watts : Nat) (s : State) :
    exec (.powerSample watts) s = .next { s with power := (s.power.sampled watts).settled s.time } := rfl

theorem Power.over_iff (p : Power) : p.over_ = true ↔ p.limit * p.samples.length < sumL p.samples := decide_eq_true_iff

theorem Power.under_iff (p : Power) : p.under = true ↔ sumL p.samples * 10 < p.limit * 9 * p.samples.length := decide_eq_true_iff

/-- An interval has passed when none has begun, or when its end has come. -/
theorem passed_iff (since : Option Nat) (n now : Nat) : passed since n now = true ↔ ∀ t, since = some t → t + n ≤ now := by
  cases since with
  | none => exact ⟨fun _ _ h => (nomatch h), fun _ => rfl⟩
  | some u => exact ⟨fun h _ e => Option.some.inj e ▸ of_decide_eq_true h, fun h => decide_eq_true (h u rfl)⟩

/-- An interval whose end lies ahead has not passed. -/
theorem passed_early {since : Option Nat} {n now t : Nat} (h : since = some t) (hn : now < t + n) : passed since n now = false := by
  subst h
  exact decide_eq_false (by omega)

/-- A step up at a level below full takes the package's level back first (log 102). -/
theorem Power.up_of_pos {p : Power} (h : 0 < p.level) : p.up = { p with level := p.level - 1 } := if_pos h

/-- A step up at the full level takes back a thermal step of each die below 100 °C (log 102). -/
theorem Power.up_of_zero {p : Power} (h : p.level = 0) :
    p.up = { p with therm := p.therm.mapIdx fun d n => if p.hottest d < 100 then n - 1 else n } := if_neg (by omega)

@[simp] theorem Power.up_samples (p : Power) : p.up.samples = p.samples := by
  unfold Power.up
  split <;> rfl

/-- Settling the clock reads the samples and keeps them. -/
@[simp] theorem Power.settled_samples (p : Power) (now : Nat) : (p.settled now).samples = p.samples := by
  unfold Power.settled
  split
  · split <;> rfl
  · split
    · split
      · rfl
      · split
        · exact Power.up_samples _
        · rfl
    · rfl

/-- Above the limit, a millisecond after the last step, the package steps down. -/
theorem Power.settled_down {p : Power} {now : Nat} (h : p.over_ = true) (hs : passed p.stepped 1000000 now = true) (hl : p.level < 3) :
    p.settled now = p.down now := by
  unfold Power.settled
  rw [if_pos h, if_pos (by rw [hs, decide_eq_true hl]; rfl)]

/-- Above the limit, within the millisecond of the last step, the clock stays. -/
theorem Power.settled_above_early {p : Power} {now : Nat} (h : p.over_ = true) (hs : passed p.stepped 1000000 now = false) :
    p.settled now = { p with lowSince := none } := by
  unfold Power.settled
  rw [if_pos h, if_neg (by rw [hs]; exact Bool.false_ne_true)]

/-- Low for 10 ms, the clock steps up, and the 10 ms begin again. -/
theorem Power.settled_up {p : Power} {now t : Nat} (ho : ¬ p.over_ = true) (hu : p.under = true) (ht : p.lowSince = some t) (hn : t + 10000000 ≤ now) :
    p.settled now = ({ p with lowSince := some now } : Power).up := by
  unfold Power.settled
  rw [if_neg ho, if_pos hu, ht]
  exact if_pos hn

theorem Power.settled_level_up {p : Power} {now t : Nat} (ho : ¬ p.over_ = true) (hu : p.under = true) (ht : p.lowSince = some t) (hn : t + 10000000 ≤ now)
    (hl : 0 < p.level) : p.settled now = { p with lowSince := some now, level := p.level - 1 } :=
  (Power.settled_up ho hu ht hn).trans (Power.up_of_pos hl)

theorem Power.settled_dies_up {p : Power} {now t : Nat} (ho : ¬ p.over_ = true) (hu : p.under = true) (ht : p.lowSince = some t) (hn : t + 10000000 ≤ now)
    (hl : p.level = 0) :
    p.settled now = { p with lowSince := some now, therm := p.therm.mapIdx fun d n => if p.hottest d < 100 then n - 1 else n } :=
  (Power.settled_up ho hu ht hn).trans (Power.up_of_zero hl)

/-- Between the two bounds nothing moves. -/
theorem Power.settled_between {p : Power} {now : Nat} (ho : ¬ p.over_ = true) (hu : ¬ p.under = true) : p.settled now = { p with lowSince := none } := by
  unfold Power.settled
  rw [if_neg ho, if_neg hu]

/-! ### Sensors (R16, R17) -/

/-- The power state that a reading of a sensor leaves: the reading kept, the records of R17 and R19, the class and the trip. -/
def Power.read (p : Power) (die : Nat) (memory : Bool) (idx celsius now : Nat) : Power :=
  let q := ({ p with sensors := listSet p.sensors (12 * die + (if memory then idx % 4 else 4 + idx)) celsius } : Power).track die now
  { q with hot := if memory && decide (85 ≤ celsius) then listSet q.hot die true else q.hot
           tripped := q.tripped || decide (110 ≤ celsius) }

/-- Below 110 °C a reading changes the power state alone. -/
theorem exec_sensorReading_lt {c : Nat} (h : c < 110) (die : BitVec 2) (memory : Bool) (idx : BitVec 3) (s : State) :
    exec (.sensorReading die memory idx c) s = .next { s with power := s.power.read die.toNat memory idx.toNat c s.time } :=
  congrArg _ (if_neg fun e => absurd e.1 (by omega))

/-- In PS3 a reading changes the power state alone (log 104). -/
theorem exec_sensorReading_off {s : State} (h : s.power.ps = 3) (die : BitVec 2) (memory : Bool) (idx : BitVec 3) (c : Nat) :
    exec (.sensorReading die memory idx c) s = .next { s with power := s.power.read die.toNat memory idx.toNat c s.time } :=
  congrArg _ (if_neg fun e => e.2 h)

/-- A reading of 110 °C or more is a fatal fault of the device, an interrupt, and the event that turns the package off (R16). -/
theorem exec_sensorReading_trip {s : State} {c : Nat} (h : 110 ≤ c) (hp : s.power.ps ≠ 3) (die : BitVec 2) (memory : Bool) (idx : BitVec 3) :
    exec (.sensorReading die memory idx c) s =
      .next (((({ s with power := s.power.read die.toNat memory idx.toNat c s.time } : State).deviceFatal
        ⟨34, 0, BitVec.ofNat 320 die.toNat, false⟩).sendMsix 0 0).push .ps3Entry) :=
  congrArg _ (if_pos ⟨h, hp⟩)

theorem Power.read_sensors (p : Power) (die : Nat) (memory : Bool) (idx c now : Nat) :
    (p.read die memory idx c now).sensors = p.sensors.set (12 * die + (if memory then idx % 4 else 4 + idx)) c := rfl

theorem Power.read_tripped_of_lt {c : Nat} (h : c < 110) (p : Power) (die : Nat) (memory : Bool) (idx now : Nat) :
    (p.read die memory idx c now).tripped = p.tripped := by
  show (p.tripped || decide (110 ≤ c)) = p.tripped
  rw [decide_eq_false (by omega), Bool.or_false]

theorem Power.read_tripped_of_le {c : Nat} (h : 110 ≤ c) (p : Power) (die : Nat) (memory : Bool) (idx now : Nat) :
    (p.read die memory idx c now).tripped = true := by
  show (p.tripped || decide (110 ≤ c)) = true
  rw [decide_eq_true h, Bool.or_true]

/-- A memory sensor at 85 °C or more makes its die HOT (R17). -/
theorem Power.read_hot {p : Power} {die c : Nat} (h : 85 ≤ c) (hd : die < p.hot.length) (idx now : Nat) :
    (p.read die true idx c now).hot.getD die false = true := by
  have hot : (p.read die true idx c now).hot = p.hot.set die true := if_pos (by rw [decide_eq_true h]; rfl)
  rw [hot, List.getD_eq_getElem?_getD, List.getElem?_set_self hd, Option.getD_some]

/-- A die that has been below 80 °C for 1 ms becomes COOL (R17). -/
theorem exec_classToCool {s : State} {die : BitVec 2} {n : Nat} (h : s.power.coolSince.getD die.toNat none = some n) (hn : n + 1000000 ≤ s.time) :
    exec (.classToCool die) s = .next { s with power := { s.power with hot := listSet s.power.hot die.toNat false } } := by
  show execClassToCool die s = _
  unfold execClassToCool
  dsimp only
  rw [h]
  exact congrArg _ (if_pos hn)

/-- A die that is due steps down, and notes when (R16). -/
theorem exec_thermalThrottleStep {s : State} {die : BitVec 2} (h : s.throttleDue die.toNat = true) :
    exec (.thermalThrottleStep die) s = .next { s with power :=
      { s.power with therm := listSet s.power.therm die.toNat (s.power.therm.getD die.toNat 0 + 1)
                     thermStepped := listSet s.power.thermStepped die.toNat (some s.time) } } :=
  congrArg _ (if_pos h)

end Sys2Proof.Machine

namespace Sys2Proof.Package

open Sys2Proof.Machine Sys2Proof.Stmt

theorem powerStateEvents : PowerStateEvents := fun _ =>
  ⟨fun hps hc hp => ⟨_, exec_ps2Entry hps (State.allIdle_of hc hp), rfl, rfl, rfl⟩, fun hps => ⟨_, exec_ps2Exit hps, rfl, rfl, rfl⟩, ⟨_, rfl, rfl, rfl⟩⟩

/-- Each clause is one case of `Power.settled`, over the samples with the new one. -/
theorem powerSampleEvents : PowerSampleEvents := by
  intro s watts
  have hover := (s.power.sampled watts).over_iff
  have hunder := (s.power.sampled watts).under_iff
  refine ⟨_, exec_powerSample watts s, Power.settled_samples _ _, rfl, rfl, fun above hl hs => ?_, fun n hn ht above => ?_,
    fun n hn ht below above hl => ?_, fun n hn ht below above hl => ?_, fun above below => ?_⟩
  · rw [Power.settled_down (hover.2 above) ((passed_iff _ _ _).2 hs) hl]
    have steps : 3 - (s.power.level + 1) = 2 - s.power.level := by omega
    rw [steps]
    exact ⟨rfl, rfl, rfl⟩
  · rw [Power.settled_above_early (hover.2 above) (passed_early hn ht)]
    rfl
  · rw [Power.settled_level_up (mt hover.1 above) (hunder.2 below) hn ht hl]
    exact ⟨rfl, rfl⟩
  · rw [Power.settled_dies_up (mt hover.1 above) (hunder.2 below) hn ht hl]
    refine ⟨hl, fun d k hk => List.getElem?_mapIdx.trans ?_⟩
    exact congrArg (Option.map _) hk
  · rw [Power.settled_between (mt hover.1 above) (mt hunder.1 below)]
    exact ⟨rfl, rfl, rfl⟩

theorem thermalEvents : ThermalEvents := by
  intro s die memory idx c
  refine ⟨?_, fun n hn ht => ⟨_, exec_classToCool hn ht, rfl, rfl, rfl⟩, fun due => ⟨_, exec_thermalThrottleStep due, rfl, rfl, rfl⟩⟩
  rcases Nat.lt_or_ge c 110 with hc | hc
  · refine ⟨_, exec_sensorReading_lt hc .., fun _ => Power.read_tripped_of_lt hc .., fun h => absurd h (by omega),
      fun h => absurd h (by omega), fun _ _ => Power.read_sensors .., fun hm h85 _ hl => ?_⟩
    subst hm
    exact Power.read_hot h85 (hl ▸ die.isLt) ..
  · by_cases hp : s.power.ps = 3
    · exact ⟨_, exec_sensorReading_off hp .., fun h => absurd h (by omega), fun _ => Power.read_tripped_of_le hc .., fun _ h => absurd hp h,
        fun h => absurd h (by omega), fun _ _ h => absurd h (by omega)⟩
    · refine ⟨_, exec_sensorReading_trip hc hp .., fun h => absurd h (by omega), fun _ => ?_, fun _ _ => List.mem_append_right _ (List.mem_singleton.2 rfl),
        fun h => absurd h (by omega), fun _ _ h => absurd h (by omega)⟩
      rw [State.push_power, State.sendMsix_power, State.deviceFatal_tripped]
      exact Power.read_tripped_of_le hc ..

/-- Settles O39: power states, power samples, and the thermal response. -/
theorem powerEvents : Obligations.PowerEvents := ⟨powerStateEvents, powerSampleEvents, thermalEvents⟩

end Sys2Proof.Package

/-! PROOFS. Reset and boot (R19 to R24): what each step of the boot sequence comes to, and the values at reset. -/

namespace Sys2Proof.Machine

/-! ### Reset (R19) -/

/-- The hold after a trip ends once every sensor has read below 90 °C for 100 ms. -/
theorem exec_thermalHoldEnd {s : State} {n : Nat} (h : s.power.below90 = some n) (hh : s.boot.hold = true) (hn : n + 100000000 ≤ s.time) :
    exec .thermalHoldEnd s = .next { s with boot := { s.boot with hold := false }, power := { s.power with tripped := false } } := by
  show execThermalHoldEnd s = _
  unfold execThermalHoldEnd
  dsimp only
  rw [h]
  exact congrArg _ (if_pos ⟨hh, hn⟩)

/-! ### Boot (R20 to R23) -/

/-- No check of R20 gives reason 5: that is the memory test's. -/
theorem Boot.check_ne_five (b : Boot) (len : Nat) : b.check len ≠ 5 := by
  unfold Boot.check
  dsimp only
  split
  · decide
  · split
    · decide
    · split
      · decide
      · split <;> decide

theorem Boot.tried_reason_of_bad {b : Boot} {len : Nat} (h : b.check len ≠ 0) (memOk : Bool) : (b.tried len memOk).reason = b.check len :=
  if_neg fun e => h e.1

theorem Boot.tried_reason_of_good {b : Boot} {len : Nat} (h : b.check len = 0) : (b.tried len true).reason = 0 :=
  (if_neg fun e => absurd e.2 (by decide)).trans h

theorem Boot.tried_reason_of_memFail {b : Boot} {len : Nat} (h : b.check len = 0) : (b.tried len false).reason = 5 := if_pos ⟨h, rfl⟩

/-- An image that passes every check is refused by the memory test alone. -/
theorem Boot.tried_reason_of_passed {b : Boot} {len : Nat} (h : b.check len = 0) (memOk : Bool) :
    (b.tried len memOk).reason = 0 ∨ (b.tried len memOk).reason = 5 := by
  cases memOk
  · exact Or.inr (Boot.tried_reason_of_memFail h)
  · exact Or.inl (Boot.tried_reason_of_good h)

/-- The package that verifies the image in its boot window (R19, step 5). -/
def State.verifying (s : State) (len : BitVec 32) (memOk : Bool) : State :=
  { s with boot := { s.boot with len := len, state := 2, reason := 0, trial := some (s.boot.tried len.toNat memOk) } }

/-- The package that trains its memory once the image has been verified (R19, step 6). -/
def State.training (s : State) (len : BitVec 32) (memOk : Bool) : State :=
  { s.verifying len memOk with boot := { (s.verifying len memOk).boot with state := 4 } }

/-- An awaited image whose length is written is verified as it stands. -/
theorem exec_bootLenWrite {s : State} (hs : s.boot.state = 1 ∨ s.boot.state = 3) (hm : s.boot.memFail = false) (hp : s.power.ps ≠ 3)
    (len : BitVec 32) (memOk : Bool) : exec (.bootLenWrite len memOk) s = .next (s.verifying len memOk) := by
  have awaited : ¬ ((s.boot.state ≠ 1 ∧ s.boot.state ≠ 3) ∨ s.boot.memFail ∨ s.power.ps = 3) := by
    rintro (⟨h1, h3⟩ | h | h)
    · exact hs.elim h1 h3
    · exact absurd (h.symm.trans hm) (by decide)
    · exact hp h
  exact congrArg _ (if_neg awaited)

/-- An image is discarded for a reason: FAILED. -/
def Boot.failed (b : Boot) (n : Nat) : Boot := { b with state := 3, reason := n, image := [], trial := none, memFail := n == 5 }

section
variable {s : State} {t : BootTrial} (hh : s.boot.hold = false) (hm : s.boot.memFail = false) (ht : s.boot.trial = some t)
include hh hm ht

/-- VERIFYING goes on to TRAINING when every check of R20 has passed; the memory test comes after it. -/
theorem State.bootGoes_verified (h2 : s.boot.state = 2) (hr : t.reason = 0 ∨ t.reason = 5) :
    s.bootGoes = { s with boot := { s.boot with state := 4 } } := by
  unfold State.bootGoes
  simp [hh, hm, ht, h2, hr]

theorem State.bootGoes_refused (h2 : s.boot.state = 2) (hr : ¬ (t.reason = 0 ∨ t.reason = 5)) :
    s.bootGoes = { s with boot := s.boot.failed t.reason } := by
  unfold State.bootGoes
  simp [hh, hm, ht, h2, hr, Boot.failed]

theorem State.bootGoes_ready (h4 : s.boot.state = 4) (hr : t.reason = 0) : s.bootGoes = s.bootReady t := by
  unfold State.bootGoes
  simp [hh, hm, ht, h4, hr]

theorem State.bootGoes_untrained (h4 : s.boot.state = 4) (hr : t.reason ≠ 0) : s.bootGoes = { s with boot := s.boot.failed t.reason } := by
  unfold State.bootGoes
  simp [hh, hm, ht, h4, hr, Boot.failed]
end

section
variable {s : State} {len : BitVec 32} (hh : s.boot.hold = false) (hm : s.boot.memFail = false)
include hh hm

theorem State.verifying_goes (memOk : Bool) (h : s.boot.check len.toNat = 0) : (s.verifying len memOk).bootGoes = s.training len memOk :=
  State.bootGoes_verified (s := s.verifying len memOk) hh hm rfl rfl (Boot.tried_reason_of_passed h memOk)

theorem State.verifying_fails (memOk : Bool) (h : s.boot.check len.toNat ≠ 0) :
    (s.verifying len memOk).bootGoes =
      { s.verifying len memOk with boot := (s.verifying len memOk).boot.failed (s.boot.check len.toNat) } := by
  have reason := Boot.tried_reason_of_bad h memOk
  have refused : ¬ ((s.boot.tried len.toNat memOk).reason = 0 ∨ (s.boot.tried len.toNat memOk).reason = 5) := by
    rw [reason]
    exact not_or.2 ⟨h, s.boot.check_ne_five _⟩
  rw [State.bootGoes_refused (s := s.verifying len memOk) hh hm rfl rfl refused, reason]

theorem State.training_goes (h : s.boot.check len.toNat = 0) :
    (s.training len true).bootGoes = (s.training len true).bootReady (s.boot.tried len.toNat true) :=
  State.bootGoes_ready (s := s.training len true) hh hm rfl rfl (Boot.tried_reason_of_good h)

theorem State.training_fails (h : s.boot.check len.toNat = 0) :
    (s.training len false).bootGoes = { s.training len false with boot := (s.training len false).boot.failed 5 } := by
  have five := Boot.tried_reason_of_memFail h
  rw [State.bootGoes_untrained (s := s.training len false) hh hm rfl rfl (by rw [five]; decide), five]
end

/-! ### The state after reset -/

@[simp] theorem State.reset_core (c : BitVec 7) : State.reset.core c = {} := Vector.getElem_replicate ..

@[simp] theorem State.reset_part (p : BitVec 5) : State.reset.part p = {} := Vector.getElem_replicate ..

@[simp] theorem State.reset_queue (q : BitVec 10) : State.reset.queue q = {} := rfl

theorem State.reset_ring {r : Nat} (h : r < 16) : State.reset.ring r = {} := by
  show (Vector.replicate 16 ({} : Ring)).toList.getD r {} = {}
  rw [Vector.toList_replicate]
  rw [List.getD_eq_getElem?_getD, List.getElem?_replicate_of_lt h, Option.getD_some]

@[simp] theorem Core.default_str (k : Strand) : ({} : Core).str k = {} := Vector.getElem_replicate ..

/-- Empty tables are canonical. -/
theorem State.reset_tablesWf : Stmt.TablesWf State.reset := by
  refine ⟨(State.memWf_iff _).2 ⟨rfl, rfl, rfl, rfl⟩, rfl, fun p => ?_⟩
  rw [State.reset_part]
  rfl

end Sys2Proof.Machine

namespace Sys2Proof.Package

open Sys2Proof.Machine Sys2Proof.Stmt

theorem resetEvents : ResetEvents := fun _ =>
  ⟨⟨_, rfl, rfl, rfl, rfl, rfl, rfl⟩, ⟨_, rfl, rfl, rfl, rfl, rfl, rfl⟩, fun _ hn hh ht => ⟨_, exec_thermalHoldEnd hn hh ht, rfl, rfl, rfl⟩⟩

/-- One step of the boot sequence decides the checks of R20, the next the memory test. -/
theorem bootEvent : BootEvent := by
  intro s len memOk hs hm hp
  refine ⟨_, exec_bootLenWrite hs hm hp len memOk, rfl, rfl, rfl, rfl, rfl, fun hh => ?_⟩
  refine ⟨fun (h : s.boot.check len.toNat = 0) => ?_, fun (h : s.boot.check len.toNat = 0) hok => ?_,
    fun (h : s.boot.check len.toNat = 0) hok => ?_, fun (h : s.boot.check len.toNat ≠ 0) => ?_⟩
  · rw [State.verifying_goes hh hm memOk h]
    rfl
  · subst hok
    rw [State.verifying_goes hh hm true h, State.training_goes hh hm h]
    exact ⟨rfl, rfl, rfl, rfl, rfl⟩
  · subst hok
    rw [State.verifying_goes hh hm false h, State.training_fails hh hm h]
    exact ⟨rfl, rfl, rfl⟩
  · rw [State.verifying_fails hh hm memOk h]
    exact ⟨rfl, rfl, rfl⟩

/-- Settles O40: both resets, the end of a hold, and the boot sequence from BOOT_LEN on. -/
theorem resetAndBootEvents : Obligations.ResetAndBootEvents := ⟨resetEvents, bootEvent⟩

/-- Settles O57: every component of the reset state is its default. -/
theorem resetState : Obligations.ResetState := by
  refine ⟨State.reset_tablesWf, fun c => ?_, fun _ => rfl, fun p => ?_, fun r hr => ?_, rfl, rfl⟩
  · rw [State.reset_core]
    exact ⟨rfl, by rw [Core.default_str]⟩
  · rw [State.reset_part]
    exact ⟨rfl, rfl, rfl, rfl⟩
  · rw [State.reset_ring hr]
    exact ⟨rfl, rfl⟩

end Sys2Proof.Package

/-! PROOFS. Rings, die switches and packets in transit (R26 to R43, R468): what each event does, case by case, and the statement about them. -/

namespace Sys2Proof.Machine

/-! ### Rings (R34 to R37, R468) -/

theorem State.ring_modRing {g : Nat} (hg : g < 16) (s : State) (f : Ring → Ring) : (s.modRing g f).ring g = f (s.ring g) := by
  simp [State.modRing, State.ring, hg]

/-- FCTL of the physical function: a limit out of 1 to 16 stores 16 (R37). -/
theorem exec_fctlWrite_pf (ring : BitVec 4) (v : BitVec 64) (s : State) :
    exec (.fctlWrite 0 ring v) s = .next (s.modRing ring.toNat fun r => { r with
      test := v.getLsbD 8
      limit := if v.extractLsb' 0 5 = 0 ∨ 16 < (v.extractLsb' 0 5).toNat then 16 else v.extractLsb' 0 5 }) := rfl

/-- What SHARED_LIMIT stores, as the number of its five bits. -/
theorem sharedLimit_toNat (v : BitVec 64) :
    (if v.extractLsb' 0 5 = 0 ∨ 16 < (v.extractLsb' 0 5).toNat then (16 : BitVec 5) else v.extractLsb' 0 5).toNat =
      if 1 ≤ v.toNat % 32 ∧ v.toNat % 32 ≤ 16 then v.toNat % 32 else 16 := by
  have five : (v.extractLsb' 0 5).toNat = v.toNat % 32 := by simp
  have zero : v.extractLsb' 0 5 = 0 ↔ v.toNat % 32 = 0 := by rw [← five, BitVec.toNat_eq]; rfl
  rw [apply_ite BitVec.toNat, five]
  by_cases inside : 1 ≤ v.toNat % 32 ∧ v.toNat % 32 ≤ 16
  · rw [if_pos inside, if_neg (by rw [zero]; omega)]
  · rw [if_neg inside, if_pos (by rw [zero]; omega)]
    rfl

/-- The direction that FDIR stores for a stop: 3 stores 0 (R468). -/
def fdirField (v i : Nat) : Nat := if v / 4 ^ i % 4 = 3 then 0 else v / 4 ^ i % 4

theorem fdirField_lt (v i : Nat) : fdirField v i < 4 := by
  unfold fdirField
  split <;> omega

/-- The number whose first `n` base-4 digits are given. -/
def packDigits (f : Nat → Nat) (n : Nat) : Nat := (List.range n).foldl (fun a i => a + f i * 4 ^ i) 0

theorem packDigits_succ (f : Nat → Nat) (n : Nat) : packDigits f (n + 1) = packDigits f n + f n * 4 ^ n := by
  unfold packDigits
  rw [List.range_succ, List.foldl_append]
  rfl

theorem packDigits_lt {f : Nat → Nat} (hf : ∀ i, f i < 4) (n : Nat) : packDigits f n < 4 ^ n := by
  induction n with
  | zero => exact Nat.one_pos
  | succ n ih =>
    rw [packDigits_succ, Nat.pow_succ]
    have := Nat.mul_le_mul_right (4 ^ n) (Nat.le_of_lt_succ (hf n))
    omega

/-- Each digit reads back. -/
theorem packDigits_digit {f : Nat → Nat} (hf : ∀ i, f i < 4) {n j : Nat} (hj : j < n) : packDigits f n / 4 ^ j % 4 = f j := by
  induction n with
  | zero => omega
  | succ n ih =>
    rw [packDigits_succ]
    rcases Nat.lt_succ_iff_lt_or_eq.1 hj with h | rfl
    · obtain ⟨k, rfl⟩ : ∃ k, n = j + 1 + k := ⟨n - (j + 1), by omega⟩
      have above : f (j + 1 + k) * 4 ^ (j + 1 + k) = 4 ^ j * (4 * (f (j + 1 + k) * 4 ^ k)) := by
        rw [Nat.pow_add, Nat.pow_succ]
        ac_rfl
      rw [above, Nat.add_mul_div_left _ _ (Nat.pow_pos (by decide)), Nat.add_mul_mod_self_left]
      exact ih h
    · rw [Nat.add_mul_div_right _ _ (Nat.pow_pos (by decide)), Nat.div_eq_of_lt (packDigits_lt hf j), Nat.zero_add, Nat.mod_eq_of_lt (hf j)]

/-- FDIR of the physical function: two bits for each of the eight stops (R468). -/
theorem exec_fdirWrite_pf (ring : BitVec 4) (v : BitVec 64) (s : State) :
    exec (.fdirWrite 0 ring v) s = .next (s.modRing ring.toNat fun r => { r with sdir := BitVec.ofNat 16 (packDigits (fdirField v.toNat) 8) }) := rfl

/-- FDIR's word holds all eight fields. -/
theorem fdir_digit (v : Nat) {j : Nat} (hj : j < 8) :
    (BitVec.ofNat 16 (packDigits (fdirField v) 8)).toNat / 4 ^ j % 4 = fdirField v j := by
  have fits : packDigits (fdirField v) 8 < 2 ^ 16 := packDigits_lt (fdirField_lt v) 8
  rw [BitVec.toNat_ofNat, Nat.mod_eq_of_lt fits]
  exact packDigits_digit (fdirField_lt v) hj

/-- A function other than the physical one writes neither register. -/
theorem exec_fctlWrite_vf {func : BitVec 6} (h : func ≠ 0) (ring : BitVec 4) (v : BitVec 64) (s : State) : exec (.fctlWrite func ring v) s = .next s :=
  congrArg _ (if_pos h)

theorem exec_fdirWrite_vf {func : BitVec 6} (h : func ≠ 0) (ring : BitVec 4) (v : BitVec 64) (s : State) : exec (.fdirWrite func ring v) s = .next s :=
  congrArg _ (if_pos h)

/-! ### Die switches (R40) -/

/-- A fold over numbers of which one alone changes anything comes to that one's step. -/
theorem foldl_range_single {β : Type} {f : β → Nat → β} {n k : Nat} (hk : k < n) (h : ∀ b a, a < n → a ≠ k → f b a = b) (b : β) :
    (List.range n).foldl f b = f b k := by
  obtain ⟨m, rfl⟩ : ∃ m, n = k + 1 + m := ⟨n - (k + 1), by omega⟩
  have before : (List.range k).foldl f b = b := List.foldlRecOn (motive := (· = b)) _ _ rfl fun c hc a ha => by
    have := List.mem_range.1 ha
    rw [h c a (by omega) (by omega), hc]
  rw [List.range_add, List.foldl_append, List.range_succ, List.foldl_append, before]
  refine List.foldlRecOn (motive := (· = f b k)) _ _ rfl fun c hc a ha => ?_
  obtain ⟨i, hi, rfl⟩ := List.mem_map.1 ha
  have := List.mem_range.1 hi
  rw [h c _ (by omega) (by omega), hc]

/-- The state in which an output of a die switch has granted a packet (R40): it no longer waits, and the round-robin goes on behind its input. -/
def State.granted (s : State) (die : Fin 4) (out inp : Nat) (p : Packet) : State :=
  let sw : DieSwitch := ⟨s.switches[die].waiting.erase (inp, out, p), SMap.put 0 s.switches[die].turn out ((inp + 1) % 16)⟩
  { s with switches := s.switches.set die sw }

/-- A die switch of which one output has a packet to grant. -/
theorem exec_dieSwitchTransfer_single {s : State} {die : BitVec 2} {out inp : Nat} {p : Packet} (hout : out < 13)
    (idle : ∀ o, o < 13 → o ≠ out → s.switches[die.toFin].pick o = none) (pick : s.switches[die.toFin].pick out = some (inp, p)) :
    exec (.dieSwitchTransfer die) s = .next ((s.granted die.toFin out inp p).switchTo die.toNat out p) := by
  show execDieSwitchTransfer die s = _
  unfold execDieSwitchTransfer
  dsimp only
  rw [foldl_range_single hout fun t o ho hne => by rw [idle o ho hne], pick]
  rfl

/-! ### Packets in transit (R27, R42, R43) -/

/-- A header that breaks R26 is noted, and the packet goes no further. -/
theorem exec_packetReceive_bad {s : State} {p : Packet} (hp : s.power.ps ≠ 3) (h : pktBad p = true) :
    exec (.packetReceive p) s = .next (s.notePkt p 22 (BitVec.ofNat 320 p.hdr.toNat)) := by
  rw [BitVec.ofNat_toNat]
  exact congrArg _ ((if_neg hp).trans (if_pos h))

/-- A packet for another package that is no control flit comes to its input port as it is. -/
theorem exec_packetReceive_transit {s : State} {p : Packet} {port : Nat} (hp : s.power.ps ≠ 3) (hb : pktBad p = false)
    (he : s.fabric.egress (pktPos p) = some port) (hc : pktField p 6 2 ≠ 3) :
    let a := s.fabric.arrival (s.fabric.srcPos p) (pktPos p)
    exec (.packetReceive p) s = .next (s.takeIn a.1 (p, a.2)) := by
  show execPacketReceive p s = _
  unfold execPacketReceive
  rw [if_neg hp, if_neg (by rw [hb]; exact Bool.false_ne_true), he]
  simp [isCtl, hc]

/-- Admitted, a packet in transit takes slots of its input port and waits at the port of its next hop. -/
theorem State.takeIn_admitted {s : State} {i port : Nat} {p : Packet} {vc1 esc : Bool} (ha : s.admitIn i p vc1 = some esc)
    (he : s.fabric.egress (pktPos p) = some port) (hc : pktField p 6 2 ≠ 3) :
    s.takeIn i (p, vc1) = (s.modPort i fun t => { t with slots := t.slots ++ [(p, vc1, esc)] }).modPort port fun t => { t with through := t.through ++ [p] } := by
  unfold State.takeIn
  simp [ha, he, isCtl, hc]

/-- Not admitted, it waits before the slots of its input port. -/
theorem State.takeIn_waits {s : State} {i : Nat} {p : Packet} {vc1 : Bool} (ha : s.admitIn i p vc1 = none) :
    s.takeIn i (p, vc1) = s.modPort i fun t => { t with heads := t.heads ++ [(p, vc1)] } := by
  unfold State.takeIn
  rw [ha]

/-- A packet for this package from its domain is counted at the core that it names, and served. -/
theorem exec_packetReceive_here {s : State} {p : Packet} (hp : s.power.ps ≠ 3) (hb : pktBad p = false)
    (he : s.fabric.egress (pktPos p) = none) (hin : ∀ x y z c, p.body ≠ .outside x y z c) :
    exec (.packetReceive p) s =
      .next ((s.countFlits p 41 (BitVec.ofNat 7 (pktField p 16 7))).serve p true (fun s a => (s.noteRemote p a).answerTo p none a) p.body) := by
  show execPacketReceive p s = _
  unfold execPacketReceive
  rw [if_neg hp, if_neg (by rw [hb]; exact Bool.false_ne_true), he]
  dsimp only
  split
  next h => exact absurd h (hin _ _ _ _)
  next h => exact absurd h (hin _ _ _ _)
  next h => exact absurd h (hin _ _ _ _)
  next => rfl

end Sys2Proof.Machine

namespace Sys2Proof.Package

open Sys2Proof.Machine Sys2Proof.Stmt

theorem ringEvents : RingEvents := by
  intro s ring die v func
  refine ⟨rfl, fun out inp p hout idle pick => exec_dieSwitchTransfer_single hout idle pick, ⟨_, exec_fctlWrite_pf .., ?_⟩,
    ⟨_, exec_fdirWrite_pf .., fun j hj => ?_⟩, fun h => ⟨exec_fctlWrite_vf h .., exec_fdirWrite_vf h ..⟩⟩
  · rw [State.ring_modRing ring.isLt]
    exact ⟨rfl, sharedLimit_toNat v⟩
  · rw [State.ring_modRing ring.isLt]
    exact fdir_digit v.toNat hj

theorem packetEvents : PacketEvents := by
  intro s p
  refine ⟨fun off => congrArg _ (if_pos off), fun on => ⟨exec_packetReceive_bad on, fun port esc hb he hc ha => ?_, fun port hb he hc ha => ?_,
    fun b hb he hbody hin => ?_⟩⟩
  · rw [exec_packetReceive_transit on hb he hc, State.takeIn_admitted ha he hc]
  · rw [exec_packetReceive_transit on hb he hc, State.takeIn_waits ha]
  · subst hbody
    exact exec_packetReceive_here on hb he hin

/-- Settles O41: rings, die switches, and packets that come. -/
theorem ringAndPacketEvents : Obligations.RingAndPacketEvents := ⟨ringEvents, packetEvents⟩

end Sys2Proof.Package

/-! PROOFS. The record of a fault, for any property of the state (R236, R237, R471): what each operation of the I/O die on the way keeps. -/

namespace Sys2Proof.Machine

/-! ### What the record of a fault keeps -/

@[simp] theorem State.eccFound_ports (s : State) (pa : Nat) (e : Ecc) : (s.eccFound pa e).ports = s.ports := by cases e <;> rfl

@[simp] theorem State.bankRead_ports (s : State) (pa n : Nat) : (s.bankRead pa n).1.ports = s.ports := by
  unfold State.bankRead
  split
  · dsimp only
    split <;> rfl
  · exact State.meet_keeps (P := fun t => t.ports = s.ports) s pa n rfl fun t a e h => (t.eccFound_ports a e).trans h

@[simp] theorem State.unpoison_ports (s : State) (pa n : Nat) : (s.unpoison pa n).ports = s.ports := by
  unfold State.unpoison
  split <;> rfl

@[simp] theorem State.cleared_ports (s : State) (pa : Nat) : (s.cleared pa).ports = s.ports := by
  unfold State.cleared
  split
  · rw [State.unpoison_ports, State.poke_ports]
  · rfl

@[simp] theorem State.bankWrite_ports (s : State) (pa : Nat) (bs : List Byte) : (s.bankWrite pa bs).ports = s.ports := by
  rw [State.bankWrite_eq, State.unpoison_ports, State.poke_ports]
  unfold State.readied
  split <;> exact s.cleared_ports pa

@[simp] theorem State.sendMsix_ports (s : State) (f v : Nat) : (s.sendMsix f v).ports = s.ports := by
  unfold State.sendMsix
  split
  · exact s.modFunc_ports f _
  · rfl

/-- A property of the state that each single operation of the I/O die keeps, of those that a record of a fault is made of. -/
structure RecordKeeps (P : State → Prop) : Prop where
  read  : ∀ {t : State}, P t → ∀ pa n, P (t.bankRead pa n).1
  write : ∀ {t : State}, P t → ∀ pa bs, P (t.bankWrite pa bs)
  wait  : ∀ {t : State}, P t → ∀ p ctx addr act, P (t.devAdd 0 p ctx addr act)
  log   : ∀ {t : State}, P t → ∀ kind info, P (t.logErr kind info)
  msix  : ∀ {t : State}, P t → ∀ f v, P (t.sendMsix f v)
  part  : ∀ {t : State}, P t → ∀ p f, P (t.modPart p f)

/-- The torus ports are no part of it. -/
theorem recordKeeps_ports (s : State) : RecordKeeps fun t => t.ports = s.ports where
  read h pa n := (State.bankRead_ports _ pa n).trans h
  write h pa bs := (State.bankWrite_ports _ pa bs).trans h
  wait h _ _ _ _ := h
  log h _ _ := h
  msix h f v := (State.sendMsix_ports _ f v).trans h
  part h _ _ := h

section
variable {P : State → Prop} (k : RecordKeeps P) {s : State} (h : P s)
include k h

/-- A read of linear space goes piece by piece, each a read at its bank. -/
theorem RecordKeeps.linRead (part : BitVec 5) (ctx : BitVec 3) (addr n : Nat) : P (s.linRead part ctx addr n).1 := by
  unfold State.linRead
  refine List.foldlRecOn (motive := fun a : State × Except LinErr (List Byte) => P a.1) _ _ h fun a ha p _ => ?_
  obtain ⟨t, e | bs⟩ := a
  · exact ha
  dsimp only
  split
  · split <;> exact ha
  · exact ha
  next pa _ =>
    have hb := k.read ha pa p.2
    split <;> next hu => rw [hu] at hb; exact hb

/-- A write of linear space goes piece by piece, each a write at its bank or one that waits. -/
theorem RecordKeeps.linWrite {t : State} {part : BitVec 5} {ctx : BitVec 3} {addr : Nat} {bs : List Byte}
    (ht : s.linWrite part ctx addr bs = .ok t) : P t := by
  revert t
  unfold State.linWrite
  refine List.foldlRecOn (motive := fun a : Except LinErr State => ∀ {t}, a = .ok t → P t) _ _
    (fun e => by cases e; exact h) fun a ha p _ t ht => ?_
  obtain e | u := a
  · cases ht
  have hu : P u := ha rfl
  dsimp only at ht
  split at ht
  · cases ht; exact k.wait hu ..
  · cases ht
  · split at ht
    · cases ht; exact k.wait hu ..
    · cases ht; exact k.write hu ..

theorem RecordKeeps.devWrite (p : BitVec 5) (addr : Nat) (bs : List Byte) : P (s.devWrite p addr bs) := by
  unfold State.devWrite
  split
  next ht => exact k.linWrite h ht
  · exact k.log h ..

theorem RecordKeeps.faultHeader (p : BitVec 5) : P (s.faultHeader p).1 := by
  have hr := k.linRead h p 0 (s.part p).pfaultq.toNat 24
  unfold State.faultHeader
  split <;> next ht => rw [ht] at hr; exact hr

/-- A record waits for its header, is noted for want of one, enters its slot, waits for one, or is dropped (R237). -/
theorem RecordKeeps.writeRecord (p : BitVec 5) (r : FaultRec) : P (s.writeRecord p r) := by
  have hh := k.faultHeader h p
  unfold State.writeRecord
  dsimp only
  split
  next ht => rw [ht] at hh; exact k.part hh ..
  next ht => rw [ht] at hh; exact k.log hh ..
  next ht =>
    rw [ht] at hh
    split
    · split
      · exact k.msix (k.devWrite (k.devWrite hh ..) ..) ..
      · exact k.devWrite (k.devWrite hh ..) ..
    · split
      · exact k.part hh ..
      · exact k.devWrite hh ..

/-- A record for the source of a packet is a fault record of its partition, or an entry of the error log (R27, R44). -/
theorem RecordKeeps.notePkt (p : Packet) (kind : Nat) (det : BitVec 320) : P (s.notePkt p kind det) := by
  unfold State.notePkt
  split
  · exact k.writeRecord h ..
  · exact k.log h ..

end

@[simp] theorem State.notePkt_ports (s : State) (p : Packet) (kind : Nat) (det : BitVec 320) : (s.notePkt p kind det).ports = s.ports :=
  (recordKeeps_ports s).notePkt rfl p kind det

end Sys2Proof.Machine

/-! PROOFS. Torus links and training (R41 to R44): what each event does, case by case, and the statement about them. -/

namespace Sys2Proof.Machine

/-! ### One port -/

theorem State.port_lt {s : State} {i : Nat} {t : TorusPort} (h : s.ports.toList[i]? = some t) : i < 6 := by
  have := (List.getElem?_eq_some_iff.1 h).1
  rwa [Vector.length_toList] at this

/-- The changed port reads back. -/
theorem State.modPort_port {s : State} {i : Nat} {t : TorusPort} (h : s.ports.toList[i]? = some t) (f : TorusPort → TorusPort) :
    (s.modPort i f).ports.toList[i]? = some (f t) := by
  have hi := State.port_lt h
  have here : s.ports[i] = t := by simpa [hi] using h
  simp [State.modPort, hi, here]

/-- A change that is made with the port at hand. -/
theorem State.modPort_congr {s : State} {i : Nat} {t : TorusPort} (h : s.ports.toList[i]? = some t) {f g : TorusPort → TorusPort} (e : f t = g t) :
    s.modPort i f = s.modPort i g := by
  have hi := State.port_lt h
  have here : s.ports[i] = t := by simpa [hi] using h
  simp [State.modPort, hi, here, e]

/-! ### What a port is, beside what it carries (R44) -/

/-- Is a port up, down, training? -/
def TorusPort.link (t : TorusPort) : Bool × Bool × Bool := (t.up, t.down, t.training)

/-- The same of all ports. -/
def State.links (s : State) : List (Bool × Bool × Bool) := s.ports.toList.map TorusPort.link

theorem State.links_get {s : State} {i : Nat} {t : TorusPort} (h : s.ports.toList[i]? = some t) : s.links[i]? = some t.link := by
  rw [State.links, List.getElem?_map, h]
  rfl

theorem State.port_of_link {s : State} {i : Nat} {l : Bool × Bool × Bool} (h : s.links[i]? = some l) : ∃ t, s.ports.toList[i]? = some t ∧ t.link = l := by
  rw [State.links, List.getElem?_map] at h
  exact Option.map_eq_some_iff.1 h

/-- A change of what a port carries leaves all links. -/
theorem State.modPort_links {s : State} {i : Nat} {f : TorusPort → TorusPort} (h : ∀ t, (f t).link = t.link) : (s.modPort i f).links = s.links := by
  unfold State.modPort
  split
  next hi =>
    show ((s.ports.set i (f s.ports[i])).toList).map _ = _
    rw [Vector.toList_set, List.map_set, h]
    simpa [State.links] using List.set_getElem_self (as := s.links) (i := i) (by simpa [State.links] using hi)
  · rfl

theorem State.takeIn_links (s : State) (i : Nat) (e : Packet × Bool) : (s.takeIn i e).links = s.links := by
  unfold State.takeIn
  split
  · refine (State.modPort_links fun t => ?_).trans (State.modPort_links fun _ => rfl)
    split <;> rfl
  · exact State.modPort_links fun _ => rfl

theorem State.settleIn_links (s : State) : s.settleIn.links = s.links := by
  unfold State.settleIn
  refine List.foldlRecOn (motive := fun t : State => t.links = s.links) _ _ ?_ fun t ht i _ => ?_
  · show ((s.ports.map _).toList).map _ = _
    rw [Vector.toList_map, List.map_map]
    rfl
  · refine List.foldlRecOn (motive := fun u : State => u.links = s.links) _ _ ?_ fun u hu e _ => (u.takeIn_links i e).trans hu
    exact Eq.trans (State.modPort_links fun _ => rfl) ht

theorem State.links_of_ports {s t : State} (h : t.ports = s.ports) : t.links = s.links := by rw [State.links, h, State.links]

/-- The records of some packets leave every port (R44). -/
theorem State.notePkts_ports (ps : List Packet) (kind : Nat) (det : BitVec 320) (s : State) :
    (ps.foldl (fun s p => s.notePkt p kind det) s).ports = s.ports :=
  List.foldlRecOn (motive := fun t : State => t.ports = s.ports) _ _ rfl fun t ht p _ => (t.notePkt_ports p kind det).trans ht

/-- A port that discards what it holds stays up, down or training. -/
theorem State.discardPort_links (s : State) (i : Nat) : (s.discardPort i).links = s.links := by
  unfold State.discardPort
  rw [State.settleIn_links, State.links_of_ports (State.notePkts_ports ..)]
  exact State.modPort_links fun _ => rfl

/-! ### The events -/

/-- The port once a flit has failed at the receiver (R44): how often the same one has, and whether the link trains. -/
def TorusPort.failed (t : TorusPort) (flit : Nat) : TorusPort :=
  let n := if t.failAt = flit then t.replays + 1 else 1
  { t with failAt := flit, replays := n, training := decide (16 < n) }

/-- The state in which a port has gone back to a flit: it sends that one and all after it again, unless the link trains. -/
def State.wentBack (s : State) (i : Nat) (t : TorusPort) (flit : Nat) : State :=
  let u := s.modPort i fun _ => t.failed flit
  if (t.failed flit).training then u else { u with outbox := s.outbox ++ t.resend flit }

theorem State.wentBack_ports (s : State) (i : Nat) (t : TorusPort) (flit : Nat) :
    (s.wentBack i t flit).ports = (s.modPort i fun _ => t.failed flit).ports := by
  unfold State.wentBack
  dsimp only
  split <;> rfl

theorem State.wentBack_outbox {t : TorusPort} {flit : Nat} (h : (t.failed flit).training = false) (s : State) (i : Nat) :
    (s.wentBack i t flit).outbox = s.outbox ++ t.resend flit := by
  unfold State.wentBack
  rw [h]
  rfl

section
variable {s : State} {port : BitVec 3} {t : TorusPort} (h : s.ports.toList[port.toNat]? = some t)
include h

theorem exec_torusFlitTransfer_up (ht : t.training = false) (hd : t.down = false) (hu : t.up = true) :
    exec (.torusFlitTransfer port) s = .next ({ s.modPort port.toNat (fun _ => (iter 4 (TorusPort.flit s.time) (t, [])).1) with
      outbox := s.outbox ++ (iter 4 (TorusPort.flit s.time) (t, [])).2 } : State).settleIn := by
  show execTorusFlitTransfer port s = _
  unfold execTorusFlitTransfer
  rw [h]
  simp only [ht, hd, hu]
  rfl

theorem exec_torusFlitTransfer_off (ht : t.training = false) (ho : t.down = true ∨ t.up = false) :
    exec (.torusFlitTransfer port) s = .next (s.discardPort port.toNat) := by
  have off : (t.down || !t.up) = true := by simpa using ho
  show execTorusFlitTransfer port s = _
  unfold execTorusFlitTransfer
  rw [h]
  simp only [ht, off]
  rfl

/-- A request to go back that the port can meet. -/
theorem exec_replayRequest {back : Nat} (h1 : 1 ≤ back) (h2 : back ≤ 512) (h3 : back ≤ t.sent) (ht : t.training = false) (hd : t.down = false) :
    exec (.replayRequest port back) s = .next (s.wentBack port.toNat t (t.sent - back)) := by
  have met : ¬(back = 0 ∨ 512 < back ∨ t.sent < back ∨ t.training = true ∨ t.down = true) := by
    rw [ht, hd]
    simp only [Bool.false_eq_true, or_false]
    omega
  show execReplayRequest port back s = _
  unfold execReplayRequest
  rw [h]
  dsimp only
  rw [if_neg met, State.modPort_congr h (g := fun _ => t.failed (t.sent - back)) rfl]
  simp [State.wentBack, TorusPort.failed]

theorem exec_linkRetrainEnd_ok (ht : t.training = true) :
    exec (.linkRetrainEnd port true) s = .next { (s.modPort port.toNat fun t => { t with training := false, replays := 0 }) with
      outbox := s.outbox ++ t.resend t.failAt } := by
  show execLinkRetrainEnd port true s = _
  unfold execLinkRetrainEnd
  rw [h]
  simp [ht]

theorem exec_linkRetrainEnd_failed (ht : t.training = true) :
    exec (.linkRetrainEnd port false) s = .next (((t.resend t.failAt).foldl (fun s p => s.notePkt p 23 (BitVec.ofNat 320 port.toNat))
      (s.modPort port.toNat fun t => { t with training := false, down := true })).discardPort port.toNat) := by
  show execLinkRetrainEnd port false s = _
  unfold execLinkRetrainEnd
  rw [h]
  simp [ht]

end

end Sys2Proof.Machine

namespace Sys2Proof.Package

open Sys2Proof.Machine Sys2Proof.Stmt

theorem torusEvents : TorusEvents := by
  intro s port t back h
  refine ⟨exec_torusFlitTransfer_up h, exec_torusFlitTransfer_off h, fun h1 h2 h3 ht hd => ?_, fun ht => ?_, fun ht => ?_⟩
  · refine ⟨_, t.failed (t.sent - back), exec_replayRequest h h1 h2 h3 ht hd, ?_, rfl, rfl, rfl, fun again => State.wentBack_outbox again ..⟩
    rw [State.wentBack_ports]
    exact State.modPort_port h _
  · exact ⟨_, _, exec_linkRetrainEnd_ok h ht, State.modPort_port h _, rfl, rfl, rfl⟩
  · have link := State.links_get (State.modPort_port h fun t => { t with training := false, down := true })
    rw [← State.links_of_ports (State.notePkts_ports (t.resend t.failAt) 23 (BitVec.ofNat 320 port.toNat) _), ← State.discardPort_links _ port.toNat] at link
    obtain ⟨q, hq, hl⟩ := State.port_of_link link
    simp only [TorusPort.link, Prod.mk.injEq] at hl
    obtain ⟨-, down, training⟩ := hl
    exact ⟨_, q, exec_linkRetrainEnd_failed h ht, hq, training, down⟩

end Sys2Proof.Package

/-! PROOFS. Fabric time, bring-up, windows and advertisements (R45 to R56): what each event does, and the statement about them. -/

namespace Sys2Proof.Machine

/-! ### The window register in force (R51, R54) -/

/-- A change that comes into force changes the window register alone. -/
theorem Fabric.at_eq (f : Fabric) (now : Nat) : ∃ b w e, f.at_ now = { f with budget := b, wexp := w, pending := e } := by
  unfold Fabric.at_
  split
  · split <;> exact ⟨_, _, _, rfl⟩
  · exact ⟨_, _, _, rfl⟩

/-- What waits is left waiting, or nothing is left waiting. -/
theorem Fabric.at_eq_self {f : Fabric} {now : Nat} (h : (f.at_ now).pending = f.pending) : f.at_ now = f := by
  revert h
  unfold Fabric.at_
  split
  next hp =>
    split
    · intro h
      exact absurd (h.trans hp) (by simp)
    · exact fun _ => rfl
  · exact fun _ => rfl

/-! ### A new window (R50 to R54) -/

@[simp] theorem State.countFlits_fabric (s : State) (p : Packet) (src : Nat) (c : BitVec 7) : (s.countFlits p src c).fabric = s.fabric :=
  (apply_ite State.fabric _ _ _).trans (ite_self _)

@[simp] theorem State.countFlits_time (s : State) (p : Packet) (src : Nat) (c : BitVec 7) : (s.countFlits p src c).time = s.time :=
  (apply_ite State.time _ _ _).trans (ite_self _)

@[simp] theorem State.admitAt_fabric (s : State) (i : Nat) (c : BitVec 7) (p : Packet) : (s.admitAt i c p).fabric = s.fabric := by
  unfold State.admitAt
  dsimp only
  split <;> simp

@[simp] theorem State.admitAt_time (s : State) (i : Nat) (c : BitVec 7) (p : Packet) : (s.admitAt i c p).time = s.time := by
  unfold State.admitAt
  dsimp only
  split <;> simp

/-- Writes that are admitted leave fabric time and the window as they are. -/
theorem State.admitWaiting_same (s : State) (i : Nat) : (s.admitWaiting i).fabric = s.fabric ∧ (s.admitWaiting i).time = s.time := by
  unfold State.admitWaiting
  split
  · exact ⟨rfl, rfl⟩
  · refine List.foldlRecOn (motive := fun a : Bool × State => a.2.fabric = s.fabric ∧ a.2.time = s.time) _ _ ⟨rfl, rfl⟩ fun a ha e _ => ?_
    dsimp only
    split
    · simpa using ha
    · exact ha

theorem State.admitAll_same (s : State) :
    ((List.range 6).foldl State.admitWaiting s).fabric = s.fabric ∧ ((List.range 6).foldl State.admitWaiting s).time = s.time :=
  List.foldlRecOn (motive := fun t : State => t.fabric = s.fabric ∧ t.time = s.time) _ _ ⟨rfl, rfl⟩ fun t ht i _ =>
    ⟨(t.admitWaiting_same i).1.trans ht.1, (t.admitWaiting_same i).2.trans ht.2⟩

/-- Brought up to the present, the window register is the one in force, and the window the present one. -/
theorem State.rollWindow_fabric (s : State) : s.rollWindow.fabric = { s.fabric.at_ s.time with window := s.windowNow } := by
  unfold State.rollWindow
  dsimp only
  split
  next same =>
    obtain ⟨window, pending⟩ := same
    rw [State.windowNow, ← window, Fabric.at_eq_self pending]
  · exact (State.admitAll_same _).1

/-- Bringing the windows up to the present changes the window and its register, and nothing else of fabric time. -/
theorem State.rollWindow_fabric_eq (s : State) : ∃ b w e n, s.rollWindow.fabric = { s.fabric with budget := b, wexp := w, pending := e, window := n } := by
  obtain ⟨b, w, e, h⟩ := s.fabric.at_eq s.time
  refine ⟨b, w, e, s.windowNow, ?_⟩
  rw [State.rollWindow_fabric, h]

@[simp] theorem State.rollWindow_time (s : State) : s.rollWindow.time = s.time := by
  unfold State.rollWindow
  dsimp only
  split
  · rfl
  · exact (State.admitAll_same _).2

/-! ### Syncs (R47 to R49) -/

/-- A grandmaster of no other package notes its own sync. -/
theorem exec_syncSend_alone {s : State} (hm : s.fabric.master = true) (ho : s.fabric.others = []) :
    exec .syncSend s = .next { s with fabric := { s.fabric with lastSync := s.time } } := by
  show execSyncSend s = _
  unfold execSyncSend
  rw [hm, ho]
  rfl

theorem exec_syncSend_slave {s : State} (hm : s.fabric.master = false) : exec .syncSend s = .next s := by
  show execSyncSend s = _
  unfold execSyncSend
  rw [hm]
  rfl

/-- Fabric time with an offset estimate that a sync brought at some time. -/
def Fabric.synced (f : Fabric) (offset : Int) (now : Nat) : Fabric :=
  { f with lastSync := now, offset := offset, holdover := decide (25 < offset.natAbs) }

/-- A sync leaves its estimate; within 25 ns, writes that waited for HOLDOVER to clear are admitted. -/
theorem exec_ptpSync (offset : Int) (s : State) : ∃ t, exec (.ptpSync offset) s = .next t ∧
    ∃ b w e n, t.fabric = { s.fabric.synced offset s.time with budget := b, wexp := w, pending := e, window := n } := by
  refine ⟨_, rfl, ?_⟩
  dsimp only
  split
  · exact ⟨_, _, _, _, rfl⟩
  · rw [(State.admitAll_same _).1]
    exact State.rollWindow_fabric_eq _

theorem holdover_iff (offset : Int) : decide (25 < offset.natAbs) = true ↔ offset < -25 ∨ 25 < offset := by
  rw [decide_eq_true_iff]
  omega

theorem exec_holdoverSet {s : State} (h : s.holdoverDue = true) :
    exec .holdoverSet s = .next { s with fabric := { s.fabric with holdover := true } } := congrArg _ (if_pos h)

/-! ### Bring-up (R41, R44, R45, R49, R53) -/

/-- The set-up that firmware assigns: a package with no port in use stands alone. -/
def Fabric.assigned (f : Fabric) (b : BringUp) : Fabric :=
  { f with
    pos := if b.ports = 0 then (0, 0, 0) else (b.x, b.y, b.z), size := if b.ports = 0 then (1, 1, 1) else (b.nx, b.ny, b.nz)
    domOrg := if b.ports = 0 then (0, 0, 0) else (b.ox, b.oy, b.oz), domSize := if b.ports = 0 then (1, 1, 1) else (b.dx, b.dy, b.dz)
    master := decide (b.ports = 0) || b.master }

theorem Fabric.assigned_alone {b : BringUp} (h : b.ports = 0) (f : Fabric) :
    f.assigned b = { f with pos := (0, 0, 0), size := (1, 1, 1), domOrg := (0, 0, 0), domSize := (1, 1, 1), master := true } := by
  simp [Fabric.assigned, h]

theorem Fabric.assigned_ports {b : BringUp} (h : b.ports ≠ 0) (f : Fabric) :
    f.assigned b = { f with pos := (b.x, b.y, b.z), size := (b.nx, b.ny, b.nz), domOrg := (b.ox, b.oy, b.oz), domSize := (b.dx, b.dy, b.dz),
                            master := b.master } := by
  have ports : ¬b.ports = 0#6 := h
  simp [Fabric.assigned, ports]

/-- Does the transit bound of a set-up exceed a window (R53)? -/
def Fabric.exceeds (f : Fabric) (b : BringUp) (wexp : BitVec 3) : Bool :=
  decide (250 * 2 ^ wexp.toNat < transitBound (f.assigned b).domSize (f.assigned b).size)

theorem Fabric.exceeds_false {b : BringUp} (h : b.ports ≠ 0) {wexp : BitVec 3}
    (fits : transitBound (b.dx, b.dy, b.dz) (b.nx, b.ny, b.nz) ≤ 250 * 2 ^ wexp.toNat) (f : Fabric) : f.exceeds b wexp = false := by
  unfold Fabric.exceeds
  rw [Fabric.assigned_ports h]
  exact decide_eq_false (Nat.not_lt.2 fits)

/-- Is a set-up out of range, or its transit bound greater than the window in force or one that waits? -/
def State.refuses (s : State) (b : BringUp) : Bool :=
  !decide (b.ports = 0) && (!bringUpOk b || s.fabric.exceeds b (s.fabric.at_ s.time).wexp ||
    s.fabric.exceeds b ((s.fabric.at_ s.time).pending.getD (0, (s.fabric.at_ s.time).wexp)).2)

theorem State.refuses_alone {b : BringUp} (h : b.ports = 0) (s : State) : s.refuses b = false := by
  unfold State.refuses
  rw [decide_eq_true h]
  rfl

theorem State.refuses_fits {s : State} {b : BringUp} (h : b.ports ≠ 0) (ok : bringUpOk b = true)
    (now : transitBound (b.dx, b.dy, b.dz) (b.nx, b.ny, b.nz) ≤ 250 * 2 ^ (s.fabric.at_ s.time).wexp.toNat)
    (next : ∀ e, (s.fabric.at_ s.time).pending = some e → transitBound (b.dx, b.dy, b.dz) (b.nx, b.ny, b.nz) ≤ 250 * 2 ^ e.2.toNat) :
    s.refuses b = false := by
  have waiting : transitBound (b.dx, b.dy, b.dz) (b.nx, b.ny, b.nz) ≤
      250 * 2 ^ ((s.fabric.at_ s.time).pending.getD (0, (s.fabric.at_ s.time).wexp)).2.toNat := by
    cases hp : (s.fabric.at_ s.time).pending with
    | none => exact now
    | some e => exact next e hp
  unfold State.refuses
  rw [ok, Fabric.exceeds_false h now, Fabric.exceeds_false h waiting]
  exact Bool.and_false _

/-- The one step of the time-keeper to the grandmaster's time, before any partition is defined (R49). -/
def State.stepTime (s : State) : Option Nat → State
  | some t => if s.fabric.stepped || !s.defined.isEmpty then s
    else { s with time := t, tickSeen := t / 1000, agenda := s.agenda.filter (fun i => i != .retentionTick && i != .windowBoundary),
                  fabric := { s.fabric with stepped := true, lastSync := t } }
  | none => s

/-- The step of the time-keeper changes whether it has been stepped and its last sync, and nothing else of fabric time. -/
theorem State.stepTime_fabric (s : State) (o : Option Nat) : ∃ stepped last, (s.stepTime o).fabric = { s.fabric with stepped := stepped, lastSync := last } := by
  unfold State.stepTime
  split
  · split <;> exact ⟨_, _, rfl⟩
  · exact ⟨_, _, rfl⟩

/-- The set-up in force, with the ports in use. -/
def State.setUp (s : State) (b : BringUp) : State :=
  { s with
    fabric := s.fabric.assigned b
    ports := Vector.ofFn fun i => { s.ports[i] with up := b.ports.getLsbD i.val, down := false, training := false } }

/-- A set-up that is not refused is in force; then the time-keeper may step. -/
theorem exec_fabricBringUp {b : BringUp} {s : State} (h : s.refuses b = false) :
    exec (.fabricBringUp b) s = .next ((s.setUp b).stepTime b.timeStep) :=
  congrArg Host.Outcome.next (if_neg fun e => Bool.false_ne_true (h.symm.trans e))

theorem exec_fabricBringUp_fabric {b : BringUp} {s : State} (h : s.refuses b = false) : ∃ t, exec (.fabricBringUp b) s = .next t ∧
    ∃ stepped last, t.fabric = { s.fabric.assigned b with stepped := stepped, lastSync := last } :=
  ⟨_, exec_fabricBringUp h, (s.setUp b).stepTime_fabric b.timeStep⟩

/-! ### Windows (R50 to R55) -/

/-- WINCFG of the physical function: what it leaves waits for the next multiple of 8 µs. -/
theorem exec_wincfgWrite (v : BitVec 64) (s : State) : ∃ t, exec (.wincfgWrite 0 v) s = .next t ∧
    ∃ e, t.fabric = { s.rollWindow.fabric with pending := some e, pendAt := (s.time / 8000 + 1) * 8000 } := by
  rw [← s.rollWindow_time]
  exact ⟨_, rfl, _, rfl⟩

/-- The advertisements of a window leave the window, and the writes that are not yet visible. -/
theorem State.advertise_same (s : State) : s.advertise.fabric.window = s.fabric.window ∧ s.advertise.posts = s.posts := by
  unfold State.advertise
  dsimp only
  refine List.foldlRecOn (motive := fun t : State => t.fabric.window = s.fabric.window ∧ t.posts = s.posts) _ _ ⟨rfl, rfl⟩ fun t ht i _ => ?_
  split
  · rw [State.modPort_fabric, State.modPort_posts]
    exact ht
  · exact ht

/-- A window begins: posted writes that have become visible go. -/
theorem exec_windowBoundary (s : State) : ∃ t, exec .windowBoundary s = .next t ∧ t.fabric.window = s.rollWindow.fabric.window ∧
    t.posts = s.rollWindow.posts.filter fun w => w.live s.time := by
  refine ⟨_, rfl, ?_⟩
  dsimp only
  rw [s.rollWindow_time]
  split
  · exact ⟨rfl, rfl⟩
  · exact State.advertise_same _

/-! ### Advertisements (R56) -/

/-- An entry for a domain of which the neighbour has none is put before its others. -/
theorem exec_advertisementReceive_new {s : State} {port : BitVec 3} {q : TorusPort} {dom : BitVec 16} (hq : s.ports.toList[port.toNat]? = some q)
    (hd : dom ≠ 0) (new : ∀ e ∈ q.adverts, e.dom ≠ dom) (window : BitVec 32) (n : BitVec 48) :
    exec (.advertisementReceive port window [(dom, n)]) s =
      .next (s.modPort port.toNat fun t => { t with adverts := ⟨dom, n, window, (s.fabric.at_ s.time).wexp, s.time⟩ :: q.adverts }) := by
  have kept : [(dom, n)].filter (fun e => e != (0, 0)) = [(dom, n)] := List.filter_cons_of_pos (bne_iff_ne.2 fun e => hd (congrArg Prod.fst e))
  have unknown : q.adverts.find? (fun a => a.dom == dom) = none := List.find?_eq_none.2 fun e he => by simpa using new e he
  refine congrArg _ (State.modPort_congr hq ?_)
  rw [kept]
  simp [unknown]

end Sys2Proof.Machine

namespace Sys2Proof.Package

open Sys2Proof.Machine Sys2Proof.Stmt

theorem fabricTimeEvents : FabricTimeEvents := by
  intro s off v b port window dom n
  refine ⟨fun hm ho => ⟨_, exec_syncSend_alone hm ho, rfl, rfl⟩, exec_syncSend_slave, ?_, fun due => ⟨_, exec_holdoverSet due, rfl, rfl⟩, fun alone => ?_,
    fun ports ok now next => ?_, ?_, rfl, ?_, fun hp hd new => ?_⟩
  · obtain ⟨t, e, b, w, p, n, ht⟩ := exec_ptpSync off s
    refine ⟨t, e, ?_⟩
    rw [ht]
    exact ⟨rfl, rfl, holdover_iff off⟩
  · obtain ⟨t, e, stepped, last, ht⟩ := exec_fabricBringUp_fabric (State.refuses_alone alone s)
    rw [Fabric.assigned_alone alone] at ht
    exact ⟨t, e, by rw [ht], by rw [ht], by rw [ht]⟩
  · obtain ⟨t, e, stepped, last, ht⟩ := exec_fabricBringUp_fabric (State.refuses_fits ports ok now next)
    rw [Fabric.assigned_ports ports] at ht
    exact ⟨t, e, by rw [ht], by rw [ht], by rw [ht], by rw [ht]⟩
  · obtain ⟨t, e, change, ht⟩ := exec_wincfgWrite v s
    exact ⟨t, e, by rw [ht], by rw [ht]; rfl⟩
  · obtain ⟨t, e, hw, hp⟩ := exec_windowBoundary s
    exact ⟨t, e, hw, fun w hm => by rw [hp] at hm; exact (List.mem_filter.1 hm).2⟩
  · have hq : s.ports.toList[port.toNat]? = some s.ports[port.toNat] := by simp [hp]
    exact ⟨_, _, exec_advertisementReceive_new hq hd (new _ hq) window n, State.modPort_port hq _, List.mem_cons_self⟩

/-- Settles O42: torus links and training, fabric time, windows and advertisements. -/
theorem torusAndTimeEvents : Obligations.TorusAndTimeEvents := ⟨torusEvents, fabricTimeEvents⟩

end Sys2Proof.Package

/-! PROOFS. The host's accesses and the completion signals (R57 to R61, R80, R81, R198, R210, R213): what each event does, case by case, and the statement about them. -/

namespace Sys2Proof.Machine

open Sys2Proof.Stmt

/-! ### The order of host accesses (R213) -/

/-- An access that comes while another waits is put behind those that wait. -/
theorem State.hostRun_behind {s : State} {i j : Instr} {called : Bool} {rest : List (Instr × Bool)} (h : s.hostQ = (j, called) :: rest)
    (other : called = false ∨ j ≠ i) (f : State → State × Bool) : s.hostRun i f = { s with hostQ := s.hostQ ++ [(i, false)] } := by
  have waits : ¬(called && decide (j = i)) = true := fun both => by
    obtain ⟨calls, same⟩ := Bool.and_eq_true_iff.1 both
    rcases other with quiet | differs
    · exact Bool.false_ne_true (quiet.symm.trans calls)
    · exact differs (of_decide_eq_true same)
  unfold State.hostRun
  rw [h]
  exact if_neg waits

/-- An access whose turn it is and which is over. -/
theorem State.hostRun_over {s t : State} {i : Instr} {fin : State → State} (turn : Turn s i fin) {f : State → State × Bool} (h : f s = (t, true)) :
    s.hostRun i f = fin t := by
  unfold State.hostRun
  obtain ⟨empty, rfl⟩ | ⟨rest, first, rfl⟩ := turn
  · rw [empty, h]
  · rw [first, h]
    simp

/-- An access that is not over waits, and is called up again. -/
theorem State.hostRun_held {s t : State} {i : Instr} (empty : s.hostQ = []) {f : State → State × Bool} (h : f s = (t, false)) :
    s.hostRun i f = { t with hostQ := [(i, false)] } := by
  unfold State.hostRun
  rw [empty, h]

/-! ### What lies on another package, and what a frame holds back (R57, R61, R198) -/

theorem State.hostAsk_here (s : State) (f : BitVec 6) (a n : Nat) (o : Option Nat) (act : Nat → Nat → DevAct) : s.hostAsk f [(a, n, .ok o)] act = none := rfl

theorem State.hostAsk_answered {s : State} {f : BitVec 6} {a n : Nat} {act : Nat → Nat → DevAct} {b : PktBody}
    (h : s.devAnswer (partOf f) 0 a (act a n) = some b) (pkg pa : Nat) : s.hostAsk f [(a, n, .error (.away pkg pa))] act = none := by
  have answer : s.devAnswer (partOf f) 0#3 a (act a n) = some b := h
  simp [State.hostAsk, answer]

theorem State.hostAsk_unanswered {s : State} {f : BitVec 6} {a n : Nat} {act : Nat → Nat → DevAct} (h : s.devAnswer (partOf f) 0 a (act a n) = none) (pkg pa : Nat) :
    s.hostAsk f [(a, n, .error (.away pkg pa))] act = some (s.devAsk opHost (partOf f) 0 a (act a n)) := by
  have unanswered : s.devAnswer (partOf f) 0#3 a (act a n) = none := h
  simp [State.hostAsk, unanswered]

theorem State.heldBack_free {s : State} {pa : Nat} (h : s.heldFrame pa = false) : s.heldBack [pa] = none := by
  simp [State.heldBack, h]

/-! ### Reads (R59, R61) -/

section
variable {s t : State} {f : BitVec 6} {addr n pa pkg tag : Nat} {bs : List Byte} {fin : State → State}

theorem exec_hostRead_data (turn : Turn s (.hostRead f addr n) fin) (piece : OnePiece s f addr n false (.ok (some pa))) (read : s.bankRead pa n = (t, .data bs)) :
    exec (.hostRead f addr n) s = .next (fin (t.toHost (.data bs))) := by
  obtain ⟨inside, places⟩ := piece
  refine congrArg _ (State.hostRun_over turn ?_)
  simp [inside, places, notThere, State.hostAsk_here, read]

theorem exec_hostRead_poison (turn : Turn s (.hostRead f addr n) fin) (piece : OnePiece s f addr n false (.ok (some pa))) (read : s.bankRead pa n = (t, .poison)) :
    exec (.hostRead f addr n) s = .next (fin ((t.hostFail f 2 (s.bar2At f addr)).toHost .ep)) := by
  obtain ⟨inside, places⟩ := piece
  refine congrArg _ (State.hostRun_over turn ?_)
  simp [inside, places, notThere, State.hostAsk_here, read]

theorem exec_hostRead_absent (turn : Turn s (.hostRead f addr n) fin) (piece : OnePiece s f addr n false (.error .absent)) :
    exec (.hostRead f addr n) s = .next (fin ((s.hostFail f 1 (s.bar2At f addr)).toHost (.data (List.replicate n 0xFF)))) := by
  obtain ⟨inside, places⟩ := piece
  refine congrArg _ (State.hostRun_over turn ?_)
  simp [inside, places, notThere]

theorem exec_hostRead_answered (turn : Turn s (.hostRead f addr n) fin) (piece : OnePiece s f addr n false (.error (.away pkg pa)))
    (answer : s.devAnswer (partOf f) 0 (s.bar2At f addr) (.read n) = some (.data tag bs)) :
    exec (.hostRead f addr n) s = .next (fin (s.toHost (.data bs))) := by
  obtain ⟨inside, places⟩ := piece
  have found : (s.devAnswer (partOf f) 0#3 (s.bar2At f addr) (.read n)).bind devFound = some (.ok bs) := congrArg (·.bind devFound) answer
  refine congrArg _ (State.hostRun_over turn ?_)
  simp [inside, places, notThere, State.hostAsk_answered (act := fun _ n => .read n) answer, found]

theorem exec_hostRead_outside (turn : Turn s (.hostRead f addr n) fin) (outside : s.inBar2 f addr n = false) :
    exec (.hostRead f addr n) s = .next (fin (s.toHost (.data (List.replicate n 0xFF)))) :=
  congrArg _ (State.hostRun_over turn (if_pos (by rw [outside]; rfl)))

theorem exec_hostRead_asked (empty : s.hostQ = []) (piece : OnePiece s f addr n false (.error (.away pkg pa)))
    (unanswered : s.devAnswer (partOf f) 0 (s.bar2At f addr) (.read n) = none) :
    exec (.hostRead f addr n) s = .next { s.devAsk opHost (partOf f) 0 (s.bar2At f addr) (.read n) with hostQ := [(.hostRead f addr n, false)] } := by
  obtain ⟨inside, places⟩ := piece
  refine congrArg _ (State.hostRun_held empty ?_)
  simp [inside, places, notThere, State.hostAsk_unanswered (act := fun _ n => .read n) unanswered]
end

/-! ### Writes (R61, R198) -/

theorem exec_hostWrite_home {s : State} {f : BitVec 6} {addr pa : Nat} {bytes : List Byte} {fin : State → State} (turn : Turn s (.hostWrite f addr bytes) fin)
    (piece : OnePiece s f addr bytes.length true (.ok (some pa))) (free : s.heldFrame pa = false) :
    exec (.hostWrite f addr bytes) s = .next (fin (s.bankWrite pa bytes)) := by
  obtain ⟨inside, places⟩ := piece
  refine congrArg _ (State.hostRun_over turn ?_)
  simp [inside, places, State.hostAsk_here, State.heldBack_free free]

theorem exec_hostWrite_held {s t : State} {f : BitVec 6} {addr pa : Nat} {bytes : List Byte} (empty : s.hostQ = [])
    (piece : OnePiece s f addr bytes.length true (.ok (some pa))) (held : s.heldBack [pa] = some t) :
    exec (.hostWrite f addr bytes) s = .next { t with hostQ := [(.hostWrite f addr bytes, false)] } := by
  obtain ⟨inside, places⟩ := piece
  refine congrArg _ (State.hostRun_held empty ?_)
  simp [inside, places, held]

/-! ### AtomicOps (R57, R61) -/

theorem State.hostAtomic_behind {s : State} {i j : Instr} {called : Bool} {rest : List (Instr × Bool)} (h : s.hostQ = (j, called) :: rest)
    (other : called = false ∨ j ≠ i) (f : BitVec 6) (addr w : Nat) (op : AtomOp) (cmp v : BitVec 128) :
    s.hostAtomic f addr w op cmp v i = { s with hostQ := s.hostQ ++ [(i, false)] } := by
  unfold State.hostAtomic
  exact State.hostRun_behind h other _

/-- An AtomicOp at its home answers the old value. -/
theorem State.hostAtomic_home {s t : State} {f : BitVec 6} {addr w pa : Nat} {op : AtomOp} {cmp v : BitVec 128} {i : Instr} {bs : List Byte} {fin : State → State}
    (turn : Turn s i fin) (atom : OneAtom s f addr w pa) (done : s.atomAt ⟨op, pa, w, cmp, v⟩ = (t, .data bs)) :
    s.hostAtomic f addr w op cmp v i = fin (t.toHost (.data bs)) := by
  obtain ⟨inside, aligned, place, free⟩ := atom
  unfold State.hostAtomic
  refine State.hostRun_over turn ?_
  simp [inside, aligned, place, State.heldBack_free free, done, State.hostOld]

/-! ### Completion signals (R80, R81, R210) -/

/-- No write of the partition that an update releases is outstanding. -/
def State.released (s : State) (p : BitVec 5) (j : SigJob) : Prop := ∀ r ∈ s.dev, r.isWrite = true → r.part = p → j.after ≤ r.tag

theorem State.released_any {s : State} {p : BitVec 5} {j : SigJob} (h : s.released p j) :
    (s.dev.any fun r => r.isWrite && r.part == p && decide (r.tag < j.after)) = false := by
  simpa [State.released, ← Bool.not_eq_true, and_assoc] using h

/-- What an addition that has been made leaves: the interrupt where the sum is 0, and the update over (R80, R81). -/
def State.signalled (s : State) (p : BitVec 5) (id : Nat) (j : SigJob) (new : Word) : State :=
  ((match j.intr with
    | some (f, n) => if new = 0 then s.sendMsix f n else s
    | none => s).jobOver p id).devDone (opJob p id)

/-- A launch with no signal is done at once. -/
theorem State.performJob_none {s : State} {p : BitVec 5} {id : Nat} (h : (s.part p).jobs.find? (fun i => i.id == id) = none)
    (ended : ∀ l, (s.part p).launch id = some l → l.life = .finished) : s.performJob p id = s.jobOver p id := by
  have none_runs : ((s.part p).launch id).any (fun l => l.life != .finished) = false := by
    cases launch : (s.part p).launch id with
    | none => rfl
    | some l => simp [ended l launch]
  unfold State.performJob
  rw [h]
  exact if_neg (by rw [none_runs]; exact Bool.false_ne_true)

section
variable {s : State} {p : BitVec 5} {id : Nat} {j : SigJob} (job : (s.part p).jobs.find? (fun i => i.id == id) = some j) (paid : j.stamp = none) (free : s.released p j)
include job paid free

theorem State.performJob_unsigned (unsigned : j.addr = 0) : s.performJob p id = s.jobOver p id := by
  unfold State.performJob
  simp [job, paid, State.released_any free, unsigned]

section
variable {t u : State} {v : Word} {pa pkg tag : Nat} {bs : List Byte} (signed : j.addr ≠ 0) (add : j.add = some v)
include signed add

/-- The addition at a home in this package. -/
theorem State.performJob_home (place : s.linPa p j.ctx j.addr 8 true = .ok pa) (read : s.linRead p j.ctx j.addr 8 = (t, .ok bs))
    (again : t.linPa p j.ctx j.addr 1 true = .ok pa) (taken : t.turnAway pa true = none)
    (write : t.linWrite p j.ctx j.addr (bvBytes 8 (leBV 64 bs + v)) = .ok u) : s.performJob p id = u.signalled p id j (leBV 64 bs + v) := by
  unfold State.performJob
  simp only [job, paid, State.released_any free, signed, add, place, read, again, taken, write, if_false, Bool.false_eq_true, Option.isSome_none, Option.isNone_some, Bool.false_or, beq_iff_eq]
  rfl

theorem State.performJob_answered (place : s.linPa p j.ctx j.addr 8 true = .error (.away pkg pa))
    (answer : s.devAnswer p j.ctx j.addr (.atomic .add 8 0 (v.setWidth 128)) = some (.data tag bs)) :
    s.performJob p id = s.signalled p id j (leBV 64 bs + v) := by
  unfold State.performJob
  simp only [job, paid, State.released_any free, signed, add, place, answer, if_false, Bool.false_eq_true, Option.isSome_none, Option.isNone_some, Bool.false_or, beq_iff_eq]
  rfl

theorem State.performJob_asked (place : s.linPa p j.ctx j.addr 8 true = .error (.away pkg pa))
    (unanswered : s.devAnswer p j.ctx j.addr (.atomic .add 8 0 (v.setWidth 128)) = none) :
    s.performJob p id = s.devAsk (opJob p id) p j.ctx j.addr (.atomic .add 8 0 (v.setWidth 128)) := by
  unfold State.performJob
  simp only [job, paid, State.released_any free, signed, add, place, unanswered, if_false, Bool.false_eq_true, Option.isSome_none]
end
end

end Sys2Proof.Machine

namespace Sys2Proof.Package

open Sys2Proof.Machine Sys2Proof.Stmt

theorem hostAccess : HostAccess := by
  intro s t f addr n pa pkg tag bytes bs wd v c w fin
  refine ⟨fun i hi j called rest queue other => ?_,
    fun turn => ⟨exec_hostRead_data turn, exec_hostRead_poison turn, exec_hostRead_absent turn, exec_hostRead_answered turn, exec_hostRead_outside turn⟩,
    exec_hostRead_asked, exec_hostWrite_home, exec_hostWrite_held, fun turn atom done => congrArg _ (State.hostAtomic_home turn atom done),
    fun turn atom done => congrArg _ (State.hostAtomic_home turn atom done), fun turn atom done => congrArg _ (State.hostAtomic_home turn atom done)⟩
  simp only [List.mem_cons, List.not_mem_nil, or_false] at hi
  rcases hi with rfl | rfl | rfl | rfl | rfl
  · exact congrArg _ (State.hostRun_behind queue other _)
  · exact congrArg _ (State.hostRun_behind queue other _)
  · exact congrArg _ (State.hostAtomic_behind queue other ..)
  · exact congrArg _ (State.hostAtomic_behind queue other ..)
  · exact congrArg _ (State.hostAtomic_behind queue other ..)

theorem completionSignals : CompletionSignals := by
  intro s t u p id pa pkg tag j v bs
  refine ⟨fun none ended => congrArg _ (State.performJob_none none ended), fun job paid unsigned free => congrArg _ (State.performJob_unsigned job paid free unsigned),
    fun job paid signed add free => ⟨fun place read again taken write => ?_, fun place answer => ?_, fun place unanswered => ?_⟩⟩
  · exact congrArg _ (State.performJob_home job paid free signed add place read again taken write)
  · exact congrArg _ (State.performJob_answered job paid free signed add place answer)
  · exact congrArg _ (State.performJob_asked job paid free signed add place unanswered)

/-- Settles O43: host accesses of one piece, and completion signals. -/
theorem hostAccessEvents : Obligations.HostAccessEvents := ⟨hostAccess, completionSignals⟩

end Sys2Proof.Package

/-! PROOFS. The mailbox commands (R25, R58, R63, R64, R113, R243): what each command does, and the statement about them. -/

namespace Sys2Proof.Machine

open Sys2Proof.Stmt

/-! ### What lies on other packages (log 110) -/

/-- What has been answered is left to nobody. -/
theorem State.farLeft_answered {s : State} {p : BitVec 5} {ctx : BitVec 3} {rs : List (Nat × Nat)} (h : Answered s p ctx rs) : s.farLeft p ctx rs = [] := by
  refine List.filter_eq_nil_iff.2 fun e he => ?_
  obtain ⟨r, hr, he⟩ := List.mem_flatMap.1 he
  have found := h r hr e he
  split
  · rename_i pkg pa place
    rw [← Option.not_isSome, found pkg pa place]
    exact Bool.false_ne_true
  · exact Bool.false_ne_true

/-- An action whose reads have been answered runs at once. -/
theorem State.needFar_answered {s : State} {p : BitVec 5} {ctx : BitVec 3} {rs : List (Nat × Nat)} (h : Answered s p ctx rs) (op : Nat) (f : State → State) :
    s.needFar op p ctx rs f = f s := by
  unfold State.needFar
  rw [State.farLeft_answered h]
  rfl

/-! ### Which commands run (R25, R63) -/

/-- Before READY a command answers NOT_READY. -/
theorem State.mailbox_notReady {s : State} {f : BitVec 6} (busy : (s.func f.toNat).mbox.stat.getLsbD 0 = true) (early : s.boot.state ≠ 5)
    (fields : List (Nat × Nat)) (run : Mailbox → State) : s.mailbox f fields run = s.answer f 1 [] := by
  unfold State.mailbox
  dsimp only
  rw [busy]
  exact (if_neg Bool.false_ne_true).trans (if_pos early)

/-- A command whose data in sets no byte outside its fields runs. -/
theorem State.mailbox_command {s : State} {f : BitVec 6} {fields : List (Nat × Nat)} (h : Command s f fields) (run : Mailbox → State) :
    s.mailbox f fields run = run (s.func f.toNat).mbox := by
  obtain ⟨busy, ready, within⟩ := h
  have clean : ((s.func f.toNat).mbox.inp.any fun e => decide (0x100 ≤ e.1) && fields.all fun r => decide (e.1 < r.1 ∨ r.1 + r.2 ≤ e.1)) = false := by
    refine List.any_eq_false.2 fun e he out => ?_
    obtain ⟨data, outside⟩ := Bool.and_eq_true_iff.1 out
    obtain ⟨r, hr, low, high⟩ := within e he (of_decide_eq_true data)
    have := of_decide_eq_true (List.all_eq_true.1 outside r hr)
    omega
  unfold State.mailbox
  dsimp only
  rw [busy, clean]
  exact (if_neg Bool.false_ne_true).trans ((if_neg fun e : s.boot.state ≠ 5 => e ready).trans (if_neg Bool.false_ne_true))

/-! ### Attestation (R25) -/

theorem exec_attest {s : State} {f : BitVec 6}
    (h : Command s f [(0x100, 0x20), (0x108, 0x20), (0x128, 0x40), (0x168, 0x40), (0x1A8, 4), (0x1B0, 0x40), (0x1F0, 0x500), (0x700, 1793)]) :
    let id := (s.func f.toNat).mbox.input 0x100 32 ++ s.boot.meas ++ s.boot.cfgMeas ++ bvBytes 4 s.boot.secver
    let digest := (Config.shake256 s.deviceKey).toList
    let sig := (Config.falconSign s.secretKey (Config.shake256 (id ++ digest)).toList).take 1280
    exec (.attest f) s = .next (s.answer f 0 [(0x100, leBytes 4 sig.length), (0x108, id), (0x1B0, digest),
      (0x1F0, sig ++ List.replicate (1280 - sig.length) 0), (0x700, s.deviceKey)]) :=
  congrArg _ (State.mailbox_command h _)

/-! ### Queues (R58, R63, R64, R113) -/

/-- The lowest number below 1,024 for which a test holds. -/
theorem lowest_below {test : Nat → Bool} {n : Nat} (small : n < 1024) (yes : test n = true) (no : ∀ j, j < n → test j = false) :
    (List.range 1024).find? test = some n :=
  List.find?_range_eq_some.2 ⟨yes, List.mem_range.2 small, fun j hj => by rw [no j hj]; rfl⟩

/-- The lowest free global number. -/
theorem State.freeGlobal {s : State} {q : Nat} (small : q < 1024) (free : (SMap.get {} s.queues q).enable = false)
    (taken : ∀ j, j < q → (SMap.get {} s.queues j).enable = true) : (List.range 1024).find? (fun q => !(SMap.get {} s.queues q).enable) = some q :=
  lowest_below small (by rw [free]; rfl) fun j hj => by rw [taken j hj]; rfl

/-- The lowest local number that none of some queues has. -/
theorem freeLocal {mine : SMap Queue} {n : Nat} (small : n < 1024) (free : ∀ e ∈ mine, e.2.local_ ≠ n) (taken : ∀ j, j < n → ∃ e ∈ mine, e.2.local_ = j) :
    (List.range 1024).find? (fun n => mine.all fun e => e.2.local_ != n) = some n := by
  refine lowest_below small (by simpa using free) fun j hj => ?_
  obtain ⟨e, he, same⟩ := taken j hj
  simpa using ⟨e.1, e.2, he, same⟩

theorem exec_queueCreate {s : State} {f : BitVec 6} {p : BitVec 5} {q n : Nat} (command : Command s f (partField f ++ [(0x100, 8), (0x108, 4), (0x110, 4)]))
    (part : s.mailPart f (s.func f.toNat).mbox = some p) :
    let m := (s.func f.toNat).mbox
    let hdr := leNat (m.input 0x100 8)
    let slots := leNat (m.input 0x108 1)
    let prio := leNat (m.input 0x109 1)
    let budget := leNat (m.input 0x10A 2)
    let mine := s.queues.filter fun e => e.2.enable && e.2.part == p
    hdr < 2 ^ 48 → 64 ∣ hdr → 4 ≤ slots → slots ≤ 16 → prio < 8 → budget < 1024 → mine.length < (s.part p).pqueues.toNat →
    (List.range 1024).find? (fun q => !(SMap.get {} s.queues q).enable) = some q →
    (List.range 1024).find? (fun n => mine.all fun e => e.2.local_ != n) = some n →
    exec (.queueCreate f) s = .next ((s.modQueue (BitVec.ofNat 10 q) fun _ =>
      { header := BitVec.ofNat 48 hdr, budget := BitVec.ofNat 10 budget, func := f, prio := BitVec.ofNat 3 prio, logslots := BitVec.ofNat 5 slots
        enable := true, part := p, local_ := n, balance := budget }).answer f 0 [(0x110, leBytes 2 n), (0x112, leBytes 2 q)]) := by
  intro m hdr slots prio budget mine header aligned few many level rate room global own
  refine congrArg _ ((State.mailbox_command command _).trans ?_)
  dsimp only
  rw [part]
  have argument : ¬(2 ^ 48 ≤ hdr ∨ hdr % 64 ≠ 0 ∨ slots < 4 ∨ 16 < slots ∨ 8 ≤ prio ∨ 1024 ≤ budget) := by omega
  dsimp only
  rw [if_neg argument, global, own]
  exact if_neg (Nat.not_le.2 room)

/-- A command on a queue discards what waits there, and does what it does to the queue. -/
theorem State.mailQueue_command {s : State} {f : BitVec 6} {p : BitVec 5} {g : BitVec 10} (command : Command s f (partField f ++ [(0x100, 2)]))
    (part : s.mailPart f (s.func f.toNat).mbox = some p) (queue : s.localQueue p (leNat ((s.func f.toNat).mbox.input 0x100 2)) = some g) (seen : QueueSeen s g)
    (run : State → BitVec 10 → State) : s.mailQueue f run = ((run (s.discardPackets g) g).answer f 0 []).devDone (opMail f) := by
  obtain ⟨indices, slots⟩ := seen
  refine (State.mailbox_command command _).trans ?_
  dsimp only
  rw [part, Option.bind_some, queue]
  dsimp only
  rw [State.needFar_answered indices]
  cases span : (s.queueSpan g).2 with
  | none => exact State.needFar_answered (fun r hr => absurd hr List.not_mem_nil) _ _
  | some x => exact State.needFar_answered (slots x.1 x.2 span) _ _

section
variable {s : State} {f : BitVec 6} {p : BitVec 5} {g : BitVec 10} (command : Command s f (partField f ++ [(0x100, 2)]))
  (part : s.mailPart f (s.func f.toNat).mbox = some p) (queue : s.localQueue p (leNat ((s.func f.toNat).mbox.input 0x100 2)) = some g) (seen : QueueSeen s g)
include command part queue seen

theorem exec_queueDestroy : exec (.queueDestroy f) s = .next ((((s.discardPackets g).modQueue g fun _ => {}).answer f 0 []).devDone (opMail f)) :=
  congrArg _ (State.mailQueue_command command part queue seen _)

/-- Both indices take the value of READ. -/
theorem exec_queueReset {r : Nat} {v : State} (read : (s.discardPackets g).queueRead g = some r)
    (write : (s.discardPackets g).linWrite ((s.discardPackets g).queue g).part 0 ((s.discardPackets g).queue g).header.toNat (leBytes 8 r) = .ok v) :
    exec (.queueReset f) s =
      .next ((((v.modQueue g fun k => { k with met := none, headAcc := none, spawned := [] }).setStatus g 0).answer f 0 []).devDone (opMail f)) := by
  refine congrArg _ ((State.mailQueue_command command part queue seen _).trans ?_)
  dsimp only
  rw [read]
  dsimp only
  rw [write]
end

/-! ### The halted context (R243) -/

/-- A command on the running context of a partition that may be resumed. -/
theorem State.mailHalt_command {s : State} {f : BitVec 6} {p : BitVec 5} (command : Command s f (partField f ++ [(0x100, 1)]))
    (part : s.mailPart f (s.func f.toNat).mbox = some p) (running : leNat ((s.func f.toNat).mbox.input 0x100 1) = (s.part p).runctx.toNat)
    (bound : (s.part p).bound.getLsbD (s.part p).runctx.toNat = true) (halted : (s.part p).resumable = true) (run : BitVec 5 → BitVec 3 → State) :
    s.mailHalt f run = (run p (s.part p).runctx).answer f 0 [] := by
  refine (State.mailbox_command command _).trans ?_
  dsimp only
  rw [part, running]
  dsimp only
  have context : ¬(8 ≤ (s.part p).runctx.toNat ∨ (!(s.part p).bound.getLsbD (s.part p).runctx.toNat) = true) := by
    rw [bound]
    simp [(s.part p).runctx.isLt]
  have ready : ¬((!(s.part p).resumable) = true ∨ (s.part p).runctx.toNat ≠ (s.part p).runctx.toNat) := by
    rw [halted]
    simp
  rw [if_neg context, if_neg ready, BitVec.ofNat_toNat, BitVec.setWidth_eq]

end Sys2Proof.Machine

namespace Sys2Proof.Package

open Sys2Proof.Machine Sys2Proof.Stmt

theorem mailbox_commands_notReady {s : State} {f : BitVec 6} {cmd : BitVec 32} (busy : (s.func f.toNat).mbox.stat.getLsbD 0 = true) (early : s.boot.state ≠ 5) :
    ∀ i ∈ mailboxEvents f cmd, exec i s = .next (s.answer f 1 []) := by
  simp only [mailboxEvents, List.mem_cons, List.not_mem_nil, or_false]
  rintro i (rfl | rfl | rfl | rfl | rfl | rfl | rfl)
  all_goals exact congrArg _ (State.mailbox_notReady busy early _ _)

/-- Settles O44: the commands of the mailbox. -/
theorem mailboxEvents : Obligations.MailboxEvents := by
  intro s f cmd p q n g
  refine ⟨fun i hi busy early => mailbox_commands_notReady busy early i hi, fun command => congrArg _ (State.mailbox_command command _), exec_attest, ?_, ?_, ?_⟩
  · intro command part hdr slots prio budget mine header aligned few many level rate room global free taken small unused used
    exact exec_queueCreate command part header aligned few many level rate room (State.freeGlobal global free taken) (freeLocal small unused used)
  · exact fun command part queue seen => ⟨exec_queueDestroy command part queue seen, fun r v => exec_queueReset command part queue seen⟩
  · exact fun command part running bound halted => ⟨congrArg _ (State.mailHalt_command command part running bound halted _),
      congrArg _ (State.mailHalt_command command part running bound halted _)⟩

end Sys2Proof.Package

/-! PROOFS. Notify registers, polling, refills, and the packets at the head of a queue (R58, R67 to R82, R104 to R106, R113, R366): what each event does, and the statement about them. -/

namespace Sys2Proof.Machine

open Sys2Proof.Stmt

/-! ### Tables whose every value changes alike -/

/-- The entry that a changed table, its defaults left out, gives for a key. -/
theorem SMap.get_map_filter {β : Type} [DecidableEq β] {d : β} {f : β → β} (hd : f d = d) (x : Nat) {m : SMap β} (h : SMap.rising m = true) :
    SMap.get d ((m.map fun e => (e.1, f e.2)).filter fun e => !decide (e.2 = d)) x = f (SMap.get d m x) := by
  induction m with
  | nil => exact hd.symm
  | cons e m ih =>
    obtain ⟨above, rising⟩ := (SMap.rising_cons e m).1 h
    have rest := ih rising
    by_cases key : e.1 = x
    · have absent : SMap.get d m x = d := SMap.get_none d m x fun y hy => by
        have := above y hy
        omega
      rw [absent, hd] at rest
      by_cases same : f e.2 = d
      · simp [SMap.get, key, same, rest]
      · simp [SMap.get, key, same]
    · by_cases same : f e.2 = d
      · simp [SMap.get, key, same, rest]
      · simp [SMap.get, key, same, rest]

/-! ### Notify registers (R58, R67, R366) -/

/-- A queue of a canonical table after it has been changed. -/
theorem State.queue_modQueue {s : State} (h : TablesWf s) (q : BitVec 10) (f : Queue → Queue) : (s.modQueue q f).queue q = f (s.queue q) := by
  obtain ⟨-, queues, -⟩ := h
  exact (SMap.get_put _ _ _ _ _ queues).trans (if_pos rfl)

/-- A notify takes the greater index. -/
theorem State.notifyQueue_notified {s : State} (h : TablesWf s) (q : BitVec 10) (v : Word) :
    ((s.notifyQueue q v).queue q).notified.toNat = max (s.queue q).notified.toNat v.toNat := by
  have woken : ((s.notifyQueue q v).queue q) = { s.queue q with notified := if (s.queue q).notified.ult v then v else (s.queue q).notified } := by
    unfold State.notifyQueue
    split
    · exact State.queue_modQueue (s := s.push .ps2Exit) h q _
    · exact State.queue_modQueue h q _
  rw [woken]
  by_cases more : (s.queue q).notified.toNat < v.toNat
  · simp [BitVec.ult, more, Nat.max_eq_right (Nat.le_of_lt more)]
  · simp [BitVec.ult, more, Nat.max_eq_left (Nat.le_of_not_lt more)]

/-- A virtual function notifies by the local number. -/
theorem exec_notifyRegisterWrite_vf {s : State} {f : BitVec 6} {q g : BitVec 10} (virtual : f ≠ 0) (has : f.toNat ≤ s.cfgrec.nvf)
    (queue : s.localQueue (BitVec.ofNat 5 (f.toNat - 1)) q.toNat = some g) (v : BitVec 64) :
    exec (.notifyRegisterWrite f q v) s = .next (s.notifyQueue g v) := by
  refine congrArg _ ((if_neg virtual).trans ((if_neg (Nat.not_lt.2 has)).trans ?_))
  rw [queue]

/-! ### Refills (R113) -/

/-- A queue with its budget added to its balance. -/
def Queue.refilled (k : Queue) : Queue := { k with balance := min (k.balance + k.budget.toNat) (4 * k.budget.toNat) }

theorem exec_tokenRefill (s : State) :
    exec .tokenRefill s = .next { s with queues := (s.queues.map fun e => (e.1, e.2.refilled)).filter fun e => !decide (e.2 = {}) } := rfl

/-! ### The head of a queue (R68) -/

/-- An action on a queue whose head can be read runs at once. -/
theorem State.withHead_read {s : State} {q : BitVec 10} (h : HeadRead s q) (f : State → State) : s.withHead q f = f s := by
  obtain ⟨same, index, slots⟩ := h
  unfold State.withHead
  dsimp only
  rw [State.needFar_answered index]
  cases read : s.queueRead q with
  | none => exact congrArg f same
  | some i => exact (State.needFar_answered (slots i read) _ _).trans (congrArg f same)

/-- The packet at the head of a queue is taken up by the event of its kind. -/
theorem State.onHead_atHead {s : State} {q : BitVec 10} {kind i : Nat} {bs : List Byte} {b2 : Option (List Byte)} (h : AtHead s q kind i bs b2)
    {f : State → Nat → List Byte → Option (List Byte) → State} {t : State} (taken : f s i bs b2 = t) : s.onHead q kind f = t.devDone (opQueue q) := by
  obtain ⟨read, notTaken, notMet, head, ofKind, spawned⟩ := h
  have fresh : ((s.queue q).spawned.find? fun e => e.1 == i).any (·.2.2) = false := by
    cases found : (s.queue q).spawned.find? fun e => e.1 == i with
    | none => rfl
    | some e => exact spawned e (List.mem_of_find?_eq_some found) (eq_of_beq (List.find?_some (p := fun e : Nat × BitVec 2 × Bool => e.1 == i) found))
  unfold State.onHead
  dsimp only
  rw [notTaken, notMet, State.withHead_read read, head]
  dsimp only
  rw [if_neg (fun e : pktKind bs ≠ kind => e ofKind), fresh]
  exact congrArg (State.devDone · _) ((if_neg Bool.false_ne_true).trans taken)

section
variable {s : State} {q : BitVec 10} {i : Nat} {bs : List Byte} {b2 : Option (List Byte)} (notTaken : (s.queue q).headAcc = none) (notMet : (s.queue q).met = none)
  (read : HeadRead s q) (head : s.queueHead q = some (i, bs, b2))
include notTaken notMet read head

/-- A VALID head is taken up by the event of its kind. -/
theorem exec_queuePoll_kind {e : Instr} (kind : headEvent q bs = some e) :
    exec (.queuePoll q) s = .next { s with nextQ := listSet s.nextQ (s.queue q).prio.toNat (q.toNat + 1), agenda := s.agenda ++ [e] } := by
  show execQueuePoll q s = _
  unfold execQueuePoll
  dsimp only
  rw [notTaken, notMet, State.withHead_read read, head]
  dsimp only
  rw [kind]
  rfl

/-- A head of no kind is malformed. -/
theorem exec_queuePoll_noKind (kind : headEvent q bs = none) :
    exec (.queuePoll q) s = .next ((({ s with nextQ := listSet s.nextQ (s.queue q).prio.toNat (q.toNat + 1) } : State).badPacket q i bs 1 (malformed q i 0)).devDone
      (opQueue q)) := by
  show execQueuePoll q s = _
  unfold execQueuePoll
  dsimp only
  rw [notTaken, notMet, State.withHead_read read, head]
  dsimp only
  rw [kind]
  exact congrArg _ (if_neg Bool.false_ne_true)
end

/-! ### Acceptance (R72 to R75, R79, R105) -/

/-- A partition accepts a launch from a queue: it takes the next acceptance number, and holds the head. -/
def State.accepted (s : State) (q : BitVec 10) (p : BitVec 5) (l : Launch) : State :=
  ((s.modPart p fun t => { t with nextAcc := t.nextAcc + 1, launches := t.launches ++ [l] }).modQueue q fun k => { k with headAcc := some l.acc }).setStatus q 5

section
variable {s : State} {q : BitVec 10} {i : Nat} {bs : List Byte}

theorem not_any_kind_ne_of_all {b2 : Option (List Byte)} (h : b2.all (fun r => pktKind r == 6) = true) : ¬(b2.any fun r => pktKind r != 6) = true := by
  cases b2 with
  | none => exact Bool.false_ne_true
  | some r => simpa using h

/-- A slot of another kind after REGCONT: both slots are malformed. -/
theorem exec_launchPacket_broken {r : List Byte} (h : AtHead s q 1 i bs (some r)) (other : pktKind r ≠ 6) :
    let p := (s.queue q).part
    let w := s.note p (s.recCtx p (pktCtx bs)) (malformed q i 255)
    exec (.launchPacket q) s = .next (((((w.errSignal q i bs true).note p (w.recCtx p (pktCtx r)) (malformed q (i + 1) 0)).errSignal q (i + 1) r true).consume q i 2).devDone
      (opQueue q)) := by
  have broken : (some r).any (fun r => pktKind r != 6) = true := by simpa using other
  refine congrArg Host.Outcome.next (State.onHead_atHead h ?_)
  dsimp only
  rw [if_pos broken]
  rfl

variable {b2 : Option (List Byte)} (h : AtHead s q 1 i bs b2) (regions : b2.all (fun r => pktKind r == 6) = true)
include h regions

theorem exec_launchPacket_malformed {off : Nat} (field : firstBad (s.launchBad q bs b2) = some off) :
    exec (.launchPacket q) s = .next ((s.badPacket q i bs (if b2.isSome then 2 else 1) (malformed q i off)).devDone (opQueue q)) := by
  refine congrArg Host.Outcome.next (State.onHead_atHead h ?_)
  dsimp only
  rw [if_neg (not_any_kind_ne_of_all regions), field]

theorem exec_launchPacket_accepted (wellFormed : firstBad (s.launchBad q bs b2) = none) :
    let p := (s.queue q).part
    let slots := if b2.isSome then 2 else 1
    let rs := (inlineRegions bs ++ (b2.map contRegions).getD []).map fun e => s.clampRegion p (pktCtx bs) e.2
    let die := s.producerDie q i slots bs
    (s.part p).fits (pf bs 4 1 % 64) (if pf bs 4 1 / 64 = 1 then die else none) = true →
    (rs = [] ∨ ((s.part p).launches.filter fun l => !l.regions.isEmpty).length < 256) → s.fullGroup p (pf bs 4 1 % 64) (launchGroups bs) = none →
    exec (.launchPacket q) s = .next ((s.accepted q p (s.makeLaunch q i bs rs slots die)).devDone (opQueue q)) := by
  intro p slots rs die fits room spare
  have free : ¬(!rs.isEmpty && decide (256 ≤ ((s.part p).launches.filter fun l => !l.regions.isEmpty).length)) = true := by
    intro full
    obtain ⟨declared, many⟩ := Bool.and_eq_true_iff.1 full
    rcases room with bare | few
    · rw [bare] at declared
      cases declared
    · exact absurd (of_decide_eq_true many) (Nat.not_le.2 few)
  have fitting : ¬(!(s.part p).fits (pf bs 4 1 % 64) (if pf bs 4 1 / 64 = 1 then die else none)) = true := by
    rw [fits]
    exact Bool.false_ne_true
  refine congrArg Host.Outcome.next (State.onHead_atHead h ?_)
  dsimp only
  rw [if_neg (not_any_kind_ne_of_all regions), wellFormed]
  dsimp only
  rw [if_neg fitting, if_neg free, spare]
  rfl
end

section
variable {s t : State} {q : BitVec 10} {i : Nat} {bs tab : List Byte} {b2 : Option (List Byte)}

theorem exec_regionsPacket (h : AtHead s q 6 i bs b2) :
    exec (.regionsPacket q) s = .next ((s.badPacket q i bs 1 (malformed q i 0)).devDone (opQueue q)) :=
  congrArg Host.Outcome.next (State.onHead_atHead h rfl)

theorem exec_stagesPacket_accepted (h : AtHead s q 5 i bs b2) (wellFormed : firstBad (s.stagesBad q bs) = none)
    (answered : Answered s (s.queue q).part (pktCtx bs) [(pf bs 8 6, 64 + 32 * pf bs 4 1)])
    (read : s.linRead (s.queue q).part (pktCtx bs) (pf bs 8 6) (64 + 32 * pf bs 4 1) = (t, .ok tab)) (table : t.tableBad (s.queue q).part (pktCtx bs) bs tab = [])
    (pool : pf tab 2 1 ≤ (t.part (s.queue q).part).cores.length) :
    exec (.stagesPacket q) s = .next ((t.accepted q (s.queue q).part
      { acc := (t.part (s.queue q).part).nextAcc, queue := q, index := BitVec.ofNat 64 i, ctx := pktCtx bs, life := .placewait
        gang := pf tab 2 1, prio := min (pf tab 0 1 % 8) (s.queue q).prio.toNat, est := pf tab 4 2, signal := pf bs 24 6
        intr := intrOf (s.queue q).func.toNat bs, barrier := (pf bs 1 1).testBit 1, pipe := some (makePipe bs tab), since := t.time }).devDone (opQueue q)) := by
  refine congrArg Host.Outcome.next (State.onHead_atHead h ?_)
  dsimp only
  rw [wellFormed]
  dsimp only
  rw [State.needFar_answered answered, read]
  dsimp only
  rw [table, if_neg (by decide), if_neg (Nat.not_lt.2 pool)]
  rfl
end

/-! ### COPY (R76) -/

/-- The stamp of a COPY: where it goes, and what it is. -/
def copyStamp (bs : List Byte) : Nat × List Byte := (pf bs 16 6 + 8 * ((pf bs 32 4 + 7) / 8), (bs.drop 40).take 8)

/-- A COPY from `s` whose bytes have moved: it counts as outstanding, leaves its slot, and owes −1, and the stamp that is late. -/
def State.copied (s t : State) (q : BitVec 10) (i : Nat) (bs : List Byte) (late : Option (Nat × List Byte)) : State :=
  let k := s.queue q
  ((counted (t.nextNum k.part).2 q i (t.part k.part).nextAcc).consume q i 1).oweSignal k.part
    { id := (t.part k.part).nextAcc, ctx := pktCtx bs, addr := pf bs 24 6, add := some (-1), intr := intrOf k.func.toNat bs, queue := q, index := BitVec.ofNat 64 i, off := 24
      after := if s.dev.length < t.dev.length then t.nextTag else 0, stamp := late }

/-- A COPY from `s` that failed at an address: COPY_FAULT, and the error value is owed. -/
def State.copyFailed (s t : State) (q : BitVec 10) (i : Nat) (bs : List Byte) (e : LinErr) (a : Nat) : State :=
  ((t.note (s.queue q).part (pktCtx bs) ⟨21, linSub e, detQ q.toNat i 0 (addr := a), false⟩).errSignal q i bs false).consume q i 1

/-- What follows the bytes of a COPY: its stamp, late where writes of the copy wait. -/
def State.stamped (s t : State) (q : BitVec 10) (i : Nat) (bs : List Byte) : State :=
  if (pf bs 1 1).testBit 2 then
    if s.dev.length < t.dev.length then s.copied t q i bs (some (copyStamp bs))
    else match t.linWrite (s.queue q).part (pktCtx bs) (copyStamp bs).1 (copyStamp bs).2 with
      | .ok v => s.copied v q i bs none
      | .error e => s.copyFailed t q i bs e (copyStamp bs).1
  else s.copied t q i bs none

theorem State.stamped_plain {s t : State} {bs : List Byte} (plain : (pf bs 1 1).testBit 2 = false) (q : BitVec 10) (i : Nat) :
    s.stamped t q i bs = s.copied t q i bs none := if_neg (by rw [plain]; exact Bool.false_ne_true)

theorem State.stamped_late {s t : State} {bs : List Byte} (stamp : (pf bs 1 1).testBit 2 = true) (waits : s.dev.length < t.dev.length) (q : BitVec 10) (i : Nat) :
    s.stamped t q i bs = s.copied t q i bs (some (copyStamp bs)) := (if_pos stamp).trans (if_pos waits)

theorem State.stamped_now {s t v : State} {q : BitVec 10} {bs : List Byte} (stamp : (pf bs 1 1).testBit 2 = true) (made : t.dev.length ≤ s.dev.length)
    (write : t.linWrite (s.queue q).part (pktCtx bs) (copyStamp bs).1 (copyStamp bs).2 = .ok v) (i : Nat) : s.stamped t q i bs = s.copied v q i bs none := by
  unfold State.stamped
  rw [if_pos stamp, if_neg (Nat.not_lt.2 made), write]

section
variable {s t : State} {q : BitVec 10} {i : Nat} {bs : List Byte} {b2 : Option (List Byte)} (h : AtHead s q 2 i bs b2)
  (wellFormed : firstBad (s.copyBad q bs) = none) (clear : (s.queue q).clear bs = true) (answered : Answered s (s.queue q).part (pktCtx bs) (copied bs))
include h wellFormed clear answered

theorem exec_copyPacket_failed {e : LinErr} {a : Nat}
    (copy : s.copyBytes (s.queue q).part (pktCtx bs) (pf bs 8 6) (pf bs 16 6) (pf bs 32 4) = (t, some (e, a))) :
    exec (.copyPacket q) s = .next ((s.copyFailed t q i bs e a).devDone (opQueue q)) := by
  refine congrArg Host.Outcome.next (State.onHead_atHead h ?_)
  dsimp only
  rw [wellFormed, clear]
  dsimp only
  rw [if_neg (by decide), State.needFar_answered (rs := List.map _ _) answered, copy]
  rfl

theorem exec_copyPacket_moved (copy : s.copyBytes (s.queue q).part (pktCtx bs) (pf bs 8 6) (pf bs 16 6) (pf bs 32 4) = (t, none)) :
    exec (.copyPacket q) s = .next ((s.stamped t q i bs).devDone (opQueue q)) := by
  refine congrArg Host.Outcome.next (State.onHead_atHead h ?_)
  dsimp only
  rw [wellFormed, clear]
  dsimp only
  rw [if_neg (by decide), State.needFar_answered (rs := List.map _ _) answered, copy]
  dsimp only
  unfold State.stamped
  by_cases stamp : (pf bs 1 1).testBit 2 = true
  · rw [if_pos stamp, if_pos stamp]
    rfl
  · rw [if_neg stamp, if_neg stamp]
    rfl
end

/-! ### SIGNAL and WAIT (R77, R78) -/

section
variable {s : State} {q : BitVec 10} {i : Nat} {bs : List Byte} {b2 : Option (List Byte)}

theorem exec_signalPacket_clear (h : AtHead s q 3 i bs b2) (wellFormed : firstBad (s.signalBad q bs) = none) (clear : (s.queue q).clear bs = true) :
    let p := (s.queue q).part
    let n := (s.part p).nextAcc
    let j : SigJob := { id := n, ctx := pktCtx bs, addr := pf bs 8 6, add := some (BitVec.ofNat 64 (pf bs 16 8)), intr := intrOf (s.queue q).func.toNat bs
                        queue := q, index := BitVec.ofNat 64 i, off := 8 }
    exec (.signalPacket q) s =
      .next ((((counted ((s.nextNum p).2.modPart p fun t => { t with jobs := t.jobs ++ [j] }) q i n).consume q i 1).performJob p n).devDone (opQueue q)) := by
  refine congrArg Host.Outcome.next (State.onHead_atHead h ?_)
  dsimp only
  rw [wellFormed, clear]
  dsimp only
  rw [if_neg (by decide)]
  rfl

section
variable (h : AtHead s q 4 i bs b2) (wellFormed : firstBad (s.waitBad q bs) = none)
include h wellFormed

theorem exec_waitPacket_clear (clear : (s.queue q).clear bs = true) : exec (.waitPacket q) s =
    .next ((((s.modQueue q fun k => { k with met := some (List.replicate (pf bs 4 1 % 8) false, false) }).setStatus q 3).recheck q).devDone (opQueue q)) := by
  refine congrArg Host.Outcome.next (State.onHead_atHead h ?_)
  dsimp only
  rw [wellFormed, clear]
  dsimp only
  rw [if_neg (by decide)]

theorem exec_waitPacket_barrier (held : (s.queue q).clear bs = false) : exec (.waitPacket q) s = .next ((s.setStatus q 7).devDone (opQueue q)) := by
  refine congrArg Host.Outcome.next (State.onHead_atHead h ?_)
  dsimp only
  rw [wellFormed, held]
  dsimp only
  rw [if_pos Bool.not_false]
end

/-- A pass over conditions that keeps every one that has been met, over conditions all of which have been. -/
theorem foldl_all_met {α : Type} {step : α × List Bool × Bool → Bool × Nat → α × List Bool × Bool} (keeps : ∀ x m err n, step (x, m, err) (true, n) = (x, m ++ [true], err))
    (x : α) (err : Bool) {met : List Bool} (all : ∀ b ∈ met, b = true) (m : List Bool) (n : Nat) : (met.zipIdx n).foldl step (x, m, err) = (x, m ++ met, err) := by
  induction met generalizing m n with
  | nil => simp
  | cons b met ih =>
    obtain ⟨rfl, rest⟩ := List.forall_mem_cons.1 all
    rw [List.zipIdx_cons, List.foldl_cons, keeps, ih rest, List.append_assoc]
    rfl

/-- No condition is left to be asked for. -/
theorem zipIdx_unmet {met : List Bool} (all : ∀ b ∈ met, b = true) : (met.zipIdx.filter fun e => !e.1) = [] :=
  List.filter_eq_nil_iff.2 fun e he => by
    rw [all e.1 (List.fst_mem_of_mem_zipIdx he)]
    exact Bool.false_ne_true

/-- A WAIT all of whose conditions have been met completes, and owes −1. -/
theorem State.recheck_met {met : List Bool} (waits : (s.queue q).met = some (met, false)) (all : ∀ b ∈ met, b = true) (head : s.queueHead q = some (i, bs, b2)) :
    let p := (s.queue q).part
    let u := s.modQueue q fun k => { k with met := some (met, false) }
    s.recheck q = ((counted (u.nextNum p).2 q i (u.part p).nextAcc).consume q i 1).oweSignal p
      { id := (u.part p).nextAcc, ctx := pktCtx bs, addr := pf bs 56 6, add := some (-1), intr := intrOf (s.queue q).func.toNat bs, queue := q
        index := BitVec.ofNat 64 i, off := 56 } := by
  have every : met.all id = true := List.all_eq_true.2 all
  unfold State.recheck
  dsimp only
  rw [waits, head]
  dsimp only
  rw [zipIdx_unmet all, List.map_nil, State.needFar_answered (fun r hr => absurd hr List.not_mem_nil), foldl_all_met (fun _ _ _ _ => rfl) s false all]
  dsimp only
  rw [List.nil_append, if_pos every]
  rfl
end

end Sys2Proof.Machine

namespace Sys2Proof.Package

open Sys2Proof.Machine Sys2Proof.Stmt

theorem notifyAndPollEvents : NotifyAndPollEvents := by
  intro s f q g v i bs b2 e
  refine ⟨rfl, fun virtual has queue => exec_notifyRegisterWrite_vf virtual has queue v, rfl, fun tables => State.notifyQueue_notified tables q v,
    fun notTaken notMet read head => ⟨exec_queuePoll_kind notTaken notMet read head, exec_queuePoll_noKind notTaken notMet read head⟩,
    _, exec_tokenRefill s, rfl, rfl, fun tables n => ?_⟩
  obtain ⟨-, queues, -⟩ := tables
  exact congrArg Queue.balance (SMap.get_map_filter (f := Queue.refilled) rfl n.toNat ((SMap.wf_iff _ _).1 queues).1)

theorem packetKindEvents : PacketKindEvents := by
  intro s t v q i off a e bs tab r b2
  refine ⟨exec_launchPacket_broken, fun head regions => ⟨exec_launchPacket_malformed head regions, exec_launchPacket_accepted head regions⟩, exec_regionsPacket,
    fun head wellFormed clear answered => ⟨fun copy => ?_, exec_copyPacket_failed head wellFormed clear answered⟩, exec_signalPacket_clear,
    fun head wellFormed => ⟨exec_waitPacket_clear head wellFormed, exec_waitPacket_barrier head wellFormed⟩, fun met read waits all head => ?_, exec_stagesPacket_accepted⟩
  · have moved := exec_copyPacket_moved head wellFormed clear answered copy
    exact ⟨fun plain => moved.trans (congrArg (Host.Outcome.next <| State.devDone · _) (State.stamped_plain plain q i)),
      fun stamp made write => moved.trans (congrArg (Host.Outcome.next <| State.devDone · _) (State.stamped_now stamp made write i)),
      fun stamp waits => moved.trans (congrArg (Host.Outcome.next <| State.devDone · _) (State.stamped_late stamp waits q i))⟩
  · show execWaitRecheck q s = _
    unfold execWaitRecheck
    rw [State.withHead_read read, State.recheck_met waits all head]

/-- Settles O45: notify registers, polling, refills, and the packets at the head of a queue. -/
theorem queuePacketEvents : Obligations.QueuePacketEvents := ⟨notifyAndPollEvents, packetKindEvents⟩

end Sys2Proof.Package

/-! PROOFS. Placement and the start of a crew (R73, R97, R102, R112, R122, R275, R277): what each event does, and the statement about them. -/

namespace Sys2Proof.Machine

open Sys2Proof.Stmt

/-! ### Reading the parameters of a launch (R73) -/

section
variable {s t : State} {p : BitVec 5} {l m : Launch} {bs : List Byte}

/-- A launch whose parameters have been read reads nothing. -/
theorem State.loadParams_loaded (loaded : l.loaded = true) : s.loadParams p l = .ok s l := if_pos loaded

section
variable (unread : l.loaded = false) (plain : l.pipe = none)
include unread plain

/-- Without a parameter block every parameter of it is zero. -/
theorem State.loadParams_noBlock (zero : l.param = 0) :
    s.loadParams p l = .ok s { l with params := l.params ++ List.replicate ((if l.area then 256 else 224) / 8) 0, loaded := true } := by
  unfold State.loadParams
  rw [if_neg (Bool.eq_false_iff.1 unread), plain]
  exact if_pos zero

/-- A parameter block that can be read gives its words. -/
theorem State.loadParams_block (block : l.param ≠ 0) (read : s.linRead p l.ctx l.param (if l.area then 256 else 224) = (t, .ok bs)) :
    s.loadParams p l = .ok t { l with params := l.params ++ wordsOf bs, loaded := true } := by
  unfold State.loadParams
  rw [if_neg (Bool.eq_false_iff.1 unread), plain]
  dsimp only
  rw [if_neg block, read]
end

/-! ### Placement (R97, R112, R122) -/

section
variable (fresh : l.life ≠ .saved) (answered : Answered s p l.ctx l.blocks) (read : s.loadParams p l = .ok t m)
include fresh answered read

/-- A gang that is no saved one starts its crews once its parameters are read. -/
theorem State.placeLaunch_gang (plain : m.pipe = none) (cs : List (BitVec 7)) : s.placeLaunch p l cs = (t.startLaunch p m cs).devDone (opPart p) := by
  unfold State.placeLaunch
  rw [if_neg (mt eq_of_beq fresh), State.needFar_answered answered, read]
  dsimp only
  rw [plain]

/-- A pipeline that is no saved one starts its stage crews once their parameters are read. -/
theorem State.placeLaunch_pipeline {g : Pipeline} (pipe : m.pipe = some g) (cs : List (BitVec 7)) : s.placeLaunch p l cs = (t.startPipe p m g cs).devDone (opPart p) := by
  unfold State.placeLaunch
  rw [if_neg (mt eq_of_beq fresh), State.needFar_answered answered, read]
  dsimp only
  rw [pipe]
end

section
variable {acc : Nat} {cs : List (BitVec 7)} (launch : (s.part p).launch acc = some l) (fits : s.position p l = some cs) (may : s.placeable p l = true)
include launch fits may

theorem exec_launchPlacement (plain : l.pipe = none) : exec (.launchPlacement p acc) s = .next (s.placeLaunch p l cs) := by
  show execLaunchPlacement p acc s = _
  unfold execLaunchPlacement
  rw [launch]
  dsimp only
  rw [fits]
  dsimp only
  rw [if_pos (by rw [may, plain]; rfl)]

theorem exec_pipelinePlacement (pipe : l.pipe ≠ none) : exec (.pipelinePlacement p acc) s = .next (s.placeLaunch p l cs) := by
  show execPipelinePlacement p acc s = _
  unfold execPipelinePlacement
  rw [launch]
  dsimp only
  rw [fits]
  dsimp only
  rw [if_pos (by rw [may, Option.isSome_iff_ne_none.2 pipe]; rfl)]
end

/-! ### Reservation and the choice of a context (R102, R112) -/

theorem exec_placementReservation_overdue (unreserved : (s.part p).reserve = none) (overdue : (s.part p).overdue s.time = some l) :
    exec (.placementReservation p) s = .next (s.modPart p fun t => { t with reserve := some l.acc }) := by
  show execPlacementReservation p s = _
  unfold execPlacementReservation
  rw [unreserved, overdue]
  rfl

theorem exec_placementReservation_reserved (reserved : (s.part p).reserve ≠ none) : exec (.placementReservation p) s = .next s :=
  congrArg _ (if_pos (Option.isSome_iff_ne_none.2 reserved))

theorem exec_contextSelect_chosen {c : BitVec 3} (chosen : s.chooseCtx p = some c) : exec (.contextSelect p) s =
    .next ((s.modPart p fun t => { t with swap := some { outCtx := t.runctx, inCtx := c, step := 2 } }).push (.contextSwap p)) := by
  show execContextSelect p s = _
  unfold execContextSelect
  rw [chosen]

theorem exec_contextSelect_none (chosen : s.chooseCtx p = none) : exec (.contextSelect p) s = .next s := by
  show execContextSelect p s = _
  unfold execContextSelect
  rw [chosen]
end

/-! ### The start of a crew (R277) -/

/-- A core on which a crew starts: clean but for the crew, its strands at their entries, and x1 to x3 and p as R277 gives them. -/
def Core.started (r : Core) (c : BitVec 7) (w : Crew) (entries : List (BitVec 16)) (params : List Word) (x1 x2 : Nat) : Core :=
  { r.fresh with
    crew := some w
    strands := Vector.ofFn fun i : Fin 4 => startStrand (entries.getD i.val 0xFFFF)
    x := (((Vector.replicate 64 (0 : Word)).set 1 (BitVec.ofNat 64 x1)).set 2 (BitVec.ofNat 64 x2)).set 3 (BitVec.ofNat 64 c.toNat)
    p := Vector.ofFn fun i => params.getD i.val 0 }

section
variable (r : Core) (c : BitVec 7) (w : Crew) (entries : List (BitVec 16)) (params : List Word) (x1 x2 : Nat)

/-- The strand of an entry is live but for EXIT, and is then at the entry (R72). -/
theorem startStrand_entry {e : BitVec 16} (h : e ≠ 0xFFFF) : startStrand e = { pc := e.setWidth 32, live := true } := if_neg h

theorem startStrand_exit {e : BitVec 16} (h : e = 0xFFFF) : startStrand e = {} := if_pos h

theorem Core.started_str (k : Strand) : (r.started c w entries params x1 x2).str k = startStrand (entries.getD (strandFin k).val 0xFFFF) :=
  Vector.getElem_ofFn _

theorem Core.started_p (n : BitVec 5) : pOf (r.started c w entries params x1 x2) n = params.getD n.toNat 0 := by
  have below : n.toNat < 32 := n.isLt
  simp [pOf, Core.started, below]

theorem Core.started_xr (n : BitVec 6) : (r.started c w entries params x1 x2).xr n =
    if n = 3 then BitVec.ofNat 64 c.toNat else if n = 2 then BitVec.ofNat 64 x2 else if n = 1 then BitVec.ofNat 64 x1 else 0 := by
  by_cases n3 : n = 3
  · subst n3; rfl
  by_cases n2 : n = 2
  · subst n2; rfl
  by_cases n1 : n = 1
  · subst n1; rfl
  have at3 : 3 ≠ n.toNat := fun e => n3 (BitVec.eq_of_toNat_eq e.symm)
  have at2 : 2 ≠ n.toNat := fun e => n2 (BitVec.eq_of_toNat_eq e.symm)
  have at1 : 1 ≠ n.toNat := fun e => n1 (BitVec.eq_of_toNat_eq e.symm)
  rw [if_neg n3, if_neg n2, if_neg n1]
  simp [Core.xr, Core.started, at3, at2, at1]

/-- A strand with an entry keeps the crew from exiting as it starts. -/
theorem Core.started_live (entry : ∃ j, j < 4 ∧ entries.getD j 0xFFFF ≠ 0xFFFF) :
    ¬ (r.started c w entries params x1 x2).strands.toList.all (fun t => !t.live) = true := by
  obtain ⟨j, small, entry⟩ := entry
  intro all
  have dead := List.all_eq_true.1 all _ (Vector.mem_toList_iff.2 (Vector.getElem_mem (i := j) small))
  have strand : (r.started c w entries params x1 x2).strands[j] = startStrand (entries.getD j 0xFFFF) := Vector.getElem_ofFn _
  rw [strand, startStrand_entry entry] at dead
  exact Bool.false_ne_true dead

end

/-- A crew with an entry starts on its core. -/
theorem State.startCrew_core (s : State) (c : BitVec 7) (w : Crew) {entries : List (BitVec 16)} (entry : ∃ j, j < 4 ∧ entries.getD j 0xFFFF ≠ 0xFFFF)
    (params : List Word) (x1 x2 : Nat) :
    (s.startCrew c w entries params x1 x2).core c = ((s.withHeader w).1.core c).started c (s.withHeader w).2 entries params x1 x2 := by
  have core := State.core_modCore (s.withHeader w).1 c (Core.started · c (s.withHeader w).2 entries params x1 x2)
  refine (congrArg (State.core · c) (if_neg fun dead => ?_)).trans core
  exact Core.started_live _ c _ entries params x1 x2 entry (core ▸ dead)

end Sys2Proof.Machine

namespace Sys2Proof.Package

open Sys2Proof.Machine Sys2Proof.Stmt

theorem placementEvents : PlacementEvents := by
  intro s p acc l cs
  refine ⟨fun launch fits may => ⟨exec_launchPlacement launch fits may, exec_pipelinePlacement launch fits may⟩,
    fun fresh answered loaded plain => State.placeLaunch_gang fresh answered (State.loadParams_loaded loaded) plain cs,
    fun g fresh answered loaded pipe => State.placeLaunch_pipeline fresh answered (State.loadParams_loaded loaded) pipe cs,
    fun fresh answered unread plain =>
      ⟨fun noBlock => State.placeLaunch_gang fresh answered (State.loadParams_noBlock unread plain noBlock) plain cs,
        fun t bs block read => State.placeLaunch_gang fresh answered (State.loadParams_block unread plain block read) plain cs⟩,
    exec_placementReservation_overdue, exec_placementReservation_reserved, fun c => exec_contextSelect_chosen, exec_contextSelect_none⟩

theorem crewStart : CrewStart := by
  intro s c w entries params rank size entry
  dsimp only
  rw [State.startCrew_core s c w entry]
  refine ⟨rfl, ?_, ?_, ?_, fun r r1 r2 r3 => ?_, Core.started_p _ _ _ _ _ _ _, rfl, rfl, fun k => ⟨fun live => ?_, fun exit => ?_⟩⟩
  · rw [Core.started_xr]; rfl
  · rw [Core.started_xr]; rfl
  · rw [Core.started_xr]; rfl
  · rw [Core.started_xr, if_neg r3, if_neg r2, if_neg r1]
  · rw [Core.started_str, startStrand_entry live]
    exact ⟨rfl, rfl⟩
  · rw [Core.started_str, startStrand_exit exit]

/-- Settles O46: launches are placed, and a crew starts. -/
theorem placementAndCrewStart : Obligations.PlacementAndCrewStart := ⟨placementEvents, crewStart⟩

end Sys2Proof.Package

/-! PROOFS. Pre-emption, the record router and the derailleur (R115 to R117, R127 to R137): what each event does, and the statement about them. -/

namespace Sys2Proof.Machine

open Sys2Proof.Stmt

/-! ### The halt line of a pre-emption (R117) -/

section
variable {s : State} {p : BitVec 5}

/-- A pre-emption joins a halt without changing it. -/
theorem State.raiseLine_preempt_up {h : Halt} (up : (s.part p).halt = some h) : s.raiseLine p 2 = s := by
  unfold State.raiseLine
  rw [up]
  rfl

/-- The line that rises begins a halt of every core of the partition. -/
theorem State.part_raiseLine_preempt_down (down : (s.part p).halt = none) :
    ((s.raiseLine p 2).part p) = { s.part p with halt := some { cause := 2, time := s.time, left := (s.part p).cores } } := by
  unfold State.raiseLine
  rw [down]
  exact State.part_modPart s p fun t => { t with halt := some { cause := 2, time := s.time, left := (s.part p).cores } }

/-- After a pre-emption has raised the line it is up. -/
theorem State.raiseLine_preempt_isSome : ((s.raiseLine p 2).part p).halt.isSome = true := by
  cases halt : (s.part p).halt with
  | none => rw [State.part_raiseLine_preempt_down halt]; rfl
  | some h => rw [State.raiseLine_preempt_up halt, halt]; rfl

/-- Raising the line for a pre-emption keeps what it waits for. -/
theorem State.raiseLine_preempt_preempt : ((s.raiseLine p 2).part p).preempt = (s.part p).preempt := by
  cases halt : (s.part p).halt with
  | none => rw [State.part_raiseLine_preempt_down halt]
  | some h => rw [State.raiseLine_preempt_up halt]

@[simp] theorem State.raiseLine_queues (cause : Nat) : (s.raiseLine p cause).queues = s.queues := by
  unfold State.raiseLine
  split
  · split
    · rfl
    · split
      · exact List.foldlRecOn (motive := fun t : State => t.queues = s.queues) _ _ rfl fun _ h _ _ => h
      · rfl
  · rfl
end

/-! ### The decision to pre-empt (R115, R116) -/

/-- A resident launch gets the policy that R116 gives it now, and loses a pending move (R137). -/
def Part.marked (t : Part) (now : Nat) (l : Launch) : Launch :=
  if l.life == .resident then { l with policy := some (t.policyFor l now), pipe := l.pipe.map fun g => { g with move := none } } else l

/-- A queue after a pre-emption has taken its tokens (R115). -/
def Queue.charged (tokens : Nat) (k : Queue) : Queue := { k with balance := k.balance - tokens }

/-- The tokens of a pre-emption have been deducted, and the resident launches have their policies. -/
def State.judged (s : State) (p : BitVec 5) (n : Launch) : State :=
  (s.modQueue n.queue (Queue.charged n.tokens)).modPart p fun t =>
    { t with launches := t.launches.map ((s.part p).marked s.time)
             preempt := some { newCtx := n.ctx, newAcc := n.acc, deadline := s.time + 1000 * (s.part p).yDead } }

/-- The launches of a partition that drain. -/
def Part.drains (t : Part) : List Nat := (t.launches.filter fun l => l.policy == some Policy.drain && l.life == .resident).map (·.acc)

/-- The crews of some launches see a yield request with a deadline. -/
def State.askYields (s : State) (p : BitVec 5) (accs : List Nat) (dead : Nat) : State :=
  (s.residents p).foldl (fun s e =>
    if accs.contains e.2.acc then s.modCore e.1 fun r => { r with yld := { r.yld with deadline := some dead } } else s) s

section
variable {s : State} {p : BitVec 5} {n : Launch}

@[simp] theorem State.askYields_parts (accs : List Nat) (dead : Nat) : (s.askYields p accs dead).parts = s.parts := by
  refine List.foldlRecOn (motive := fun t : State => t.parts = s.parts) _ _ rfl fun t h e _ => ?_
  split <;> exact h

@[simp] theorem State.askYields_part (accs : List Nat) (dead : Nat) : (s.askYields p accs dead).part p = s.part p :=
  congrArg (fun ps : Vector Part 32 => ps[p.toFin]) (State.askYields_parts accs dead)

@[simp] theorem State.askYields_queues (accs : List Nat) (dead : Nat) : (s.askYields p accs dead).queues = s.queues := by
  refine List.foldlRecOn (motive := fun t : State => t.queues = s.queues) _ _ rfl fun t h e _ => ?_
  split <;> exact h

/-- The state that a decision leaves: the line rises at once where no gang drains. -/
def State.preempted (s : State) (p : BitVec 5) (n : Launch) : State :=
  let u := (s.judged p n).askYields p ((s.judged p n).part p).drains (s.time + 1000 * (s.part p).yDead)
  if ((s.judged p n).part p).drains.isEmpty then u.raiseLine p 2 else u

theorem exec_preemptDecision_some (chosen : s.preemptor p = some n) : exec (.preemptDecision p) s = .next (s.preempted p n) := by
  show execPreemptDecision p s = _
  unfold execPreemptDecision
  rw [chosen]
  rfl

theorem exec_preemptDecision_none (chosen : s.preemptor p = none) : exec (.preemptDecision p) s = .next s := by
  show execPreemptDecision p s = _
  unfold execPreemptDecision
  rw [chosen]

theorem State.preempted_balance (tables : TablesWf s) : ((s.preempted p n).queue n.queue).balance = (s.queue n.queue).balance - n.tokens := by
  have queues : (s.preempted p n).queues = (s.modQueue n.queue (Queue.charged n.tokens)).queues := by
    unfold State.preempted
    dsimp only
    split
    · rw [State.raiseLine_queues, State.askYields_queues]; rfl
    · rw [State.askYields_queues]; rfl
  have queue : (s.preempted p n).queue n.queue = (s.modQueue n.queue (Queue.charged n.tokens)).queue n.queue :=
    congrArg (fun qs : SMap Queue => SMap.get ({} : Queue) qs n.queue.toNat) queues
  rw [queue, State.queue_modQueue tables]
  rfl

theorem State.preempted_preempt : ((s.preempted p n).part p).preempt = some ⟨n.ctx, n.acc, s.time + 1000 * (s.part p).yDead⟩ := by
  have judged : ((s.judged p n).part p).preempt = some ⟨n.ctx, n.acc, s.time + 1000 * (s.part p).yDead⟩ :=
    congrArg Part.preempt (State.part_modPart _ p _)
  unfold State.preempted
  dsimp only
  split
  · rw [State.raiseLine_preempt_preempt, State.askYields_part, judged]
  · rw [State.askYields_part, judged]

/-- Without a resident launch of policy DRAIN none drains. -/
theorem State.judged_drains (noDrain : ∀ l ∈ (s.part p).launches, l.life = .resident → (s.part p).policyFor l s.time ≠ .drain) :
    ((s.judged p n).part p).drains = [] := by
  have launches : ((s.judged p n).part p).launches = (s.part p).launches.map ((s.part p).marked s.time) :=
    congrArg Part.launches (State.part_modPart _ p _)
  unfold Part.drains
  rw [launches, List.map_eq_nil_iff, List.filter_eq_nil_iff]
  intro m mem
  obtain ⟨l, old, rfl⟩ := List.mem_map.1 mem
  unfold Part.marked
  by_cases resident : l.life = .resident
  · simp [resident, noDrain l old resident]
  · simp [resident]

theorem State.preempted_halt (drains : ((s.judged p n).part p).drains = []) : ((s.preempted p n).part p).halt.isSome = true := by
  unfold State.preempted
  dsimp only
  rw [if_pos (List.isEmpty_iff.2 drains)]
  exact State.raiseLine_preempt_isSome

end

/-! ### Launches and pipelines that change -/

/-- A launch is found again after a change that keeps its number. -/
theorem Part.launch_modLaunch {f : Launch → Launch} (number : ∀ l, (f l).acc = l.acc) (t : Part) (acc : Nat) :
    (t.modLaunch acc f).launch acc = (t.launch acc).map f := by
  have kept : ((·.acc == acc) ∘ fun l => if l.acc == acc then f l else l) = (·.acc == acc) := by
    funext l
    by_cases same : (l.acc == acc) = true
    · simp only [Function.comp_apply, if_pos same, number]
    · simp only [Function.comp_apply, if_neg same]
  unfold Part.launch Part.modLaunch
  rw [List.find?_map, kept]
  cases found : t.launches.find? (·.acc == acc) with
  | none => rfl
  | some l => exact congrArg some (if_pos (List.find?_some (p := fun m : Launch => m.acc == acc) found))

theorem Part.launch_modPipe (t : Part) (acc : Nat) (f : Pipeline → Pipeline) :
    (t.modPipe acc f).launch acc = (t.launch acc).map fun l => { l with pipe := l.pipe.map f } :=
  Part.launch_modLaunch (f := fun l => { l with pipe := l.pipe.map f }) (fun _ => rfl) t acc

theorem Part.pipeOf_eq {t : Part} {acc : Nat} {l : Launch} {g : Pipeline} (launch : t.launch acc = some l) (pipe : l.pipe = some g) : t.pipeOf acc = some g := by
  unfold Part.pipeOf
  rw [launch]
  exact pipe

theorem Part.pipeOf_modPipe {t : Part} {acc : Nat} {l : Launch} {g : Pipeline} (launch : t.launch acc = some l) (pipe : l.pipe = some g) (f : Pipeline → Pipeline) :
    (t.modPipe acc f).pipeOf acc = some (f g) :=
  Part.pipeOf_eq (l := { l with pipe := l.pipe.map f }) (by rw [Part.launch_modPipe, launch]; rfl) (by rw [pipe]; rfl)

@[simp] theorem State.part_devDone (s : State) (op : Nat) (p : BitVec 5) : (s.devDone op).part p = s.part p := by
  unfold State.devDone
  split
  · rfl
  · split <;> rfl

/-! ### The router (R127 to R131) -/

section
variable {s t u v : State} {p : BitVec 5} {acc : Nat} {l : Launch} {g : Pipeline} {st : Stage} {bs cb : List Byte}

/-- The router works for a resident pipeline of a partition that runs. -/
theorem State.routing_some (routing : s.routing p acc = some (l, g, st)) :
    s.pipeRuns p acc = true ∧ (s.part p).launch acc = some l ∧ l.pipe = some g := by
  unfold State.routing at routing
  cases runs : s.pipeRuns p acc with
  | false =>
    rw [runs] at routing
    cases routing
  | true =>
    rw [runs, if_neg (by decide)] at routing
    cases launch : (s.part p).launch acc with
    | none =>
      rw [launch] at routing
      cases routing
    | some m =>
      rw [launch] at routing
      dsimp only at routing
      cases pipe : m.pipe with
      | none =>
        rw [pipe] at routing
        cases routing
      | some h =>
        rw [pipe] at routing
        dsimp only at routing
        split at routing
        · cases routing
        · obtain ⟨e, -, found⟩ := Option.map_eq_some_iff.1 routing
          obtain ⟨sameLaunch, rest⟩ := Prod.mk.inj found
          obtain ⟨samePipe, -⟩ := Prod.mk.inj rest
          exact ⟨rfl, congrArg some sameLaunch, sameLaunch ▸ samePipe ▸ pipe⟩

theorem State.halt_of_pipeRuns (runs : s.pipeRuns p acc = true) : (s.part p).halt = none := by
  unfold State.pipeRuns at runs
  obtain ⟨m, -, all⟩ := (Option.any_eq_true _ _).1 runs
  simp only [Bool.and_eq_true, Option.isNone_iff_eq_none] at all
  obtain ⟨⟨⟨-, down⟩, -⟩, -⟩ := all
  exact down

/-- The sequence number that the router admits next: with no record in the set the one at its cursor. -/
def Pipeline.nextSeq (g : Pipeline) (cb : List Byte) : Nat := if g.recs.isEmpty then leNat cb else g.admitted

/-- A record enters the set. -/
def Pipeline.entered (n : Nat) (g : Pipeline) : Pipeline := { g with recs := g.recs ++ [{ seq := n }], admitted := n + 1 }

section
variable (routing : s.routing p acc = some (l, g, st)) (room : (g.recs.filter fun r => !r.gone).length < 256)
  (put : s.ringRead (opRing p acc 0) p l.ctx st.inring 0 8 = (t, .ok bs))
  (cursor : t.ringRead (opRing p acc 0) p l.ctx st.inring (16 + 8 * st.cursor.toNat) 8 = (v, .ok cb))
include routing room put cursor

/-- No record stands behind those admitted. -/
theorem exec_routerAdmit_empty (empty : leNat bs ≤ g.nextSeq cb) : exec (.routerAdmit p acc) s = .next (v.devDone (opRing p acc 0)) := by
  show execRouterAdmit p acc s = _
  unfold execRouterAdmit
  rw [routing]
  dsimp only
  rw [if_neg (Nat.not_le.2 room), put]
  dsimp only
  rw [cursor]
  exact congrArg _ (if_pos empty)

/-- The next record enters the set, with DONE 0. -/
theorem exec_routerAdmit_record (record : g.nextSeq cb < leNat bs)
    (write : v.ringWrite p l.ctx st.inring (v.ringSlot p l.ctx st.inring (g.nextSeq cb) + 4) [0] = .ok u) :
    exec (.routerAdmit p acc) s = .next ((u.modPart p fun x => x.modPipe acc (Pipeline.entered (g.nextSeq cb))).devDone (opRing p acc 0)) := by
  show execRouterAdmit p acc s = _
  unfold execRouterAdmit
  rw [routing]
  dsimp only
  rw [if_neg (Nat.not_le.2 room), put]
  dsimp only
  rw [cursor]
  refine congrArg _ ((if_neg (Nat.not_le.2 record)).trans ?_)
  unfold Pipeline.nextSeq at write
  rw [write]
  rfl
end

@[simp] theorem Pipeline.route_toClose (g : Pipeline) : g.route.toClose = g.toClose := by
  unfold Pipeline.route
  split
  · rfl
  · split <;> rfl

/-- Routing a record lets none leave. -/
theorem Pipeline.route_gone (g : Pipeline) : g.route.recs.map (·.gone) = g.recs.map (·.gone) := by
  unfold Pipeline.route
  split
  · rfl
  · split
    · rfl
    · dsimp only
      rw [List.map_map]
      refine List.map_congr_left fun r _ => ?_
      rw [Function.comp_apply]
      split <;> rfl

/-- Routing a record frees no slot. -/
theorem Pipeline.route_takeWhile_gone (g : Pipeline) (kept : g.recs.takeWhile (·.gone) = []) : g.route.recs.takeWhile (·.gone) = [] := by
  have front : ∀ rs : List SetRec, (rs.takeWhile (·.gone)).map (·.gone) = (rs.map (·.gone)).takeWhile id := fun rs => (List.takeWhile_map (f := SetRec.gone) (p := id) (l := rs)).symm
  rw [← List.map_eq_nil_iff (f := SetRec.gone), front, Pipeline.route_gone, ← front, kept]
  rfl

/-- With no record gone at the front the router's cursor stays. -/
theorem State.routerFree_none (pipe : (s.part p).pipeOf acc = some g) (kept : g.recs.takeWhile (·.gone) = []) : s.routerFree p acc l st = s := by
  unfold State.routerFree
  rw [pipe]
  dsimp only
  rw [kept]
  rfl

/-- A pipeline with crews and no ring to close goes on. -/
theorem State.closeStep_goesOn (launch : (s.part p).launch acc = some l) (pipe : l.pipe = some g) (unclosed : g.toClose = [])
    (crews : l.exited.length < l.cores.length) : s.closeStep p acc = s := by
  have stays : (g.over && decide (l.cores.length ≤ l.exited.length)) = false := by
    rw [decide_eq_false (Nat.not_le.2 crews), Bool.and_false]
  unfold State.closeStep
  rw [launch]
  dsimp only
  rw [pipe]
  dsimp only
  rw [Pipeline.nextClose, unclosed, List.find?_nil, stays]
  rfl

section
variable (routing : s.routing p acc = some (l, g, st)) (noExit : g.nextExit = none) (kept : g.recs.takeWhile (·.gone) = [])
include routing noExit kept

/-- With no record to let go and no slot to free the router routes. -/
theorem State.routeStep_route : s.routeStep p acc = s.modPart p fun x => x.modPipe acc Pipeline.route := by
  obtain ⟨runs, launch, pipe⟩ := State.routing_some routing
  have part : (s.modPart p fun x => x.modPipe acc Pipeline.route).part p = (s.part p).modPipe acc Pipeline.route := State.part_modPart s p _
  have halt : ¬ ((s.modPart p fun x => x.modPipe acc Pipeline.route).part p).halt.isSome = true := by
    rw [part, show ((s.part p).modPipe acc Pipeline.route).halt = (s.part p).halt from rfl, State.halt_of_pipeRuns runs]
    exact Bool.false_ne_true
  unfold State.routeStep
  rw [routing]
  dsimp only
  rw [noExit]
  dsimp only
  rw [if_neg halt]
  exact State.routerFree_none (by rw [part]; exact Part.pipeOf_modPipe launch pipe _) (g.route_takeWhile_gone kept)

theorem exec_routerDecision_route (unclosed : g.toClose = []) (crews : l.exited.length < l.cores.length) :
    exec (.routerDecision p acc) s = .next (s.modPart p fun x => x.modPipe acc Pipeline.route) := by
  obtain ⟨-, launch, pipe⟩ := State.routing_some routing
  show execRouterDecision p acc s = _
  unfold execRouterDecision
  dsimp only
  rw [State.routeStep_route routing noExit kept]
  refine congrArg _ (ite_eq_right_iff.2 fun _ => ?_)
  refine State.closeStep_goesOn (l := { l with pipe := l.pipe.map Pipeline.route }) (g := g.route) ?_ (by rw [pipe]; rfl) ?_ crews
  · rw [State.part_modPart, Part.launch_modPipe, launch]
    rfl
  · rw [Pipeline.route_toClose, unclosed]
end

end

/-! ### The score of a stage (R129 to R131) -/

/-- A least score is at most every score. -/
theorem foldl_min_le {α : Type} (f : α → Nat) (xs : List α) (m : Nat) :
    xs.foldl (fun m i => Nat.min m (f i)) m ≤ m ∧ ∀ j ∈ xs, xs.foldl (fun m i => Nat.min m (f i)) m ≤ f j := by
  induction xs generalizing m with
  | nil => exact ⟨Nat.le_refl m, fun j mem => absurd mem List.not_mem_nil⟩
  | cons x xs ih =>
    obtain ⟨below, all⟩ := ih (Nat.min m (f x))
    refine ⟨Nat.le_trans below (Nat.min_le_left m (f x)), fun j mem => ?_⟩
    rcases List.mem_cons.1 mem with rfl | mem
    · exact Nat.le_trans below (Nat.min_le_right m (f j))
    · exact all j mem

/-- The score of a stage of the set (R131). -/
def Pipeline.score (g : Pipeline) (i : Nat) : Nat := g.passes i + g.dweight * g.depth (g.cfirst + i)

/-- The decision takes a candidate of least score. -/
theorem Pipeline.decide_least {g : Pipeline} {r : SetRec} {i : Nat} {lot : BitVec 16} (decision : g.decide r = some (i, lot)) :
    i ∈ g.candidates r ∧ ∀ j ∈ g.candidates r, g.score i ≤ g.score j := by
  unfold Pipeline.decide at decision
  cases cs : g.candidates r with
  | nil =>
    rw [cs] at decision
    cases decision
  | cons c rest =>
    have tie : i ∈ (c :: rest).filter fun i => g.score i == (c :: rest).foldl (fun m i => Nat.min m (g.score i)) (g.score c) := by
      rw [cs] at decision
      dsimp only at decision
      split at decision
      · obtain ⟨k, head, eq⟩ := Option.map_eq_some_iff.1 decision
        obtain ⟨rfl, -⟩ := Prod.mk.inj eq
        exact List.mem_of_head? head
      · obtain ⟨k, drawn, eq⟩ := Option.map_eq_some_iff.1 decision
        obtain ⟨rfl, -⟩ := Prod.mk.inj eq
        exact List.mem_of_getElem? drawn
    obtain ⟨candidate, best⟩ := List.mem_filter.1 tie
    obtain ⟨-, least⟩ := foldl_min_le g.score (c :: rest) (g.score c)
    exact ⟨candidate, fun j mem => Nat.le_trans (Nat.le_of_eq (eq_of_beq best)) (least j mem)⟩

/-! ### What the derailleur measures (R135) -/

/-- The partitions and fabric time are as they were. -/
def SameParts (s t : State) : Prop := t.parts = s.parts ∧ t.time = s.time

theorem SameParts.refl (s : State) : SameParts s s := ⟨rfl, rfl⟩

theorem SameParts.trans {s t u : State} (first : SameParts s t) (next : SameParts t u) : SameParts s u :=
  ⟨next.1.trans first.1, next.2.trans first.2⟩

theorem SameParts.part {s t : State} (same : SameParts s t) (p : BitVec 5) : t.part p = s.part p :=
  congrArg (fun ps : Vector Part 32 => ps[p.toFin]) same.1

theorem State.bankRead_sameParts (s : State) (pa n : Nat) : SameParts s (s.bankRead pa n).1 := by
  unfold State.bankRead
  split
  · dsimp only
    split <;> exact ⟨rfl, rfl⟩
  · exact State.meet_keeps (P := SameParts s) s pa n ⟨rfl, rfl⟩ fun t a e h => h.trans (by cases e <;> exact ⟨rfl, rfl⟩)

theorem State.devAsk_sameParts (s : State) (op : Nat) (p : BitVec 5) (ctx : BitVec 3) (addr : Nat) (act : DevAct) (ring : Option (BitVec 12)) :
    SameParts s (s.devAsk op p ctx addr act ring) := by
  unfold State.devAsk
  split <;> exact ⟨rfl, rfl⟩

theorem State.ringRead_sameParts (s : State) (op : Nat) (p : BitVec 5) (ctx : BitVec 3) (tensor : BitVec 12) (byte n : Nat) :
    SameParts s (s.ringRead op p ctx tensor byte n).1 := by
  unfold State.ringRead
  split
  · dsimp only
    split
    · exact SameParts.refl s
    · exact SameParts.refl s
    · exact s.devAsk_sameParts op p ctx byte (.read n) (some tensor)
  · exact SameParts.refl s
  next pa _ =>
    have same := s.bankRead_sameParts pa n
    split <;> next read => rw [read] at same; exact same

/-- A word of a ring as the derailleur reads it: none while it is on its way, and no number where it cannot be read (R135, log 123). -/
def State.ringWord (s : State) (p : BitVec 5) (acc : Nat) (ctx : BitVec 3) (tensor : BitVec 12) (byte : Nat) : State × Option (Option Nat) :=
  match s.ringRead (opRing p acc 3) p ctx tensor byte 8 with
  | (s, .ok b) => (s, some (some (leNat b)))
  | (s, .error (.away _ _)) => (s, none)
  | (s, .error _) => (s, some none)

section
variable {s : State} {p : BitVec 5} {acc : Nat} {l : Launch} {g : Pipeline}

theorem State.ringWord_sameParts (s : State) (p : BitVec 5) (acc : Nat) (ctx : BitVec 3) (tensor : BitVec 12) (byte : Nat) :
    SameParts s (s.ringWord p acc ctx tensor byte).1 := by
  have same := s.ringRead_sameParts (opRing p acc 3) p ctx tensor byte 8
  unfold State.ringWord
  split <;> next read => rw [read] at same; exact same

/-- At a stage outside the set the derailleur reads the put index of the input ring and the stage's cursor. -/
theorem State.waitingAt_outside (ctx : BitVec 3) {j : Nat} {st : Stage} (outside : ¬ g.inSet j = true) (stage : g.stages[j]? = some st) :
    (s.waitingAt p acc ctx g j).1 =
      ((s.ringWord p acc ctx st.inring 0).1.ringWord p acc ctx st.inring (16 + 8 * st.cursor.toNat)).1 := by
  unfold State.waitingAt
  dsimp only
  rw [if_neg outside, stage]
  rfl

theorem State.waitingAt_sameParts (s : State) (p : BitVec 5) (acc : Nat) (ctx : BitVec 3) (g : Pipeline) (j : Nat) :
    SameParts s (s.waitingAt p acc ctx g j).1 := by
  by_cases inside : g.inSet j = true
  · rw [show s.waitingAt p acc ctx g j = _ from if_pos inside]
    exact SameParts.refl s
  · cases stage : g.stages[j]? with
    | none =>
      unfold State.waitingAt
      dsimp only
      rw [if_neg inside, stage]
      exact SameParts.refl s
    | some st =>
      rw [State.waitingAt_outside ctx inside stage]
      exact (s.ringWord_sameParts p acc ctx st.inring 0).trans (State.ringWord_sameParts _ p acc ctx st.inring _)

theorem measured_sameParts (s : State) (p : BitVec 5) (acc : Nat) (ctx : BitVec 3) (g : Pipeline) : SameParts s (measured s p acc ctx g).1 :=
  List.foldlRecOn (motive := fun a : State × List (Option Nat) => SameParts s a.1) _ _ (SameParts.refl s)
    fun a same j _ => same.trans (a.1.waitingAt_sameParts p acc ctx g j)

/-! ### The derailleur (R135 to R137) -/

/-- The measures of the stages of a pipeline, of the records that wait at each. -/
def Pipeline.measures (g : Pipeline) (qs : List (Option Nat)) : List Measure :=
  g.stages.zipIdx.map fun e => ⟨e.2, g.counts.getD e.2 0, (qs.getD e.2 none).getD 0, g.bp.contains e.2, e.1.min, e.1.max⟩

/-- The move that an evaluation leaves: the one that is pending, or the one that R136 marks. -/
def State.nextMove (s : State) (p : BitVec 5) (acc : Nat) (g : Pipeline) (qs : List (Option Nat)) : Option (BitVec 7 × Nat) :=
  match g.move with
  | some m => some m
  | none => (receiver (g.measures qs)).bind fun r => (donorStage (g.measures qs) r).bind fun d => (s.topCrew p acc d.j).map fun c => (c, r.j)

theorem State.nextMove_pending (qs : List (Option Nat)) (pending : g.move ≠ none) : s.nextMove p acc g qs = g.move := by
  unfold State.nextMove
  split
  next m move => exact move.symm
  next move => exact absurd move pending

/-- What an evaluation leaves of a pipeline. -/
def Pipeline.evaluated (now : Nat) (move : Option (BitVec 7 × Nat)) (g : Pipeline) : Pipeline := { g with bp := [], nextEval := now + 1024, move := move }

/-- What an evaluation with the measures of every stage leaves. -/
def State.evaluated (s : State) (p : BitVec 5) (acc : Nat) (g : Pipeline) (qs : List (Option Nat)) : State :=
  (s.modPart p fun t => t.modPipe acc (Pipeline.evaluated s.time (s.nextMove p acc g qs))).devDone (opRing p acc 3)

section
variable (launch : (s.part p).launch acc = some l) (pipe : l.pipe = some g)
include launch pipe

section
variable (free : g.fixed = false) (due : g.nextEval ≤ s.time) (resident : l.life = .resident) (runs : (s.part p).halt = none)
include free due resident runs

theorem exec_derailleurEvaluate_due : exec (.derailleurEvaluate p acc) s =
    .next (if (measured s p acc l.ctx g).2.any (·.isNone) then (measured s p acc l.ctx g).1
      else (measured s p acc l.ctx g).1.evaluated p acc g (measured s p acc l.ctx g).2) := by
  have now : ¬ (g.fixed || s.time < g.nextEval || l.life != .resident || (s.part p).halt.isSome) = true := by
    simp [free, due, resident, runs]
  show execDerailleurEvaluate p acc s = _
  unfold execDerailleurEvaluate
  rw [launch]
  dsimp only
  rw [pipe]
  dsimp only
  rw [if_neg now]
  rfl

/-- An evaluation waits while a stage has no measure. -/
theorem exec_derailleurEvaluate_waits (unread : ∃ q ∈ (measured s p acc l.ctx g).2, q = none) :
    exec (.derailleurEvaluate p acc) s = .next (measured s p acc l.ctx g).1 := by
  obtain ⟨q, mem, away⟩ := unread
  rw [exec_derailleurEvaluate_due launch pipe free due resident runs, if_pos (List.any_eq_true.2 ⟨q, mem, Option.isNone_iff_eq_none.2 away⟩)]

theorem exec_derailleurEvaluate_evaluates (read : ∀ q ∈ (measured s p acc l.ctx g).2, q ≠ none) :
    exec (.derailleurEvaluate p acc) s = .next ((measured s p acc l.ctx g).1.evaluated p acc g (measured s p acc l.ctx g).2) := by
  have all : ¬ (measured s p acc l.ctx g).2.any (·.isNone) = true := fun any => by
    obtain ⟨q, mem, away⟩ := List.any_eq_true.1 any
    exact read q mem (Option.isNone_iff_eq_none.1 away)
  rw [exec_derailleurEvaluate_due launch pipe free due resident runs, if_neg all]
end

theorem State.pipeOf_evaluated (qs : List (Option Nat)) : ((s.evaluated p acc g qs).part p).pipeOf acc = some (g.evaluated s.time (s.nextMove p acc g qs)) := by
  unfold State.evaluated
  rw [State.part_devDone, State.part_modPart]
  exact Part.pipeOf_modPipe launch pipe _

end

/-- What a move leaves before its core starts again: none is pending, the counts are as given, and what the core asked of other packages is dropped (R137). -/
def State.switched (s : State) (p : BitVec 5) (acc : Nat) (c : BitVec 7) (counts : List Nat) : State :=
  let v := s.modPart p fun t => t.modPipe acc fun h => { h with move := none, counts := counts }
  { v with waits := v.waits.filter fun w => w.core != c }

theorem exec_derailleurMove_boundary {c : BitVec 7} {r : Nat} {w : Crew} {dst rst : Stage} (launch : (s.part p).launch acc = some l) (pipe : l.pipe = some g)
    (move : g.move = some (c, r)) (crew : (s.core c).crew = some w) (donor : g.stages[w.stage.getD 0]? = some dst) (receiver : g.stages[r]? = some rst)
    (spare : dst.min < g.counts.getD (w.stage.getD 0) 0) (boundary : (s.core c).atBoundary = true) (runs : s.coreRuns c = true) :
    let n := g.counts.getD r 0 + 1
    exec (.derailleurMove p acc) s = .next ((s.switched p acc c
      (listSet (listSet g.counts (w.stage.getD 0) (g.counts.getD (w.stage.getD 0) 0 - 1)) r n)).startCrew c (stageCrew p l g rst r w.rank) rst.entries rst.params r n) := by
  have pending : (l.pipe.bind fun g => g.move.map fun m => (g, m)) = some (g, c, r) := by rw [pipe, Option.bind_some, move]; rfl
  show execDerailleurMove p acc s = _
  unfold execDerailleurMove
  rw [launch]
  dsimp only
  rw [pending]
  dsimp only
  rw [crew]
  dsimp only
  rw [donor, receiver]
  dsimp only
  rw [if_neg (Nat.not_le.2 spare), if_neg (by rw [boundary, runs]; decide)]
  rfl
end

end Sys2Proof.Machine

namespace Sys2Proof.Package

open Sys2Proof.Machine Sys2Proof.Stmt

theorem preemptionEvents : PreemptionEvents := by
  intro s p n
  exact ⟨fun chosen => ⟨_, exec_preemptDecision_some chosen, State.preempted_balance, State.preempted_preempt,
      fun noDrain => State.preempted_halt (State.judged_drains noDrain)⟩,
    exec_preemptDecision_none, fun due => congrArg _ (if_pos due), fun due => congrArg _ (if_neg (Bool.eq_false_iff.1 due))⟩

theorem stageEvents : StageEvents := by
  intro s t u v p acc l g st bs cb
  refine ⟨fun routing room put cursor => ⟨exec_routerAdmit_empty routing room put cursor, exec_routerAdmit_record routing room put cursor⟩,
    exec_routerDecision_route, fun r i lot => Pipeline.decide_least, fun launch pipe free due resident runs =>
      ⟨exec_derailleurEvaluate_waits launch pipe free due resident runs, fun read => ?_⟩,
    fun c r w dst rst => exec_derailleurMove_boundary⟩
  have same := measured_sameParts s p acc l.ctx g
  have pipeline := State.pipeOf_evaluated ((congrArg (Part.launch · acc) (same.part p)).trans launch) pipe (measured s p acc l.ctx g).2
  rw [same.2] at pipeline
  exact ⟨_, _, exec_derailleurEvaluate_evaluates launch pipe free due resident runs read, pipeline, State.nextMove_pending _⟩

/-- Settles O47: pre-emption, the record router and the derailleur. -/
theorem preemptionAndStageEvents : Obligations.PreemptionAndStageEvents := ⟨preemptionEvents, stageEvents⟩

end Sys2Proof.Package

/-! PROOFS. The lock-keeper of a scratchpad and the errors that stand in its rows (R18, R87, R168, R170): it meets them where the tables of row tags are canonical, and need not where they are
not, so the statement about banks and memory units fails. -/

namespace Sys2Proof.Machine

/-! ### What a reading meets (R18) -/

@[simp] theorem rowOf_start (row : Nat) : rowOf (2048 * row) = row := Nat.mul_div_cancel_left row (by decide)

/-- A value other than the default reads as it was written, also where the table is not canonical. -/
theorem SMap.get_put_same {β : Type} [DecidableEq β] {d v : β} (other : v ≠ d) (m : SMap β) (a : Nat) : SMap.get d (SMap.put d m a v) a = v := by
  unfold SMap.put SMap.write
  rw [SMap.get_append _ _ _ _ fun e he => Nat.ne_of_lt (SMap.mem_below he).2]
  simp [SMap.run, SMap.get, other]

/-- Two states that agree in what an error is, leaves and belongs to. -/
def SameErrors (s t : State) : Prop :=
  t.flaws = s.flaws ∧ t.poison = s.poison ∧ t.power = s.power ∧ t.errlog = s.errlog ∧ t.parts = s.parts

theorem SameErrors.trans {s t u : State} (first : SameErrors s t) (next : SameErrors t u) : SameErrors s u := by
  obtain ⟨flaws, poison, power, errlog, parts⟩ := first
  obtain ⟨flaws', poison', power', errlog', parts'⟩ := next
  exact ⟨flaws'.trans flaws, poison'.trans poison, power'.trans power, errlog'.trans errlog, parts'.trans parts⟩

/-- Words in which no error stands are read without finding one (R18). -/
theorem State.scrub_clean {s : State} {pa n : Nat} (clean : s.flawsIn pa n = []) : s.scrub pa n = s := by
  have same := State.meet_none clean
  unfold State.meet at same
  unfold State.scrub
  rw [clean] at same ⊢
  exact same

/-- Where the only error of the package stands in one row, no other holds any. -/
theorem State.flawsIn_other {s : State} {w row : Nat} {ecc : Ecc} (only : s.flaws = [(w, ecc)]) (apart : row ≠ rowOf (8 * w)) : s.flawsIn (2048 * row) 2048 = [] := by
  have misses : wordMeets (2048 * row) 2048 w = false := by
    unfold wordMeets
    unfold rowOf at apart
    rw [decide_eq_false_iff_not]
    omega
  unfold State.flawsIn
  rw [only, List.filter_cons, List.filter_nil, misses]
  rfl

/-- The reading of the row in which the only error stands takes it up. -/
theorem State.scrub_row {s : State} {w : Nat} {ecc : Ecc} (only : s.flaws = [(w, ecc)]) :
    s.scrub (2048 * rowOf (8 * w)) 2048 = ({ s with flaws := [] } : State).scrubFound (8 * w) ecc := by
  have meets : wordMeets (2048 * rowOf (8 * w)) 2048 w = true := by
    unfold wordMeets rowOf
    rw [decide_eq_true_eq]
    omega
  unfold State.scrub State.mended State.flawsIn
  rw [only, List.filter_cons, List.filter_cons, List.filter_nil, List.filter_nil, meets]
  rfl

/-! ### One renewal and many (R168) -/

/-- An expired row is passed over (R168). -/
theorem State.renewRow_expired {s : State} {row : Nat} (expired : s.expired (2048 * row) = true) (cls src : Nat) : s.renewRow (2048 * row) cls src = s.expireRow row := by
  unfold State.renewRow
  rw [if_pos expired, rowOf_start]

/-- The state in which a row has been rewritten, before its bank counts it. -/
theorem State.renewRow_live {s : State} {row : Nat} (live : s.expired (2048 * row) = false) (cls src : Nat) :
    ∃ cores, s.renewRow (2048 * row) cls src = { (s.scrub (2048 * row) 2048).freshen row with cores := cores } := by
  unfold State.renewRow
  rw [if_neg (by rw [live]; decide), rowOf_start]
  dsimp only
  split
  · exact ⟨_, rfl⟩
  · exact ⟨_, rfl⟩

theorem State.renewRow_clean_sameErrors {s : State} {row : Nat} (clean : s.flawsIn (2048 * row) 2048 = []) (cls src : Nat) :
    SameErrors s (s.renewRow (2048 * row) cls src) := by
  cases live : s.expired (2048 * row)
  · obtain ⟨cores, renewed⟩ := s.renewRow_live live cls src
    rw [renewed, State.scrub_clean clean]
    exact ⟨rfl, rfl, rfl, rfl, rfl⟩
  · rw [State.renewRow_expired live]
    exact ⟨rfl, rfl, rfl, rfl, rfl⟩

/-- Whether a row has expired turns on its tags, the time and the classes of the dies alone (R160). -/
theorem State.expired_congr {s t : State} {row : Nat} (now : t.time = s.time) (hot : t.dieHot = s.dieHot) (live : SMap.get false t.rowLive row = SMap.get false s.rowLive row)
    (tick : SMap.get 0 t.rowTick row = SMap.get 0 s.rowTick row) : t.expired (2048 * row) = s.expired (2048 * row) := by
  unfold State.expired State.rowAge State.tick
  rw [rowOf_start, now, hot, live, tick]

/-- The tags of rows have canonical tables, and a row has not expired. -/
def Unexpired (row : Nat) (s : State) : Prop :=
  SMap.wf 0 s.rowTick = true ∧ SMap.wf false s.rowLive = true ∧ s.expired (2048 * row) = false

/-- In canonical tables the renewal of a row leaves the tags of each other row. -/
theorem State.renewRow_unexpired {s : State} {row other : Nat} (h : Unexpired row s) (apart : row ≠ other) (clean : s.flawsIn (2048 * other) 2048 = []) (cls src : Nat) :
    Unexpired row (s.renewRow (2048 * other) cls src) := by
  obtain ⟨tick, live, unexpired⟩ := h
  cases expired : s.expired (2048 * other)
  · obtain ⟨cores, renewed⟩ := s.renewRow_live expired cls src
    rw [renewed, State.scrub_clean clean]
    refine ⟨SMap.wf_put _ _ _ _ tick, SMap.wf_put _ _ _ _ live, unexpired ▸ ?_⟩
    exact State.expired_congr rfl rfl ((SMap.get_put _ _ _ _ _ live).trans (if_neg apart)) ((SMap.get_put _ _ _ _ _ tick).trans (if_neg apart))
  · rw [State.renewRow_expired expired]
    refine ⟨tick, SMap.wf_put _ _ _ _ live, unexpired ▸ ?_⟩
    exact State.expired_congr rfl rfl ((SMap.get_put _ _ _ _ _ live).trans (if_neg apart)) rfl

/-- Renewals of rows in which no error stands leave every error as it is. -/
theorem State.renewRows_sameErrors {rows : List Nat} {cls src : Nat} : ∀ {s : State}, (∀ row ∈ rows, s.flawsIn (2048 * row) 2048 = []) →
    SameErrors s (rows.foldl (fun s row => s.renewRow (2048 * row) cls src) s) := by
  induction rows with
  | nil => exact fun _ => ⟨rfl, rfl, rfl, rfl, rfl⟩
  | cons head rest ih =>
    intro s clean
    have first := s.renewRow_clean_sameErrors (clean head List.mem_cons_self) cls src
    refine first.trans (ih fun row later => ?_)
    unfold State.flawsIn
    rw [first.1]
    exact clean row (List.mem_cons_of_mem _ later)

theorem State.renewRows_unexpired {row : Nat} {rows : List Nat} {cls src : Nat} (apart : row ∉ rows) : ∀ {s : State}, Unexpired row s →
    (∀ other ∈ rows, s.flawsIn (2048 * other) 2048 = []) → Unexpired row (rows.foldl (fun s row => s.renewRow (2048 * row) cls src) s) := by
  induction rows with
  | nil => exact fun h _ => h
  | cons head rest ih =>
    intro s h clean
    obtain ⟨here, further⟩ := not_or.1 (mt List.mem_cons.2 apart)
    have none := clean head List.mem_cons_self
    refine ih further (State.renewRow_unexpired h here none cls src) fun other later => ?_
    unfold State.flawsIn
    rw [(s.renewRow_clean_sameErrors none cls src).1]
    exact clean other (List.mem_cons_of_mem _ later)

/-! ### What a finding leaves (R87, R170) -/

/-- No error comes to stand while a fault is recorded (R18, R236). -/
theorem recordKeeps_noFlaws : RecordKeeps fun t => t.flaws = [] where
  read {t} h pa n := by
    unfold State.bankRead
    split
    · dsimp only
      split <;> exact h
    · exact State.meet_keeps (P := fun t => t.flaws = []) t pa n (by unfold State.mended; rw [h]; rfl) fun t a e h => by cases e <;> exact h
  write {t} h pa bs := by
    have keep : ∀ {u : State} (pa n : Nat), u.flaws = [] → (u.unpoison pa n).flaws = [] := fun pa n h => by
      unfold State.unpoison
      split
      · unfold State.mended; dsimp only; rw [h]; rfl
      · exact h
    rw [State.bankWrite_eq]
    refine keep _ _ ?_
    unfold State.readied State.cleared
    split <;> split
    · exact keep _ _ h
    · exact h
    · exact keep _ _ h
    · exact h
  wait h _ _ _ _ := h
  log h _ _ := h
  msix h f v := by
    unfold State.sendMsix
    split
    · exact (State.modFunc_flaws ..).trans h
    · exact h
  part h _ _ := h

/-- The owner of a scratchpad row is that of its core (R84, R87). -/
theorem State.rowOwner_scratchpad {s t : State} (parts : t.parts = s.parts) {pa : Nat} (scratch : scrBase ≤ pa) : t.rowOwner pa = s.rowOwner pa := by
  have gain : ¬ pa < shmBase := Nat.not_lt.2 (Nat.le_trans (by decide : shmBase ≤ scrBase) scratch)
  have owner : ∀ u : State, u.rowOwner pa = u.ownerOf (BitVec.ofNat 7 (scrCore pa)) := fun u => by
    unfold State.rowOwner
    dsimp only
    rw [if_neg gain, if_pos scratch]
  rw [owner, owner]
  unfold State.ownerOf State.part
  rw [parts]

/-- What a reading finds in a word of a scratchpad, where nothing stands that it has not taken up (R18, R87, R170). -/
theorem State.scrubFound_met {s : State} {pa : Nat} (ecc : Ecc) (empty : s.flaws = []) :
    let t := s.scrubFound pa ecc
    t.flaws = [] ∧
    (ecc = .single → t.poison = s.poison ∧ SMap.get 0 t.power.correctable (structureOf pa) = SMap.get 0 s.power.correctable (structureOf pa) + 1) ∧
    (ecc = .uncorrectable → s.rowOwner pa = none → scrBase ≤ pa → t.poisoned pa = true ∧ t.errlog = ⟨kPoison, pa⟩ :: s.errlog) := by
  cases ecc with
  | clean => exact ⟨empty, nofun, nofun⟩
  | single => exact ⟨empty, fun _ => ⟨rfl, SMap.get_put_same (Nat.succ_ne_zero _) _ _⟩, nofun⟩
  | uncorrectable =>
    refine ⟨?_, nofun, fun _ unowned scratch => ?_⟩
    · have kept : (s.eccFound pa .uncorrectable).flaws = [] := empty
      unfold State.scrubFound
      dsimp only
      rw [if_pos rfl]
      split
      · split
        · exact recordKeeps_noFlaws.writeRecord kept ..
        · exact recordKeeps_noFlaws.writeRecord kept ..
      · exact kept
    · have owner : (s.eccFound pa .uncorrectable).rowOwner pa = none := (State.rowOwner_scratchpad rfl scratch).trans unowned
      unfold State.scrubFound
      dsimp only
      rw [if_pos rfl, owner]
      exact ⟨SMap.get_put_same (by decide) _ _, rfl⟩

/-! ### The lock-keeper of a core -/

/-- A row that its lock-keeper must renew lies in a scratchpad and has not expired (R168). -/
theorem State.coreDue_row {s : State} {core row : Nat} (due : row ∈ s.coreDue core) : scrBase ≤ 2048 * row ∧ s.expired (2048 * row) = false := by
  unfold State.coreDue State.rowsAged at due
  rw [mem_sortBy, List.mem_map] at due
  obtain ⟨e, aged, rfl⟩ := due
  have passes := (List.mem_filter.1 aged).2
  simp only [Bool.and_eq_true, decide_eq_true_eq, Bool.not_eq_true'] at passes
  obtain ⟨⟨⟨_, ⟨scratch, _⟩, _⟩, unexpired⟩, _⟩ := passes
  exact ⟨scratch, unexpired⟩

/-- Two rows of the scratchpad of core 0 that are due, in a unit that is renewed; an error stands in the younger one. The table of row tags is not canonical: its keys fall (Store.lean; log 1).
Row 2^29 is the first of the scratchpads, and word 2^37 its first. -/
def fallingTags : State :=
  { State.reset.modCore 0 fun c => { c with units := c.units.set 0 3 } with
    time := 300000, rowLive := [(2 ^ 29 + 1, true), (2 ^ 29, true)], rowTick := [(2 ^ 29, 10)], flaws := [(2 ^ 37, .single)] }

/-- The older row comes first. -/
theorem fallingTags_due : (fallingTags.coreDue (0 : BitVec 7).toNat).take 32 = [2 ^ 29 + 1, 2 ^ 29] := by decide +kernel

/-- The tag that the older row gets stands in place of all that follows it in the table, so by its turn the younger has expired. -/
theorem fallingTags_expires : (fallingTags.renewRow (2048 * (2 ^ 29 + 1)) 6 58).expired (2048 * 2 ^ 29) = true := by decide +kernel

theorem fallingTags_flaws : (fallingTags.renewRow (2048 * (2 ^ 29 + 1)) 6 58).flaws = [(2 ^ 37, .single)] := by decide +kernel

end Sys2Proof.Machine

namespace Sys2Proof.Package

open Sys2Proof.Machine Sys2Proof.Stmt

/-- In canonical tables the lock-keeper of a core meets an error that stands in a row which is due (R168, R170): the clause of the statement about banks that `fallingTags` breaks. -/
theorem exec_lockKeeperRenewal_flawMet {s : State} (tables : TablesWf s) (core : BitVec 7) :
    ∃ t, exec (.lockKeeperRenewal core) s = .next t ∧ FlawMet s t ((s.coreDue core.toNat).take 32) := by
  refine ⟨_, rfl, fun w ecc only due => ?_⟩
  obtain ⟨scratch, unexpired⟩ := State.coreDue_row (List.mem_of_mem_take due)
  obtain ⟨before, after, rows, apart⟩ := List.eq_append_cons_of_mem due
  obtain ⟨storage, -, -⟩ := tables
  obtain ⟨-, tick, live, -⟩ := (State.memWf_iff s).1 storage
  have clean : ∀ other ∈ before, s.flawsIn (2048 * other) 2048 = [] := fun other earlier =>
    State.flawsIn_other only fun same => apart (same ▸ earlier)
  rw [rows, List.foldl_append, List.foldl_cons]
  have early := State.renewRows_sameErrors (cls := 6) (src := 58) clean
  obtain ⟨-, -, still⟩ := State.renewRows_unexpired (cls := 6) (src := 58) apart ⟨tick, live, unexpired⟩ clean
  generalize before.foldl (fun s row => s.renewRow (2048 * row) 6 58) s = u at early still
  obtain ⟨flaws, poison, power, errlog, parts⟩ := early
  obtain ⟨cores, renewed⟩ := u.renewRow_live still 6 58
  obtain ⟨gone, single, uncorrectable⟩ := State.scrubFound_met (s := { u with flaws := [] }) (pa := 8 * w) ecc rfl
  rw [← State.scrub_row (flaws.trans only)] at gone single uncorrectable
  rw [renewed]
  generalize u.scrub (2048 * rowOf (8 * w)) 2048 = v at gone single uncorrectable
  obtain ⟨flaws', poison', power', errlog', -⟩ := State.renewRows_sameErrors (s := { v.freshen (rowOf (8 * w)) with cores := cores }) (rows := after) (cls := 6) (src := 58)
    fun row _ => by show v.flaws.filter _ = []; rw [gone, List.filter_nil]
  refine ⟨flaws'.trans gone, fun corrected => ?_, fun uncorrected unowned => ?_⟩
  · obtain ⟨kept, counted⟩ := single corrected
    rw [poison', power', ← poison, ← power]
    exact ⟨kept, counted⟩
  · have first : scrBase ≤ 8 * w := by unfold rowOf at scratch; omega
    obtain ⟨marked, noted⟩ := uncorrectable uncorrected ((State.rowOwner_scratchpad parts first).trans unowned) first
    rw [errlog', ← errlog]
    unfold State.poisoned
    rw [poison']
    exact ⟨marked, noted⟩

/-- Refutes O50: BankEvents asks FlawMet of the lock-keeper of a core in every state, canonical or not. In `fallingTags` the renewal of one row loses the tag of the next, which is then passed over
as expired, and its error stays. -/
theorem not_bankAndMemoryUnitEvents : ¬ Obligations.BankAndMemoryUnitEvents := by
  rintro ⟨banks, -⟩
  obtain ⟨-, -, -, -, -, ⟨t, ran, met, -⟩, -⟩ := banks fallingTags fallingTags ⟨0, 0, none, .clean⟩ ⟨.add, 0, 0, 0, 0⟩ ⟨.fp32, []⟩ .poison [] 0 0
  cases ran
  have mended := (met (2 ^ 37) .single rfl (by rw [fallingTags_due]; decide)).1
  rw [fallingTags_due, List.foldl_cons, List.foldl_cons, List.foldl_nil, State.renewRow_expired fallingTags_expires] at mended
  exact List.cons_ne_nil _ _ (fallingTags_flaws.symm.trans mended)

end Sys2Proof.Package

/-! PROOFS. Migration, read duplication and invalidation (R225 to R229): what each step comes to, and the statement about them. -/

namespace Sys2Proof.Machine

open Sys2Proof.Stmt

section
variable {s t u : State} {p : BitVec 5} {g : Migr} {d : Desc} {e : BitVec 64} {pa q : Nat} {xs : List (Nat × List Byte)}

/-! ### The first migration of a partition (R225) -/

theorem exec_migration_empty (empty : (s.part p).migrs = []) : exec (.migration p) s = .next s := by
  show execMigration p s = _
  unfold execMigration
  rw [empty]

theorem exec_migration_here (moves : Moves s p g d e pa) : exec (.migration p) s = .next (s.migHere p g ⟨d, e, some pa⟩ pa) := by
  obtain ⟨first, tile⟩ := moves
  obtain ⟨rest, queue⟩ := List.head?_eq_some_iff.1 first
  show execMigration p s = _
  unfold execMigration
  rw [queue]
  dsimp only
  rw [tile]

theorem exec_migration_far {pkg fa : Nat} (first : (s.part p).migrs.head? = some g) (tile : s.migTile p g = some ⟨d, e, none⟩)
    (source : s.farSource p g ⟨d, e, none⟩ = some (pkg, fa)) : exec (.migration p) s = .next (s.migFar p g ⟨d, e, none⟩ pkg fa) := by
  obtain ⟨rest, queue⟩ := List.head?_eq_some_iff.1 first
  show execMigration p s = _
  unfold execMigration
  rw [queue]
  dsimp only
  rw [tile]
  dsimp only
  rw [source]

/-! ### The destination is made ready (R225, R227, R228) -/

/-- May the home list a package for a read copy of a tile (R228)? -/
def State.mayList (s : State) (g : Migr) (d : Desc) (pa : Nat) : Bool :=
  g.loc == 0 && d.dupok && decide (g.pkg.toNat < s.fabric.packages) && ((s.frameState pa).2.contains g.pkg.toNat || decide ((s.frameState pa).2.length < 3))

theorem State.mayList_iff : s.mayList g d pa = true ↔
    g.loc = 0 ∧ d.dupok = true ∧ g.pkg.toNat < s.fabric.packages ∧ (g.pkg.toNat ∈ (s.frameState pa).2 ∨ (s.frameState pa).2.length < 3) := by
  simp [State.mayList, and_assoc]

theorem State.migDest_newPlace (src : Option Nat) : s.migDest p g ⟨d, e, src⟩ = newPlace s p g d (g.entry e false) := rfl

/-- A destination on this package is ready at once. The function is unfolded away from its arguments: at them the kernel would compute where the entry leads. -/
theorem State.readyDest_here {m : MigTile} (place : s.migDest p g m = .here q) : s.readyDest p g m = (s.reuse q m.d.tileBytes, true) := by
  have body := Eq.refl State.readyDest
  conv at body =>
    rhs
    delta State.readyDest
  rw [body]
  dsimp only
  rw [place]

section
variable (other : g.op ≠ 2) (step : g.step = 0) (sound : e.getLsbD 3 = false)
include other step sound

theorem State.migHere_refused (refused : s.migFits p g ⟨d, e, some pa⟩ = false ∨ g.op = 1 ∧ s.mayList g d pa = false) :
    s.migHere p g ⟨d, e, some pa⟩ pa = s.abortMig p g 3 := by
  have stops : (!s.migFits p g ⟨d, e, some pa⟩ || g.op == 1 && !s.mayList g d pa) = true := by simpa using refused
  unfold State.migHere
  simp only [step]
  rw [if_neg (Bool.eq_false_iff.1 sound)]
  exact if_pos stops

theorem State.migHere_ready (fits : s.migFits p g ⟨d, e, some pa⟩ = true) (listed : g.op = 1 → s.mayList g d pa = true)
    (place : newPlace s p g d (g.entry e false) = .here q) : s.migHere p g ⟨d, e, some pa⟩ pa = stepped p
      (if g.op = 0 then (s.reuse q d.tileBytes).flushPieces.setFrames pa d.tileBytes 1 (s.frameState pa).2 else s.reuse q d.tileBytes) := by
  have goesOn : ¬ (!s.migFits p g ⟨d, e, some pa⟩ || g.op == 1 && !s.mayList g d pa) = true := by simpa [fits] using listed
  unfold State.migHere
  simp only [step]
  rw [if_neg (Bool.eq_false_iff.1 sound)]
  refine (if_neg goesOn).trans ?_
  rw [State.readyDest_here ((State.migDest_newPlace _).trans place)]
  rfl
end

/-! ### The blocks are copied (R225, R227, R228) -/

section
variable {v : State} (other : g.op ≠ 2) (step : g.step = 1) (sound : e.getLsbD 3 = false) (source : (if g.op = 1 then s.flushPieces else s) = v)
include other step sound source

theorem State.migHere_unread {why : Nat} (read : v.readTile pa d.tileBytes = (t, .error why)) :
    s.migHere p g ⟨d, e, some pa⟩ pa = t.abortMig p g why := by
  unfold State.migHere
  simp only [step]
  rw [if_neg (Bool.eq_false_iff.1 sound), source, read]

theorem State.migHere_copied (read : v.readTile pa d.tileBytes = (t, .ok xs))
    (written : t.writeTile (g.core.getD 0) (newPlace t p g d (g.entry e false)) xs = u) :
    s.migHere p g ⟨d, e, some pa⟩ pa = stepped p
      (if g.op = 0 then u else (u.setFrames pa d.tileBytes 0 (withSharer (s.frameState pa).2 g.pkg.toNat)).setDups pa d.tileBytes p g.tensor g.tile) := by
  subst written
  unfold State.migHere
  simp only [step]
  rw [if_neg (Bool.eq_false_iff.1 sound), source, read]
  rfl
end

/-- A poisoned tile ends a migration before its blocks are read (R227). -/
theorem State.migHere_poisoned (other : g.op ≠ 2) (reading : g.step = 0 ∨ g.step = 1) (poisoned : e.getLsbD 3 = true) :
    s.migHere p g ⟨d, e, some pa⟩ pa = s.abortMig p g 2 := by
  unfold State.migHere
  obtain step | step := reading <;> simp only [step] <;> exact if_pos poisoned

/-! ### The entry is written (R225, R228) -/

theorem State.migHere_posting (op : g.op = 0 ∨ g.op = 1) (step : 2 ≤ g.step) (posting : s.posting (g.core.getD 0) = true) {m : MigTile} :
    s.migHere p g m pa = s := by
  unfold State.migHere
  split
  case h_5 | h_6 | h_7 => exact if_pos posting
  all_goals omega

theorem State.migHere_replaced (op : g.op = 0) (step : g.step = 2) (visible : s.posting (g.core.getD 0) = false) {m : MigTile} :
    s.migHere p g m pa = (((s.putEntry p g m).setFrames pa m.d.tileBytes 2 []).keepSharers p g m (s.frameState pa).2).endMig p g := by
  unfold State.migHere
  simp only [op, step]
  exact if_neg (Bool.eq_false_iff.1 visible)

theorem State.migHere_entered (op : g.op = 1) (step : g.step = 2) (visible : s.posting (g.core.getD 0) = false) {m : MigTile} :
    s.migHere p g m pa = stepped p (s.putEntry p g m) := by
  unfold State.migHere
  simp only [op, step]
  exact if_neg (Bool.eq_false_iff.1 visible)

theorem State.migHere_ended (op : g.op = 1) (step : g.step = 3) (visible : s.posting (g.core.getD 0) = false) {m : MigTile} :
    s.migHere p g m pa = s.endDup p g pa m.d.tileBytes := by
  unfold State.migHere
  simp only [op, step]
  exact if_neg (Bool.eq_false_iff.1 visible)

/-! ### A copy is removed (R228) -/

section
variable {m : MigTile} (op : g.op = 2)
include op

theorem State.migHere_removed (gone : (s.frameState pa).2.contains g.pkg.toNat = false) : s.migHere p g m pa = s.endMig p g := by
  unfold State.migHere
  by_cases step : g.step = 0
  · simp only [op, step]
    exact if_pos (by rw [gone]; rfl)
  · simp only [op]
    exact if_neg (Bool.eq_false_iff.1 gone)

theorem State.migHere_recalled (step : g.step = 0) (sharer : (s.frameState pa).2.contains g.pkg.toNat = true) :
    s.migHere p g m pa = stepped p (s.sendPkt (s.fabric.posOf g.pkg.toNat)
      (s.unitPkt 3 (s.fabric.posOf g.pkg.toNat) (.invalidate p g.tensor g.tile (BitVec.ofNat 32 (pa / 16384))))) := by
  unfold State.migHere
  simp only [op, step]
  exact if_neg (by rw [sharer]; decide)

theorem State.migHere_recalling (step : g.step ≠ 0) (sharer : (s.frameState pa).2.contains g.pkg.toNat = true) : s.migHere p g m pa = s := by
  unfold State.migHere
  simp only [op]
  exact if_pos sharer
end

/-! ### Copies are invalidated (R229) -/

section
variable {tensor : BitVec 12} {tile : Nat} (named : s.migTile p ⟨(s.part p).runctx, tensor, tile, 2, 0, 0, 0, none, 0, [], 0, []⟩ = some ⟨d, e, some pa⟩)
include named

theorem exec_invalidate_shared (free : s.copying pa = false) : exec (.invalidate p tensor tile) s = .next ((s.frameState pa).2.foldl (fun s pkg =>
    s.sendPkt (s.fabric.posOf pkg) (s.unitPkt 3 (s.fabric.posOf pkg) (.invalidate p tensor tile (BitVec.ofNat 32 (pa / 16384))))) s) := by
  show execInvalidate p tensor tile s = _
  unfold execInvalidate
  dsimp only
  rw [named]
  exact congrArg _ (if_neg (Bool.eq_false_iff.1 free))

theorem exec_invalidate_copying (busy : s.copying pa = true) : exec (.invalidate p tensor tile) s = .next s := by
  show execInvalidate p tensor tile s = _
  unfold execInvalidate
  dsimp only
  rw [named]
  exact congrArg _ (if_pos busy)
end

@[simp] theorem State.kickHost_mem (s : State) : s.kickHost.mem = s.mem := by
  unfold State.kickHost
  split <;> rfl

@[simp] theorem State.kickHost_cores (s : State) : s.kickHost.cores = s.cores := by
  unfold State.kickHost
  split <;> rfl

@[simp] theorem State.kickHost_frames (s : State) : s.kickHost.frames = s.frames := by
  unfold State.kickHost
  split <;> rfl

/-- A frame without a sharer, if it is one of some frames. -/
def withoutSharer (frames : List Nat) (pkg : Nat) (f : Nat × Nat × List Nat) : Nat × Nat × List Nat :=
  if frames.contains f.1 then (f.1, f.2.1, f.2.2.filter (· != pkg)) else f

/-- A table of frames without a sharer of some of them; a normal frame that no package shares has no entry. -/
def dropSharer (frames : List Nat) (pkg : Nat) (table : List (Nat × Nat × List Nat)) : List (Nat × Nat × List Nat) :=
  (table.map (withoutSharer frames pkg)).filter fun f => f.2.1 != 0 || !f.2.2.isEmpty

section
variable {frames : List Nat} {pkg : Nat} {f : Nat × Nat × List Nat} {table : List (Nat × Nat × List Nat)}

theorem withoutSharer_in (mem : f.1 ∈ frames) : withoutSharer frames pkg f = (f.1, f.2.1, f.2.2.filter (· != pkg)) :=
  if_pos (List.contains_iff_mem.2 mem)

theorem withoutSharer_other (other : f.1 ∉ frames) : withoutSharer frames pkg f = f :=
  if_neg fun mem => other (List.contains_iff_mem.1 mem)

theorem not_mem_sharers_of_dropSharer (listed : f ∈ dropSharer frames pkg table) (mem : f.1 ∈ frames) : pkg ∉ f.2.2 := by
  obtain ⟨old, -, rfl⟩ := List.mem_map.1 (List.mem_filter.1 listed).1
  by_cases named : old.1 ∈ frames
  · rw [withoutSharer_in named]
    simp
  · rw [withoutSharer_other named] at mem
    exact absurd mem named

theorem mem_dropSharer_other (listed : f ∈ table) (other : f.1 ∉ frames) (used : f.2.1 ≠ 0 ∨ f.2.2 ≠ []) : f ∈ dropSharer frames pkg table :=
  List.mem_filter.2 ⟨List.mem_map.2 ⟨f, listed, withoutSharer_other other⟩, by simpa using used⟩
end

theorem exec_invalidateAck_frames (s : State) (pkg : BitVec 9) (frame : BitVec 32) : ∃ t, exec (.invalidateAck pkg frame) s = .next t ∧ t.mem = s.mem ∧
    t.cores = s.cores ∧ t.frames = dropSharer (s.tileFrames frame.toNat) pkg.toNat s.frames := by
  refine ⟨_, rfl, ?_⟩
  dsimp only
  split
  · rw [State.kickHost_mem, State.kickHost_cores, State.kickHost_frames]
    exact ⟨rfl, rfl, rfl⟩
  · exact ⟨rfl, rfl, rfl⟩

end

end Sys2Proof.Machine

namespace Sys2Proof.Package

open Sys2Proof.Machine Sys2Proof.Stmt

/-- Settles O51: migration, duplication and invalidation. -/
theorem migrationEvents : Obligations.MigrationEvents := by
  intro s t p g d e pa q xs pkg frame tensor tile core m bytes live sh by_ listed
  have run {u : State} (moves : Moves s p g d e pa) (here : s.migHere p g m pa = u) : exec (.migration p) s = .next u :=
    (exec_migration_here moves).trans (congrArg _ here)
  refine ⟨fun ⟨moves, sound⟩ op step => ?_, fun ⟨moves, sound⟩ op step => ?_, fun ⟨moves, _⟩ op step visible => ?_, fun ⟨moves, sound⟩ op step => ?_,
    fun ⟨moves, sound⟩ op step => ?_, fun moves op visible => ?_, fun moves other reading poisoned => ?_, fun moves op step posting => ?_, fun moves op => ?_,
    fun pkg' fa first tile source => exec_migration_far first tile source, exec_migration_empty,
    fun named => ⟨exec_invalidate_shared named, exec_invalidate_copying named⟩, ?_, rfl⟩
  · have other : g.op ≠ 2 := by omega
    refine ⟨fun fits place => run moves ?_, fun unfit => run moves (State.migHere_refused other step sound (.inl unfit))⟩
    have ready := State.migHere_ready other step sound fits (fun dup => absurd (op.symm.trans dup) (by decide)) place
    exact ready.trans (congrArg _ (if_pos op))
  · have other : g.op ≠ 2 := by omega
    have source : (if g.op = 1 then s.flushPieces else s) = s := if_neg (by omega)
    exact ⟨fun read => run moves ((State.migHere_copied other step sound source read rfl).trans (congrArg _ (if_pos op))),
      fun why read => run moves (State.migHere_unread other step sound source read)⟩
  · exact run moves (State.migHere_replaced op step visible)
  · have other : g.op ≠ 2 := by omega
    have duplicates : ¬ g.op = 0 := by omega
    refine ⟨fun fits may place => run moves ?_, fun refused => run moves (State.migHere_refused other step sound ?_)⟩
    · exact (State.migHere_ready other step sound fits (fun _ => State.mayList_iff.2 may) place).trans (congrArg _ (if_neg duplicates))
    · exact refused.imp id fun unlisted => ⟨op, Bool.eq_false_iff.2 fun may => unlisted (State.mayList_iff.1 may)⟩
  · have other : g.op ≠ 2 := by omega
    have duplicates : ¬ g.op = 0 := by omega
    exact ⟨fun read => run moves ((State.migHere_copied other step sound (if_pos op) read rfl).trans (congrArg _ (if_neg duplicates))),
      fun why read => run moves (State.migHere_unread other step sound (if_pos op) read)⟩
  · exact ⟨fun step => run moves (State.migHere_entered op step visible), fun step => run moves (State.migHere_ended op step visible)⟩
  · exact run moves (State.migHere_poisoned other reading poisoned)
  · exact run moves (State.migHere_posting op step posting)
  · exact ⟨fun gone => run moves (State.migHere_removed op gone), fun step sharer => run moves (State.migHere_recalled op step sharer),
      fun step sharer => run moves (State.migHere_recalling op step sharer)⟩
  · obtain ⟨u, ran, mem, cores, frames⟩ := exec_invalidateAck_frames s pkg frame
    refine ⟨u, ran, mem, cores, ?_, ?_⟩ <;> rw [frames]
    · exact fun f => not_mem_sharers_of_dropSharer
    · exact fun f => mem_dropSharer_other

end Sys2Proof.Package

/-! PROOFS. Taking a fault (R87, R232, R239), trap and halt (R443, R444): what each leaves of a core, and the statement about them. -/

namespace Sys2Proof.Machine

/-! ### What the record of a fault leaves of the cores -/

/-- No core has changed but for its event counters, and the same one acts. -/
structure State.OnlyCounters (s t : State) : Prop where
  cur  : t.cur = s.cur
  core : ∀ c, ∃ e, t.core c = { s.core c with ev := e }

theorem State.OnlyCounters.refl (s : State) : s.OnlyCounters s := ⟨rfl, fun _ => ⟨_, rfl⟩⟩

theorem State.OnlyCounters.trans {s t u : State} (first : s.OnlyCounters t) (second : t.OnlyCounters u) : s.OnlyCounters u := by
  refine ⟨second.cur.trans first.cur, fun c => ?_⟩
  obtain ⟨e, before⟩ := first.core c
  obtain ⟨e', after⟩ := second.core c
  exact ⟨e', by rw [after, before]⟩

theorem State.OnlyCounters.of_eq {s t : State} (acts : t.cur = s.cur) (cores : t.cores = s.cores) : s.OnlyCounters t :=
  ⟨acts, fun c => ⟨(s.core c).ev, congrArg (·[c.toFin]) cores⟩⟩

theorem State.onlyCounters_count (s : State) (c : BitVec 7) (src n : Nat) : s.OnlyCounters (s.modCore c (·.count src n)) := by
  refine ⟨rfl, fun d => ?_⟩
  by_cases same : d = c
  · rw [same, State.core_modCore]
    exact (s.core c).count_eq src n
  · exact ⟨_, State.core_modCore_ne s _ same⟩

theorem State.onlyCounters_eccFound (s : State) (pa : Nat) (e : Ecc) : s.OnlyCounters (s.eccFound pa e) := by
  cases e <;> exact .of_eq rfl rfl

/-- A discard counts at the core of its scratchpad (R164); nothing else that a read meets reaches a core. -/
theorem State.onlyCounters_bankRead (s : State) (pa n : Nat) : s.OnlyCounters (s.bankRead pa n).1 := by
  have expired : s.OnlyCounters (s.expireRow (rowOf pa)) := .of_eq rfl rfl
  unfold State.bankRead
  split
  · dsimp only
    split
    · exact expired.trans (State.onlyCounters_count ..)
    · exact expired
  · exact State.meet_keeps s pa n (.of_eq rfl rfl) fun t a e kept => kept.trans (t.onlyCounters_eccFound a e)

theorem State.onlyCounters_unpoison (s : State) (pa n : Nat) : s.OnlyCounters (s.unpoison pa n) := by
  unfold State.unpoison
  split <;> exact .of_eq rfl rfl

theorem State.onlyCounters_poke (s : State) (pa : Nat) (bs : List Byte) : s.OnlyCounters (s.poke pa bs) := .of_eq rfl rfl

theorem State.onlyCounters_cleared (s : State) (pa : Nat) : s.OnlyCounters (s.cleared pa) := by
  unfold State.cleared
  split
  · exact (s.onlyCounters_poke ..).trans (State.onlyCounters_unpoison ..)
  · exact .refl s

theorem State.onlyCounters_readied (s : State) (pa : Nat) : s.OnlyCounters (s.readied pa) := by
  unfold State.readied
  split
  · exact (s.onlyCounters_cleared pa).trans (.of_eq rfl rfl)
  · exact s.onlyCounters_cleared pa

theorem State.onlyCounters_bankWrite (s : State) (pa : Nat) (bs : List Byte) : s.OnlyCounters (s.bankWrite pa bs) := by
  rw [State.bankWrite_eq]
  exact ((s.onlyCounters_readied pa).trans (State.onlyCounters_poke ..)).trans (State.onlyCounters_unpoison ..)

theorem State.onlyCounters_sendMsix (s : State) (f v : Nat) : s.OnlyCounters (s.sendMsix f v) := by
  unfold State.sendMsix
  split
  · exact .of_eq (s.modFunc_cur f _) (s.modFunc_cores f _)
  · exact .of_eq rfl rfl

/-- No operation of the I/O die that a record of a fault is made of reaches more of a core than its counters. -/
theorem recordKeeps_onlyCounters (s : State) : RecordKeeps s.OnlyCounters where
  read kept pa n := kept.trans (State.onlyCounters_bankRead _ pa n)
  write kept pa bs := kept.trans (State.onlyCounters_bankWrite _ pa bs)
  wait kept _ _ _ _ := kept.trans (.of_eq rfl rfl)
  log kept _ _ := kept.trans (.of_eq rfl rfl)
  msix kept f v := kept.trans (State.onlyCounters_sendMsix _ f v)
  part kept _ _ := kept.trans (.of_eq rfl rfl)

theorem State.onlyCounters_writeRecord (s : State) (p : BitVec 5) (r : FaultRec) : s.OnlyCounters (s.writeRecord p r) :=
  (recordKeeps_onlyCounters s).writeRecord (.refl s) p r

/-! ### What the halt line leaves of the cores (R230, R233) -/

/-- A partition is halted, no core has changed but for its yield request, and the same one acts. -/
structure State.Halts (s : State) (p : BitVec 5) (t : State) : Prop where
  halt : (t.part p).halt.isSome = true
  cur  : t.cur = s.cur
  core : ∀ c, ∃ y, t.core c = { s.core c with yld := y }

/-- A core whose yield request loses its deadline keeps the halt. -/
theorem State.Halts.dropDeadline {s t : State} {p : BitVec 5} (halts : s.Halts p t) (c : BitVec 7) :
    s.Halts p (t.modCore c fun r => { r with yld := { r.yld with deadline := none } }) where
  halt := halts.halt
  cur := halts.cur
  core d := by
    obtain ⟨y, before⟩ := halts.core d
    by_cases same : d = c
    · subst same
      exact ⟨_, by rw [State.core_modCore, before]⟩
    · exact ⟨y, (State.core_modCore_ne t _ same).trans before⟩

/-- Whatever the cause, the line is up afterwards; only a pre-emption that a fault cancels is taken from the cores. -/
theorem State.raiseLine_halts (s : State) (p : BitVec 5) (cause : Nat) : s.Halts p (s.raiseLine p cause) := by
  have written (f : Part → Part) (up : (f (s.part p)).halt.isSome = true) : s.Halts p (s.modPart p f) :=
    ⟨by rw [State.part_modPart]; exact up, rfl, fun _ => ⟨_, rfl⟩⟩
  unfold State.raiseLine
  split
  next up =>
    split
    · exact written _ rfl
    · split
      · exact List.foldlRecOn (motive := s.Halts p) _ _ (written _ rfl) fun _ halts c _ => halts.dropDeadline c
      · exact ⟨by rw [up]; rfl, rfl, fun _ => ⟨_, rfl⟩⟩
  · obtain ⟨halt, cur, core⟩ := written (fun t => { t with halt := some { cause := cause, time := s.time, left := (s.part p).cores } }) rfl
    exact ⟨halt, cur, core⟩

/-! ### Taking a fault (R87, R232, R239) -/

/-- A strand that has met a fault: the first one of a stop stands, and nothing else of the strand changes (R232). -/
def StrandSt.met (t : StrandSt) (f : FaultInfo) : StrandSt := { t with fault := some (t.fault.getD (f.kind, f.sub)) }

section
variable {s : State} {c : BitVec 7} {k : Strand} {w : Crew} {f : FaultInfo}

/-- A fault of HALT severity is recorded, stands at its strand and raises the halt line of the crew's partition. -/
theorem State.takeFault_eq (pc word : W32) (crew : (s.core c).crew = some w) (kind : f.kind ≤ 15) : s.takeFault c k pc word f =
    let t := s.writeRecord w.part (faultRec (sevOf f.kind) f w.ctx (some c) (strandFin k).val s.time pc word)
    (t.modCore c fun r => r.setStr k (((t.core c).str k).met f)).raiseLine w.part 1 := by
  have halts : sevOf f.kind = 2 := if_pos kind
  unfold State.takeFault
  rw [crew]
  exact if_pos halts

/-- The core keeps all but its strand's standing fault, its counters and its yield request; the partition is halted. -/
theorem State.takeFault_core (pc word : W32) (crew : (s.core c).crew = some w) (kind : f.kind ≤ 15) :
    ((s.takeFault c k pc word f).part w.part).halt.isSome = true ∧ (s.takeFault c k pc word f).cur = s.cur ∧
    ∃ e y, (s.takeFault c k pc word f).core c = { (s.core c).setStr k (((s.core c).str k).met f) with ev := e, yld := y } := by
  rw [State.takeFault_eq pc word crew kind]
  dsimp only
  generalize faultRec (sevOf f.kind) f w.ctx (some c) (strandFin k).val s.time pc word = r
  obtain ⟨recordCur, recordCore⟩ := s.onlyCounters_writeRecord w.part r
  obtain ⟨e, counted⟩ := recordCore c
  obtain ⟨halt, lineCur, lineCore⟩ := State.raiseLine_halts ((s.writeRecord w.part r).modCore c fun q =>
    q.setStr k ((((s.writeRecord w.part r).core c).str k).met f)) w.part 1
  obtain ⟨y, asked⟩ := lineCore c
  refine ⟨halt, lineCur.trans recordCur, e, y, ?_⟩
  rw [asked, State.core_modCore, counted]
  rfl

end

/-! ### Trap and halt (R443, R444) -/

theorem exec_trap (imm : BitVec 16) (s : State) : exec (.trap imm) s =
    .next ((Stmt.retired s).takeFault s.cur .s (Stmt.pcOf .s s) (s.ir.headD 0) ⟨15, 0, BitVec.ofNat 320 imm.toNat, false⟩) := by
  rw [BitVec.ofNat_toNat]
  rfl

theorem exec_halt {s : State} {w : Crew} (crew : Stmt.Has w s) : exec .halt s = .next ((Stmt.retired s).raiseLine w.part 3) := by
  show execHalt s = _
  unfold execHalt
  rw [show (s.core s.cur).crew = some w from crew]
  rfl

end Sys2Proof.Machine

namespace Sys2Proof.Package

open Sys2Proof.Machine Sys2Proof.Stmt

theorem trapAndHalt : TrapAndHalt := fun s _ imm crew => ⟨exec_trap imm s, exec_halt crew⟩

/-- What `takeFault_core` lets change of the core is neither the strand's pc nor a register. -/
theorem takingAFault : TakingAFault := by
  intro s w k pc word f crew kind t
  obtain ⟨halt, acts, e, y, core⟩ : _ ∧ t.cur = s.cur ∧ _ := State.takeFault_core pc word crew kind
  have core : cur t = { (cur s).setStr k (((cur s).str k).met f) with ev := e, yld := y } := by
    unfold cur
    rw [acts]
    exact core
  have strand : (cur t).str k = ((cur s).str k).met f := by
    rw [core]
    exact Core.str_setStr ..
  refine ⟨by rw [strand]; rfl, ?_, halt, ?_⟩
  · rw [strand]
    unfold StrandSt.met
    cases ((cur s).str k).fault <;> rfl
  · rw [core]
    exact ⟨fun _ => rfl, rfl, rfl, rfl⟩

/-- Settles O21: taking a fault, trap and halt. -/
theorem takingExceptions : Obligations.TakingExceptions := ⟨trapAndHalt, takingAFault⟩

end Sys2Proof.Package

/-! PROOFS. The units of a core: the X queue (R314 to R318, R325, R329, R194), collectives (R209, R437, R438) and the matrix engine (R301, R304, R313): what each event
comes to, and the statement about them. -/

namespace Sys2Proof.Machine

open Sys2Proof.Stmt

/-! ### The core that an event names acts -/

theorem actAs_def (core : BitVec 7) (s : State) : ({ s with cur := core } : State) = actAs core s := rfl

@[simp] theorem actAs_core (core : BitVec 7) (s : State) (c : BitVec 7) : (actAs core s).core c = s.core c := rfl

@[simp] theorem actAs_coreRuns (core : BitVec 7) (s : State) (c : BitVec 7) : (actAs core s).coreRuns c = s.coreRuns c := rfl

theorem gives_iff {α : Type} {x : Op α} {s t : State} {a : α} : Gives x s a t ↔ x.run s = (.ok a, t) := Iff.rfl

/-- Of the entries of a queue, the first that acts is the only one. -/
theorem foldl_first_acts {α : Type} {act : State → α → Bool × State} {s t : State} {x : α} (acts : act s x = (true, t)) (xs : List α) :
    (x :: xs).foldl (fun (acc : Bool × State) y => if acc.1 then acc else act acc.2 y) (false, s) = (true, t) := by
  rw [List.foldl_cons, if_neg Bool.false_ne_true, acts]
  induction xs with
  | nil => rfl
  | cons y ys ih => exact ih

section
variable {s t : State} {core : BitVec 7} {m : XCmd}

/-! ### A command starts (R314, R316) -/

/-- The command in execution that one which starts with the footprint `foot` meets: under DET alone does it look for one (R316). -/
def State.startClash (t : State) (core : BitVec 7) (m : XCmd) (foot : List Nat × List Nat) : Option XCmd :=
  if m.det then (t.core core).xs.queue.find? fun q => q.running && footClash foot (q.reads, q.writes) else none

section
variable {foot : List Nat × List Nat}

theorem State.startClash_none (free : m.det = false ∨ ((t.core core).xs.queue.find? fun q => q.running && footClash foot (q.reads, q.writes)) = none) :
    t.startClash core m foot = none := by
  unfold State.startClash
  obtain unordered | alone := free
  · exact if_neg (Bool.eq_false_iff.1 unordered)
  · rw [alone, ite_self]

theorem exec_xCommandStart_next (runs : s.coreRuns core = true) (next : (s.core core).xs.nextStart = some m)
    (units : Gives (asCmd m (xFoot m.kind)) (actAs core s) foot t) :
    let started := { m with started := true, ready := false, reads := foot.1, writes := foot.2 }
    exec (.xCommandStart core) s = .next ((t.startClash core m foot).elim ((t.setCmd started).cmdStep started).2
      fun q => t.cmdFault m ⟨12, 0, BitVec.ofNat 320 (m.seq.toNat + q.seq.toNat * 2 ^ 32), false⟩ .none) := by
  intro started
  show execXCommandStart core s = _
  unfold execXCommandStart
  rw [actAs_def]
  dsimp only
  rw [actAs_coreRuns, actAs_core, runs, next, if_neg (by decide)]
  dsimp only
  rw [gives_iff.1 units]
  unfold State.startClash
  dsimp only
  cases (if m.det = true then (t.core core).xs.queue.find? fun q => q.running && footClash foot (q.reads, q.writes) else none) <;> rfl
end

/-! ### Pieces are handed, acknowledged and counted (R317, R325) -/

theorem exec_pieceHand_first {rest : List XCmd} (first : (actAs core s).handable core = m :: rest) (acts : (actAs core s).cmdStep m = (true, t)) :
    exec (.pieceHand core) s = .next t := by
  show execPieceHand core s = _
  unfold execPieceHand
  rw [actAs_def]
  dsimp only
  rw [first, foldl_first_acts acts]

theorem exec_pieceAck_performed {x : Piece} {pa : Nat} {bs : List Byte} (first : (s.core core).xs.net.find? (fun x => x.mem.isSome) = some x)
    (here : x.mem = some (pa, bs)) : exec (.pieceAck core) s = .next (((actAs core s).bankWrite pa bs).ackPiece x) := by
  show execPieceAck core s = _
  unfold execPieceAck
  rw [actAs_def]
  dsimp only
  rw [actAs_core, first]
  dsimp only
  rw [here]
  rfl

theorem exec_lockWordCount_counted {n : LockCount} {rest : List LockCount} (first : (s.core core).xs.counts = n :: rest)
    (command : (s.core core).xs.queue.find? (fun q => q.seq == n.seq) = some m) (counts : Gives (countOne m n.dest n.n) (actAs core s) () t) :
    exec (.lockWordCount core) s = .next (t.countOver core n.seq rest) := by
  show execLockWordCount core s = _
  unfold execLockWordCount
  rw [actAs_def]
  dsimp only
  rw [actAs_core, first]
  dsimp only
  rw [command]
  dsimp only
  rw [gives_iff.1 counts]

/-! ### A command retires (R194, R317) -/

section
variable (unfinished : m.progress ≠ .all) (handed : m.fin = true)
include unfinished handed

/-- A command that has handed everything is ripe once nothing of its core is on its way or to be counted. -/
theorem XState.ripe_of_empty {x : XState} (net : x.net = []) (counts : x.counts = []) (started : m.started = true) (ready : m.ready = true) (pieces : Nat) :
    x.ripe m pieces = true := by
  have settled : x.settled m = true := by
    unfold XState.settled
    rw [net, counts]
    rfl
  unfold XState.ripe
  rw [if_neg (by simpa using unfinished), settled, started, ready, handed]
  rfl

theorem State.settleCmd_retires (ended : m.owesEnd = false) : s.settleCmd m = (true, s.retireCmd m) := by
  unfold State.settleCmd
  rw [if_neg (by simpa using unfinished), if_pos handed, ended]
  rfl
end

/-- Where nothing is on its way and no answer has come, a ripe command that is alone in the queue is settled. -/
theorem exec_pieceAck_settles (net : (s.core core).xs.net = []) (unanswered : (actAs core s).answered core = none) (only : (s.core core).xs.queue = [m])
    (runs : s.coreRuns core = true) (ripe : ∀ pieces, (s.core core).xs.ripe m pieces = true) (free : (actAs core s).collBusy core m = false)
    (settles : (actAs core s).settleCmd m = (true, t)) : exec (.pieceAck core) s = .next t := by
  show execPieceAck core s = _
  unfold execPieceAck
  rw [actAs_def]
  dsimp only
  rw [actAs_core, net, List.find?_nil]
  dsimp only
  rw [unanswered]
  dsimp only
  rw [only, actAs_coreRuns, List.filter_cons, List.filter_nil, runs, ripe, free, if_pos (by simp), foldl_first_acts settles]

/-! ### A walk starts a tile (R329) -/

theorem exec_walkTileStart_permitted {walk : BitVec 3} {w : WalkSt} (named : (s.core core).xs.walkOf walk = some w)
    (command : (s.core core).xs.queue.find? (fun q => q.seq == w.seq) = some m) (runs : s.coreRuns core = true)
    (running : m.running = true) (ready : m.ready = true) (still : m.moving = false) (more : m.fin = false) (permit : 1 ≤ w.permits) :
    exec (.walkTileStart core walk) s = .next (((actAs core s).setCmd { m with moving := true, inner := 0 }).modCore core fun r =>
      { r with xs := r.xs.setPermits walk (w.permits - 1) }) := by
  show execWalkTileStart core walk s = _
  unfold execWalkTileStart
  rw [actAs_def]
  dsimp only
  rw [actAs_core, named]
  dsimp only
  rw [command]
  dsimp only
  rw [actAs_coreRuns, runs, running, ready, still, more, decide_eq_true permit]
  rfl

end

/-! ### A collective completes (R209, R437, R438) -/

section
variable {s : State} {p : BitVec 5} {g : BitVec 8} {remote : List (Nat × List Byte)} {x : BitVec 7 × XCmd × CollArgs} {rest : List (BitVec 7 × XCmd × CollArgs)}
  (parties : s.collParties p g = some (x :: rest)) (here : ((s.part p).group g).size ≤ (x :: rest).length)
  (complete : s.collSize p x.2.2 (x.2.1.ps.getD x.2.2.pspan.toNat 0) ≤ (x :: rest).length + remote.length)
include parties here complete

theorem exec_collInstanceComplete_refused (differ : ∃ y ∈ x :: rest, s.collKeyOf y ≠ s.collKeyOf x) :
    exec (.collInstanceComplete p g remote) s = .next ((x :: rest).foldl State.collRefuse s) := by
  have disagree : (x :: rest).all (fun y => s.collKeyOf y == s.collKeyOf x) = false := by
    obtain ⟨y, party, other⟩ := differ
    exact List.all_eq_false.2 ⟨y, party, by simpa using other⟩
  show execCollInstanceComplete p g remote s = _
  unfold execCollInstanceComplete
  rw [parties]
  dsimp only
  rw [if_neg (by omega), disagree]
  rfl

/-- Participants that agree: all of them receive, or one that cannot yet keeps all of them waiting. -/
theorem exec_collInstanceComplete_agreed {b d : XBox} (agree : ∀ y ∈ x :: rest, s.collKeyOf y = s.collKeyOf x)
    (ranks : ∀ r ∈ remote, r.1 < s.collSize p x.2.2 (x.2.1.ps.getD x.2.2.pspan.toNat 0)) (boxes : s.collBoxes x = some (b, d)) :
    let base := s.collPlace x.2.1 x.2.2 * ((s.part p).group g).size
    let all := collValues base (s.collSize p x.2.2 (x.2.1.ps.getD x.2.2.pspan.toNat 0)) (2 ^ b.d.elog) x.2.1.vals.length (x :: rest) remote
    exec (.collInstanceComplete p g remote) s = .next
      (((x :: rest).zipIdx.findSome? fun y => s.collWaits y.1 b.d.format (base + y.2) all).getD
        ((x :: rest).zipIdx.foldl (fun s y => s.collReceive y.1 b.d.format (base + y.2) all) s)) := by
  have same : (x :: rest).all (fun y => s.collKeyOf y == s.collKeyOf x) = true := List.all_eq_true.2 fun y party => beq_iff_eq.2 (agree y party)
  have ranked : remote.all (fun r => decide (r.1 < s.collSize p x.2.2 (x.2.1.ps.getD x.2.2.pspan.toNat 0))) = true :=
    List.all_eq_true.2 fun r sent => decide_eq_true (ranks r sent)
  intro base all
  show execCollInstanceComplete p g remote s = _
  unfold execCollInstanceComplete
  rw [parties]
  dsimp only
  rw [if_neg (by omega), same, ranked, if_neg (by decide), boxes]
  dsimp only
  cases (x :: rest).zipIdx.findSome? fun y => s.collWaits y.1 b.d.format (base + y.2) all <;> rfl
end

/-! ### The matrix engine (R301, R304, R313) -/

section
variable {s : State} {core : BitVec 7}

theorem exec_matrixCycle_idle (idle : (s.core core).ms.run = none) : exec (.matrixCycle core) s = .next s := by
  show execMatrixCycle core s = _
  unfold execMatrixCycle
  rw [idle]
  rfl

section
variable {r : MRun} (runs : (s.core core).ms.run = some r)
include runs

theorem exec_matrixCycle_runs (unfinished : r.fin = false) : exec (.matrixCycle core) s =
    .next ((cycleOp r).run { s with cur := core, ir := (((s.core core).str .m).held.getD {}).words }).2 := by
  show execMatrixCycle core s = _
  unfold execMatrixCycle
  rw [runs]
  exact congrArg _ (if_neg (Bool.eq_false_iff.1 unfinished))

/-- A slot whose load has run is loaded from then on, another as it was. -/
theorem exec_bRowLoadDone_loaded : ∃ t run, exec (.bRowLoadDone core) s = .next t ∧ t.mem = s.mem ∧ (t.core core).ms.run = some run ∧
    run.slots = r.slots.map fun sl => { sl with ready := sl.ready || decide (sl.loaded ≤ r.cycle) } := by
  have loads (sl : MSlot) : (if (!sl.ready && decide (sl.loaded ≤ r.cycle)) = true then { sl with ready := true } else sl) =
      { sl with ready := sl.ready || decide (sl.loaded ≤ r.cycle) } := by
    obtain ⟨_, _, loaded, ready, _⟩ := sl
    cases ready <;> by_cases due : loaded ≤ r.cycle <;> simp [due]
  show ∃ t run, execBRowLoadDone core s = .next t ∧ _
  unfold execBRowLoadDone
  rw [runs]
  refine ⟨_, _, rfl, rfl, by rw [State.core_modCore, Core.count_ms], ?_⟩
  exact List.map_congr_left fun sl _ => loads sl
end

/-- The oldest table that was asked for arrives where the three steps of its reading succeed. -/
theorem exec_tableArrival_arrives {x : TabSlot} {n : Nat} {d : Desc} {a : Acc} {ds : Nat} {bs : List Byte} {t v w : State}
    (oldest : (s.core core).ms.tabs.reverse.find? (fun y => y.table.isNone) = some x)
    (desc : Gives (slotDesc x.slot) { s with cur := core, ir := [x.word] } (n, d) v) (place : Gives (elemAcc x.slot n d [x.block]) v (a, ds) t)
    (read : Gives (opRead .m a 16) t bs w) : exec (.tableArrival core) s = .next (w.modCore core fun c =>
      { c with ms := { c.ms with tabs := c.ms.tabs.map fun y => if y == x then { x with table := some bs } else y } }) := by
  show execTableArrival core s = _
  unfold execTableArrival
  rw [oldest]
  dsimp only
  rw [Op.run_bind_ok desc]
  dsimp only
  rw [Op.run_bind_ok place]
  dsimp only
  rw [gives_iff.1 read]
  rfl
end

end Sys2Proof.Machine

namespace Sys2Proof.Package

open Sys2Proof.Machine Sys2Proof.Stmt

theorem transferUnitEvents : TransferUnitEvents := by
  intro s t core m foot u
  refine ⟨fun runs next units => ?_, fun _ => exec_pieceHand_first, fun _ _ _ => exec_pieceAck_performed, ?_,
    fun _ _ => exec_lockWordCount_counted, fun _ _ => exec_walkTileStart_permitted⟩
  · have starts := exec_xCommandStart_next runs next units
    refine ⟨fun free => starts.trans ?_, fun det q meets => starts.trans ?_⟩
    · rw [State.startClash_none free]
      rfl
    · rw [State.startClash, if_pos det, meets]
      rfl
  · intro net counts unanswered only runs unfinished started ready handed ended free
    have ripe := XState.ripe_of_empty unfinished handed net counts started ready
    exact exec_pieceAck_settles net unanswered only runs ripe free (State.settleCmd_retires unfinished handed ended)

/-- The contributions of other packages come in with the event (the model's choice, log 32). -/
theorem collectiveEvents : CollectiveEvents := by
  intro s p g remote x rest ps size total base parties here complete
  refine ⟨?_, exec_collInstanceComplete_refused parties here complete⟩
  intro agree ranks b d boxes all wait
  have completes := exec_collInstanceComplete_agreed parties here complete agree ranks boxes
  refine ⟨fun free => completes.trans ?_, fun t waits => completes.trans ?_⟩
  · rw [show List.findSome? _ _ = none from free]
    rfl
  · rw [show List.findSome? _ _ = some t from waits]
    rfl

theorem matrixUnitEvents : MatrixUnitEvents := fun _ _ _ _ =>
  ⟨exec_matrixCycle_runs, exec_matrixCycle_idle, exec_bRowLoadDone_loaded,
    fun _ _ _ _ _ _ _ oldest desc place _ read => exec_tableArrival_arrives oldest desc place read⟩

/-- Settles O52: the X queue, collectives and the matrix engine. -/
theorem unitEvents : Obligations.UnitEvents := ⟨transferUnitEvents, collectiveEvents, matrixUnitEvents⟩

end Sys2Proof.Package

/-! PROOFS. The values of the scalar forms (R348 to R351): each operation of the model on words is the table's operation on numbers. -/

namespace Sys2Proof.Machine

open Sys2Proof.Stmt

/-! ### Arithmetic (R348) -/

section
variable {n : Nat} (x y : BitVec n)

theorem add_eq_ofInt : x + y = BitVec.ofInt n (x.toInt + y.toInt) := by
  rw [BitVec.ofInt_add, BitVec.ofInt_toInt, BitVec.ofInt_toInt]

theorem sub_eq_ofInt : x - y = BitVec.ofInt n (x.toInt - y.toInt) :=
  BitVec.eq_of_toInt_eq (by rw [BitVec.toInt_sub, BitVec.toInt_ofInt])

theorem mul_eq_ofInt : x * y = BitVec.ofInt n (x.toInt * y.toInt) := by
  rw [BitVec.ofInt_mul, BitVec.ofInt_toInt, BitVec.ofInt_toInt]

/-- The upper half of a number written at twice a width is that number divided, written at the width. -/
theorem upperHalf_ofInt (z : Int) : (BitVec.ofInt (2 * n) z).extractLsb' n n = BitVec.ofInt n (z / 2 ^ n) := by
  apply BitVec.eq_of_toNat_eq
  have double : (2 : Int) ^ (2 * n) = 2 ^ n * 2 ^ n := by rw [← pow_add, two_mul]
  have positive : (0 : Int) < 2 ^ n := by positivity
  have split : z % (2 ^ n * 2 ^ n) / 2 ^ n = z / 2 ^ n % 2 ^ n := by
    rw [Int.emod_def, ← Int.ediv_ediv_of_nonneg positive.le, mul_assoc, Int.sub_mul_ediv_left _ _ positive.ne', ← Int.emod_def]
  rw [BitVec.extractLsb'_toNat, Nat.shiftRight_eq_div_pow]
  zify
  simp only [BitVec.toNat_ofInt, Nat.cast_pow, Nat.cast_ofNat, double]
  rw [Int.toNat_of_nonneg (Int.emod_nonneg _ (by positivity)), Int.toNat_of_nonneg (Int.emod_nonneg _ positive.ne'), split, Int.emod_emod]

theorem mulHigh_eq_ofInt : mulHigh x y = BitVec.ofInt n (x.toInt * y.toInt / 2 ^ n) := by
  have product : x.signExtend (2 * n) * y.signExtend (2 * n) = BitVec.ofInt (2 * n) (x.toInt * y.toInt) := by
    rw [BitVec.ofInt_mul]
    rfl
  rw [mulHigh, product, upperHalf_ofInt]

theorem mulHighU_eq_ofNat : mulHighU x y = BitVec.ofNat n (x.toNat * y.toNat / 2 ^ n) := by
  apply BitVec.eq_of_toNat_eq
  have grows : 2 ^ n ≤ 2 ^ (2 * n) := Nat.pow_le_pow_right (by decide) (by omega)
  have fits : x.toNat * y.toNat < 2 ^ (2 * n) := by
    rw [two_mul, pow_add]
    exact Nat.mul_lt_mul'' x.isLt y.isLt
  rw [mulHighU, BitVec.extractLsb'_toNat, BitVec.toNat_mul, BitVec.toNat_setWidth, BitVec.toNat_setWidth, Nat.mod_eq_of_lt (x.isLt.trans_le grows),
    Nat.mod_eq_of_lt (y.isLt.trans_le grows), Nat.mod_eq_of_lt fits, Nat.shiftRight_eq_div_pow, BitVec.toNat_ofNat]

theorem allOnes_eq_ofInt (n : Nat) : BitVec.allOnes n = BitVec.ofInt n (-1) := by
  rw [BitVec.ofInt_neg, ← BitVec.neg_one_eq_allOnes]
  rfl

theorem divS_eq_ofInt : divS x y = if y = 0 then BitVec.ofInt n (-1) else BitVec.ofInt n (x.toInt.tdiv y.toInt) := by
  unfold divS
  split
  · exact allOnes_eq_ofInt n
  · exact BitVec.eq_of_toInt_eq (by rw [BitVec.toInt_sdiv, BitVec.toInt_ofInt])

theorem divU_eq_ofNat : divU x y = if y = 0 then BitVec.ofInt n (-1) else BitVec.ofNat n (x.toNat / y.toNat) := by
  unfold divU
  split
  · exact allOnes_eq_ofInt n
  · exact BitVec.eq_of_toNat_eq (by
      show (x / y).toNat = _
      rw [BitVec.toNat_udiv, BitVec.toNat_ofNat, Nat.mod_eq_of_lt ((Nat.div_le_self ..).trans_lt x.isLt)])

theorem remS_eq_ofInt : remS x y = BitVec.ofInt n (x.toInt - y.toInt * x.toInt.tdiv y.toInt) := by
  unfold remS
  split
  case isTrue zero => rw [zero]; simp
  case isFalse => rw [← Int.tmod_def, ← BitVec.toInt_srem, BitVec.ofInt_toInt]

theorem remU_eq_ofNat : remU x y = BitVec.ofNat n (x.toNat - y.toNat * (x.toNat / y.toNat)) := by
  unfold remU
  split
  case isTrue zero => rw [zero]; simp
  case isFalse =>
    have divided := Nat.div_add_mod x.toNat y.toNat
    have remainder : x.toNat - y.toNat * (x.toNat / y.toNat) = x.toNat % y.toNat := by omega
    rw [remainder, ← BitVec.toNat_umod, BitVec.ofNat_toNat, BitVec.setWidth_eq]
    rfl

/-! ### Shifts, minima and maxima (R348) -/

theorem shiftLeft_eq_ofNat : x <<< amount n y = BitVec.ofNat n (x.toNat * 2 ^ (y.toNat % n)) :=
  BitVec.eq_of_toNat_eq (by rw [BitVec.toNat_shiftLeft, Nat.shiftLeft_eq, BitVec.toNat_ofNat]; rfl)

theorem shiftRight_eq_ofNat : x >>> amount n y = BitVec.ofNat n (x.toNat / 2 ^ (y.toNat % n)) :=
  BitVec.eq_of_toNat_eq (by
    rw [BitVec.toNat_ushiftRight, Nat.shiftRight_eq_div_pow, BitVec.toNat_ofNat, Nat.mod_eq_of_lt ((Nat.div_le_self ..).trans_lt x.isLt)]; rfl)

theorem sshiftRight_eq_ofInt (k : Nat) : x.sshiftRight k = BitVec.ofInt n (x.toInt / 2 ^ k) := by
  rw [BitVec.sshiftRight, Int.shiftRight_eq_div_pow]
  norm_cast

theorem rotateRight_eq_or : x.rotateRight (amount n y) =
    BitVec.ofNat n (x.toNat / 2 ^ (y.toNat % n)) ||| BitVec.ofNat n (x.toNat * 2 ^ (n - y.toNat % n)) := by
  rw [BitVec.rotateRight, BitVec.rotateRightAux, amount, Nat.mod_mod]
  congr 1
  · exact shiftRight_eq_ofNat x y
  · exact BitVec.eq_of_toNat_eq (by rw [BitVec.toNat_shiftLeft, Nat.shiftLeft_eq, BitVec.toNat_ofNat])

theorem minS_eq : minS x y = if x.toInt ≤ y.toInt then x else y := by
  unfold minS BitVec.slt
  by_cases h : x.toInt ≤ y.toInt <;> simp [h, not_lt.2, not_le.1]

theorem maxS_eq : maxS x y = if x.toInt ≤ y.toInt then y else x := by
  unfold maxS BitVec.slt
  rcases lt_trichotomy x.toInt y.toInt with h | h | h
  · simp [h, h.le]
  · simp [BitVec.eq_of_toInt_eq h]
  · simp [h.not_gt, h.not_ge]

theorem minU_eq : minU x y = if x.toNat ≤ y.toNat then x else y := by
  unfold minU BitVec.ult
  by_cases h : x.toNat ≤ y.toNat <;> simp [h, not_lt.2, not_le.1]

theorem maxU_eq : maxU x y = if x.toNat ≤ y.toNat then y else x := by
  unfold maxU BitVec.ult
  rcases lt_trichotomy x.toNat y.toNat with h | h | h
  · simp [h, h.le]
  · simp [BitVec.eq_of_toNat_eq h]
  · simp [h.not_gt, h.not_ge]

end

/-! ### Counting (R348) -/

section
variable {n : Nat}

/-- The first number below a bound that passes a test is the number of those before which, and at which, none has passed. -/
theorem firstPassing_unique {p : Nat → Bool} {k : Nat} (le : k ≤ n) (passes : k < n → p k = true) (before : ∀ j, j < k → p j = false) :
    ((List.range n).find? p).getD n = k := by
  rcases Nat.lt_or_eq_of_le le with lt | rfl
  · rw [List.find?_range_eq_some.2 ⟨passes lt, List.mem_range.2 lt, fun j h => by simp [before j h]⟩]
    rfl
  · rw [List.find?_eq_none.2 fun j h => by simp [before j (List.mem_range.1 h)]]
    rfl

/-- The first number below a bound that passes a test, or the bound: it passes, and none before it does. -/
theorem firstPassing_spec (p : Nat → Bool) (n : Nat) : let k := ((List.range n).find? p).getD n
    k ≤ n ∧ (k < n → p k = true) ∧ ∀ j, j < k → p j = false := by
  dsimp only
  cases found : (List.range n).find? p with
  | none => exact ⟨le_rfl, fun h => absurd h (lt_irrefl n), fun j h => by simpa using List.find?_eq_none.1 found j (List.mem_range.2 h)⟩
  | some k =>
    obtain ⟨passes, mem, before⟩ := List.find?_range_eq_some.1 found
    exact ⟨(List.mem_range.1 mem).le, fun _ => passes, fun j h => by simpa using before j h⟩

theorem countLead_eq_ofNat (x : BitVec n) : countLead x = BitVec.ofNat n (if x = 0 then n else n - 1 - x.toNat.log2) := by
  unfold countLead
  congr 1
  split
  case isTrue zero => exact firstPassing_unique le_rfl (absurd · (lt_irrefl n)) fun j _ => by simp [zero]
  case isFalse nonzero =>
    have pos : x.toNat ≠ 0 := fun h => nonzero (BitVec.eq_of_toNat_eq h)
    have top : x.toNat.log2 < n := (Nat.log2_lt pos).2 x.isLt
    refine firstPassing_unique (by omega) (fun _ => ?_) fun j before => ?_
    · rw [BitVec.getMsbD, BitVec.getLsbD, show n - 1 - (n - 1 - x.toNat.log2) = x.toNat.log2 by omega, Nat.testBit_log2 pos]
      simpa using by omega
    · rw [BitVec.getMsbD, BitVec.getLsbD, Nat.testBit_lt_two_pow ((Nat.log2_lt pos).1 (by omega)), Bool.and_false]

/-- The powers of two up to a bound that divide a number are those up to its lowest set bit. -/
theorem twos_eq_lowest {v k : Nat} (le : k ≤ n) (bit : k < n → v.testBit k = true) (below : ∀ j, j < k → v.testBit j = false) : twos n v = k := by
  have divides : ∀ j, j ≤ k → v % 2 ^ j = 0 := fun j hj => Nat.eq_of_testBit_eq fun i => by
    rw [Nat.testBit_mod_two_pow, Nat.zero_testBit]
    by_cases hi : i < j
    · simp [below i (by omega)]
    · simp [hi]
  have stops : ∀ j, j ∈ List.range (n + 1) → (v % 2 ^ j = 0 ↔ j < k + 1) := fun j hj => by
    refine ⟨fun zero => ?_, fun h => divides j (by omega)⟩
    by_contra beyond
    have hj := List.mem_range.1 hj
    have zeroBit : (decide (k < j) && v.testBit k) = false := by rw [← Nat.testBit_mod_two_pow, zero, Nat.zero_testBit]
    rw [bit (by omega), Bool.and_true] at zeroBit
    exact of_decide_eq_false zeroBit (by omega)
  unfold twos
  rw [List.filter_congr (q := fun j => decide (j < k + 1)) fun j hj => by simp only [stops j hj]]
  have cut : List.range (n + 1) = List.range (k + 1) ++ (List.range (n - k)).map (k + 1 + ·) := by
    rw [← List.range_add]; congr 1; omega
  rw [cut, List.filter_append, List.filter_eq_self.2 fun j hj => by simpa using hj, List.filter_eq_nil_iff.2 fun j hj => by
    obtain ⟨i, -, rfl⟩ := List.mem_map.1 hj
    simp; omega, List.append_nil, List.length_range, Nat.add_sub_cancel]

theorem countTrail_eq_ofNat (x : BitVec n) : countTrail x = BitVec.ofNat n (twos n x.toNat) := by
  obtain ⟨le, bit, below⟩ := firstPassing_spec (fun i => x.getLsbD i) n
  rw [countTrail, twos_eq_lowest le bit below]

theorem bitOf_eq_toNat (v i : Nat) : bitOf v i = (v.testBit i).toNat := (Nat.toNat_testBit v i).symm

theorem countOnes_eq_ofNat (x : BitVec n) : countOnes x = BitVec.ofNat n ((List.range n).map (bitOf x.toNat)).sum := by
  unfold countOnes
  rw [← List.countP_eq_length_filter]
  congr 1
  induction List.range n with
  | nil => rfl
  | cons i l ih =>
    rw [List.countP_cons, ih, List.map_cons, List.sum_cons, bitOf_eq_toNat, BitVec.getLsbD, add_comm]
    cases x.toNat.testBit i <;> rfl

/-- Reversing puts the lowest bit in the highest place. -/
theorem reverse_toNat (x : BitVec n) : x.reverse.toNat = ((List.range n).map fun i => bitOf x.toNat i * 2 ^ (n - 1 - i)).sum := by
  induction n with
  | zero => rw [Subsingleton.elim x.reverse 0]; rfl
  | succ n ih =>
    have lower : ∀ i ∈ List.range n, bitOf (x.setWidth n).toNat i * 2 ^ (n - 1 - i) * 2 = bitOf x.toNat i * 2 ^ (n + 1 - 1 - i) := fun i hi => by
      have hi := List.mem_range.1 hi
      rw [bitOf_eq_toNat, bitOf_eq_toNat, BitVec.toNat_setWidth, Nat.testBit_mod_two_pow, decide_eq_true hi, Bool.true_and, mul_assoc, ← pow_succ]
      congr 2
      omega
    rw [BitVec.reverse, BitVec.toNat_concat, ih, ← List.sum_map_mul_right, List.map_congr_left lower, List.range_succ, List.map_append, List.sum_append]
    congr 1
    simp [bitOf_eq_toNat, BitVec.msb_eq_getLsbD_last, BitVec.getLsbD]

theorem reverse_eq_ofNat (x : BitVec n) :
    x.reverse = BitVec.ofNat n ((List.range n).map fun i => bitOf x.toNat i * 2 ^ (n - 1 - i)).sum := by
  rw [← reverse_toNat, BitVec.ofNat_toNat, BitVec.setWidth_eq]

/-! ### Fields (R348) -/

theorem bitExt_eq_ofNat (m : Nat) (x y : BitVec n) :
    bitExt m x y = BitVec.ofNat n (x.toNat / 2 ^ (y.toNat % n) % 2 ^ min (y.toNat / 256 % 2 ^ m) n) := by
  apply BitVec.eq_of_toNat_eq
  have small : 2 ^ min (y.toNat / 256 % 2 ^ m) n - 1 < 2 ^ n :=
    (Nat.sub_lt (Nat.two_pow_pos _) one_pos).trans_le (Nat.pow_le_pow_right (by decide) (min_le_right ..))
  have fits : x.toNat / 2 ^ (y.toNat % n) % 2 ^ min (y.toNat / 256 % 2 ^ m) n < 2 ^ n :=
    (Nat.mod_le ..).trans_lt ((Nat.div_le_self ..).trans_lt x.isLt)
  rw [bitExt, BitVec.toNat_and, BitVec.toNat_ushiftRight, BitVec.toNat_ofNat, BitVec.toNat_ofNat, Nat.mod_eq_of_lt small, Nat.mod_eq_of_lt fits,
    Nat.shiftRight_eq_div_pow, Nat.and_two_pow_sub_one_eq_mod]

/-- A number with a field of `k` bits at place `p` replaced by the low bits of another, bit by bit. -/
theorem testBit_insert (v f p k i : Nat) : (v % 2 ^ p + f % 2 ^ k * 2 ^ p + v / 2 ^ (p + k) * 2 ^ (p + k)).testBit i =
    if p ≤ i ∧ i < p + k then f.testBit (i - p) else v.testBit i := by
  have stacked : v % 2 ^ p + f % 2 ^ k * 2 ^ p + v / 2 ^ (p + k) * 2 ^ (p + k) = 2 ^ p * (2 ^ k * (v / 2 ^ (p + k)) + f % 2 ^ k) + v % 2 ^ p := by
    rw [pow_add]; ring
  rw [stacked, Nat.testBit_two_pow_mul_add _ (Nat.mod_lt _ (Nat.two_pow_pos _)), Nat.testBit_two_pow_mul_add _ (Nat.mod_lt _ (Nat.two_pow_pos _)),
    Nat.testBit_mod_two_pow, Nat.testBit_mod_two_pow, Nat.testBit_div_two_pow]
  by_cases low : i < p
  · simp [low, not_le.2 low]
  · by_cases field : i < p + k
    · simp [low, not_lt.1 low, field, show i - p < k by omega]
    · simp [low, field, show ¬ i - p < k by omega, show i - p - k + (p + k) = i by omega]

theorem bitIns_eq_ofNat (m : Nat) (d x y : BitVec n) : let p := y.toNat % n; let k := min (y.toNat / 256 % 2 ^ m) n
    bitIns m d x y = BitVec.ofNat n (d.toNat % 2 ^ p + x.toNat % 2 ^ k * 2 ^ p + d.toNat / 2 ^ (p + k) * 2 ^ (p + k)) := by
  intro p k
  have small : 2 ^ k - 1 < 2 ^ n := (Nat.sub_lt (Nat.two_pow_pos _) one_pos).trans_le (Nat.pow_le_pow_right (by decide) (min_le_right ..))
  refine BitVec.eq_of_getLsbD_eq fun i hi => ?_
  have mask : (BitVec.ofNat n (2 ^ k - 1) <<< p).getLsbD i = decide (p ≤ i ∧ i < p + k) := by
    rw [BitVec.getLsbD_shiftLeft, BitVec.getLsbD, BitVec.toNat_ofNat, Nat.mod_eq_of_lt small, Nat.testBit_two_pow_sub_one]
    by_cases low : i < p
    · simp [low, not_le.2 low]
    · simp [hi, low, not_lt.1 low, show i - p < k ↔ i < p + k by omega]
  rw [BitVec.getLsbD_ofNat, decide_eq_true hi, Bool.true_and, testBit_insert]
  show ((d &&& ~~~(BitVec.ofNat n (2 ^ k - 1) <<< p)) ||| ((x <<< p) &&& (BitVec.ofNat n (2 ^ k - 1) <<< p))).getLsbD i = _
  rw [BitVec.getLsbD_or, BitVec.getLsbD_and, BitVec.getLsbD_and, BitVec.getLsbD_not, mask, BitVec.getLsbD_shiftLeft, decide_eq_true hi]
  by_cases field : p ≤ i ∧ i < p + k
  · simp [field, BitVec.getLsbD]
  · simp [field, BitVec.getLsbD]

end

/-! ### Conditions (R332, R349) -/

theorem condHolds_eq_holds (c : Cond) (x y : Word) : condHolds c x y = holds c x y := by
  cases c with
  | eq => exact decide_eq_decide.2 BitVec.toNat_inj.symm
  | ne => rw [holds, decide_not]; exact congrArg (!·) (decide_eq_decide.2 BitVec.toNat_inj.symm)
  | lt => rfl
  | ge => rw [holds, condHolds, BitVec.slt, ← decide_not, decide_eq_decide, not_lt]
  | ltu => rfl
  | geu => rw [holds, condHolds, BitVec.ult, ← decide_not, decide_eq_decide, not_lt]

end Sys2Proof.Machine

/-! PROOFS. The scalar forms that only compute (R348 to R351): each writes its value, and nothing waits. -/

namespace Sys2Proof.Machine

open Sys2Proof.Stmt

/-- What a change of a core comes to is decided by what it makes of that core. -/
theorem State.modCore_congr {s : State} {c : BitVec 7} {f g : Core → Core} (same : f (s.core c) = g (s.core c)) : s.modCore c f = s.modCore c g :=
  congrArg (s.setCore c) same

/-! ### Forms that compute -/

/-- An instruction is an S form that only computes: from the registers `srcs` it gives register `d` the value `v`. -/
def Simple (i : Instr) (s : State) (srcs : List (BitVec 6)) (d : BitVec 6) (v : Word) : Prop :=
  ∃ f : Core → Core, exec i s = nx (simpleS srcs f s) ∧ f (cur s) = (cur s).setX d v

section
variable {i : Instr} {s : State} {srcs : List (BitVec 6)} {d a b : BitVec 6} {w : Bool} {v : Word}

/-- An S form one of whose sources waits does nothing. -/
theorem simpleS_waits (f : Core → Core) (waits : (cur s).waitsOn srcs = true) : simpleS srcs f s = s := if_pos waits

/-- An S form that only computes, none of whose sources waits. -/
theorem simpleS_computed {f g : Core → Core} (free : (cur s).waitsOn srcs = false) (same : f (cur s) = g (cur s)) : simpleS srcs f s = computed g s := by
  have ready : ¬ (s.core s.cur).waitsOn srcs = true := by rw [show (s.core s.cur).waitsOn srcs = false from free]; decide
  rw [simpleS, if_neg ready, State.modCore_congr same]
  rfl

/-- A form that computes its value from its core. -/
theorem simple_of {f : Core → Word} (form : exec i s = nx (simpleS srcs (fun c => c.setX d (f c)) s)) (value : f (cur s) = v) : Simple i s srcs d v :=
  ⟨_, form, congrArg _ value⟩

theorem widthRule_eq_wide {f : Word → Word → Word} {g : W32 → W32 → W32} {op : BinOp} (at64 : ∀ x y, f x y = op 64 x y) (at32 : ∀ x y, g x y = op 32 x y)
    (x y : Word) : widthRule w f g x y = wide w op x y := by
  cases w
  · exact at64 x y
  · exact congrArg (BitVec.signExtend 64) (at32 _ _)

/-- An RRR form computes its operation (R348). -/
theorem simple_rrr {f : Word → Word → Word} {g : W32 → W32 → W32} (op : BinOp) (form : exec i s = nx (rrr d a b w f g s))
    (at64 : ∀ x y, f x y = op 64 x y) (at32 : ∀ x y, g x y = op 32 x y) : Simple i s [a, b] d (wide w op ((cur s).xr a) ((cur s).xr b)) :=
  simple_of form (widthRule_eq_wide at64 at32 _ _)

/-- A one-operand RRR form computes its operation (R348). -/
theorem simple_rr {f : Word → Word} {g : W32 → W32} (op : BinOp) (form : exec i s = nx (rr d a w f g s))
    (at64 : ∀ x y, f x = op 64 x y) (at32 : ∀ x y, g x = op 32 x y) : Simple i s [a] d (wide w op ((cur s).xr a) 0) :=
  simple_of form (widthRule_eq_wide at64 at32 _ _)

/-- An RRI form computes its value (R350). -/
theorem simple_rri {f : Word → Word} (form : exec i s = nx (rri d a f s)) (value : f ((cur s).xr a) = v) : Simple i s [a] d v := simple_of form value

end

/-- A table whose rows are forms that only compute writes the values that it lists. -/
theorem writes_of_simple {table : Core → Instr → Option (BitVec 6 × List (BitVec 6) × Word)}
    (rows : ∀ i s d srcs v, table (cur s) i = some (d, srcs, v) → Simple i s srcs d v) : Writes table := by
  intro i s d srcs v listed free
  obtain ⟨f, form, value⟩ := rows i s d srcs v listed
  exact form.trans (congrArg nx (simpleS_computed free value))

/-! ### Constants (R351) -/

theorem shiftIn_eq_ofNat (x : Word) (imm : BitVec 16) : x <<< 16 ||| imm.setWidth 64 = BitVec.ofNat 64 (x.toNat * 2 ^ 16 + imm.toNat) := by
  apply BitVec.eq_of_toNat_eq
  have small := imm.isLt
  rw [BitVec.toNat_or, BitVec.toNat_shiftLeft, BitVec.toNat_setWidth, BitVec.toNat_ofNat, Nat.shiftLeft_eq, Nat.mod_eq_of_lt (show imm.toNat < 2 ^ 64 by omega),
    show x.toNat * 2 ^ 16 % 2 ^ 64 = 2 ^ 16 * (x.toNat % 2 ^ 48) by omega, ← Nat.two_pow_add_eq_or_of_lt small]
  omega

/-- One `li` and three `lsi` build any constant (R351): the sign of the first is shifted out. -/
theorem constant_of_four (v : Word) : let put := fun (n : Word) (imm : BitVec 16) => BitVec.ofNat 64 (n.toNat * 2 ^ 16 + imm.toNat)
    put (put (put (BitVec.ofInt 64 (v.extractLsb' 48 16).toInt) (v.extractLsb' 32 16)) (v.extractLsb' 16 16)) (v.extractLsb' 0 16) = v := by
  apply BitVec.eq_of_toNat_eq
  have range := v.isLt
  simp only [BitVec.toNat_ofNat, BitVec.toNat_ofInt, BitVec.extractLsb'_toNat, Nat.shiftRight_eq_div_pow, BitVec.toInt_eq_toNat_cond]
  split <;> omega

/-! ### The tables of R348 to R351 -/

theorem simple_arithmetic (i : Instr) (s : State) (d : BitVec 6) (srcs : List (BitVec 6)) (v : Word) (listed : arithValue (cur s) i = some (d, srcs, v)) :
    Simple i s srcs d v := by
  unfold arithValue at listed
  split at listed <;> cases listed
  · exact simple_rrr _ rfl add_eq_ofInt add_eq_ofInt
  · exact simple_rrr _ rfl sub_eq_ofInt sub_eq_ofInt
  · exact simple_rrr _ rfl mul_eq_ofInt mul_eq_ofInt
  · exact simple_rrr _ rfl mulHigh_eq_ofInt mulHigh_eq_ofInt
  · exact simple_rrr _ rfl mulHighU_eq_ofNat mulHighU_eq_ofNat
  · exact simple_rrr _ rfl divS_eq_ofInt divS_eq_ofInt
  · exact simple_rrr _ rfl divU_eq_ofNat divU_eq_ofNat
  · exact simple_rrr _ rfl remS_eq_ofInt remS_eq_ofInt
  · exact simple_rrr _ rfl remU_eq_ofNat remU_eq_ofNat

theorem simple_logic (i : Instr) (s : State) (d : BitVec 6) (srcs : List (BitVec 6)) (v : Word) (listed : logicValue (cur s) i = some (d, srcs, v)) :
    Simple i s srcs d v := by
  unfold logicValue at listed
  split at listed <;> cases listed
  · exact simple_rrr _ rfl (fun _ _ => rfl) fun _ _ => rfl
  · exact simple_rrr _ rfl (fun _ _ => rfl) fun _ _ => rfl
  · exact simple_rrr _ rfl (fun _ _ => rfl) fun _ _ => rfl
  · exact simple_rrr _ rfl (fun _ _ => rfl) fun _ _ => rfl
  · exact simple_rrr _ rfl shiftLeft_eq_ofNat shiftLeft_eq_ofNat
  · exact simple_rrr _ rfl shiftRight_eq_ofNat shiftRight_eq_ofNat
  · exact simple_rrr _ rfl (fun x y => sshiftRight_eq_ofInt x _) fun x y => sshiftRight_eq_ofInt x _
  · exact simple_rrr _ rfl rotateRight_eq_or rotateRight_eq_or
  · exact simple_rrr _ rfl minS_eq minS_eq
  · exact simple_rrr _ rfl maxS_eq maxS_eq
  · exact simple_rrr _ rfl minU_eq minU_eq
  · exact simple_rrr _ rfl maxU_eq maxU_eq
  · exact simple_of rfl (ite_not ..)

theorem simple_field (i : Instr) (s : State) (d : BitVec 6) (srcs : List (BitVec 6)) (v : Word) (listed : fieldValue (cur s) i = some (d, srcs, v)) :
    Simple i s srcs d v := by
  unfold fieldValue at listed
  split at listed <;> cases listed
  · exact simple_rr _ rfl (fun x _ => countLead_eq_ofNat x) fun x _ => countLead_eq_ofNat x
  · exact simple_rr _ rfl (fun x _ => countTrail_eq_ofNat x) fun x _ => countTrail_eq_ofNat x
  · exact simple_rr _ rfl (fun x _ => countOnes_eq_ofNat x) fun x _ => countOnes_eq_ofNat x
  · exact simple_rr _ rfl (fun x _ => reverse_eq_ofNat x) fun x _ => reverse_eq_ofNat x
  · exact simple_rrr _ rfl (bitExt_eq_ofNat 7) (bitExt_eq_ofNat 6)
  · refine simple_of rfl (widthRule_eq_wide (bitIns_eq_ofNat 7 _) (bitIns_eq_ofNat 6 _) _ _)

theorem simple_compare (i : Instr) (s : State) (d : BitVec 6) (srcs : List (BitVec 6)) (v : Word) (listed : compareValue (cur s) i = some (d, srcs, v)) :
    Simple i s srcs d v := by
  unfold compareValue at listed
  split at listed <;> cases listed
  · exact simple_of rfl (congrArg boolWord (condHolds_eq_holds ..))
  · exact simple_rri rfl (congrArg boolWord (condHolds_eq_holds ..))

theorem simple_immediate (i : Instr) (s : State) (d : BitVec 6) (srcs : List (BitVec 6)) (v : Word) (listed : immValue (cur s) i = some (d, srcs, v)) :
    Simple i s srcs d v := by
  unfold immValue at listed
  split at listed <;> cases listed
  · exact simple_rri rfl (by rw [BitVec.ofInt_add, BitVec.ofInt_toInt]; rfl)
  · exact simple_rri rfl (by rw [BitVec.ofInt_mul, BitVec.ofInt_toInt]; rfl)
  · exact simple_rri rfl (by rw [BitVec.ofNat_toNat])
  · exact simple_rri rfl (by rw [BitVec.ofNat_toNat])
  · exact simple_rri rfl (by rw [BitVec.ofNat_toNat])
  · exact simple_rri rfl (BitVec.eq_of_toNat_eq (by rw [BitVec.toNat_shiftLeft, Nat.shiftLeft_eq, BitVec.toNat_ofNat]))
  · exact simple_rri rfl (BitVec.eq_of_toNat_eq (by
      rw [BitVec.toNat_ushiftRight, Nat.shiftRight_eq_div_pow, BitVec.toNat_ofNat, Nat.mod_eq_of_lt ((Nat.div_le_self ..).trans_lt (BitVec.isLt _))]))
  · exact simple_rri rfl (sshiftRight_eq_ofInt _ _)
  · exact simple_of rfl rfl
  · exact simple_of rfl (shiftIn_eq_ofNat _ _)

end Sys2Proof.Machine

namespace Sys2Proof.Isa

open Sys2Proof.Machine Sys2Proof.Stmt

/-- Settles O1: the arithmetic table of R348. -/
theorem scalarArithmeticResults : Obligations.ScalarArithmeticResults := writes_of_simple simple_arithmetic

/-- Settles O2: the bitwise, shift, minimum, maximum, select, counting and field tables of R348. -/
theorem scalarLogicAndFieldResults : Obligations.ScalarLogicAndFieldResults := ⟨writes_of_simple simple_logic, writes_of_simple simple_field⟩

/-- Settles O3: the compares of R349 and where their condition stands (R332). -/
theorem compareResults : Obligations.CompareResults := by
  refine ⟨writes_of_simple simple_compare, fun cond d a b imm => ⟨?_, ?_⟩⟩
  · show (((0x16#10 ++ d ++ a ++ b) ++ cond.code).extractLsb' 0 4) = _
    rw [BitVec.extractLsb'_append_eq_right]
    cases cond <;> rfl
  · show ((((0x28 + cond.code.zeroExtend 10 : BitVec 10) ++ d) ++ a) ++ imm).extractLsb' 22 10 = _
    rw [BitVec.extractLsb'_append_eq_of_le (by decide), BitVec.extractLsb'_append_eq_of_le (by decide), BitVec.extractLsb'_append_eq_of_le (by decide),
      BitVec.extractLsb'_eq_self]
    cases cond <;> rfl

/-- Settles O4: the immediate forms and the constants (R350, R351). -/
theorem immediateAndConstantResults : Obligations.ImmediateAndConstantResults := by
  refine ⟨writes_of_simple simple_immediate, fun c d v nonzero => ?_⟩
  simp only [immValue, Core.xr_setX, nonzero, ne_eq, not_false_eq_true, and_self, if_true]
  exact constant_of_four v

end Sys2Proof.Isa

/-! PROOFS. How an instruction of a strand ends (R194, R241, R286, R338), in the words of the statements, and what its end leaves of the state while no trace
stream follows its crew. -/

namespace Sys2Proof.Machine

open Sys2Proof.Stmt

/-! ### Updates of one core -/

@[simp] theorem State.modCore_modCore (s : State) (c : BitVec 7) (f g : Core → Core) : (s.modCore c f).modCore c g = s.modCore c fun r => g (f r) := by
  show (s.setCore c (f (s.core c))).setCore c (g ((s.modCore c f).core c)) = s.setCore c (g (f (s.core c)))
  rw [State.core_modCore]
  simp [State.setCore]

/-- A change that leaves its core as it is leaves the state as it is. -/
theorem State.modCore_same {s : State} {c : BitVec 7} {f : Core → Core} (same : f (s.core c) = s.core c) : s.modCore c f = s := by
  show s.setCore c (f (s.core c)) = s
  rw [same]
  show ({ s with cores := s.cores.set c.toFin s.cores[c.toFin] } : State) = s
  simp

theorem State.modCore_id (s : State) (c : BitVec 7) : s.modCore c id = s := State.modCore_same rfl

@[simp] theorem Core.setStr_setStr (c : Core) (k : Strand) (t u : StrandSt) : (c.setStr k t).setStr k u = c.setStr k u := by
  simp [Core.setStr]

@[simp] theorem onCore_cur (f : Core → Core) (s : State) : (onCore f s).cur = s.cur := rfl

@[simp] theorem cur_onCore (f : Core → Core) (s : State) : cur (onCore f s) = f (cur s) := State.core_modCore ..

/-! ### The entry of an instruction that has issued (R241, R280, R286) -/

/-- The entry that an instruction takes at its issue. -/
def State.newHeld (s : State) (k : Strand) (tk : Tok) : Held :=
  { pc := pcOf k s, words := s.ir, entry := (Stmt.cur s).entryAt k ((s.ir.headD 0).extractLsb' 22 10).toNat, ps := (Stmt.cur s).p.toList
    post := if tk.post = 0 then none else some (tokIdx k tk.post.toNat, 1)
    mem := match (Stmt.cur s).crew with | some w => s.memRights w.part w.ctx | none => 0 }

/-- The core that acts, once an instruction has taken the token that it waits for (R287). -/
def Core.tokenTaken (k : Strand) (tk : Tok) (c : Core) : Core :=
  if tk.wait ≠ 0 then c.setTok (waitIdx k tk.wait.toNat) (c.tokAt (waitIdx k tk.wait.toNat) - 1) else c

/-- Issuing takes the token and the strand's entry. -/
theorem State.issueHeld_eq (s : State) (k : Strand) (tk : Tok) :
    s.issueHeld k tk = onCore (fun c => (c.tokenTaken k tk).setStr k { (c.str k) with held := some (s.newHeld k tk) }) s := by
  unfold State.issueHeld State.keepHeld onCore State.newHeld
  by_cases wait : tk.wait ≠ 0
  · simp only [if_pos wait, State.modCore_modCore]
    refine State.modCore_congr ?_
    simp only [Core.tokenTaken, if_pos wait, State.core_modCore, Core.str_setTok, Core.entryAt, Core.setTok_dtabs, Core.setTok_p, Core.setTok_crew]
    rfl
  · simp only [if_neg wait]
    refine State.modCore_congr ?_
    simp only [Core.tokenTaken, if_neg wait]
    rfl

theorem State.issueHeld_str (s : State) (k : Strand) (tk : Tok) :
    ((s.issueHeld k tk).core s.cur).str k = { ((Stmt.cur s).str k) with held := some (s.newHeld k tk) } := by
  rw [State.issueHeld_eq]
  simp [onCore, Stmt.cur]

@[simp] theorem State.issueHeld_heldOf (s : State) (k : Strand) (tk : Tok) : ((s.issueHeld k tk).core s.cur).heldOf k = s.newHeld k tk := by
  simp [Core.heldOf, State.issueHeld_str]

/-- A p register, as an instruction that has issued reads it (R280). -/
theorem run_pr_issued (s : State) (k : Strand) (tk : Tok) (n : BitVec 5) : (pr k n.toNat).run (s.issueHeld k tk) = (.ok (pOf (cur s) n), s.issueHeld k tk) := by
  unfold pr
  rw [Op.run_bind_ok (Op.run_curCore _), State.issueHeld_cur, State.issueHeld_str]
  rfl

/-! ### How an instruction ends -/

section
variable {i : Instr} {s t : State} {k : Strand} {tk : Tok} {len : Nat} {check issue : Op Unit} {body : Op Next} {srcs : List (BitVec 6)} {h : Held}

/-- An instruction that can issue and whose body answers completes: at the next word, at a target, or past a number of words. -/
theorem exec_completes {x : Next} (form : exec i s = nx (runInstr k len tk check issue body s)) (ready : Ready k tk s) (checked : Passes check s)
    (issues : Passes issue s) (run : body.run (s.issueHeld k tk) = (.ok x, t)) :
    exec i s = .next (t.complete s.cur k ((t.core s.cur).heldOf k) len x) := by
  obtain ⟨idle, token, room⟩ := ready
  rw [form, runInstr_complete idle token (fun x => by rw [show (s.core s.cur).xs.blocked = false from room x]; decide) checked issues run]
  rfl

/-- One that goes on at the next word. -/
theorem endsAt_of_run (form : exec i s = nx (runInstr k len tk check issue body s)) (ready : Ready k tk s) (checked : Passes check s)
    (issues : Passes issue s) (run : body.run (s.issueHeld k tk) = (.ok .seq, t)) : EndsAt i s k len t :=
  exec_completes form ready checked issues run

/-- One that its strand holds already. -/
theorem endsAt_of_held (form : exec i s = nx (runInstr k len tk check issue body s)) (held : ((cur s).str k).held = some h)
    (numbered : k = .m → h.seq.isSome = true) (run : body.run s = (.ok .seq, t)) : EndsAt i s k len t := by
  rw [EndsAt, form, runInstr_held held numbered run]
  rfl

/-- One whose check of the operands faults: the fault is taken, and nothing else happens (R338). -/
theorem exec_check_faults {f : FaultInfo} (form : exec i s = nx (runInstr k len tk check issue body s)) (idle : ((cur s).str k).held = none)
    (faults : (check.run s).1 = .error (.fault f)) : exec i s = .next (s.takeFault s.cur k (pcOf k s) (s.ir.headD 0) f) := by
  rw [form, runInstr_fault idle faults]
  rfl

/-- One that can issue and whose body holds stays held. -/
theorem exec_holds {n : Nat} (form : exec i s = nx (runInstr k len tk check issue body s)) (ready : Ready k tk s) (checked : Passes check s)
    (issues : Passes issue s) (run : body.run (s.issueHeld k tk) = (.error (.hold n), t)) :
    exec i s = .next ((t.keepHeld s.cur k { (t.core s.cur).heldOf k with notBefore := n }).modCore s.cur (·.count (4 + (strandFin k).val) 1)) := by
  obtain ⟨idle, token, room⟩ := ready
  have unblocked : ¬ ((tk.wait ≠ 0 ∧ (s.core s.cur).tokAt (waitIdx k tk.wait.toNat) = 0) ∨ (k = .x ∧ (s.core s.cur).xs.blocked = true)) := by
    rintro (⟨wait, zero⟩ | ⟨x, full⟩)
    · exact token.elim wait fun some => some zero
    · exact absurd (full.symm.trans (room x)) (by decide)
  have checked : (check.run s).1 = .ok () := checked
  have issues : (issue.run s).1 = .ok () := issues
  have idle : ((s.core s.cur).str k).held = none := idle
  rw [form]
  unfold runInstr issueInstr runBody
  simp only [idle, checked, issues, unblocked, if_false, run, State.issueHeld_cur]
  rfl

/-- An S form none of whose sources waits is an instruction of one word without tokens. -/
theorem runS_free (free : (cur s).waitsOn srcs = false) : runS srcs check body s = runInstr .s 1 noTok check (pure ()) body s :=
  if_neg (by rw [show (s.core s.cur).waitsOn srcs = false from free]; decide)

theorem endsAt_of_runS (form : exec i s = nx (runS srcs check body s)) (ready : SReady srcs s) (checked : Passes check s)
    (run : body.run (sIssued s) = (.ok .seq, t)) : EndsAt i s .s 1 t :=
  endsAt_of_run (form.trans (congrArg nx (runS_free ready.2))) ready.1 checked rfl run

theorem endsAt_of_heldS (form : exec i s = nx (runS srcs check body s)) (held : ((cur s).str .s).held = some h) (free : (cur s).waitsOn srcs = false)
    (run : body.run s = (.ok .seq, t)) : EndsAt i s .s 1 t :=
  endsAt_of_held (form.trans (congrArg nx (runS_free free))) held (fun x => nomatch x) run

theorem execS_check_faults {f : FaultInfo} (form : exec i s = nx (runS srcs check body s)) (ready : SReady srcs s)
    (faults : (check.run s).1 = .error (.fault f)) : exec i s = .next (s.takeFault s.cur .s (pcOf .s s) (s.ir.headD 0) f) :=
  exec_check_faults (form.trans (congrArg nx (runS_free ready.2))) ready.1.1 faults

theorem execS_holds {n : Nat} (form : exec i s = nx (runS srcs check body s)) (ready : SReady srcs s) (checked : Passes check s)
    (run : body.run (sIssued s) = (.error (.hold n), t)) :
    exec i s = .next ((t.keepHeld s.cur .s { (t.core s.cur).heldOf .s with notBefore := n }).modCore s.cur (·.count 4 1)) :=
  exec_holds (form.trans (congrArg nx (runS_free ready.2))) ready.1 checked rfl run

/-- An S form that the strand holds and whose body holds stays held. -/
theorem execS_stays {n : Nat} (form : exec i s = nx (runS srcs check body s)) (held : ((cur s).str .s).held = some h) (free : (cur s).waitsOn srcs = false)
    (run : body.run s = (.error (.hold n), t)) :
    exec i s = .next ((t.keepHeld s.cur .s { (t.core s.cur).heldOf .s with notBefore := n }).modCore s.cur (·.count 4 1)) := by
  have held : ((s.core s.cur).str .s).held = some h := held
  rw [form, runS_free free]
  unfold runInstr runBody
  simp only [held, run, Held.probing]
  rfl

end

/-! ### What no trace stream follows (R462) -/

/-- A change of a core that keeps its crew and its trace stream brings no stream to follow anything. -/
theorem untraced_modCore {s : State} (free : Untraced s) {c : BitVec 7} {f : Core → Core} (crew : (f (s.core c)).crew = (s.core c).crew)
    (trace : (f (s.core c)).trace = (s.core c).trace) : Untraced (s.modCore c f) := by
  have sameCrew : ∀ d, ((s.modCore c f).core d).crew = (s.core d).crew := fun d => by
    by_cases h : d = c
    · rw [h, State.core_modCore, crew]
    · rw [State.core_modCore_ne _ _ h]
  have sameTrace : ∀ d, ((s.modCore c f).core d).trace = (s.core d).trace := fun d => by
    by_cases h : d = c
    · rw [h, State.core_modCore, trace]
    · rw [State.core_modCore_ne _ _ h]
  intro h w holds
  have before := free h w ((sameCrew s.cur).symm.trans holds)
  unfold State.traces at before ⊢
  rw [sameCrew, sameTrace]
  exact before

theorem untraced_issueHeld {s : State} (free : Untraced s) (k : Strand) (tk : Tok) : Untraced (s.issueHeld k tk) := by
  rw [State.issueHeld_eq]
  refine untraced_modCore free ?_ ?_ <;> unfold Core.tokenTaken <;> split <;> simp

/-- Where no stream follows the crew, an event of its core leaves no trace record. -/
theorem State.traceEvent_untraced {s : State} (free : Untraced s) (k : Strand) (kind : Nat) (pc : W32) : s.traceEvent s.cur k kind pc = s := by
  unfold State.traceEvent
  cases crew : (s.core s.cur).crew with
  | none => rfl
  | some w =>
    dsimp only
    generalize List.range 128 = l
    induction l with
    | nil => rfl
    | cons h l ih =>
      rw [List.foldl_cons]
      simp only [free (BitVec.ofNat 7 h) w crew, Bool.false_eq_true, if_false]
      exact ih

/-- Then a loop exit changes nothing but the counters and the snapshot buffer (R95). -/
theorem State.loopExit_untraced {s : State} (free : Untraced s) (k : Strand) (pc : W32) :
    ∃ ev, s.loopExit s.cur k pc = s.modCore s.cur fun r => { r with ev := ev } := by
  unfold State.loopExit
  rw [State.traceEvent_untraced free]
  dsimp only
  split
  · exact ⟨(s.core s.cur).ev, (State.modCore_same rfl).symm⟩
  · exact ⟨_, State.modCore_congr rfl⟩

theorem iter_succ {α : Type} (n : Nat) (f : α → α) (a : α) : iter (n + 1) f a = f (iter n f a) := by
  unfold iter
  rw [List.range_succ, List.foldl_append]
  rfl

/-- So do several. -/
theorem State.loopExits_untraced {s : State} (free : Untraced s) (k : Strand) (pc : W32) (n : Nat) :
    ∃ ev, iter n (fun t => State.loopExit t s.cur k pc) s = s.modCore s.cur fun r => { r with ev := ev } := by
  induction n with
  | zero => exact ⟨(s.core s.cur).ev, (State.modCore_same rfl).symm⟩
  | succ n ih =>
    obtain ⟨ev, before⟩ := ih
    have free' : Untraced (s.modCore s.cur fun r => { r with ev := ev }) := untraced_modCore free rfl rfl
    obtain ⟨ev', exits⟩ := State.loopExit_untraced free' k pc
    refine ⟨ev', ?_⟩
    rw [iter_succ, before]
    exact exits.trans (by rw [State.modCore_cur, State.modCore_modCore])

/-- A core whose strand `k` stands at `pc` in some loops, with other counters: what moving on leaves of it. -/
def Core.movedOn (k : Strand) (pc : W32) (loops : List LoopEnt) (ev : EvState) (r : Core) : Core :=
  { r.setStr k { (r.str k) with pc := pc, loops := loops } with ev := ev }

/-- The pc moves on, through the ends of loops. -/
theorem State.advance_untraced {s : State} (free : Untraced s) (k : Strand) (pc : W32) (len : Nat) :
    let l := loopEnd (pc + BitVec.ofNat 32 len - 1) (pc + BitVec.ofNat 32 len) ((Stmt.cur s).str k).loops
    ∃ ev, s.advance s.cur k pc len = onCore (Core.movedOn k l.1 l.2.1 ev) s := by
  intro l
  have moved : Untraced (s.modCore s.cur fun r => r.setStr k { (r.str k) with pc := l.1, loops := l.2.1 }) := untraced_modCore free rfl rfl
  obtain ⟨ev, exits⟩ := State.loopExits_untraced moved k pc l.2.2
  exact ⟨ev, exits.trans (State.modCore_modCore ..)⟩

/-- A transfer of S leaves the pc at its target and the loops that hold it. -/
theorem State.jump_untraced {s : State} (free : Untraced s) (pc target : W32) :
    ∃ ev, s.jump s.cur pc target = onCore (Core.movedOn .s target (loopJump target ((Stmt.cur s).str .s).loops).1 ev) s := by
  have moved : Untraced (s.modCore s.cur fun r => r.setStr .s { (r.str .s) with pc := target, loops := (loopJump target ((Stmt.cur s).str .s).loops).1 }) :=
    untraced_modCore free rfl rfl
  obtain ⟨ev, exits⟩ := State.loopExits_untraced moved .s pc (loopJump target ((Stmt.cur s).str .s).loops).2
  exact ⟨ev, exits.trans (State.modCore_modCore ..)⟩

theorem State.countRetired_eq (s : State) (k : Strand) : ∃ ev, s.countRetired s.cur k = onCore (fun r => { r with ev := ev }) s := by
  obtain ⟨ev, counted⟩ := (s.core s.cur).count_eq (strandFin k).val 1
  exact ⟨ev, State.modCore_congr counted⟩

end Sys2Proof.Machine

/-! PROOFS. Moves, regions, transfers and loops (R291, R292, R352 to R354, R368, R392, R400, R419). -/

namespace Sys2Proof.Machine

open Sys2Proof.Stmt

/-! ### Transfers of S (R353) -/

/-- What a control form leaves: S at its target, or at the next word. -/
def branched (link : Bool) (target : Option W32) (s : State) : State :=
  match target with
  | some p => ((linked link (pcOf .s s) s).jump s.cur (pcOf .s s) p).countRetired s.cur .s
  | none => computed id s

/-- An S form that transfers control or not, none of whose sources waits. -/
theorem exec_branchS {i : Instr} {s : State} {srcs : List (BitVec 6)} {tgt : Core → W32 → Option W32} {f : Core → W32 → Core} {target : Option W32} {link : Bool}
    (form : exec i s = nx (branchS srcs tgt f s)) (free : (cur s).waitsOn srcs = false) (goes : tgt (cur s) (pcOf .s s) = target)
    (links : ∀ c, f c (pcOf .s s) = if link then c.setX 63 (BitVec.ofNat 64 (pcOf .s s + 1).toNat) else c) (stays : target = none → link = false) :
    exec i s = .next (branched link target s) := by
  have written : s.modCore s.cur (fun c => f c (pcOf .s s)) = linked link (pcOf .s s) s := by
    rw [show (fun c => f c (pcOf .s s)) = _ from funext links]
    cases link
    · exact State.modCore_id s s.cur
    · rfl
  have ready : ¬ (s.core s.cur).waitsOn srcs = true := by rw [show (s.core s.cur).waitsOn srcs = false from free]; decide
  rw [form, branchS]
  simp only [if_neg ready]
  rw [show tgt (s.core s.cur) ((s.core s.cur).str .s).pc = target from goes,
    show s.modCore s.cur (fun c => f c ((s.core s.cur).str .s).pc) = linked link (pcOf .s s) s from written]
  cases target with
  | some p => rfl
  | none =>
    cases stays rfl
    show nx ((s.advance s.cur .s (pcOf .s s) 1).countRetired s.cur .s) = .next (((s.modCore s.cur id).advance s.cur .s (pcOf .s s) 1).countRetired s.cur .s)
    rw [State.modCore_id]
    rfl

/-- An S form that transfers control or not, one of whose sources waits, does nothing. -/
theorem branchS_waits {s : State} {srcs : List (BitVec 6)} (tgt : Core → W32 → Option W32) (f : Core → W32 → Core) (waits : (cur s).waitsOn srcs = true) :
    branchS srcs tgt f s = s := if_pos waits

/-- An instruction is a control form of S. -/
def Branches (i : Instr) (s : State) (srcs : List (BitVec 6)) (target : Option W32) (link : Bool) : Prop :=
  ∃ tgt f, exec i s = nx (branchS srcs tgt f s) ∧ tgt (cur s) (pcOf .s s) = target ∧
    (∀ c, f c (pcOf .s s) = if link then c.setX 63 (BitVec.ofNat 64 (pcOf .s s + 1).toNat) else c) ∧ (target = none → link = false)

/-- A conditional branch. -/
theorem branches_if {i : Instr} {s : State} {a b : BitVec 6} {off : BitVec 10} (cond : Cond)
    (form : exec i s = nx (branchS [a, b] (fun c pc => if condHolds cond (c.xr a) (c.xr b) then some (pc + off.signExtend 32) else none) (fun c _ => c) s)) :
    Branches i s [a, b] (if holds cond ((cur s).xr a) ((cur s).xr b) then some (pcOf .s s + BitVec.ofInt 32 off.toInt) else none) false := by
  refine ⟨_, _, form, ?_, fun _ => rfl, fun _ => rfl⟩
  rw [← condHolds_eq_holds]
  rfl

/-- The control forms of R353 are those of the table. -/
theorem branches_of_transfer {i : Instr} {s : State} {srcs : List (BitVec 6)} {target : Option W32} {link : Bool}
    (listed : transfer (cur s) (pcOf .s s) i = some (srcs, target, link)) : Branches i s srcs target link := by
  have links : ∀ c : Core, c.setX 63 ((pcOf .s s + 1).setWidth 64) = if true then c.setX 63 (BitVec.ofNat 64 (pcOf .s s + 1).toNat) else c := fun c => by
    rw [BitVec.ofNat_toNat]; rfl
  unfold transfer at listed
  split at listed <;> cases listed
  · exact branches_if .eq rfl
  · exact branches_if .ne rfl
  · exact branches_if .lt rfl
  · exact branches_if .ge rfl
  · exact branches_if .ltu rfl
  · exact branches_if .geu rfl
  · exact ⟨_, _, rfl, rfl, fun _ => rfl, fun _ => rfl⟩
  · exact ⟨_, _, rfl, rfl, links, fun h => nomatch h⟩
  · exact ⟨_, _, rfl, by rw [BitVec.ofNat_toNat], fun _ => rfl, fun _ => rfl⟩
  · exact ⟨_, _, rfl, by rw [BitVec.ofNat_toNat], links, fun h => nomatch h⟩

theorem controlTransfers : ControlTransfers := by
  intro i s srcs target link listed free
  obtain ⟨tgt, f, form, goes, links, stays⟩ := branches_of_transfer listed
  cases target <;> exact exec_branchS form free goes links stays

/-- A transfer drops the loops from the innermost out until one holds the target (R354). -/
theorem loopJump_eq_dropWhile (target : W32) (loops : List LoopEnt) : (loopJump target loops).1 = loops.dropWhile (outside target) := by
  induction loops with
  | nil => rfl
  | cons e rest ih =>
    unfold loopJump
    by_cases inside : e.start.toNat ≤ target.toNat ∧ target.toNat ≤ e.stop.toNat
    · rw [if_pos inside, List.dropWhile_cons_of_neg (by simp [outside]; omega)]
    · rw [if_neg inside, List.dropWhile_cons_of_pos (by simp [outside]; omega), ← ih]

theorem jumpSetsPcAndEndsLoops : JumpSetsPcAndEndsLoops := by
  intro s pc target free
  obtain ⟨ev, jumped⟩ := State.jump_untraced free pc target
  have strand : (cur (s.jump s.cur pc target)).str .s =
      { ((cur s).str .s) with pc := target, loops := (loopJump target ((cur s).str .s).loops).1 } := by
    rw [jumped, onCore, cur, State.modCore_cur, State.core_modCore]
    exact Core.str_setStr ..
  rw [pcOf, strand]
  exact ⟨rfl, loopJump_eq_dropWhile _ _⟩

/-! ### Loops (R354, R392, R400, R419) -/

theorem endOfBodyTest : EndOfBodyTest := by
  intro last next e rest
  refine ⟨rfl, fun other => if_neg other, fun ends more => ?_, fun ends last_ => ?_⟩
  · have remains : ¬ e.remain = 0 := fun h => more (by rw [h]; rfl)
    have less : e.remain - 1 = BitVec.ofNat 64 (e.remain.toNat - 1) := BitVec.eq_of_toNat_eq (by
      rw [BitVec.toNat_sub, BitVec.toNat_ofNat]
      have := e.remain.isLt
      show (2 ^ 64 - 1 + e.remain.toNat) % 2 ^ 64 = _
      omega)
    rw [loopEnd, if_pos ends, if_neg remains, less]
  · have zero : e.remain = 0 := BitVec.eq_of_toNat_eq last_
    rw [loopEnd, if_pos ends, if_pos zero]
    exact ⟨rfl, rfl, rfl⟩

section
variable {s : State} {a : BitVec 6} (len : BitVec 10) (free : (cur s).waitsOn [a] = false)
include free

theorem exec_sLoop_full (full : 4 ≤ ((cur s).str .s).loops.length) :
    exec (.sLoop a len) s = .next (s.takeFault s.cur .s ((cur s).str .s).pc (s.ir.headD 0) (s.illop .s)) := by
  show nx (if (cur s).waitsOn [a] then s else if ((cur s).str .s).loops.length ≥ 4 then _ else _) = _
  rw [free, if_neg (by decide), if_pos full]
  rfl

theorem exec_sLoop_skips (room : ((cur s).str .s).loops.length < 4) (zero : (cur s).xr a = 0) :
    exec (.sLoop a len) s = .next ((s.advance s.cur .s ((cur s).str .s).pc (len.toNat + 1)).countRetired s.cur .s) := by
  show nx (if (cur s).waitsOn [a] then s else if ((cur s).str .s).loops.length ≥ 4 then _ else if (cur s).xr a = 0 then _ else _) = _
  rw [free, if_neg (by decide), if_neg (by omega), if_pos zero]
  rfl

theorem exec_sLoop_enters (room : ((cur s).str .s).loops.length < 4) (some_ : (cur s).xr a ≠ 0) : exec (.sLoop a len) s =
    .next ((onCore (fun c => c.setStr .s { ((cur s).str .s) with
      loops := ⟨((cur s).str .s).pc + 1, ((cur s).str .s).pc + BitVec.ofNat 32 len.toNat, (cur s).xr a - 1⟩ :: ((cur s).str .s).loops
      pc := ((cur s).str .s).pc + 1 }) s).countRetired s.cur .s) := by
  show nx (if (cur s).waitsOn [a] then s else if ((cur s).str .s).loops.length ≥ 4 then _ else if (cur s).xr a = 0 then _ else _) = _
  rw [free, if_neg (by decide), if_neg (by omega), if_neg some_, BitVec.ofNat_toNat]
  rfl

end

theorem scalarLoopForms : ScalarLoopForms := fun _ _ len free => ⟨exec_sLoop_full len free, exec_sLoop_skips len free, exec_sLoop_enters len free⟩

/-- A loop of V, M or X. -/
theorem exec_loopForm {i : Instr} {k : Strand} {tk : Tok} {n : BitVec 5} {len : Nat} (form : loopForm i = some (k, tk, n, len)) (s : State) :
    exec i s = nx (runInstr k 1 tk (loopCheck k len) (pure ()) (loopBody k n len) s) := by
  unfold loopForm at form
  split at form <;> cases form <;> rfl

section
variable {s : State} {k : Strand} {tk : Tok} {n : BitVec 5} {len : Nat}

theorem loopCheck_run (s : State) (k : Strand) (len : Nat) :
    (loopCheck k len).run s = (legal (decide (len ≠ 0 ∧ ((cur s).str k).loops.length < 4)) k).run s := by
  unfold loopCheck
  rw [Op.run_bind_ok (Op.run_curCore s)]
  rfl

/-- A loop with a count of 0 skips its body. -/
theorem loopBody_skips (zero : pOf (cur s) n = 0) : (loopBody k n len).run (s.issueHeld k tk) = (.ok (.skip (len + 1)), s.issueHeld k tk) := by
  unfold loopBody
  rw [Op.run_bind_ok (run_pr_issued s k tk n), Op.run_bind_ok (Op.run_heldNow k _), if_pos zero]
  rfl

/-- A loop with another count enters its body. -/
theorem loopBody_enters (some_ : pOf (cur s) n ≠ 0) : (loopBody k n len).run (s.issueHeld k tk) = (.ok (.to (pcOf k s + 1)),
    onCore (fun c => c.setStr k { (c.str k) with loops := ⟨pcOf k s + 1, pcOf k s + BitVec.ofNat 32 len, pOf (cur s) n - 1⟩ :: (c.str k).loops })
      (s.issueHeld k tk)) := by
  unfold loopBody
  rw [Op.run_bind_ok (run_pr_issued s k tk n), Op.run_bind_ok (Op.run_heldNow k _), if_neg some_, State.issueHeld_cur, State.issueHeld_heldOf,
    Op.run_bind_ok (Op.run_modCur _ _)]
  rfl

end

theorem strandLoopForms : StrandLoopForms := by
  intro i s k tk ready
  refine ⟨fun listed => ?_, fun n len listed => ?_⟩
  · unfold nopForm at listed
    split at listed <;> cases listed <;> exact endsAt_of_run rfl ready rfl rfl rfl
  · have form := exec_loopForm listed s
    refine ⟨fun bad => ?_, fun body room zero => ?_, fun body room some_ => ?_⟩
    · refine exec_check_faults form ready.1 ?_
      rw [loopCheck_run, Op.run_legal_false (decide_eq_false (by rcases bad with h | h <;> [exact fun x => x.1 h; exact fun x => by omega]))]
    · have checked : Passes (loopCheck k len) s := by rw [Passes, loopCheck_run, Op.run_legal (decide_eq_true ⟨body, room⟩)]
      exact (exec_completes form ready checked rfl (loopBody_skips zero)).trans (by rw [cur, State.issueHeld_cur])
    · have checked : Passes (loopCheck k len) s := by rw [Passes, loopCheck_run, Op.run_legal (decide_eq_true ⟨body, room⟩)]
      intro u
      rw [cur, show u.cur = s.cur from State.issueHeld_cur s k tk]
      exact exec_completes form ready checked rfl (loopBody_enters some_)

/-! ### Moves, modes and regions (R291, R292, R352, R460) -/

theorem parameterMoves : ParameterMoves := fun s p a d =>
  ⟨fun free => congrArg nx (simpleS_computed free rfl),
    congrArg nx (simpleS_computed rfl (congrArg (Core.setX _ d) (by
      rw [List.getD_eq_getElem _ _ (by simpa using p.isLt)]; rfl))),
    congrArg nx (simpleS_computed rfl rfl), fun det => congrArg nx (simpleS_computed rfl rfl)⟩

/-- The region forms of the four strands. -/
theorem exec_regionForm {i : Instr} {k : Strand} {tk : Tok} {id : Option (BitVec 16)} (form : regionForm i = some (k, tk, id)) {s : State}
    (free : k = .s → (cur s).waitsOn [] = false) :
    ∃ kind f, exec i s = nx (runInstr k 1 tk (pure ()) (pure ()) (regionOp k kind f) s) ∧ f = regionStack id := by
  have leaves : (fun t : StrandSt => t.leave) = regionStack none := by
    funext t
    simp [StrandSt.leave, regionStack]
  cases i
  case sRegionEnter => cases form; exact ⟨trEnter, _, congrArg nx (runS_free (free rfl)), rfl⟩
  case sRegionLeave => cases form; exact ⟨trLeave, _, congrArg nx (runS_free (free rfl)), leaves⟩
  case vRegionEnter => cases form; exact ⟨trEnter, _, rfl, rfl⟩
  case vRegionLeave => cases form; exact ⟨trLeave, _, rfl, leaves⟩
  case mRegionEnter => cases form; exact ⟨trEnter, _, rfl, rfl⟩
  case mRegionLeave => cases form; exact ⟨trLeave, _, rfl, leaves⟩
  case xRegionEnter => cases form; exact ⟨trEnter, _, rfl, rfl⟩
  case xRegionLeave => cases form; exact ⟨trLeave, _, rfl, leaves⟩
  all_goals exact nomatch form

/-- A region form of a strand that no precise stop has armed and that no stream traces changes the region stack and nothing else. -/
theorem regionOp_run {s : State} {w : Crew} {k : Strand} {kind : Nat} {f : StrandSt → StrandSt} (crew : Has w s) (unarmed : ((cur s).str k).armed = false)
    (keeps : (f ((cur s).str k)).armed = ((cur s).str k).armed) (free : Untraced s) :
    (regionOp k kind f).run s = (.ok .seq, onCore (fun c => c.setStr k (f (c.str k))) s) := by
  have free' : Untraced (s.modCore s.cur fun c => c.setStr k (f (c.str k))) := untraced_modCore free rfl rfl
  have unarmed' : (((s.modCore s.cur fun c => c.setStr k (f (c.str k))).core s.cur).str k).armed = false := by
    rw [State.core_modCore, Core.str_setStr]
    exact keeps.trans unarmed
  unfold regionOp
  rw [Op.run_bind_ok (Op.run_curCrew crew), Op.run_bind_ok (Op.run_heldNow k s), Op.run_bind_ok (Op.run_curCore s)]
  rw [show ((s.core s.cur).str k).armed = false from unarmed]
  simp only [Bool.false_eq_true, if_false, Op.run_bind, Op.run_modCur, Op.run_modify, Op.run_curCore, State.modCore_cur]
  rw [show State.traceEvent _ s.cur k kind _ = _ from State.traceEvent_untraced free' k kind _, State.modCore_cur, unarmed']
  rfl

theorem regionForms : RegionForms := by
  intro i s w k tk id listed crew ready free unarmed untraced
  obtain ⟨kind, _, form, rfl⟩ := exec_regionForm listed free
  have crew' : Has w (s.issueHeld k tk) := by
    rw [Has, cur, State.issueHeld_cur, State.issueHeld_core_crew]
    exact crew
  have unarmed' : ((cur (s.issueHeld k tk)).str k).armed = false := by
    rw [cur, State.issueHeld_cur, State.issueHeld_str_armed]
    exact unarmed
  have untraced' : Untraced (s.issueHeld k tk) := untraced_issueHeld untraced k tk
  exact endsAt_of_run form ready rfl rfl (regionOp_run crew' unarmed' (by cases id <;> rfl) untraced')

end Sys2Proof.Machine

namespace Sys2Proof.Isa

open Sys2Proof.Machine Sys2Proof.Stmt

/-- Settles O6: moves, modes and regions. -/
theorem movesAndRegions : Obligations.MovesAndRegions := ⟨parameterMoves, regionForms⟩

/-- Settles O7: branches, jumps and calls. -/
theorem transferResults : Obligations.TransferResults := ⟨controlTransfers, jumpSetsPcAndEndsLoops⟩

/-- Settles O8: hardware loops on every strand. -/
theorem hardwareLoops : Obligations.HardwareLoops := ⟨endOfBodyTest, scalarLoopForms, strandLoopForms⟩

end Sys2Proof.Isa

/-! PROOFS. The frame of the scalar forms that compute or transfer control (R348 to R354, R368). -/

namespace Sys2Proof.Machine

open Sys2Proof.Stmt

/-! ### A core that has moved on -/

section
variable (c : Core) (k : Strand) (pc : W32) (loops : List LoopEnt) (ev : EvState)

@[simp] theorem Core.setStr_self : c.setStr k (c.str k) = c := by
  simp [Core.setStr, Core.str]

theorem Core.movedOn_self : c.movedOn k (c.str k).pc (c.str k).loops c.ev = c := by
  show ({ c.setStr k (c.str k) with ev := c.ev } : Core) = c
  rw [Core.setStr_self]

@[simp] theorem Core.movedOn_str_self : (c.movedOn k pc loops ev).str k = { (c.str k) with pc := pc, loops := loops } := Core.str_setStr ..

theorem Core.movedOn_str_ne {j : Strand} (other : j ≠ k) : (c.movedOn k pc loops ev).str j = c.str j := Core.str_setStr_ne _ _ other

@[simp] theorem Core.movedOn_xr (r : BitVec 6) : (c.movedOn k pc loops ev).xr r = c.xr r := rfl

end

/-! ### The shape of a scalar step -/

/-- A scalar form writes at most one of the registers `ds`; its core has then moved on. -/
def ScalarStep (ds : List (BitVec 6)) (s t : State) : Prop :=
  ∃ f pc loops ev, t = onCore (fun r => (f r).movedOn .s pc loops ev) s ∧ (f = id ∨ ∃ d ∈ ds, ∃ v, f = fun c : Core => c.setX d v)

section
variable {ds : List (BitVec 6)} {s t : State}

theorem scalarStep_refl : ScalarStep ds s s :=
  ⟨id, _, _, _, (State.modCore_same (Core.movedOn_self ..)).symm, .inl rfl⟩

/-- The registers that a scalar step may write keep their crew and trace stream. -/
theorem untraced_written {f : Core → Core} (free : Untraced s) (writes : f = id ∨ ∃ d ∈ ds, ∃ v, f = fun c : Core => c.setX d v) :
    Untraced (s.modCore s.cur f) := by
  obtain rfl | ⟨d, -, v, rfl⟩ := writes
  · exact untraced_modCore free rfl rfl
  · exact untraced_modCore free (by simp) (by simp)

/-- An instruction that has moved on is counted, which changes the counters only. -/
theorem scalarStep_counted {f : Core → Core} {pc : W32} {loops : List LoopEnt} {ev : EvState}
    (writes : f = id ∨ ∃ d ∈ ds, ∃ v, f = fun c : Core => c.setX d v) :
    ScalarStep ds s ((onCore (fun r => (f r).movedOn .s pc loops ev) s).countRetired s.cur .s) := by
  obtain ⟨ev', counted⟩ := State.countRetired_eq (onCore (fun r => (f r).movedOn .s pc loops ev) s) .s
  exact ⟨f, pc, loops, ev', counted.trans (State.modCore_modCore ..), writes⟩

/-- A form that writes and goes on. -/
theorem scalarStep_advance {f : Core → Core} (free : Untraced s) (writes : f = id ∨ ∃ d ∈ ds, ∃ v, f = fun c : Core => c.setX d v) (pc : W32) (len : Nat) :
    ScalarStep ds s (((s.modCore s.cur f).advance s.cur .s pc len).countRetired s.cur .s) := by
  obtain ⟨ev, advanced⟩ := State.advance_untraced (untraced_written free writes) .s pc len
  rw [show (s.modCore s.cur f).advance s.cur .s pc len = _ from advanced, onCore, State.modCore_cur, State.modCore_modCore]
  exact scalarStep_counted writes

/-- A form that writes and transfers control. -/
theorem scalarStep_jump {f : Core → Core} (free : Untraced s) (writes : f = id ∨ ∃ d ∈ ds, ∃ v, f = fun c : Core => c.setX d v) (pc target : W32) :
    ScalarStep ds s (((s.modCore s.cur f).jump s.cur pc target).countRetired s.cur .s) := by
  obtain ⟨ev, jumped⟩ := State.jump_untraced (untraced_written free writes) pc target
  rw [show (s.modCore s.cur f).jump s.cur pc target = _ from jumped, onCore, State.modCore_cur, State.modCore_modCore]
  exact scalarStep_counted writes

/-- A form that computes a value. -/
theorem scalarStep_simple {i : Instr} {srcs : List (BitVec 6)} {d : BitVec 6} {v : Word} (simple : Simple i s srcs d v) (free : Untraced s)
    (runs : exec i s = .next t) : ScalarStep [d] s t := by
  obtain ⟨f, form, value⟩ := simple
  obtain rfl : simpleS srcs f s = t := Host.Outcome.next.inj (form.symm.trans runs)
  cases waits : (cur s).waitsOn srcs with
  | true => rw [simpleS_waits f waits]; exact scalarStep_refl
  | false =>
    rw [simpleS_computed (g := fun c => c.setX d v) waits value]
    exact scalarStep_advance free (.inr ⟨d, List.mem_singleton_self d, v, rfl⟩) _ 1

/-- What a linking form writes. -/
theorem linked_eq (link : Bool) (pc : W32) (s : State) : ∃ f, linked link pc s = s.modCore s.cur f ∧
    (f = id ∨ ∃ d ∈ (if link then [63] else [] : List (BitVec 6)), ∃ v, f = fun c : Core => c.setX d v) := by
  cases link with
  | true => exact ⟨_, rfl, .inr ⟨63, List.mem_singleton_self _, _, rfl⟩⟩
  | false => exact ⟨id, (State.modCore_id s s.cur).symm, .inl rfl⟩

/-- A control form. -/
theorem scalarStep_branch {i : Instr} {srcs : List (BitVec 6)} {target : Option W32} {link : Bool} (branches : Branches i s srcs target link)
    (free : Untraced s) (runs : exec i s = .next t) : ScalarStep (if link then [63] else []) s t := by
  obtain ⟨tgt, f, form, goes, links, stays⟩ := branches
  cases waits : (cur s).waitsOn srcs with
  | true =>
    obtain rfl : branchS srcs tgt f s = t := Host.Outcome.next.inj (form.symm.trans runs)
    rw [branchS_waits tgt f waits]
    exact scalarStep_refl
  | false =>
    obtain rfl := Host.Outcome.next.inj ((exec_branchS form waits goes links stays).symm.trans runs)
    cases target with
    | none => exact scalarStep_advance free (.inl rfl) _ 1
    | some p =>
      obtain ⟨g, same, writes⟩ := linked_eq link (pcOf .s s) s
      rw [branched, same]
      exact scalarStep_jump free writes _ p

/-- `loop` on S with a free entry. -/
theorem scalarStep_sLoop {a : BitVec 6} {len : BitVec 10} (room : ((cur s).str .s).loops.length < 4) (free : Untraced s)
    (runs : exec (.sLoop a len) s = .next t) : ScalarStep [] s t := by
  cases waits : (cur s).waitsOn [a] with
  | true =>
    obtain rfl : s = t := Host.Outcome.next.inj ((congrArg nx (if_pos waits)).symm.trans runs)
    exact scalarStep_refl
  | false =>
    by_cases zero : (cur s).xr a = 0
    · obtain rfl := Host.Outcome.next.inj ((exec_sLoop_skips len waits room zero).symm.trans runs)
      have step := scalarStep_advance (ds := []) free (.inl rfl) ((cur s).str .s).pc (len.toNat + 1)
      rwa [State.modCore_id] at step
    · obtain rfl := Host.Outcome.next.inj ((exec_sLoop_enters len waits room zero).symm.trans runs)
      have entered : ∀ st : StrandSt, st.pc = ((cur s).str .s).pc + 1 → { ((cur s).str .s) with pc := st.pc, loops := st.loops } = st →
          onCore (fun c => c.setStr .s st) s = onCore (fun r => (id r).movedOn .s st.pc st.loops (cur s).ev) s := fun st _ same =>
        State.modCore_congr (by
          show (s.core s.cur).setStr .s st = { (s.core s.cur).setStr .s _ with ev := (s.core s.cur).ev }
          exact congrArg _ same.symm)
      rw [entered _ rfl rfl]
      exact scalarStep_counted (.inl rfl)

end

/-! ### The frame -/

theorem sameOutside_onCore (f : Core → Core) (s : State) : SameOutside s (onCore f s) :=
  ⟨rfl, rfl, rfl, rfl, rfl, rfl, rfl, rfl, rfl, rfl, rfl, rfl, rfl, rfl, rfl, rfl, rfl, rfl, rfl, rfl, rfl⟩

theorem otherCores_onCore (f : Core → Core) (s : State) : OtherCores s (onCore f s) := fun _ other => State.core_modCore_ne _ _ other

/-- A core with registers written and moved on is otherwise as it was. -/
theorem scalarSame_movedOn {ds : List (BitVec 6)} {f : Core → Core} (writes : f = id ∨ ∃ d ∈ ds, ∃ v, f = fun c : Core => c.setX d v) (c : Core)
    (pc : W32) (loops : List LoopEnt) (ev : EvState) : ScalarSame ds c ((f c).movedOn .s pc loops ev) := by
  have strand : ∀ k, (f c).str k = c.str k := fun k => by
    obtain rfl | ⟨d, -, v, rfl⟩ := writes
    · rfl
    · exact Core.str_setX c d v k
  have registers : ∀ r, r ∉ ds → (f c).xr r = c.xr r := fun r outside => by
    obtain rfl | ⟨d, listed, v, rfl⟩ := writes
    · rfl
    · exact (Core.xr_setX c d v r).trans (if_neg fun h : r = d ∧ d ≠ 0 => outside (h.1 ▸ listed))
  have rest : (f c).p = c.p ∧ (f c).crew = c.crew ∧ (f c).clearing = c.clearing ∧ (f c).v = c.v ∧ (f c).masks = c.masks ∧ (f c).shape = c.shape ∧
      (f c).tok = c.tok ∧ (f c).xs = c.xs ∧ (f c).ms = c.ms ∧ (f c).yld = c.yld ∧ (f c).trace = c.trace ∧ (f c).slog = c.slog ∧ (f c).wcb = c.wcb ∧
      (f c).posted = c.posted ∧ (f c).tcs = c.tcs ∧ (f c).dtabs = c.dtabs ∧ (f c).gens = c.gens ∧ (f c).genUpd = c.genUpd ∧
      (f c).dtabUpd = c.dtabUpd ∧ (f c).units = c.units ∧ (f c).stops = c.stops ∧ (f c).stopped = c.stopped ∧ (f c).steal = c.steal ∧
      (f c).monitor = c.monitor := by
    obtain rfl | ⟨d, -, v, rfl⟩ := writes
    · simp
    · simp
  obtain ⟨p, crew, clearing, v, masks, shape, tok, xs, ms, yld, trace, slog, wcb, posted, tcs, dtabs, gens, genUpd, dtabUpd, units, stops, stopped, steal,
    monitor⟩ := rest
  refine ⟨registers, p, crew, clearing, v, masks, shape, tok, xs, ms, yld, trace, slog, wcb, posted, tcs, dtabs, gens, genUpd, dtabUpd, units, stops,
    stopped, steal, monitor, fun k other => (Core.movedOn_str_ne _ _ _ _ _ other).trans (strand k), ?_⟩
  rw [Core.movedOn_str_self, strand]
  exact ⟨rfl, rfl, rfl, rfl, rfl, rfl, rfl⟩

/-- A scalar step changes its register, its pc, its loops and its counters, and nothing else. -/
theorem ScalarStep.frame {ds : List (BitVec 6)} {s t : State} (step : ScalarStep ds s t) :
    SameOutside s t ∧ OtherCores s t ∧ ScalarSame ds (cur s) (cur t) ∧ ∀ a, byteAt t a = byteAt s a := by
  obtain ⟨f, pc, loops, ev, rfl, writes⟩ := step
  refine ⟨sameOutside_onCore _ s, otherCores_onCore _ s, ?_, fun _ => rfl⟩
  rw [cur_onCore]
  exact scalarSame_movedOn writes (cur s) pc loops ev

/-- The tables of R348 to R351 hold forms that only compute. -/
theorem simple_of_listed {table : Core → Instr → Option (BitVec 6 × List (BitVec 6) × Word)} {i : Instr} {s : State} {d : BitVec 6} {srcs : List (BitVec 6)}
    {v : Word} (one : table ∈ [arithValue, logicValue, fieldValue, compareValue, immValue]) (listed : table (cur s) i = some (d, srcs, v)) :
    Simple i s srcs d v := by
  simp only [List.mem_cons, List.not_mem_nil, or_false] at one
  rcases one with rfl | rfl | rfl | rfl | rfl
  · exact simple_arithmetic i s d srcs v listed
  · exact simple_logic i s d srcs v listed
  · exact simple_field i s d srcs v listed
  · exact simple_compare i s d srcs v listed
  · exact simple_immediate i s d srcs v listed

end Sys2Proof.Machine

namespace Sys2Proof.Isa

open Sys2Proof.Machine Sys2Proof.Stmt

/-- Settles O58: the frame of the scalar forms that compute or transfer control. -/
theorem scalarFrame : Obligations.ScalarFrame := by
  intro i s t ds free runs form
  refine ScalarStep.frame ?_
  obtain ⟨table, one, d, srcs, v, listed, rfl⟩ | ⟨srcs, target, link, listed, rfl⟩ | ⟨a, len, rfl, room, rfl⟩ | ⟨rfl, rfl⟩ := form
  · exact scalarStep_simple (simple_of_listed one listed) free runs
  · exact scalarStep_branch (branches_of_transfer listed) free runs
  · exact scalarStep_sLoop room free runs
  · obtain rfl := Host.Outcome.next.inj ((congrArg nx (simpleS_computed (s := s) (f := id) (srcs := []) rfl rfl)).symm.trans runs)
    exact scalarStep_advance free (.inl rfl) _ 1

end Sys2Proof.Isa

namespace Sys2Proof.Isa

open Sys2Proof.Machine Sys2Proof.Stmt

/-- Settles O54: each conjunct is the decoder run on the words of one line of the spec's programs. -/
theorem decodedWords : Obligations.DecodedWords :=
  ⟨rfl, rfl, rfl, rfl, rfl, rfl, rfl, rfl⟩

end Sys2Proof.Isa

/-! PROOFS. What an access of a strand leaves of the machine where it succeeds (R141, R144 to R148, R164, R216 to R221): it reads storage, and of the cores it
changes descriptor copies, translation caches and counters. -/

namespace Sys2Proof.Machine

open Sys2Proof.Stmt

/-! ### What an operation that gives a value has done -/

section
variable {α β : Type} {s t : State} {a b : α}

/-- An operation that answers gives its answer. -/
theorem gives_of_ok {x : Op α} {u : State} (run : x.run s = (.ok b, u)) : Gives x s a t ↔ b = a ∧ u = t := by
  rw [gives_iff, run]
  exact ⟨fun same => ⟨Except.ok.inj (Prod.mk.inj same).1, (Prod.mk.inj same).2⟩, fun same => by rw [same.1, same.2]⟩

/-- One that stops gives nothing. -/
theorem not_gives_of_error {x : Op α} {e : Stop} {u : State} (run : x.run s = (.error e, u)) : ¬ Gives x s a t := by
  rw [gives_iff, run]
  exact fun same => nomatch (Prod.mk.inj same).1

theorem gives_bind {x : Op β} {f : β → Op α} : Gives (x >>= f) s a t ↔ ∃ b u, Gives x s b u ∧ Gives (f b) u a t := by
  rcases run : x.run s with ⟨e | b, u⟩
  · refine ⟨fun gives => absurd gives (not_gives_of_error (Op.run_bind_error run)), ?_⟩
    rintro ⟨b, u, gives, -⟩
    exact absurd gives (not_gives_of_error run)
  · rw [gives_iff, Op.run_bind_ok run]
    refine ⟨fun rest => ⟨b, u, run, rest⟩, ?_⟩
    rintro ⟨b', u', first, rest⟩
    obtain ⟨rfl, rfl⟩ := (gives_of_ok run).1 first
    exact rest

@[simp] theorem gives_pure : Gives (pure a) s b t ↔ a = b ∧ s = t := gives_of_ok (Op.run_pure a s)

@[simp] theorem gives_get {u : State} : Gives get s u t ↔ s = u ∧ s = t := gives_of_ok (Op.run_get s)

@[simp] theorem gives_set {u : State} {x : PUnit} : Gives (set u) s x t ↔ u = t := (gives_of_ok (Op.run_set s u)).trans (and_iff_right rfl)

@[simp] theorem gives_modify {f : State → State} {x : PUnit} : Gives (modify f) s x t ↔ f s = t :=
  (gives_of_ok (Op.run_modify f s)).trans (and_iff_right rfl)

@[simp] theorem gives_throw {e : Stop} : ¬ Gives (throw e) s a t := not_gives_of_error (Op.run_throw e s)

@[simp] theorem gives_curCore {c : Core} : Gives curCore s c t ↔ cur s = c ∧ s = t := gives_of_ok (Op.run_curCore s)

@[simp] theorem gives_modCur {f : Core → Core} {x : Unit} : Gives (modCur f) s x t ↔ onCore f s = t :=
  (gives_of_ok (Op.run_modCur f s)).trans (and_iff_right rfl)

@[simp] theorem gives_xr {n : BitVec 6} {v : Word} : Gives (xr n) s v t ↔ (cur s).xr n = v ∧ s = t := gives_of_ok (Op.run_xr n s)

@[simp] theorem gives_setX {n : BitVec 6} {v : Word} {x : Unit} : Gives (setX n v) s x t ↔ onCore (fun c => c.setX n v) s = t :=
  (gives_of_ok (Op.run_setX n v s)).trans (and_iff_right rfl)

@[simp] theorem gives_flt {kind sub : Nat} {det : BitVec 320} : ¬ Gives (flt kind sub det) s a t := gives_throw

@[simp] theorem gives_holdOp : ¬ Gives holdOp s a t := gives_throw

@[simp] theorem gives_capFlt {l : List Nat} {gen : W32} : ¬ Gives (capFlt l gen) s a t := gives_throw

@[simp] theorem gives_holdUnless {c : Bool} {x : Unit} : Gives (holdUnless c) s x t ↔ c = true ∧ s = t := by
  cases c <;> simp [holdUnless]

@[simp] theorem gives_need {c : Bool} {kind sub : Nat} {det : BitVec 320} {x : Unit} : Gives (need c kind sub det) s x t ↔ c = true ∧ s = t := by
  cases c <;> simp [need]

@[simp] theorem gives_curCrew {w : Crew} : Gives curCrew s w t ↔ Has w s ∧ s = t := by
  unfold curCrew
  rw [gives_bind]
  constructor
  · rintro ⟨c, u, core, rest⟩
    obtain ⟨rfl, rfl⟩ := gives_curCore.1 core
    unfold Has
    cases crew : (Stmt.cur s).crew with
    | none => rw [crew] at rest; exact absurd rest gives_holdOp
    | some v =>
      rw [crew] at rest
      obtain ⟨rfl, same⟩ := gives_pure.1 rest
      exact ⟨rfl, same⟩
  · rintro ⟨crew, rfl⟩
    exact ⟨_, s, gives_curCore.2 ⟨rfl, rfl⟩, by rw [show (Stmt.cur s).crew = some w from crew]; exact gives_pure.2 ⟨rfl, rfl⟩⟩

end

/-! ### The cores after an access -/

/-- An access changes of its core the crew's copies of descriptors, the translation caches and the counters. -/
def Core.Accessed (c e : Core) : Prop :=
  ∃ (descs : Crew → List (Nat × BitVec 512)) (tcs : Vector (List TcEnt) 5) (ev : EvState),
    e = { c with crew := c.crew.map fun w => { w with descs := descs w }, tcs := tcs, ev := ev }

/-- What an access leaves of the machine besides its storage: every core but its own keeps all but its counters. -/
structure State.Accessed (s t : State) : Prop where
  cur    : t.cur = s.cur
  parts  : t.parts = s.parts
  acts   : (s.core s.cur).Accessed (t.core s.cur)
  others : ∀ c, c ≠ s.cur → ∃ ev, t.core c = { s.core c with ev := ev }

/-- An access that has changed no byte of storage. -/
structure State.Reads (s t : State) : Prop extends s.Accessed t where
  mem : t.mem = s.mem
  wf  : s.memWf = true → t.memWf = true

section
variable {c d e : Core} {s t u : State}

theorem Core.Accessed.refl (c : Core) : c.Accessed c := ⟨(·.descs), c.tcs, c.ev, by simp⟩

theorem Core.Accessed.trans (first : c.Accessed d) (next : d.Accessed e) : c.Accessed e := by
  obtain ⟨descs, tcs, ev, rfl⟩ := first
  obtain ⟨descs', tcs', ev', rfl⟩ := next
  exact ⟨fun w => descs' { w with descs := descs w }, tcs', ev', by simp [Function.comp_def]⟩

theorem Core.Accessed.counters (c : Core) (ev : EvState) : c.Accessed { c with ev := ev } := by
  exact ⟨(·.descs), c.tcs, ev, by simp⟩

theorem State.Accessed.refl (s : State) : s.Accessed s := ⟨rfl, rfl, .refl _, fun c _ => ⟨(s.core c).ev, rfl⟩⟩

theorem State.Accessed.trans (first : s.Accessed t) (next : t.Accessed u) : s.Accessed u := by
  refine ⟨next.cur.trans first.cur, next.parts.trans first.parts, first.acts.trans (first.cur ▸ next.acts), fun c other => ?_⟩
  obtain ⟨ev, before⟩ := first.others c other
  obtain ⟨ev', after⟩ := next.others c (first.cur.symm ▸ other)
  exact ⟨ev', by rw [after, before]⟩

theorem State.Accessed.of_onlyCounters (counted : s.OnlyCounters t) (parts : t.parts = s.parts) : s.Accessed t := by
  obtain ⟨ev, same⟩ := counted.core s.cur
  exact ⟨counted.cur, parts, same ▸ .counters .., fun c _ => counted.core c⟩

/-- A change of the core that acts. -/
theorem State.Accessed.onCore {f : Core → Core} (same : (s.core s.cur).Accessed (f (s.core s.cur))) : s.Accessed (onCore f s) :=
  ⟨rfl, rfl, by rwa [Stmt.onCore, State.core_modCore], fun c other => ⟨(s.core c).ev, State.core_modCore_ne _ _ other⟩⟩

theorem State.Reads.refl (s : State) : s.Reads s := ⟨.refl s, rfl, id⟩

theorem State.Reads.trans (first : s.Reads t) (next : t.Reads u) : s.Reads u :=
  ⟨first.toAccessed.trans next.toAccessed, next.mem.trans first.mem, next.wf ∘ first.wf⟩

/-- A state whose storage, partitions and cores are the same. -/
theorem State.Reads.of_eq (acts : t.cur = s.cur) (parts : t.parts = s.parts) (cores : t.cores = s.cores) (mem : t.mem = s.mem) (tick : t.rowTick = s.rowTick)
    (live : t.rowLive = s.rowLive) (poison : t.poison = s.poison) : s.Reads t :=
  ⟨.of_onlyCounters (.of_eq acts cores) parts, mem, fun wf => State.memWf_of_eq wf mem tick live poison⟩

theorem State.Reads.onCore {f : Core → Core} (same : (s.core s.cur).Accessed (f (s.core s.cur))) : s.Reads (onCore f s) :=
  ⟨.onCore same, rfl, fun wf => State.memWf_of_eq wf rfl rfl rfl rfl⟩

theorem State.Reads.count (s : State) (src n : Nat) : s.Reads (s.modCore s.cur (·.count src n)) := by
  refine .onCore ?_
  obtain ⟨ev, counted⟩ := (s.core s.cur).count_eq src n
  exact counted ▸ .counters ..

theorem State.eccFound_parts (s : State) (pa : Nat) (e : Ecc) : (s.eccFound pa e).parts = s.parts := by cases e <;> rfl

theorem State.Reads.meet (s : State) (pa n : Nat) : s.Reads (s.meet pa n) :=
  ⟨.of_onlyCounters (State.meet_keeps s pa n (.of_eq rfl rfl) fun t a e kept => kept.trans (t.onlyCounters_eccFound a e))
    (State.meet_keeps (P := fun t => t.parts = s.parts) s pa n rfl fun t a e kept => (t.eccFound_parts a e).trans kept), State.meet_mem .., State.meet_memWf s pa n⟩

theorem State.bankRead_parts (s : State) (pa n : Nat) : (s.bankRead pa n).1.parts = s.parts := by
  unfold State.bankRead
  split
  · dsimp only
    split <;> rfl
  · exact (State.Reads.meet s pa n).parts

theorem State.Reads.bankRead (s : State) (pa n : Nat) : s.Reads (s.bankRead pa n).1 :=
  ⟨.of_onlyCounters (s.onlyCounters_bankRead pa n) (s.bankRead_parts pa n), s.bankRead_mem pa n, s.bankRead_memWf pa n⟩

theorem State.unpoison_parts (s : State) (pa n : Nat) : (s.unpoison pa n).parts = s.parts := by
  unfold State.unpoison
  split <;> rfl

theorem State.bankWrite_parts (s : State) (pa : Nat) (bs : List Byte) : (s.bankWrite pa bs).parts = s.parts := by
  rw [State.bankWrite_eq, State.unpoison_parts]
  show (s.readied pa).parts = s.parts
  have cleared : (s.cleared pa).parts = s.parts := by
    unfold State.cleared
    split
    · exact State.unpoison_parts ..
    · rfl
  unfold State.readied
  split <;> exact cleared

theorem State.Accessed.bankWrite (s : State) (pa : Nat) (bs : List Byte) : s.Accessed (s.bankWrite pa bs) :=
  .of_onlyCounters (s.onlyCounters_bankWrite pa bs) (s.bankWrite_parts pa bs)

end

end Sys2Proof.Machine

/-! PROOFS. The operations that reach a place of storage for a strand (R141 to R148, R216 to R221): where they answer, they have read. -/

namespace Sys2Proof.Machine

open Sys2Proof.Stmt

section
variable {s t : State} {k : Strand} {a : Acc}

theorem Core.Accessed.caches (c : Core) (tcs : Vector (List TcEnt) 5) : c.Accessed { c with tcs := tcs } := ⟨(·.descs), tcs, c.ev, by simp⟩

theorem State.Reads.putTc (s : State) (port : Fin 5) (n : Nat) (e : TcEnt) : s.Reads (Stmt.onCore (fun c => c.putTc port n e) s) :=
  .onCore (Core.Accessed.caches ..)

theorem Crew.keepDesc_eq (w : Crew) (tensor : Nat) (b : BitVec 512) : w.keepDesc tensor b = { w with descs := (w.keepDesc tensor b).descs } := by
  unfold Crew.keepDesc
  split <;> rfl

theorem reads_descMet {w : Crew} {tensor slot : Nat} {x : Unit} (gives : Gives (descMet w tensor slot) s x t) : s.Reads t := by
  unfold descMet at gives
  simp only [gives_bind, gives_modify, gives_get, gives_need] at gives
  obtain ⟨-, u, rfl, _, _, ⟨rfl, rfl⟩, -, rfl⟩ := gives
  exact .meet ..

theorem reads_crewDesc {tensor slot : Nat} {b : Option (BitVec 512)} (gives : Gives (crewDesc tensor slot) s b t) : s.Reads t := by
  unfold crewDesc at gives
  simp only [gives_bind, gives_get, gives_curCrew] at gives
  obtain ⟨w, _, ⟨-, rfl⟩, _, _, ⟨rfl, rfl⟩, gives⟩ := gives
  have kept : ∀ {u v : State} {b : BitVec 512}, onCore (fun c => { c with crew := c.crew.map (·.keepDesc tensor b) }) u = v → u.Reads v := by
    rintro u _ b rfl
    refine .onCore ⟨fun w => (w.keepDesc tensor b).descs, (u.core u.cur).tcs, (u.core u.cur).ev, ?_⟩
    rw [← funext fun w : Crew => w.keepDesc_eq tensor b]
  split at gives
  · obtain ⟨-, rfl⟩ := gives_pure.1 gives
    exact .refl s
  · split at gives
    · simp only [gives_bind, gives_modCur, gives_pure] at gives
      obtain ⟨_, u, met, _, v, keeps, -, rfl⟩ := gives
      exact (reads_descMet met).trans (kept keeps)
    · simp only [gives_bind, gives_modCur, gives_pure] at gives
      obtain ⟨_, v, keeps, -, rfl⟩ := gives
      exact kept keeps

theorem reads_slotDesc {slot : BitVec 5} {d : Nat × Desc} (gives : Gives (slotDesc slot) s d t) : s.Reads t := by
  unfold slotDesc at gives
  simp only [gives_bind, gives_curCrew] at gives
  obtain ⟨w, _, ⟨-, rfl⟩, gives⟩ := gives
  split at gives
  · exact absurd gives gives_flt
  · simp only [gives_bind] at gives
    obtain ⟨b, u, found, gives⟩ := gives
    split at gives
    · exact absurd gives gives_flt
    · split at gives
      · exact absurd gives gives_flt
      · obtain ⟨-, rfl⟩ := gives_pure.1 gives
        exact reads_crewDesc found

theorem reads_linAcc {slot : BitVec 5} {c n align : Nat} (gives : Gives (linAcc slot c n align) s a t) : s.Reads t := by
  unfold linAcc at gives
  simp only [gives_bind, gives_need, gives_pure] at gives
  obtain ⟨d, u, named, -, _, ⟨-, rfl⟩, -, _, ⟨-, rfl⟩, -, _, ⟨-, rfl⟩, -, rfl⟩ := gives
  exact reads_slotDesc named

theorem reads_storeAcc {slot : BitVec 5} {c n align : Nat} (gives : Gives (storeAcc slot c n align) s a t) : s.Reads t := by
  unfold storeAcc at gives
  simp only [gives_bind, gives_need] at gives
  obtain ⟨d, u, named, -, _, ⟨-, rfl⟩, -, _, ⟨-, rfl⟩, lin⟩ := gives
  exact (reads_slotDesc named).trans (reads_linAcc lin)

/-- A tile that is mapped: its entry may have been put into the translation cache (R217). -/
theorem reads_translate {akind : Nat} {e : BitVec 64} (gives : Gives (Machine.translate k a akind) s (some e) t) : s.Reads t := by
  unfold Machine.translate at gives
  simp only [gives_bind, gives_curCrew, gives_get] at gives
  obtain ⟨w, _, ⟨-, rfl⟩, _, _, ⟨rfl, rfl⟩, gives⟩ := gives
  split at gives
  · obtain ⟨-, rfl⟩ := gives_pure.1 gives
    exact .refl s
  · simp only [gives_bind, gives_modCur, gives_modify, gives_get, gives_need] at gives
    obtain ⟨_, _, rfl, _, _, rfl, _, _, ⟨rfl, rfl⟩, _, _, ⟨-, rfl⟩, gives⟩ := gives
    have met : s.Reads ((onCore (fun c => c.count 30 1) s).meet (a.d.ttptr + 8 * a.tile) 8) := (State.Reads.count s 30 1).trans (.meet ..)
    split at gives
    · simp only [gives_bind, gives_modCur, gives_modify, gives_pure] at gives
      obtain ⟨_, v, filled, _, _, counted, -, rfl⟩ := gives
      subst filled counted
      exact met.trans ((State.Reads.putTc ..).trans (.of_eq rfl rfl rfl rfl rfl rfl rfl))
    · simp only [gives_bind, gives_modify, gives_pure] at gives
      obtain ⟨_, _, -, none, -⟩ := gives
      exact nomatch none

theorem reads_farAwait {w : FarReq} {det : BitVec 320} {b : PktBody} (gives : Gives (farAwait w det) s b t) : s = t := by
  unfold farAwait at gives
  split at gives
  · exact absurd gives gives_holdOp
  · exact absurd gives gives_throw
  · exact absurd gives gives_throw
  · exact (gives_pure.1 gives).2

/-- Another package has answered: asking again changes nothing. -/
theorem reads_farSend {pos : Nat × Nat × Nat} {key len cls : Nat} {body : Nat → PktBody} {det : BitVec 320} {fk : Option FarKey} {b : PktBody}
    (gives : Gives (farSend k pos key len cls body det fk) s b t) : s = t := by
  unfold farSend at gives
  simp only [gives_bind, gives_get] at gives
  obtain ⟨_, _, ⟨rfl, rfl⟩, gives⟩ := gives
  split at gives
  · simp only [gives_bind] at gives
    obtain ⟨_, _, -, _, _, -, held⟩ := gives
    exact absurd held gives_holdOp
  · exact reads_farAwait gives

theorem reads_farCall {pkg key len cls : Nat} {body : Nat → PktBody} {det : BitVec 320} {fk : Option FarKey} {b : PktBody}
    (gives : Gives (farCall k pkg key len cls body det fk) s b t) : s = t := by
  unfold farCall at gives
  simp only [gives_bind, gives_get, gives_need] at gives
  obtain ⟨_, _, ⟨rfl, rfl⟩, _, _, ⟨-, rfl⟩, sent⟩ := gives
  exact reads_farSend sent

theorem reads_opRead {n : Nat} {bs : List Byte} (gives : Gives (opRead k a n) s bs t) : s.Reads t := by
  unfold opRead at gives
  simp only [gives_bind, gives_curCrew] at gives
  obtain ⟨w, _, ⟨-, rfl⟩, entry, u, mapped, gives⟩ := gives
  split at gives
  · exact absurd gives gives_holdOp
  · have translated := reads_translate mapped
    split at gives
    · exact absurd gives gives_flt
    · simp only [gives_bind, gives_get] at gives
      obtain ⟨_, _, ⟨rfl, rfl⟩, gives⟩ := gives
      split at gives
      · exact absurd gives gives_flt
      · exact absurd gives gives_capFlt
      · simp only [gives_bind] at gives
        obtain ⟨_, _, -, held⟩ := gives
        exact absurd held gives_holdOp
      · simp only [gives_bind, gives_holdUnless] at gives
        obtain ⟨_, _, ⟨-, rfl⟩, b, v, asked, gives⟩ := gives
        obtain rfl := reads_farCall asked
        split at gives
        · obtain ⟨-, rfl⟩ := gives_pure.1 gives
          exact translated
        · exact absurd gives gives_holdOp
      · split at gives
        · exact absurd gives gives_holdOp
        · split at gives
          · simp only [gives_bind] at gives
            obtain ⟨_, _, -, held⟩ := gives
            exact absurd held gives_throw
          · simp only [gives_bind, gives_set] at gives
            obtain ⟨_, _, rfl, gives⟩ := gives
            have read := State.Reads.bankRead u ‹_› n
            split at gives
            · exact absurd gives gives_flt
            · simp only [gives_bind] at gives
              obtain ⟨_, _, -, held⟩ := gives
              exact absurd held gives_flt
            · obtain ⟨-, rfl⟩ := gives_pure.1 gives
              exact (translated.trans read).trans (read.cur ▸ State.Reads.count ..)

end

/-- Operations of a list that each only read, only read. -/
theorem reads_mapM {α β : Type} {f : α → Op β} (each : ∀ {x s y t}, Gives (f x) s y t → s.Reads t) {xs : List α} : ∀ {s t : State} {ys : List β},
    Gives (xs.mapM f) s ys t → s.Reads t := by
  induction xs with
  | nil =>
    intro s t ys gives
    obtain ⟨-, rfl⟩ := gives_pure.1 gives
    exact .refl s
  | cons x xs ih =>
    intro s t ys gives
    simp only [List.mapM_cons, gives_bind, gives_pure] at gives
    obtain ⟨_, _, first, _, _, rest, -, rfl⟩ := gives
    exact (each first).trans (ih rest)

section
variable {s t : State} {k : Strand} {a : Acc}

theorem reads_readRange {n : Nat} {bs : List Byte} (gives : Gives (readRange k a n) s bs t) : s.Reads t := by
  unfold readRange at gives
  simp only [gives_bind, gives_pure] at gives
  obtain ⟨_, _, parts, -, rfl⟩ := gives
  exact reads_mapM reads_opRead parts

theorem reads_readLin {slot : BitVec 5} {c n align : Nat} {bs : List Byte} (gives : Gives (readLin k slot c n align) s bs t) : s.Reads t := by
  unfold readLin at gives
  rw [gives_bind] at gives
  obtain ⟨a, u, lin, range⟩ := gives
  exact (reads_linAcc lin).trans (reads_readRange range)

/-- A write that lands in this package. -/
theorem reads_storePlace {akind pa : Nat} {defer : Bool} (gives : Gives (storePlace k a akind) s (some (.inl pa), defer) t) : s.Reads t := by
  unfold storePlace at gives
  simp only [gives_bind, gives_curCrew, gives_curCore] at gives
  obtain ⟨w, _, ⟨-, rfl⟩, _, _, ⟨rfl, rfl⟩, entry, u, mapped, gives⟩ := gives
  split at gives
  · exact nomatch (gives_pure.1 gives).1
  · have translated := reads_translate mapped
    split at gives
    · exact nomatch (gives_pure.1 gives).1
    · split at gives
      · exact absurd gives gives_flt
      · split at gives
        · exact absurd gives gives_flt
        · simp only [gives_bind, gives_get] at gives
          obtain ⟨_, _, ⟨rfl, rfl⟩, gives⟩ := gives
          split at gives
          · exact absurd gives gives_flt
          · exact absurd gives gives_capFlt
          · simp only [gives_bind, gives_pure] at gives
            obtain ⟨_, _, -, none, -⟩ := gives
            exact nomatch none
          · simp only [gives_bind, gives_need] at gives
            obtain ⟨_, _, ⟨-, rfl⟩, gives⟩ := gives
            split at gives
            · exact nomatch (gives_pure.1 gives).1
            · simp only [gives_bind, gives_holdUnless, gives_pure] at gives
              obtain ⟨_, _, -, far, -⟩ := gives
              exact nomatch far
          · split at gives
            · exact nomatch (gives_pure.1 gives).1
            · split at gives
              · obtain ⟨-, rfl⟩ := gives_pure.1 gives
                exact translated
              · simp only [gives_bind] at gives
                obtain ⟨_, _, -, held⟩ := gives
                exact absurd held gives_throw
            · obtain ⟨-, rfl⟩ := gives_pure.1 gives
              exact translated
            · simp only [gives_bind, gives_pure] at gives
              obtain ⟨_, _, -, none, -⟩ := gives
              exact nomatch none

/-- A release that is done has changed nothing (R215). -/
theorem reads_opRelease {scope : Scope} {x : Unit} (gives : Gives (opRelease scope) s x t) : s = t := by
  unfold opRelease at gives
  simp only [gives_bind, gives_get] at gives
  obtain ⟨_, _, ⟨rfl, rfl⟩, gives⟩ := gives
  cases scope with
  | core => exact (gives_pure.1 gives).2
  | gang | die | pkg => exact (gives_holdUnless.1 gives).2
  | fab | sys =>
    dsimp only at gives
    split at gives
    · simp only [gives_bind] at gives
      obtain ⟨_, _, -, held⟩ := gives
      exact absurd held gives_holdOp
    · simp only [gives_bind, gives_holdUnless] at gives
      obtain ⟨_, _, ⟨-, rfl⟩, gives⟩ := gives
      split at gives
      · simp only [gives_bind] at gives
        obtain ⟨_, _, -, held⟩ := gives
        exact absurd held gives_holdOp
      · exact (gives_holdUnless.1 gives).2

end

end Sys2Proof.Machine

/-! PROOFS. What the issue and the end of an instruction leave of the machine (R194, R241, R287, R294), while no trace stream follows its crew. -/

namespace Sys2Proof.Machine

open Sys2Proof.Stmt

/-! ### Trace streams -/

/-- A change that keeps the partitions, and of each core the trace stream and whose its crew is, brings no stream to follow anything. -/
theorem untraced_of {s t : State} (free : Untraced s) (acts : t.cur = s.cur) (parts : t.parts = s.parts)
    (crews : ∀ c, (t.core c).crew.map (fun w => (w.part, w.ctx)) = (s.core c).crew.map fun w => (w.part, w.ctx))
    (traces : ∀ c, (t.core c).trace = (s.core c).trace) : Untraced t := by
  have owner : ∀ {c : BitVec 7} {w : Crew}, (t.core c).crew = some w → ∃ v, (s.core c).crew = some v ∧ v.part = w.part ∧ v.ctx = w.ctx := fun {c w} holds => by
    have same := crews c
    rw [holds] at same
    obtain ⟨v, crew, is⟩ := Option.map_eq_some_iff.1 same.symm
    exact ⟨v, crew, (Prod.mk.inj is).1, (Prod.mk.inj is).2⟩
  have partSame : ∀ p, t.part p = s.part p := fun p => congrArg (·[p.toFin]) parts
  intro h w holds
  obtain ⟨v, crew, part, ctx⟩ := owner (c := s.cur) (by rw [← acts]; exact holds)
  have before := free h v crew
  unfold State.traces at before ⊢
  rw [← part, ← ctx]
  cases holder : (t.core h).crew with
  | none => rfl
  | some x =>
    obtain ⟨y, other, partX, ctxX⟩ := owner holder
    rw [other] at before
    dsimp only at before ⊢
    rw [← partX, ← ctxX, traces h, partSame, partSame]
    exact before

theorem untraced_of_accessed {s t : State} (free : Untraced s) (after : s.Accessed t) : Untraced t := by
  have core : ∀ c, (s.core c).Accessed (t.core c) := fun c => by
    by_cases same : c = s.cur
    · exact same ▸ after.acts
    · obtain ⟨ev, is⟩ := after.others c same
      exact is ▸ .counters ..
  refine untraced_of free after.cur after.parts (fun c => ?_) fun c => ?_
  · obtain ⟨descs, tcs, ev, is⟩ := core c
    rw [is]
    simp [Function.comp_def]
  · obtain ⟨descs, tcs, ev, is⟩ := core c
    rw [is]

/-! ### Issue and end -/

/-- What issuing an instruction of strand `k`, or ending one, changes of its core: the strand, tokens, counters, and on M the second entry. -/
def Core.Kept (k : Strand) (c e : Core) : Prop :=
  ∃ (st : StrandSt) (tok : Vector (BitVec 6) 12) (ev : EvState) (second : Option Held),
    e = { (c.setStr k st) with tok := tok, ev := ev, ms := { c.ms with second := second } } ∧ (k ≠ .m → second = c.ms.second)

/-- What it changes of the machine: that core, and the requests that were made for the instruction. -/
def State.Kept (k : Strand) (s t : State) : Prop :=
  ∃ e ws, t = { onCore (fun _ => e) s with waits := ws } ∧ (Stmt.cur s).Kept k e

section
variable {k : Strand} {c d e : Core} {s t u : State} {f : Core → Core}

theorem Core.Kept.refl : c.Kept k c := ⟨c.str k, c.tok, c.ev, c.ms.second, by simp [Core.setStr, Core.str], fun _ => rfl⟩

theorem Core.Kept.trans (first : c.Kept k d) (next : d.Kept k e) : c.Kept k e := by
  obtain ⟨st, tok, ev, second, rfl, same⟩ := first
  obtain ⟨st', tok', ev', second', rfl, same'⟩ := next
  exact ⟨st', tok', ev', second', by simp [Core.setStr], fun other => (same' other).trans (same other)⟩

theorem Core.Kept.setStr (c : Core) (k : Strand) (st : StrandSt) : c.Kept k (c.setStr k st) := ⟨st, c.tok, c.ev, c.ms.second, rfl, fun _ => rfl⟩

theorem Core.Kept.counters (c : Core) (k : Strand) (ev : EvState) : c.Kept k { c with ev := ev } :=
  ⟨c.str k, c.tok, ev, c.ms.second, by simp [Core.setStr, Core.str], fun _ => rfl⟩

theorem Core.Kept.setTok (c : Core) (k : Strand) (i n : Nat) : c.Kept k (c.setTok i n) := by
  unfold Core.setTok
  split
  · exact ⟨c.str k, _, c.ev, c.ms.second, by simp [Core.setStr, Core.str]; rfl, fun _ => rfl⟩
  · exact .refl

theorem Core.Kept.freeEntry (c : Core) (k : Strand) : c.Kept k (c.freeEntry k) := by
  unfold Core.freeEntry
  split
  · next m => subst m; exact ⟨_, c.tok, c.ev, none, rfl, fun other => absurd rfl other⟩
  · exact .setStr ..

theorem State.Kept.onCore (same : (Stmt.cur s).Kept k (f (Stmt.cur s))) : s.Kept k (onCore f s) := ⟨_, s.waits, rfl, same⟩

theorem State.Kept.refl : s.Kept k s := ⟨Stmt.cur s, s.waits, (State.modCore_same (f := fun _ => Stmt.cur s) rfl).symm, .refl⟩

theorem State.Kept.cur (after : s.Kept k t) : t.cur = s.cur := by
  obtain ⟨e, ws, rfl, -⟩ := after
  rfl

theorem State.Kept.trans (first : s.Kept k t) (next : t.Kept k u) : s.Kept k u := by
  obtain ⟨d, ws, rfl, same⟩ := first
  obtain ⟨e, ws', rfl, same'⟩ := next
  refine ⟨e, ws', ?_, same.trans ?_⟩
  · show { ({ Stmt.onCore (fun _ => d) s with waits := ws } : State).modCore s.cur (fun _ => e) with waits := ws' } = _
    have twice : ({ Stmt.onCore (fun _ => d) s with waits := ws } : State).modCore s.cur (fun _ => e) =
        { ((s.modCore s.cur fun _ => d).modCore s.cur fun _ => e) with waits := ws } := rfl
    rw [twice, State.modCore_modCore]
    rfl
  · rwa [show Stmt.cur ({ Stmt.onCore (fun _ => d) s with waits := ws } : State) = Stmt.cur (Stmt.onCore (fun _ => d) s) from rfl, cur_onCore] at same'

theorem State.Kept.waits (s : State) (k : Strand) (ws : List FarReq) : s.Kept k { s with waits := ws } :=
  ⟨Stmt.cur s, ws, by rw [show Stmt.onCore (fun _ => Stmt.cur s) s = s from State.modCore_same rfl], .refl⟩

theorem State.Kept.dropWaits (s : State) (c : BitVec 7) (k j : Strand) : s.Kept k (s.dropWaits c j) := by
  unfold State.dropWaits
  split
  · exact .refl
  · exact .waits ..

/-- Nothing that a stream follows has changed. -/
theorem State.Kept.untraced (free : Untraced s) (after : s.Kept k t) : Untraced t := by
  obtain ⟨e, ws, rfl, st, tok, ev, second, rfl, -⟩ := after
  have core : Untraced (Stmt.onCore (fun _ => { ((Stmt.cur s).setStr k st) with tok := tok, ev := ev, ms := { (Stmt.cur s).ms with second := second } }) s) :=
    untraced_modCore free rfl rfl
  exact core

/-- An instruction has issued. -/
theorem State.Kept.issueHeld (s : State) (k : Strand) (tk : Tok) : s.Kept k (s.issueHeld k tk) := by
  rw [State.issueHeld_eq]
  refine .onCore (Core.Kept.trans ?_ (.setStr ..))
  unfold Core.tokenTaken
  split
  · exact .setTok ..
  · exact .refl

/-- An instruction has ended. -/
theorem State.Kept.finish (free : Untraced s) (k : Strand) (len : Nat) : s.Kept k (finish s.cur k len s) := by
  have moved : ∀ h : Held, s.Kept k (if (s.core s.cur).behind k then s else
      let s' := s.advance s.cur k h.pc len
      match h.next with
      | some pc => s'.modCore s.cur fun r => r.setStr k { (r.str k) with pc := pc }
      | none => s') := fun h => by
    split
    · exact .refl
    · obtain ⟨ev, advanced⟩ := State.advance_untraced free k h.pc len
      have first : s.Kept k (s.advance s.cur k h.pc len) := advanced ▸ .onCore ((Core.Kept.setStr ..).trans (.counters ..))
      dsimp only
      split
      · exact first.trans (by rw [advanced]; exact .onCore (.setStr ..))
      · exact first
  have posted : ∀ (t : State) (h : Held), t.cur = s.cur → t.Kept k (t.finishPost s.cur k h) := fun t h acts => by
    rw [← acts]
    refine .onCore ?_
    split
    · exact .freeEntry ..
    · split
      · exact (Core.Kept.setTok ..).trans (.freeEntry ..)
      · exact .setStr ..
  have first := moved ((s.core s.cur).heldOf k)
  have second := first.trans (State.Kept.dropWaits _ s.cur k k)
  have third := second.trans (posted _ ((s.core s.cur).heldOf k) second.cur)
  obtain ⟨ev, counted⟩ := State.countRetired_eq (State.finishPost _ s.cur k ((s.core s.cur).heldOf k)) k
  have last_ := third.trans (counted ▸ State.Kept.onCore (.counters ..))
  rw [third.cur] at last_
  exact last_

end

end Sys2Proof.Machine

/-! PROOFS. The scalar loads, stores and atomics (R355, R356, R203 to R205, R156). -/

namespace Sys2Proof.Machine

open Sys2Proof.Stmt

/-! ### What an access and its instruction leave of the cores -/

/-- What an instruction of strand `k` that makes an access changes of its core, besides what it writes: the strand, tokens, counters, descriptor copies,
translation caches, and on M the second entry. -/
def Core.Served (k : Strand) (c e : Core) : Prop :=
  ∃ (descs : Crew → List (Nat × BitVec 512)) (tcs : Vector (List TcEnt) 5) (tok : Vector (BitVec 6) 12) (ev : EvState) (st : StrandSt) (second : Option Held),
    e = { (c.setStr k st) with
            crew := c.crew.map fun w => { w with descs := descs w }, tcs := tcs, tok := tok, ev := ev, ms := { c.ms with second := second } } ∧
      (k ≠ .m → second = c.ms.second)

/-- What it leaves of the machine besides storage. -/
structure State.Served (k : Strand) (s t : State) : Prop where
  cur    : t.cur = s.cur
  parts  : t.parts = s.parts
  acts   : (s.core s.cur).Served k (t.core s.cur)
  others : ∀ c, c ≠ s.cur → ∃ ev, t.core c = { s.core c with ev := ev }

/-- Storage is as it was. -/
structure SameMem (s t : State) : Prop where
  mem : t.mem = s.mem
  wf  : s.memWf = true → t.memWf = true

section
variable {k : Strand} {c d e : Core} {s t u : State} {f : Core → Core}

theorem Core.Served.trans (first : c.Served k d) (next : d.Served k e) : c.Served k e := by
  obtain ⟨descs, tcs, tok, ev, st, second, rfl, same⟩ := first
  obtain ⟨descs', tcs', tok', ev', st', second', rfl, same'⟩ := next
  exact ⟨fun w => descs' { w with descs := descs w }, tcs', tok', ev', st', second', by simp [Function.comp_def, Core.setStr],
    fun other => (same' other).trans (same other)⟩

theorem Core.Accessed.served (k : Strand) (same : c.Accessed e) : c.Served k e := by
  obtain ⟨descs, tcs, ev, rfl⟩ := same
  exact ⟨descs, tcs, c.tok, ev, c.str k, c.ms.second, by simp [Core.setStr, Core.str], fun _ => rfl⟩

theorem Core.Kept.served (same : c.Kept k e) : c.Served k e := by
  obtain ⟨st, tok, ev, second, rfl, other⟩ := same
  exact ⟨(·.descs), c.tcs, tok, ev, st, second, by simp [Core.setStr], other⟩

theorem State.Served.trans (first : s.Served k t) (next : t.Served k u) : s.Served k u := by
  refine ⟨next.cur.trans first.cur, next.parts.trans first.parts, first.acts.trans (first.cur ▸ next.acts), fun c other => ?_⟩
  obtain ⟨ev, before⟩ := first.others c other
  obtain ⟨ev', after⟩ := next.others c (first.cur.symm ▸ other)
  exact ⟨ev', by rw [after, before]⟩

theorem State.Accessed.served (k : Strand) (after : s.Accessed t) : s.Served k t := ⟨after.cur, after.parts, after.acts.served k, after.others⟩

theorem State.Kept.served (after : s.Kept k t) : s.Served k t := by
  obtain ⟨e, ws, rfl, same⟩ := after
  refine ⟨rfl, rfl, ?_, fun c other => ⟨(s.core c).ev, State.core_modCore_ne s (fun _ => e) other⟩⟩
  have acts : (({ Stmt.onCore (fun _ => e) s with waits := ws } : State).core s.cur) = e := State.core_modCore s s.cur fun _ => e
  exact acts.symm ▸ same.served

theorem State.Kept.sameMem (after : s.Kept k t) : SameMem s t := by
  obtain ⟨e, ws, rfl, same⟩ := after
  exact ⟨rfl, fun wf => State.memWf_of_eq wf rfl rfl rfl rfl⟩

theorem SameMem.trans (first : SameMem s t) (next : SameMem t u) : SameMem s u := ⟨next.mem.trans first.mem, next.wf ∘ first.wf⟩

theorem State.Reads.sameMem (after : s.Reads t) : SameMem s t := ⟨after.mem, after.wf⟩

theorem sameMem_onCore (f : Core → Core) (s : State) : SameMem s (onCore f s) := ⟨rfl, fun wf => State.memWf_of_eq wf rfl rfl rfl rfl⟩

theorem untraced_of_served (free : Untraced s) (after : s.Served k t) : Untraced t := by
  have core : ∀ c, ∃ descs : Crew → List (Nat × BitVec 512), (t.core c).crew = (s.core c).crew.map (fun w => { w with descs := descs w }) ∧
      (t.core c).trace = (s.core c).trace := fun c => by
    by_cases same : c = s.cur
    · obtain ⟨descs, tcs, tok, ev, st, second, is, -⟩ := after.acts
      exact ⟨descs, by rw [same, is]; exact ⟨rfl, rfl⟩⟩
    · obtain ⟨ev, is⟩ := after.others c same
      exact ⟨(·.descs), by rw [is]; simp⟩
  refine untraced_of free after.cur after.parts (fun c => ?_) fun c => ?_
  · obtain ⟨descs, crew, -⟩ := core c
    rw [crew]
    simp [Function.comp_def]
  · obtain ⟨-, -, trace⟩ := core c
    exact trace

theorem Core.Served.xr (same : c.Served k e) (q : BitVec 6) : e.xr q = c.xr q := by
  obtain ⟨descs, tcs, tok, ev, st, second, rfl, -⟩ := same
  rfl

theorem State.Served.xr (after : s.Served k t) (q : BitVec 6) : (Stmt.cur t).xr q = (Stmt.cur s).xr q := by
  rw [Stmt.cur, after.cur]
  exact after.acts.xr q

end

/-! ### Issue, and the releases that stand before a store -/

section
variable {s t u v : State} {w : Nat} {rel : Option Scope} {srcs : List (BitVec 6)} {d r : BitVec 6} {slot imm : BitVec 5} {a : Acc}

theorem sIssued_eq (s : State) : sIssued s = onCore (fun c => c.setStr .s { (c.str .s) with held := some (s.newHeld .s noTok) }) s := State.issueHeld_eq s .s noTok

theorem cur_sIssued (s : State) : cur (sIssued s) = (cur s).setStr .s { ((cur s).str .s) with held := some (s.newHeld .s noTok) } := by
  rw [sIssued_eq, cur_onCore]

theorem gives_acqClear (clear : NoAcquire s) : Gives acqClear (sIssued s) () (sIssued s) := by
  unfold acqClear
  refine gives_bind.2 ⟨_, _, gives_curCore.2 ⟨rfl, rfl⟩, gives_holdUnless.2 ⟨?_, rfl⟩⟩
  rw [cur_sIssued]
  exact congrArg (!·) clear

theorem gives_sCoord (s : State) (r : BitVec 6) (imm : BitVec 5) (w : Nat) : Gives (sCoord r imm w) (sIssued s) (coordOf s r imm w) (sIssued s) := by
  unfold sCoord coordOf
  refine gives_bind.2 ⟨_, _, gives_xr.2 ⟨rfl, rfl⟩, gives_pure.2 ⟨?_, rfl⟩⟩
  rw [cur_sIssued]
  rfl

/-- The release of a pending fence is done: the fence is no longer pending (R200). -/
theorem opFencedRelease_eq {k : Strand} (gives : Gives (opFencedRelease k) s () t) : onCore (fun c => c.setStr k { (c.str k) with relNext := none }) s = t := by
  unfold opFencedRelease at gives
  simp only [gives_bind, gives_curCore] at gives
  obtain ⟨_, _, ⟨rfl, rfl⟩, gives⟩ := gives
  split at gives
  · next idle =>
    obtain ⟨-, rfl⟩ := gives_pure.1 gives
    refine State.modCore_same ?_
    have same : { ((s.core s.cur).str k) with relNext := none } = (s.core s.cur).str k := by rw [← show ((s.core s.cur).str k).relNext = none from idle]
    rw [same]
    simp [Core.setStr, Core.str]
  · simp only [gives_bind, gives_modCur] at gives
    obtain ⟨_, _, released, gives⟩ := gives
    obtain rfl := reads_opRelease released
    exact gives

/-- The releases that stand before a store or an atomic are done. -/
theorem released_eq {c : Prop} [Decidable c] {sc : Scope} (gives : if c then Gives (opRelease sc) u () v else v = u) : u = v := by
  split at gives
  · exact reads_opRelease gives
  · exact gives.symm

/-- What stands between the issue of a store or an atomic and its access. -/
structure Readies (s u t : State) : Prop where
  reads  : (sIssued s).Reads u
  fenced : onCore (fun c => c.setStr .s { (c.str .s) with relNext := none }) u = t

theorem Readies.served (ready : Readies s u t) : s.Served .s t := by
  obtain ⟨reads, rfl⟩ := ready
  exact (State.Kept.issueHeld s .s noTok).served.trans ((reads.toAccessed.served .s).trans (State.Kept.onCore (.setStr ..)).served)

theorem Readies.sameMem (ready : Readies s u t) : SameMem s t := by
  obtain ⟨reads, rfl⟩ := ready
  exact (State.Kept.issueHeld s .s noTok).sameMem.trans (reads.sameMem.trans (sameMem_onCore ..))

/-- The fence that stood before the access is still the one at its issue. -/
theorem relNext_of_reads (reads : (sIssued s).Reads u) : ((cur u).str .s).relNext = ((cur s).str .s).relNext := by
  obtain ⟨descs, tcs, ev, is⟩ := reads.acts
  have core : cur u = u.core (sIssued s).cur := congrArg u.core reads.cur
  rw [core, is, ← show cur (sIssued s) = (sIssued s).core (sIssued s).cur from rfl, cur_sIssued]
  show (((cur s).setStr .s _).str .s).relNext = _
  rw [Core.str_setStr]

theorem readies_of_store (ready : StoreReady s w rel d r slot imm a t) : ∃ u, Readies s u t ∧ Gives (storeAcc slot (coordOf s r imm w) w w) (sIssued s) a u ∧
    Gives (match rel with | some sc => opRelease sc | none => pure ()) u () u ∧ Gives (opFencedRelease .s) u () t := by
  obtain ⟨-, -, -, u, v, acc, release, fenced⟩ := ready
  cases rel with
  | none =>
    obtain rfl : v = u := release
    exact ⟨v, ⟨reads_storeAcc acc, opFencedRelease_eq fenced⟩, acc, gives_pure.2 ⟨rfl, rfl⟩, fenced⟩
  | some sc =>
    obtain rfl := reads_opRelease release
    exact ⟨u, ⟨reads_storeAcc acc, opFencedRelease_eq fenced⟩, acc, release, fenced⟩

theorem readies_of_amo {sc : Scope} {o : MemOrd} (ready : AmoReady s w sc o srcs r slot imm a t) : ∃ u, Readies s u t ∧
    Gives (storeAcc slot (coordOf s r imm w) w w) (sIssued s) a u ∧ Gives (if memRel o then opRelease sc else pure ()) u () u ∧
    Gives (opFencedRelease .s) u () t := by
  obtain ⟨-, -, -, u, v, acc, release, fenced⟩ := ready
  obtain rfl := released_eq release
  refine ⟨u, ⟨reads_storeAcc acc, opFencedRelease_eq fenced⟩, acc, ?_, fenced⟩
  have half : (memRel o = true) = (o = .rel ∨ o = .acqrel) := by cases o <;> simp [memRel]
  simp only [half]
  split at release
  · rwa [if_pos ‹_›]
  · rw [if_neg ‹_›]
    exact gives_pure.2 ⟨rfl, rfl⟩

end

/-! ### Loads -/

theorem exec_loadForm {i : Instr} {sgn : Bool} {w : Nat} {d r : BitVec 6} {slot imm : BitVec 5} (listed : loadForm i = some (sgn, w, d, r, slot, imm)) (s : State) :
    exec i s = nx (loadS sgn w d r slot imm s) := by
  unfold loadForm at listed
  split at listed <;> cases listed <;> rfl

theorem load_ends {i : Instr} {s t : State} {sgn : Bool} {w : Nat} {d r : BitVec 6} {slot imm : BitVec 5} {bs : List Byte}
    (listed : loadForm i = some (sgn, w, d, r, slot, imm)) (ready : SReady [r] s) (bound : Passes (slotBound slot) s) (clear : NoAcquire s)
    (read : Gives (readLin .s slot (coordOf s r imm w) w w) (sIssued s) bs t) : EndsAt i s .s 1 (onCore (fun c => c.setX d (loadValue sgn w bs)) t) := by
  refine endsAt_of_runS (exec_loadForm listed s) ready bound ?_
  refine gives_bind.2 ⟨_, _, gives_acqClear clear, gives_bind.2 ⟨_, _, gives_sCoord s r imm w, gives_bind.2 ⟨_, _, read, ?_⟩⟩⟩
  exact gives_bind.2 ⟨(), _, gives_setX.2 rfl, gives_pure.2 ⟨rfl, rfl⟩⟩

/-! ### Stores -/

section
variable {i : Instr} {s t u v : State} {w : Nat} {nt : Bool} {rel : Option Scope} {d r : BitVec 6} {slot imm : BitVec 5} {a : Acc}

theorem exec_storeForm (listed : storeForm i = some (w, nt, rel, d, r, slot, imm)) (s : State) : exec i s = nx (storeS w nt rel d r slot imm s) := by
  unfold storeForm at listed
  split at listed <;> cases listed <;> rfl

/-- A store ends with its write (R191, R200). -/
theorem store_ends (listed : storeForm i = some (w, nt, rel, d, r, slot, imm)) (ready : StoreReady s w rel d r slot imm a t)
    (write : let fenced := ((cur s).str .s).relNext
      Gives (opWrite .s a (leBytes w ((cur s).xr d).toNat) (rel.getD (fenced.getD .core)) (nt || a.d.nt) (if rel.isSome || fenced.isSome then .rel else .rlx)) t () v) :
    EndsAt i s .s 1 v := by
  obtain ⟨u, readied, acc, release, fenced⟩ := readies_of_store ready
  obtain ⟨sready, bound, clear, -⟩ := ready
  refine endsAt_of_runS (exec_storeForm listed s) sready bound ?_
  refine gives_bind.2 ⟨_, _, gives_acqClear clear, gives_bind.2 ⟨_, _, gives_sCoord s r imm w, gives_bind.2 ⟨_, _, acc, ?_⟩⟩⟩
  have rest : Gives (do
      let fenced := ((← curCore).str .s).relNext
      opFencedRelease .s
      opWrite .s a (leBytes w (← xr d).toNat) (rel.getD (fenced.getD .core)) (nt || a.d.nt) (if rel.isSome || fenced.isSome then .rel else .rlx)
      return Next.seq) u .seq v := by
    refine gives_bind.2 ⟨_, _, gives_curCore.2 ⟨rfl, rfl⟩, gives_bind.2 ⟨_, _, fenced, gives_bind.2 ⟨_, _, gives_xr.2 ⟨rfl, rfl⟩,
      gives_bind.2 ⟨(), _, ?_, gives_pure.2 ⟨rfl, rfl⟩⟩⟩⟩⟩
    rw [relNext_of_reads readied.reads, readied.served.xr d]
    exact write
  cases rel with
  | none => exact rest
  | some sc => exact gives_bind.2 ⟨_, _, release, rest⟩

end

/-! ### A core that makes an access, whatever it finds -/

/-- An access leaves of the core that makes it all but descriptor copies, translation caches and counters. -/
structure State.Touches (s t : State) : Prop where
  cur  : t.cur = s.cur
  acts : (s.core s.cur).Accessed (t.core s.cur)

section
variable {s t u : State} {k : Strand} {a : Acc}

theorem State.Accessed.touches (after : s.Accessed t) : s.Touches t := ⟨after.cur, after.acts⟩

theorem State.Touches.trans (first : s.Touches t) (next : t.Touches u) : s.Touches u :=
  ⟨next.cur.trans first.cur, first.acts.trans (first.cur ▸ next.acts)⟩

theorem State.OnlyCounters.touches (after : s.OnlyCounters t) : s.Touches t := by
  obtain ⟨ev, same⟩ := after.core s.cur
  exact ⟨after.cur, same ▸ .counters ..⟩

theorem State.onlyCounters_modPart (s : State) (p : BitVec 5) (f : Part → Part) : s.OnlyCounters (s.modPart p f) := .of_eq rfl rfl

theorem State.onlyCounters_recordMiss (s : State) (p : BitVec 5) (ctx : BitVec 3) (c : Option (BitVec 7)) (strand : Nat) (pc word : W32)
    (port akind tensor slot tile off : Nat) : s.OnlyCounters (s.recordMiss p ctx c strand pc word port akind tensor slot tile off) := by
  unfold State.recordMiss
  dsimp only
  split
  · exact .refl s
  · exact (State.onlyCounters_modPart ..).trans (State.onlyCounters_writeRecord ..)

theorem touches_translate {akind : Nat} {e : Option (BitVec 64)} (gives : Gives (Machine.translate k a akind) s e t) : s.Touches t := by
  cases e with
  | some e => exact (reads_translate gives).touches
  | none =>
    unfold Machine.translate at gives
    simp only [gives_bind, gives_curCrew, gives_get] at gives
    obtain ⟨w, _, ⟨-, rfl⟩, _, _, ⟨rfl, rfl⟩, gives⟩ := gives
    split at gives
    · exact nomatch (gives_pure.1 gives).1
    · simp only [gives_bind, gives_modCur, gives_modify, gives_get, gives_need] at gives
      obtain ⟨_, _, rfl, _, _, rfl, _, _, ⟨rfl, rfl⟩, _, _, ⟨-, rfl⟩, gives⟩ := gives
      have met := (State.Reads.count s 30 1).toAccessed.touches.trans (State.Reads.meet _ (a.d.ttptr + 8 * a.tile) 8).toAccessed.touches
      split at gives
      · simp only [gives_bind, gives_pure] at gives
        obtain ⟨_, _, -, _, _, -, none, -⟩ := gives
        exact nomatch none
      · simp only [gives_bind, gives_modify, gives_pure] at gives
        obtain ⟨_, v, missed, -, rfl⟩ := gives
        subst missed
        exact met.trans (State.onlyCounters_recordMiss ..).touches

theorem touches_storePlace {akind : Nat} {place : Option (Nat ⊕ (Nat × Nat)) × Bool} (gives : Gives (storePlace k a akind) s place t) : s.Touches t := by
  unfold storePlace at gives
  simp only [gives_bind, gives_curCrew, gives_curCore] at gives
  obtain ⟨w, _, ⟨-, rfl⟩, _, _, ⟨rfl, rfl⟩, entry, u, mapped, gives⟩ := gives
  have translated := touches_translate mapped
  have left : ∀ {p : Option (Nat ⊕ (Nat × Nat)) × Bool}, Gives (pure p) u place t → s.Touches t := fun gives => (gives_pure.1 gives).2 ▸ translated
  split at gives
  · exact left gives
  · split at gives
    · exact left gives
    · split at gives
      · exact absurd gives gives_flt
      · split at gives
        · exact absurd gives gives_flt
        · simp only [gives_bind, gives_get] at gives
          obtain ⟨_, _, ⟨rfl, rfl⟩, gives⟩ := gives
          split at gives
          · exact absurd gives gives_flt
          · exact absurd gives gives_capFlt
          · simp only [gives_bind, gives_modify, gives_pure] at gives
            obtain ⟨_, v, missed, -, rfl⟩ := gives
            subst missed
            exact translated.trans (State.onlyCounters_recordMiss ..).touches
          · simp only [gives_bind, gives_need] at gives
            obtain ⟨_, _, ⟨-, rfl⟩, gives⟩ := gives
            split at gives
            · exact left gives
            · simp only [gives_bind, gives_holdUnless] at gives
              obtain ⟨_, _, ⟨-, rfl⟩, gives⟩ := gives
              exact left gives
          · split at gives
            · exact left gives
            · split at gives
              · exact left gives
              · simp only [gives_bind] at gives
                obtain ⟨_, _, -, held⟩ := gives
                exact absurd held gives_throw
            · exact left gives
            · simp only [gives_bind, gives_modify, gives_pure] at gives
              obtain ⟨_, v, pushed, -, rfl⟩ := gives
              subst pushed
              exact translated.trans (State.OnlyCounters.touches (.of_eq rfl rfl))

/-- The crew that finds a place is there before, and its context is the one after. -/
theorem storePlace_crew {akind : Nat} {place : Option (Nat ⊕ (Nat × Nat)) × Bool} (gives : Gives (storePlace k a akind) s place t) :
    ∃ w, Has w s ∧ ∀ v, Has v t → v.ctx = w.ctx := by
  have touched := touches_storePlace gives
  unfold storePlace at gives
  simp only [gives_bind, gives_curCrew] at gives
  obtain ⟨w, _, ⟨crew, rfl⟩, -⟩ := gives
  refine ⟨w, crew, fun v after => ?_⟩
  obtain ⟨descs, tcs, ev, is⟩ := touched.acts
  unfold Has Stmt.cur at after crew
  rw [touched.cur, is] at after
  rw [crew] at after
  exact (Option.some.inj after) ▸ rfl

theorem gives_farRoom (room : s.outstanding s.cur < 1024) : Gives (farRoom 1) s () s :=
  gives_bind.2 ⟨_, _, gives_get.2 ⟨rfl, rfl⟩, gives_holdUnless.2 ⟨decide_eq_true (.inr room), rfl⟩⟩

end

end Sys2Proof.Machine

/-! PROOFS. Scalar storage forms: what stores and atomics perform, and their frames (R355, R356, R156, R161). -/

namespace Sys2Proof.Machine

open Sys2Proof.Stmt

/-! ### Where a write of a strand goes (R212, R215, R221) -/

section
variable {s t u v : State} {k : Strand} {a : Acc} {bs : List Byte} {scope : Scope} {ord : MemOrd} {pa pkg : Nat} {defer : Bool}

theorem opWrite_here (place : Gives (storePlace k a 1) t (some (.inl pa), defer) u) : Gives (opWrite k a bs scope false ord) t ()
    ((u.bankWrite pa bs).modCore u.cur fun c => c.count (if pa < shmBase then 29 else if pa < scrBase then 27 else 25) 1) := by
  obtain ⟨w, crew, -⟩ := storePlace_crew place
  exact gives_bind.2 ⟨_, _, gives_curCrew.2 ⟨crew, rfl⟩, gives_bind.2 ⟨_, _, place, gives_modify.2 rfl⟩⟩

theorem opWrite_far {w : Crew} (place : Gives (storePlace k a 1) t (some (.inr (pkg, pa)), defer) u) (crew : Has w u) (room : u.outstanding u.cur < 1024) :
    Gives (opWrite k a bs scope false ord) t () (u.fabricWrite u.cur pkg 1 (.write [(pa, bs)] 0) (some (a.key w.ctx pa))) := by
  obtain ⟨x, before, same⟩ := storePlace_crew place
  rw [same w crew]
  exact gives_bind.2 ⟨_, _, gives_curCrew.2 ⟨before, rfl⟩, gives_bind.2 ⟨_, _, place, gives_bind.2 ⟨_, _, gives_farRoom room, gives_modify.2 rfl⟩⟩⟩

theorem opWrite_logged (place : Gives (storePlace k a 1) t (none, defer) u) (logged : Gives (logOp k a (.store bs) scope ord defer) u () v) :
    Gives (opWrite k a bs scope false ord) t () v := by
  obtain ⟨w, crew, -⟩ := storePlace_crew place
  exact gives_bind.2 ⟨_, _, gives_curCrew.2 ⟨crew, rfl⟩, gives_bind.2 ⟨_, _, place, logged⟩⟩

theorem opWrite_nt {w : Crew} {p : Option (Nat ⊕ (Nat × Nat)) × Bool} (place : Gives (storePlace k a 1) t p u) (crew : Has w u)
    (kept : Gives (keepNt k w.ctx a bs) u () v) : Gives (opWrite k a bs scope true ord) t () v := by
  obtain ⟨x, before, same⟩ := storePlace_crew place
  rw [same w crew] at kept
  exact gives_bind.2 ⟨_, _, gives_curCrew.2 ⟨before, rfl⟩, gives_bind.2 ⟨_, _, place, kept⟩⟩

end

/-! ### Atomics -/

/-- What an atomic writes to its registers: the old value, or what waits for it. -/
def atomicWrites (two : Bool) (d : BitVec 6) (id : Nat) : Option (List Byte) → Core → Core
  | some bs => fun c => if two then (c.setX d (leBV 64 (bs.take 8))).setX (d + 1) (leBV 64 (bs.drop 8)) else c.setX d (leBV 64 (bs.take 8))
  | none => awaits (if two then [d, d + 1] else [d]) id

section
variable {i : Instr} {s t u : State} {op : AtomOp} {w : Nat} {sc : Scope} {o : MemOrd} {d r : BitVec 6} {slot imm : BitVec 5} {srcs : List (BitVec 6)}
  {cmp v : Core → BitVec 128} {two : Bool} {a : Acc}

/-- An atomic ends with its registers written (R203, R356). -/
theorem amo_ends {old : Option (List Byte)} (form : exec i s = nx (amoS op w sc o d r slot imm srcs cmp v two s)) (ready : AmoReady s w sc o srcs r slot imm a t)
    (done : Gives (opAtomic .s a op w (cmp (cur t)) (v (cur t)) sc o) t old u) : EndsAt i s .s 1 (onCore (atomicWrites two d t.nextTag old) u) := by
  obtain ⟨u', readied, acc, release, fenced⟩ := readies_of_amo ready
  obtain ⟨sready, bound, clear, -⟩ := ready
  refine endsAt_of_runS form sready bound ?_
  refine gives_bind.2 ⟨_, _, gives_acqClear clear, gives_bind.2 ⟨_, _, gives_sCoord s r imm w, gives_bind.2 ⟨_, _, acc, ?_⟩⟩⟩
  have rest : Gives (do
      opFencedRelease .s
      let k ← curCore
      let id := (← get).nextTag
      match ← opAtomic .s a op w (cmp k) (v k) sc o with
      | some bs =>
        setX d (leBV 64 (bs.take 8))
        if two then setX (d + 1) (leBV 64 (bs.drop 8))
      | none =>
        let ds := ((if two then [d, d + 1] else [d]).zipIdx).filter (·.1 != 0)
        modCur fun c => { c with pend := ds.map (fun n => (n.1, id, n.2)) ++ c.pend.filter (fun e => !ds.any (·.1 == e.1)) }
      return Next.seq) u' .seq (onCore (atomicWrites two d t.nextTag old) u) := by
    refine gives_bind.2 ⟨_, _, fenced, gives_bind.2 ⟨_, _, gives_curCore.2 ⟨rfl, rfl⟩, gives_bind.2 ⟨_, _, gives_get.2 ⟨rfl, rfl⟩,
      gives_bind.2 ⟨_, _, done, ?_⟩⟩⟩⟩
    cases old with
    | none => exact gives_bind.2 ⟨(), _, gives_modCur.2 rfl, gives_pure.2 ⟨rfl, rfl⟩⟩
    | some bs =>
      refine gives_bind.2 ⟨(), _, gives_setX.2 rfl, ?_⟩
      cases two with
      | false => exact gives_pure.2 ⟨rfl, rfl⟩
      | true => exact gives_bind.2 ⟨(), _, gives_setX.2 (State.modCore_modCore ..), gives_pure.2 ⟨rfl, rfl⟩⟩
  cases half : memRel o with
  | false =>
    rw [half] at release
    exact rest
  | true =>
    rw [half] at release
    exact gives_bind.2 ⟨_, _, release, rest⟩

theorem exec_amoForm (listed : amoForm i = some (op, w, sc, o, d, r, slot, imm)) (s : State) : exec i s = nx (amoOne op w sc o d r slot imm s) := by
  unfold amoForm at listed
  split at listed <;> cases listed <;> rfl

theorem amo_register (ready : AmoReady s w sc o srcs r slot imm a t) (q : BitVec 6) : (cur t).xr q = (cur s).xr q := by
  obtain ⟨u, readied, -⟩ := readies_of_amo ready
  exact readied.served.xr q

theorem word_widen (x : Word) : x.setWidth 128 = (x.toNat : BitVec 128) := by
  apply BitVec.eq_of_toNat_eq
  simp

end

/-- The signed reading of a number below 2^(8w), written out (R156). -/
theorem atomApply_eq {op : AtomOp} {w m cmp v n : Nat} (listed : atomValue op w m (cmp % 2 ^ (8 * w)) (v % 2 ^ (8 * w)) = some n) : atomApply op w m cmp v = n := by
  cases op with
  | add | and | or | xor | swap | smin | smax | cas => exact Option.some.inj listed
  | umin =>
    rw [← Option.some.inj listed]
    show min m (v % _) = _
    split <;> omega
  | umax =>
    rw [← Option.some.inj listed]
    show max m (v % _) = _
    split <;> omega
  | faddF32 | faddBF16 | fminF32 | fmaxF32 => exact nomatch listed

end Sys2Proof.Machine

namespace Sys2Proof.Isa

open Sys2Proof.Machine Sys2Proof.Stmt

/-- Settles O9. -/
theorem scalarLoadResults : Obligations.ScalarLoadResults := fun _ _ _ _ _ _ _ _ _ _ listed ready bound clear read => load_ends listed ready bound clear read

/-- Settles O10: each place that a store may have is one branch of its write. -/
theorem scalarStoreResults : Obligations.ScalarStoreResults := by
  intro i s t u w nt rel d r slot imm a place defer listed ready placed bs
  have plain : nt = false → a.d.nt = false → (nt || a.d.nt) = false := fun form tensor => by rw [form, tensor]; rfl
  refine ⟨fun form tensor pa here => ?_, fun form tensor pkg pa w' far crew room => ?_, fun form tensor absent v logged => ?_, fun nonTemporal w' crew v kept => ?_⟩
  · subst here
    exact store_ends listed ready (by rw [plain form tensor]; exact opWrite_here placed)
  · subst far
    exact store_ends listed ready (by rw [plain form tensor]; exact opWrite_far placed crew room)
  · subst absent
    exact store_ends listed ready (by rw [plain form tensor]; exact opWrite_logged placed logged)
  · have either : (nt || a.d.nt) = true := by simpa using nonTemporal
    exact store_ends listed ready (by rw [either]; exact opWrite_nt placed crew kept)

theorem scalarAtomics : ScalarAtomics := by
  intro i s t u op w sc o d r slot imm a listed ready
  have done : ∀ old, Gives (opAtomic .s a op w 0 ((cur s).xr (d + 1)).toNat sc o) t old u → EndsAt i s .s 1 (onCore (atomicWrites false d t.nextTag old) u) := fun old gives =>
    amo_ends (exec_amoForm listed s) ready (by rw [amo_register ready, word_widen]; exact gives)
  exact ⟨fun bs => done (some bs), done none⟩

theorem compareAndSwapResults : CompareAndSwapResults := by
  intro s t u cw sc o d r slot imm a q ready
  have same := fun n => amo_register ready n
  have done : ∀ {cmp v : Core → BitVec 128} {two : Bool},
      exec (.amoCas cw sc o d r slot imm) s = nx (amoS .cas q.1 sc o d r slot imm q.2.2.2 cmp v two s) → cmp (cur t) = q.2.1 → v (cur t) = q.2.2.1 →
      ∀ old, Gives (opAtomic .s a .cas q.1 q.2.1 q.2.2.1 sc o) t old u →
        EndsAt (.amoCas cw sc o d r slot imm) s .s 1 (onCore (atomicWrites two d t.nextTag old) u) := fun form comparand value old gives =>
    amo_ends form ready (by rw [comparand, value]; exact gives)
  cases cw with
  | w32 | w64 =>
    have pair := done (cmp := fun c => (c.xr d).setWidth 128) (v := fun c => (c.xr (d + 1)).setWidth 128) (two := false) rfl
      (congrArg (BitVec.setWidth 128) (same d)) (congrArg (BitVec.setWidth 128) (same (d + 1)))
    exact ⟨fun bs => pair (some bs), pair none⟩
  | w128 =>
    have pair := done (cmp := fun c => c.xr (d + 1) ++ c.xr d) (v := fun c => c.xr (d + 3) ++ c.xr (d + 2)) (two := true) rfl
      (congrArg₂ (· ++ ·) (same (d + 1)) (same d)) (congrArg₂ (· ++ ·) (same (d + 3)) (same (d + 2)))
    exact ⟨fun bs => pair (some bs), pair none⟩

theorem atomicValuesAtHome : AtomicValuesAtHome := by
  intro s t r bs n read _ _ listed
  unfold State.atomAt
  rw [read]
  dsimp only
  rw [atomApply_eq listed]

/-- Settles O12. -/
theorem atomicResults : Obligations.AtomicResults := ⟨scalarAtomics, compareAndSwapResults, atomicValuesAtHome⟩

end Sys2Proof.Isa

/-! PROOFS. The frames of the scalar stores, loads and atomics at a home in this package (R161, R355, R356). -/

namespace Sys2Proof.Machine

open Sys2Proof.Stmt

/-! ### Reads of a row and its expiry (R160, R164) -/

theorem State.expireRow_expired {s : State} (wf : s.memWf = true) {pa : Nat} (expired : s.expired pa = true) : (s.expireRow (rowOf pa)).expired pa = true := by
  obtain ⟨-, -, live, -⟩ := (State.memWf_iff s).1 wf
  unfold State.expired at expired ⊢
  obtain ⟨gain, -⟩ := (Bool.and_eq_true_iff).1 expired
  have dead : SMap.get false (s.expireRow (rowOf pa)).rowLive (rowOf pa) = false := by
    show SMap.get false (SMap.put false s.rowLive (rowOf pa) false) (rowOf pa) = false
    rw [SMap.get_put _ _ _ _ _ live, if_pos rfl]
  rw [gain, dead]
  rfl

/-- A read leaves its row as it was: expired or not. -/
theorem State.bankRead_expired {s : State} (wf : s.memWf = true) (pa n : Nat) : (s.bankRead pa n).1.expired pa = s.expired pa := by
  unfold State.bankRead
  split
  · next expired =>
    rw [expired]
    dsimp only
    split
    · exact State.expireRow_expired wf expired
    · exact State.expireRow_expired wf expired
  · exact State.meet_keeps (P := fun t => t.expired pa = s.expired pa) s pa n rfl fun t a e kept => by cases e <;> exact kept

/-! ### Atomics at their home -/

section
variable {α : Type} {s t u v : State} {a b : α}

theorem gives_unique {x : Op α} (one : Gives x s a t) (other : Gives x s b u) : a = b ∧ t = u := (gives_of_ok one).1 other

theorem State.atomAt_data {r : AtomReq} {bs : List Byte} (found : (s.atomAt r).2 = .data bs) :
    ∃ n, (s.atomAt r).1 = (s.bankRead r.pa r.w).1.bankWrite r.pa (leBytes r.w n) := by
  unfold State.atomAt at found ⊢
  rcases read : s.bankRead r.pa r.w with ⟨t, f⟩
  rw [read] at found
  cases f with
  | data bs => exact ⟨_, rfl⟩
  | poison | stale => exact nomatch found

/-- An atomic that is performed at its home in this package. -/
theorem opAtomic_here {k : Strand} {a : Acc} {op : AtomOp} {w pa : Nat} {cmp x : BitVec 128} {scope : Scope} {ord : MemOrd} {defer : Bool} {bs : List Byte}
    (first : Gives (farAsked k atomKey) t none t) (place : Gives (storePlace k a 2) t (some (.inl pa), defer) u)
    (done : Gives (opAtomic k a op w cmp x scope ord) t (some bs) v) : ∃ n, v = (u.bankRead pa w).1.bankWrite pa (leBytes w n) := by
  unfold opAtomic at done
  rw [gives_bind] at done
  obtain ⟨asked, _, again, done⟩ := done
  obtain ⟨rfl, rfl⟩ := gives_unique first again
  simp only [gives_bind, gives_curCrew] at done
  obtain ⟨_, _, ⟨-, rfl⟩, _, _, placed, done⟩ := done
  obtain ⟨rfl, rfl⟩ := gives_unique place placed
  simp only [gives_bind, gives_get, gives_set] at done
  obtain ⟨_, _, ⟨rfl, rfl⟩, _, _, rfl, done⟩ := done
  split at done
  · next found =>
    obtain ⟨-, rfl⟩ := gives_pure.1 done
    exact State.atomAt_data found
  · exact absurd done gives_flt
  · rw [gives_bind] at done
    obtain ⟨_, _, -, stale⟩ := done
    exact absurd stale gives_flt

end

/-! ### The frames -/

section
variable {k : Strand} {c e : Core} {s t u x : State} {f : Core → Core}

theorem Core.xr_count (c : Core) (src n : Nat) (q : BitVec 6) : (c.count src n).xr q = c.xr q := by simp [Core.xr]

theorem Core.Served.fields (same : c.Served .s e) :
    e.p = c.p ∧ e.v = c.v ∧ e.masks = c.masks ∧ e.shape = c.shape ∧ e.ms = c.ms ∧ e.xs = c.xs := by
  obtain ⟨descs, tcs, tok, ev, st, second, rfl, other⟩ := same
  rw [other (by decide)]
  exact ⟨rfl, rfl, rfl, rfl, rfl, rfl⟩

/-- An instruction that has left its core but for its bookkeeping, and written some registers, ends. -/
theorem finish_served (served : s.Served k t) (free : Untraced s) (len : Nat) (crew : (f (cur t)).crew = (cur t).crew) (trace : (f (cur t)).trace = (cur t).trace) :
    (onCore f t).Kept k (finish s.cur k len (onCore f t)) := by
  have acts : s.cur = (onCore f t).cur := served.cur.symm
  rw [acts]
  exact State.Kept.finish (untraced_modCore (untraced_of_served free served) crew trace) k len

/-- The frame of a form that writes one x register, and no storage but what it has. -/
theorem register_frame (served : s.Served .s t) (free : Untraced s) (d : BitVec 6) (v : Word) :
    let n := finish s.cur .s 1 (onCore (fun c => c.setX d v) t)
    ((∀ q, q ≠ d → (cur n).xr q = (cur s).xr q) ∧ (cur n).p = (cur s).p ∧ (cur n).v = (cur s).v ∧ (cur n).masks = (cur s).masks ∧
      (cur n).shape = (cur s).shape ∧ (cur n).ms = (cur s).ms ∧ (cur n).xs = (cur s).xs ∧ ∀ c : BitVec 7, c ≠ s.cur → ∃ ev, n.core c = { s.core c with ev := ev }) ∧
    n.mem = t.mem := by
  intro n
  have kept := finish_served (f := fun c => c.setX d v) served free 1 (by simp) (by simp)
  have acts : n.cur = s.cur := kept.cur.trans served.cur
  have ended : ((cur t).setX d v).Served .s (cur n) := by
    have done := kept.served.acts
    rw [show (onCore (fun c => c.setX d v) t).core (onCore (fun c => c.setX d v) t).cur = (cur t).setX d v from cur_onCore ..] at done
    rw [show cur n = n.core (onCore (fun c => c.setX d v) t).cur from congrArg n.core kept.cur]
    exact done
  have before : (cur s).Served .s (cur t) := by
    rw [show cur t = t.core s.cur from congrArg t.core served.cur]
    exact served.acts
  obtain ⟨p, v', masks, shape, ms, xs⟩ := ended.fields
  obtain ⟨p0, v0, masks0, shape0, ms0, xs0⟩ := before.fields
  refine ⟨⟨fun q other => ?_, ?_, ?_, ?_, ?_, ?_, ?_, fun c other => ?_⟩, kept.sameMem.mem⟩
  · rw [ended.xr, Core.xr_setX, if_neg (fun h : q = d ∧ d ≠ 0 => other h.1), before.xr]
  · rw [p, Core.setX_p, p0]
  · rw [v', Core.setX_v, v0]
  · rw [masks, Core.setX_masks, masks0]
  · rw [shape, Core.setX_shape, shape0]
  · rw [ms, Core.setX_ms, ms0]
  · rw [xs, Core.setX_xs, xs0]
  · have apart : c ≠ t.cur := fun same => other (same.trans served.cur)
    obtain ⟨ev, first⟩ := served.others c other
    obtain ⟨ev', last_⟩ := kept.served.others c apart
    refine ⟨ev', ?_⟩
    rw [last_, show (onCore (fun c => c.setX d v) t).core c = t.core c from State.core_modCore_ne _ _ apart, first]

/-- Bytes outside a write at its home, after it: the rest of an expired row reads as zero (R161). -/
theorem byte_outside (wf : s.memWf = true) {pa w n : Nat} {a : Nat} (outside : a < pa ∨ pa + w ≤ a) :
    SMap.get 0 (s.bankWrite pa (leBytes w n)).mem a = if s.expired pa = true ∧ rowOf a = rowOf pa then 0 else SMap.get 0 s.mem a := by
  rw [State.bankWrite_byte _ _ _ _ wf, leBytes_length, if_neg (by omega)]

/-- The little-endian bytes of a number (R5). -/
theorem leBytes_getD : ∀ {w n j : Nat}, j < w → (leBytes w n).getD j 0 = BitVec.ofNat 8 (n / 256 ^ j)
  | w + 1, n, 0, _ => by simp [leBytes]
  | w + 1, n, j + 1, inside => by
    rw [leBytes, List.getD_cons_succ, leBytes_getD (Nat.lt_of_succ_lt_succ inside), Nat.div_div_eq_div_mul, Nat.pow_succ']

/-- Bytes within it: those of the number that is written (R5). -/
theorem byte_inside (wf : s.memWf = true) {pa w n j : Nat} (inside : j < w) :
    SMap.get 0 (s.bankWrite pa (leBytes w n)).mem (pa + j) = BitVec.ofNat 8 (n / 256 ^ j) := by
  rw [State.bankWrite_byte _ _ _ _ wf, leBytes_length, if_pos (by omega), Nat.add_sub_cancel_left, leBytes_getD inside]

end

end Sys2Proof.Machine

namespace Sys2Proof.Isa

open Sys2Proof.Machine Sys2Proof.Stmt

/-- Settles O11: nothing but the write at its home changes storage. -/
theorem scalarStoreFrame : Obligations.ScalarStoreFrame := by
  intro i s t u v w rel d r slot imm a pa defer listed ready tensor free wf placed runs
  obtain ⟨_, readied, -⟩ := readies_of_store ready
  have reads := reads_storePlace placed
  have served : s.Served .s (u.bankWrite pa (leBytes w ((cur s).xr d).toNat)) :=
    readied.served.trans ((reads.toAccessed.served .s).trans ((State.Accessed.bankWrite ..).served .s))
  have ends := (scalarStoreResults i s t u w false rel d r slot imm a _ defer listed ready placed).1 rfl tensor pa rfl
  have acts : (u.bankWrite pa (leBytes w ((cur s).xr d).toNat)).cur = u.cur := (State.Accessed.bankWrite ..).cur
  have kept := finish_served (f := fun c => c.count (if pa < shmBase then 29 else if pa < scrBase then 27 else 25) 1) served free 1 (by simp) (by simp)
  obtain rfl := Host.Outcome.next.inj (runs.symm.trans ends)
  rw [← acts]
  have before := readied.sameMem.trans reads.sameMem
  have mem := kept.sameMem.mem
  refine ⟨fun x outside => ?_, fun j inside => ?_, fun q => ?_⟩
  · exact (congrArg (SMap.get 0 · x) mem).trans ((byte_outside (before.wf wf) outside).trans (by rw [before.mem]; rfl))
  · exact (congrArg (SMap.get 0 · (pa + j)) mem).trans (byte_inside (before.wf wf) inside)
  · exact (kept.served.xr q).trans (by rw [cur_onCore, Core.xr_count, served.xr])

/-- Settles O59. -/
theorem loadAndAtomicFrame : Obligations.LoadAndAtomicFrame := by
  intro i s t u n w d r slot imm free runs same
  refine ⟨fun sgn bs listed ready bound clear read => ?_, fun op sc o a pa defer bs v listed ready first place done wf => ?_⟩
  · obtain rfl := Host.Outcome.next.inj (runs.symm.trans (load_ends listed ready bound clear read))
    have reads := reads_readLin read
    have issued := State.Kept.issueHeld s .s noTok
    have frame := register_frame (issued.served.trans (reads.toAccessed.served .s)) free d (loadValue sgn w bs)
    exact ⟨frame.1, fun x => congrArg (SMap.get 0 · x) (frame.2.trans (issued.sameMem.trans reads.sameMem).mem)⟩
  · obtain rfl := Host.Outcome.next.inj (runs.symm.trans ((scalarAtomics i s t v op w sc o d r slot imm a listed ready).1 bs done))
    obtain ⟨_, readied, -⟩ := readies_of_amo ready
    obtain ⟨x, rfl⟩ := opAtomic_here first place done
    have reads := (reads_storePlace place).trans (State.Reads.bankRead u pa w)
    have before := readied.sameMem.trans (reads_storePlace place).sameMem
    have served := readied.served.trans ((reads.toAccessed.served .s).trans ((State.Accessed.bankWrite _ pa (leBytes w x)).served .s))
    have frame := register_frame served free d (leBV 64 (bs.take 8))
    refine ⟨frame.1, fun y outside => ?_⟩
    refine (congrArg (SMap.get 0 · y) frame.2).trans ((byte_outside (State.bankRead_memWf u pa w (before.wf wf)) outside).trans ?_)
    rw [State.bankRead_expired (before.wf wf), State.bankRead_mem, before.mem]
    rfl

end Sys2Proof.Isa

/-! PROOFS. Fences, `mwait` and tokens (R196, R200, R357, R361, R362). -/

namespace Sys2Proof.Machine

open Sys2Proof.Stmt

@[simp] theorem State.dropWaits_core (s : State) (c d : BitVec 7) (k : Strand) : (s.dropWaits c k).core d = s.core d := congrArg (·[d.toFin]) (State.dropWaits_cores s c k)

@[simp] theorem sIssued_cur (s : State) : (sIssued s).cur = s.cur := State.issueHeld_cur ..

/-! ### Fences -/

section
variable {s t u : State} {sc : Scope}

/-- The next store or atomic of S becomes a release (R200). -/
def releaseNext (sc : Scope) (c : Core) : Core := c.setStr .s { (c.str .s) with relNext := some (scopeWider ((c.str .s).relNext.getD .core) sc) }

theorem gives_fenceRelOp (narrow : sc ≠ .sys) : Gives (fenceRelOp sc) s () (onCore (releaseNext sc) s) := by
  unfold fenceRelOp
  rw [if_neg (by simpa using narrow)]
  exact gives_modCur.2 rfl

theorem gives_fenceRelOp_sys (released : Gives (opRelease .sys) s () s) : Gives (fenceRelOp .sys) s () (onCore (releaseNext .sys) s) :=
  gives_bind.2 ⟨(), _, released, gives_modCur.2 rfl⟩

/-- A release that is done at one scope is done again at once; so the REL half of a full fence waits for nothing more. -/
theorem gives_fenceRelOp_released (released : Gives (opRelease sc) s () s) : Gives (fenceRelOp sc) s () (onCore (releaseNext sc) s) := by
  by_cases wide : sc = .sys
  · subst wide; exact gives_fenceRelOp_sys released
  · exact gives_fenceRelOp wide

theorem gives_fenceAcqOp (returned : (cur s).sAtomics = []) : Gives fenceAcqOp (sIssued s) () (sIssued s) := by
  refine gives_bind.2 ⟨_, _, gives_curCore.2 ⟨rfl, rfl⟩, gives_holdUnless.2 ⟨?_, rfl⟩⟩
  rw [cur_sIssued]
  exact congrArg List.isEmpty returned

theorem passes_pure : Passes (pure ()) s := rfl

end

/-! ### `mwait` -/

theorem reads_placeOf {a : Acc} {s t : State} {p : Option Nat} (gives : Gives (placeOf a) s p t) : s = t := by
  unfold placeOf at gives
  simp only [gives_bind, gives_curCrew, gives_get] at gives
  obtain ⟨_, _, ⟨-, rfl⟩, _, _, ⟨rfl, rfl⟩, gives⟩ := gives
  split at gives <;> exact (gives_pure.1 gives).2

/-- An operation whose first part answers goes on with its second. -/
theorem run_of_gives {α β : Type} {x : Op α} {f : α → Op β} {s t : State} {a : α} (gives : Gives x s a t) : (x >>= f).run s = (f a).run t :=
  Op.run_bind_ok gives

section
variable {s t u v : State} {sc : Scope} {d r : BitVec 6} {slot imm : BitVec 5} {a : Acc} {bs : List Byte}

theorem mwait_moved (ready : SReady [r, d] s) (bound : Passes (slotBound slot) s) (clear : NoAcquire s)
    (operand : Gives (linAcc slot (coordOf s r imm 16) 16 16) (sIssued s) a t) (read : Gives (opRead .s a 16) t bs u)
    (moved : (leBV 32 ((bs.drop 8).take 4) : W32) ≠ BitVec.ofNat 32 ((cur s).xr d).toNat) : EndsAt (.mwait sc d r slot imm) s .s 1
      (onCore (fun c => { c with monitor := none }) (onCore (fun c => c.setX d (BitVec.ofNat 64 (leBV 32 ((bs.drop 8).take 4) : W32).toNat)) u)) := by
  have served : s.Served .s u := (State.Kept.issueHeld s .s noTok).served.trans (((reads_linAcc operand).trans (reads_opRead read)).toAccessed.served .s)
  refine endsAt_of_runS rfl ready bound ?_
  rw [run_of_gives (gives_acqClear clear), run_of_gives (gives_sCoord s r imm 16), run_of_gives operand, run_of_gives read, run_of_gives (gives_xr.2 ⟨rfl, rfl⟩),
    served.xr, if_pos (by rw [bne_iff_ne, ← BitVec.ofNat_toNat]; exact moved)]
  rw [BitVec.ofNat_toNat]
  rfl

theorem mwait_waits {pa : Nat} (ready : SReady [r, d] s) (bound : Passes (slotBound slot) s) (clear : NoAcquire s)
    (operand : Gives (linAcc slot (coordOf s r imm 16) 16 16) (sIssued s) a t) (read : Gives (opRead .s a 16) t bs u)
    (same : (leBV 32 ((bs.drop 8).take 4) : W32) = BitVec.ofNat 32 ((cur s).xr d).toNat) (place : Gives (placeOf a) u (some pa) v) :
    ∃ n, exec (.mwait sc d r slot imm) s = .next n ∧ (cur n).monitor = some (pa, 0) ∧ (((cur n).str .s).held.map (·.notBefore)) = some (u.time + 4000) := by
  have served : s.Served .s u := (State.Kept.issueHeld s .s noTok).served.trans (((reads_linAcc operand).trans (reads_opRead read)).toAccessed.served .s)
  obtain rfl := reads_placeOf place
  refine ⟨_, execS_holds (t := (onCore (fun c => { c with monitor := some (pa, 0) }) u).dropWaits u.cur .s) (n := u.time + 4000) rfl ready bound ?_, ?_, ?_⟩
  · rw [run_of_gives (gives_acqClear clear), run_of_gives (gives_sCoord s r imm 16), run_of_gives operand, run_of_gives read, run_of_gives (gives_xr.2 ⟨rfl, rfl⟩),
      served.xr, if_neg (by rw [bne_iff_ne, ← BitVec.ofNat_toNat]; exact not_not_intro same), run_of_gives place]
    show (Except.error (Stop.hold ((State.dropWaits _ u.cur .s).time + 4000)), _) = _
    rw [State.dropWaits_time]
    rfl
  · simp [Stmt.cur, onCore, served.cur, State.keepHeld]
  · simp [Stmt.cur, onCore, served.cur, State.keepHeld]

end

/-! ### What the end of an instruction keeps besides its entry (R95, R354, R462) -/

/-- A relation between two states that no operation breaks which a pc that moves on is made of: the records of traces and faults, changes of cores that keep tokens and
yield requests, and the halt line. -/
structure EndKeeps (R : State → State → Prop) : Prop where
  refl   : ∀ s, R s s
  trans  : ∀ {s t u}, R s t → R t u → R s u
  record : ∀ s p r, R s (s.writeRecord p r)
  linear : ∀ {s t : State} {part : BitVec 5} {ctx : BitVec 3} {addr : Nat} {bs : List Byte}, s.linWrite part ctx addr bs = .ok t → R s t
  core   : ∀ s c f, (f (State.core s c)).tok = (State.core s c).tok → (f (State.core s c)).yld = (State.core s c).yld → R s (State.modCore s c f)
  line   : ∀ s p cause, R s (State.raiseLine s p cause)

/-- What the operations of a record keep, the records keep. -/
theorem EndKeeps.of_record {R : State → State → Prop} (refl : ∀ s, R s s) (trans : ∀ {s t u}, R s t → R t u → R s u) (record : ∀ s, RecordKeeps (R s))
    (core : ∀ s c f, (f (State.core s c)).tok = (State.core s c).tok → (f (State.core s c)).yld = (State.core s c).yld → R s (State.modCore s c f))
    (line : ∀ s p cause, R s (State.raiseLine s p cause)) : EndKeeps R :=
  ⟨refl, trans, fun s p r => (record s).writeRecord (refl s) p r, fun {s} _ _ _ _ _ written => (record s).linWrite (refl s) written, core, line⟩

section
variable {R : State → State → Prop} (keeps : EndKeeps R) (s : State) (c : BitVec 7) (k : Strand) (pc : W32)
include keeps

theorem EndKeeps.setStr (st : StrandSt) : R s (s.modCore c fun q => q.setStr k st) := keeps.core _ _ _ rfl rfl

theorem EndKeeps.takeFault (word : W32) (f : FaultInfo) : R s (s.takeFault c k pc word f) := by
  unfold State.takeFault
  split
  · exact keeps.refl s
  · have stands := fun r p st => keeps.trans (keeps.record s p r) (keeps.setStr (s.writeRecord p r) c k st)
    dsimp only
    split
    · exact keeps.trans (stands ..) (keeps.line ..)
    · exact stands ..

theorem EndKeeps.traceEvent (kind : Nat) : R s (s.traceEvent c k kind pc) := by
  unfold State.traceEvent
  split
  · exact keeps.refl s
  · refine List.foldlRecOn (motive := R s) _ _ (keeps.refl s) fun t kept h _ => keeps.trans kept ?_
    dsimp only
    split
    · split
      · exact keeps.refl t
      · split
        · next written => exact keeps.trans (keeps.linear written) (keeps.core _ _ _ rfl rfl)
        · exact keeps.trans (keeps.core t _ _ rfl rfl) (keeps.takeFault ..)
    · exact keeps.refl t

theorem EndKeeps.loopExit : R s (s.loopExit c k pc) := by
  unfold State.loopExit
  dsimp only
  split
  · exact keeps.traceEvent ..
  · exact keeps.trans (keeps.traceEvent ..) (keeps.core _ _ _ rfl rfl)

/-- So a pc that moves on, through the ends of loops, keeps it. -/
theorem EndKeeps.advance (len : Nat) : R s (s.advance c k pc len) := by
  unfold State.advance iter
  exact List.foldlRecOn (motive := R s) _ _ (keeps.core _ _ _ rfl rfl) fun t kept n _ => keeps.trans kept (keeps.loopExit ..)

end

/-! ### Tokens -/

/-- The same core acts, and every token counter is as it was. -/
def SameTokens (s t : State) : Prop := t.cur = s.cur ∧ ∀ c, (t.core c).tok = (s.core c).tok

section
variable {s t u : State}

theorem SameTokens.refl (s : State) : SameTokens s s := ⟨rfl, fun _ => rfl⟩

theorem SameTokens.trans (first : SameTokens s t) (next : SameTokens t u) : SameTokens s u :=
  ⟨next.1.trans first.1, fun c => (next.2 c).trans (first.2 c)⟩

theorem State.OnlyCounters.sameTokens (after : s.OnlyCounters t) : SameTokens s t := by
  refine ⟨after.cur, fun c => ?_⟩
  obtain ⟨ev, same⟩ := after.core c
  rw [same]

theorem sameTokens_modCore {c : BitVec 7} {f : Core → Core} (same : (f (s.core c)).tok = (s.core c).tok) : SameTokens s (s.modCore c f) := by
  refine ⟨rfl, fun d => ?_⟩
  by_cases is : d = c
  · rw [is, State.core_modCore, same]
  · rw [State.core_modCore_ne _ _ is]

theorem sameTokens_raiseLine (s : State) (p : BitVec 5) (cause : Nat) : SameTokens s (s.raiseLine p cause) := by
  obtain ⟨-, acts, cores⟩ := State.raiseLine_halts s p cause
  refine ⟨acts, fun c => ?_⟩
  obtain ⟨y, same⟩ := cores c
  rw [same]

/-- The end of an instruction leaves the token counters, but for what it posts. -/
theorem endKeeps_sameTokens : EndKeeps SameTokens :=
  .of_record .refl .trans (fun _ => {
    read kept pa n := kept.trans (State.onlyCounters_bankRead _ pa n).sameTokens
    write kept pa bs := kept.trans (State.onlyCounters_bankWrite _ pa bs).sameTokens
    wait kept _ _ _ _ := kept
    log kept _ _ := kept
    msix kept f v := kept.trans (State.onlyCounters_sendMsix _ f v).sameTokens
    part kept _ _ := kept }) (fun _ _ _ tok _ => sameTokens_modCore tok) sameTokens_raiseLine

end

theorem Core.tokAt_setTok {i n : Nat} (c : Core) (inside : i < 12) (fits : n ≤ 63) : (c.setTok i n).tokAt i = n := by
  unfold Core.setTok Core.tokAt
  rw [dif_pos inside]
  simp only [List.getD_eq_getElem?_getD, Vector.getElem?_toList, Vector.getElem?_set_self inside]
  simp only [Option.getD_some, BitVec.toNat_ofNat]
  omega

theorem Core.tokAt_congr {c e : Core} (same : e.tok = c.tok) (i : Nat) : e.tokAt i = c.tokAt i := by unfold Core.tokAt; rw [same]

theorem Core.freeEntry_tok (c : Core) (k : Strand) : (c.freeEntry k).tok = c.tok := by unfold Core.freeEntry; split <;> rfl

theorem Core.freeEntry_held (c : Core) (k : Strand) : ((c.freeEntry k).str k).held = if k = .m then c.ms.second else none := by
  unfold Core.freeEntry
  split
  · next m =>
    subst m
    show ((c.setStr .m _).str .m).held = _
    rw [Core.str_setStr]
  · rw [Core.str_setStr]

section
variable {s t : State} {c : BitVec 7} {k : Strand} {h : Held} {i n len : Nat}

theorem State.countRetired_core (s : State) (c d : BitVec 7) (k : Strand) : ∃ ev, (s.countRetired c k).core d = { s.core d with ev := ev } :=
  (State.onlyCounters_count s c (strandFin k).val 1).core d

/-- An instruction whose counter has room posts its token and frees its entry (R194, R287). -/
theorem State.finishPost_fits (post : h.post = some (i, n)) (fits : (s.core c).tokAt i + n ≤ 63) :
    s.finishPost c k h = s.modCore c fun r => (r.setTok i (r.tokAt i + n)).freeEntry k :=
  State.modCore_congr (by rw [post]; exact if_pos fits)

/-- One whose counter has none keeps its entry. -/
theorem State.finishPost_full (post : h.post = some (i, n)) (full : 63 < (s.core c).tokAt i + n) :
    s.finishPost c k h = s.modCore c fun r => r.setStr k { (r.str k) with held := some { h with progress := .all } } :=
  State.modCore_congr (by rw [post]; exact if_neg (by omega))

/-- S moves on past an instruction without a successor of its own. -/
theorem State.complete_s (next : h.next = none) : s.complete c .s h len .seq = (((s.advance c .s h.pc len).dropWaits c .s).finishPost c .s h).countRetired c .s := by
  unfold State.complete
  rw [Core.behind_of_ne (by decide)]
  simp only [next, Bool.false_eq_true, if_false]

end

/-- The entry of `tok.post` once its strand's atomics have returned: what it will post (R361). -/
def Held.posts (st : BitVec 2) (n : BitVec 6) (h : Held) : Held := { h with post := some (tokIdx .s st.toNat, n.toNat) }

/-- The state in which `tok.post` completes. -/
def tokenPosting (st : BitVec 2) (n : BitVec 6) (s : State) : State := onCore (fun c => c.setStr .s { (c.str .s) with held := some ((c.heldOf .s).posts st n) }) (sIssued s)

/-- `tok.post` ends by posting from a state whose counters are those at its issue. -/
theorem tokPost_ends {s : State} (ready : SReady [] s) (st : BitVec 2) (n : BitVec 6) (returned : (cur s).sAtomics = []) :
    ∃ u, SameTokens s u ∧
      exec (.tokPost st n) s = .next ((u.finishPost s.cur .s ((s.newHeld .s noTok).posts st n)).countRetired s.cur .s) := by
  have core : cur (tokenPosting st n s) = (cur s).setStr .s { ((cur s).str .s) with held := some ((s.newHeld .s noTok).posts st n) } := by
    unfold tokenPosting
    rw [cur_onCore, cur_sIssued]
    simp [Core.heldOf]
  have entry : ((tokenPosting st n s).core s.cur).heldOf .s = (s.newHeld .s noTok).posts st n := by
    rw [← show (tokenPosting st n s).cur = s.cur from sIssued_cur s, ← Stmt.cur, core]
    simp [Core.heldOf]
  have ends : EndsAt (.tokPost st n) s .s 1 (tokenPosting st n s) := endsAt_of_runS rfl ready passes_pure (run_of_gives (gives_fenceAcqOp returned))
  unfold EndsAt finish at ends
  rw [entry, State.complete_s rfl] at ends
  have posting : SameTokens s (tokenPosting st n s) := by
    rw [tokenPosting, sIssued_eq]
    exact (sameTokens_modCore (s := s) rfl).trans (sameTokens_modCore rfl)
  have moved := posting.trans (endKeeps_sameTokens.advance (tokenPosting st n s) s.cur .s ((s.newHeld .s noTok).posts st n).pc 1)
  exact ⟨_, ⟨(State.dropWaits_cur ..).trans moved.1, fun c => (congrArg Core.tok (State.dropWaits_core ..)).trans (moved.2 c)⟩, ends⟩

/-- What posting has left of a core that has been counted. -/
theorem cur_posted {s u : State} (acts : u.cur = s.cur) {f : Core → Core} (k : Strand) :
    ∃ ev, cur ((u.modCore s.cur f).countRetired s.cur k) = { f (u.core s.cur) with ev := ev } := by
  obtain ⟨ev, same⟩ := State.countRetired_core (u.modCore s.cur f) s.cur s.cur k
  refine ⟨ev, ?_⟩
  rw [show cur ((u.modCore s.cur f).countRetired s.cur k) = ((u.modCore s.cur f).countRetired s.cur k).core s.cur from congrArg _ acts, same, State.core_modCore]

theorem tokIdx_s_lt {st : BitVec 2} : tokIdx .s st.toNat < 12 := by
  have small := st.isLt
  show 3 * 0 + st.toNat - 1 < 12
  omega

end Sys2Proof.Machine

namespace Sys2Proof.Isa

open Sys2Proof.Machine Sys2Proof.Stmt

theorem fenceResults : FenceResults := by
  intro s t sc ready mark
  refine ⟨fun narrow => ?_, fun wide released => ?_, fun returned => ?_, fun returned released => ?_, fun released => ?_⟩
  · exact endsAt_of_runS rfl ready passes_pure ((run_of_gives (gives_fenceRelOp narrow)).trans rfl)
  · subst wide
    obtain rfl := reads_opRelease released
    exact endsAt_of_runS rfl ready passes_pure ((run_of_gives (gives_fenceRelOp_sys released)).trans rfl)
  · exact endsAt_of_runS rfl ready passes_pure ((run_of_gives (gives_fenceAcqOp returned)).trans rfl)
  · obtain rfl := reads_opRelease released
    refine endsAt_of_runS rfl ready passes_pure ?_
    rw [run_of_gives (gives_fenceAcqOp returned), run_of_gives released, run_of_gives (gives_fenceRelOp_released released)]
    rfl
  · exact endsAt_of_runS rfl ready passes_pure ((run_of_gives released).trans rfl)

/-- Settles O13. -/
theorem fenceAndMwaitResults : Obligations.FenceAndMwaitResults := by
  refine ⟨fenceResults, ?_⟩
  intro s t u sc d r slot imm a bs ready bound clear operand read g
  refine ⟨fun moved => ?_, fun same pa v place => ?_⟩
  · exact mwait_moved ready bound clear operand read moved
  · exact mwait_waits ready bound clear operand read same place

/-- Settles O15: the counter that a post finds is the one at its issue, whatever trace records its end leaves. -/
theorem tokenForms : Obligations.TokenForms := by
  intro s st n ready
  refine ⟨fun enough => ?_, fun short => congrArg nx (if_pos short), fun named returned fits => ?_, fun named returned full => ?_,
    fun core k h i m entry done post inside fits => ?_⟩
  · exact endsAt_of_runS (congrArg nx (if_neg (Nat.not_lt.2 enough))) ready passes_pure rfl
  · obtain ⟨u, ⟨acts, tokens⟩, ends⟩ := tokPost_ends ready st n returned
    have tok := Core.tokAt_congr (tokens s.cur) (tokIdx .s st.toNat)
    rw [State.finishPost_fits rfl (by rw [tok]; exact fits)] at ends
    obtain ⟨ev, posted⟩ := cur_posted acts (f := fun r => (r.setTok (tokIdx .s st.toNat) (r.tokAt (tokIdx .s st.toNat) + n.toNat)).freeEntry .s) .s
    refine ⟨_, ends, ?_, fun _ => ?_⟩
    · rw [posted]
      exact Core.freeEntry_held _ .s
    · rw [posted]
      exact (Core.tokAt_congr (Core.freeEntry_tok ..) _).trans ((Core.tokAt_setTok _ tokIdx_s_lt (by rw [tok]; exact fits)).trans (congrArg (· + n.toNat) tok))
  · obtain ⟨u, ⟨acts, tokens⟩, ends⟩ := tokPost_ends ready st n returned
    have tok := Core.tokAt_congr (tokens s.cur) (tokIdx .s st.toNat)
    rw [State.finishPost_full rfl (by rw [tok]; exact full)] at ends
    obtain ⟨ev, posted⟩ := cur_posted acts (f := fun r => r.setStr .s { (r.str .s) with held := some { (s.newHeld .s noTok).posts st n with progress := .all } }) .s
    refine ⟨_, { (s.newHeld .s noTok).posts st n with progress := .all }, ends, ?_, rfl, rfl⟩
    rw [posted]
    exact congrArg StrandSt.held (Core.str_setStr ..)
  · refine ⟨(s.modCore core fun r => (r.setTok i (r.tokAt i + m)).freeEntry k), ?_, ?_, ?_⟩
    · rw [← State.finishPost_fits post fits]
      show execInstructionFinish core k s = _
      unfold execInstructionFinish
      rw [entry]
      exact congrArg nx (if_pos (beq_iff_eq.2 done))
    · rw [State.core_modCore, Core.freeEntry_held]
      simp
    · rw [State.core_modCore]
      exact (Core.tokAt_congr (Core.freeEntry_tok ..) _).trans (Core.tokAt_setTok _ inside fits)

end Sys2Proof.Isa

/-! PROOFS. Groups and their phases (R103, R104, R201, R358 to R360). -/

namespace Sys2Proof.Machine

open Sys2Proof.Stmt

/-! ### Fields of a table entry -/

/-- The number of two vectors side by side. -/
theorem toNat_beside {m n : Nat} (x : BitVec m) (y : BitVec n) : (x ++ y).toNat = x.toNat * 2 ^ n + y.toNat := by
  rw [BitVec.toNat_append, ← Nat.shiftLeft_add_eq_or_of_lt y.isLt, Nat.shiftLeft_eq]

theorem toNat_flag (b : Bool) : (if b then (1 : BitVec 1) else 0).toNat = b.toNat := by cases b <;> rfl

theorem getLsbD_eq_odd {n : Nat} (x : BitVec n) (i : Nat) : x.getLsbD i = decide (x.toNat / 2 ^ i % 2 = 1) := by
  rw [← BitVec.testBit_toNat, Nat.testBit_eq_decide_div_mod_eq]

/-- The number of a group's entry (R103). -/
theorem Grp.bits_toNat (g : Grp) : g.bits.toNat = g.size % 2 ^ 8 + g.joined % 2 ^ 8 * 2 ^ 8 + g.done % 2 ^ 8 * 2 ^ 16 + g.arrived % 2 ^ 8 * 2 ^ 24 +
    g.phase.toNat * 2 ^ 32 + g.ctx.toNat * 2 ^ 64 + g.inuse.toNat * 2 ^ 67 := by
  unfold Grp.bits
  simp only [toNat_beside, toNat_flag, BitVec.toNat_ofNat, show (0 : BitVec 60).toNat = 0 from rfl]
  omega

section
variable (g : Grp)

theorem Grp.ofBits_bits_inuse : (Grp.ofBits g.bits).inuse = g.inuse := by
  have phase := g.phase.isLt
  have ctx := g.ctx.isLt
  show g.bits.getLsbD 67 = g.inuse
  rw [getLsbD_eq_odd, Grp.bits_toNat]
  cases g.inuse
  · simp only [Bool.toNat_false, decide_eq_false_iff_not]; omega
  · simp only [Bool.toNat_true, decide_eq_true_eq]; omega

theorem Grp.ofBits_bits_phase : (Grp.ofBits g.bits).phase = g.phase := by
  have phase := g.phase.isLt
  apply BitVec.eq_of_toNat_eq
  show (g.bits.extractLsb' 32 32).toNat = _
  rw [BitVec.extractLsb'_toNat, Nat.shiftRight_eq_div_pow, Grp.bits_toNat]
  omega

theorem Grp.ofBits_bits_ctx : (Grp.ofBits g.bits).ctx = g.ctx := by
  have phase := g.phase.isLt
  have ctx := g.ctx.isLt
  apply BitVec.eq_of_toNat_eq
  show (g.bits.extractLsb' 64 3).toNat = _
  rw [BitVec.extractLsb'_toNat, Nat.shiftRight_eq_div_pow, Grp.bits_toNat]
  omega

/-- An entry whose counts fit their fields comes back from its bits. -/
theorem Grp.ofBits_bits (arrived : g.arrived < 2 ^ 8) (done : g.done < 2 ^ 8) (joined : g.joined < 2 ^ 8) (size : g.size < 2 ^ 8) : Grp.ofBits g.bits = g := by
  have phase := g.phase.isLt
  have fields : fld g.bits 24 8 = g.arrived ∧ fld g.bits 16 8 = g.done ∧ fld g.bits 8 8 = g.joined ∧ fld g.bits 0 8 = g.size := by
    unfold fld
    rw [Grp.bits_toNat]
    omega
  obtain ⟨a, b, c, d⟩ := fields
  have inuse := g.ofBits_bits_inuse
  have ctx := g.ofBits_bits_ctx
  have is := g.ofBits_bits_phase
  show (⟨(Grp.ofBits g.bits).inuse, (Grp.ofBits g.bits).ctx, (Grp.ofBits g.bits).phase, _, _, _, _⟩ : Grp) = g
  rw [inuse, ctx, is, a, b, c, d]

end

theorem fld_lt {w : Nat} (v : BitVec w) (lo n : Nat) : fld v lo n < 2 ^ n := Nat.mod_lt _ (Nat.two_pow_pos n)

/-- The bits of an entry in use are not all zero. -/
theorem Grp.bits_ne_zero {g : Grp} (inuse : g.inuse = true) : g.bits ≠ 0 := by
  intro zero
  have is := g.ofBits_bits_inuse
  rw [zero, inuse] at is
  exact absurd is (by decide)

/-- A group that has been changed, in a partition whose table is canonical. -/
theorem Part.group_modGroup {p : Part} (wf : SMap.wf 0 p.groups = true) (g : BitVec 8) (f : Grp → Grp) : (p.modGroup g f).group g = Grp.ofBits (f (p.group g)).bits := by
  unfold Part.modGroup Part.group
  rw [SMap.get_put _ _ _ _ _ wf, if_pos rfl]

/-- One that is in use afterwards, in any. -/
theorem Part.group_modGroup_inuse {p : Part} {g : BitVec 8} {f : Grp → Grp} (inuse : (f (p.group g)).inuse = true) :
    (p.modGroup g f).group g = Grp.ofBits (f (p.group g)).bits := by
  show Grp.ofBits (SMap.get 0 (SMap.put 0 p.groups g.toNat (f (p.group g)).bits) g.toNat) = _
  rw [SMap.get_put_same (Grp.bits_ne_zero inuse)]

/-! ### Arrivals (R104, R201, R360) -/

section
variable {s t : State} {w : Crew} {g : BitVec 8} {d a : BitVec 6}

@[simp] theorem sIssued_part (s : State) (p : BitVec 5) : (sIssued s).part p = s.part p := by rw [sIssued_eq]; rfl

@[simp] theorem sIssued_time (s : State) : (sIssued s).time = s.time := by rw [sIssued_eq]; rfl

theorem has_sIssued (crew : Has w s) : Has w (sIssued s) := by
  unfold Has at crew ⊢
  rw [cur_sIssued]
  exact crew

theorem gives_crew (crew : Has w s) : Gives curCrew s w s := gives_curCrew.2 ⟨crew, rfl⟩

/-- The check of a phase form (R360). -/
theorem passes_grpLegal (crew : Has w s) (inUse : GroupOpen s w g) {member : Bool} (belongs : member = true → w.groups.contains g = true) : Passes (grpLegal g member) s := by
  have ok : ((groupOf s w g).inuse && (groupOf s w g).ctx == w.ctx && (!member || w.groups.contains g)) = true := by
    rw [inUse.1, inUse.2, beq_self_eq_true]
    cases member with
    | false => rfl
    | true => rw [belongs rfl]; rfl
  unfold Passes grpLegal
  rw [run_of_gives (gives_crew crew), Op.run_bind_ok (Op.run_get s)]
  exact congrArg Prod.fst (Op.run_legal ok .s s)

/-- A release at the scope of the package waits for nothing while the side log is empty (R215). -/
theorem gives_opRelease_pkg (empty : (cur s).slog = []) : Gives (opRelease .pkg) s () s := by
  refine gives_bind.2 ⟨_, _, gives_get.2 ⟨rfl, rfl⟩, gives_holdUnless.2 ⟨?_, rfl⟩⟩
  unfold State.loggedHere
  split
  · rfl
  · rw [show (s.core s.cur).slog = [] from empty]
    rfl

theorem slog_sIssued (s : State) : (cur (sIssued s)).slog = (cur s).slog := by rw [cur_sIssued]; rfl

/-- A crew that has not arrived arrives, once its releases are done. -/
theorem gives_arriveOp (crew : Has w s) (fresh : (s.part w.part).hasArrived w.acc w.rank g = false) (empty : (cur s).slog = []) :
    Gives (arriveOp g) s (groupOf s w g).phase (s.groupArrive w.part w.acc w.rank g) :=
  gives_bind.2 ⟨_, _, gives_crew crew, gives_bind.2 ⟨_, _, gives_get.2 ⟨rfl, rfl⟩, gives_bind.2 ⟨(), _, gives_holdUnless.2 ⟨by rw [fresh]; rfl, rfl⟩,
    gives_bind.2 ⟨(), _, gives_opRelease_pkg empty, gives_bind.2 ⟨_, _, gives_get.2 ⟨rfl, rfl⟩, gives_bind.2 ⟨⟨⟩, _, gives_modify.2 rfl,
      gives_pure.2 ⟨rfl, rfl⟩⟩⟩⟩⟩⟩⟩

theorem gives_phaseNow (crew : Has w s) : Gives (phaseNow g) s (groupOf s w g).phase s :=
  gives_bind.2 ⟨_, _, gives_get.2 ⟨rfl, rfl⟩, gives_bind.2 ⟨_, _, gives_crew crew, gives_pure.2 ⟨rfl, rfl⟩⟩⟩

/-- What an arrival leaves of the group's partition: the crew has arrived, and the phase is as it was. -/
theorem State.groupArrive_eq (s : State) (p : BitVec 5) (acc rank : Nat) (g : BitVec 8) : (s.groupArrive p acc rank g).cores = s.cores ∧
    (s.groupArrive p acc rank g).cur = s.cur ∧ ((s.groupArrive p acc rank g).part p).hasArrived acc rank g = true ∧
    (((s.part p).group g).inuse = true → (((s.groupArrive p acc rank g).part p).group g).phase = ((s.part p).group g).phase) := by
  have arrived : ∀ q : Part, q.arrivals = (acc, rank, g) :: (s.part p).arrivals → q.hasArrived acc rank g = true := fun q is => by
    unfold Part.hasArrived
    rw [is]
    simp
  have phase : ((s.part p).group g).inuse = true → ∀ q : Part, q.groups = ((s.part p).modGroup g fun e => { e with arrived := e.arrived + 1 }).groups →
      (q.group g).phase = ((s.part p).group g).phase := fun inuse q is => by
    have same : q.group g = ((s.part p).modGroup g fun e => { e with arrived := e.arrived + 1 }).group g := by unfold Part.group; rw [is]
    rw [same, Part.group_modGroup_inuse inuse, Grp.ofBits_bits_phase]
  unfold State.groupArrive State.groupCheck
  dsimp only
  split
  · refine ⟨rfl, rfl, ?_, fun inuse => ?_⟩
    · exact arrived _ (by rw [State.part_push, State.part_modPart, State.part_modPart])
    · exact phase inuse _ (by rw [State.part_push, State.part_modPart, State.part_modPart])
  · exact ⟨rfl, rfl, arrived _ (by rw [State.part_modPart]), fun inuse => phase inuse _ (by rw [State.part_modPart])⟩

end

section
variable {s t : State} {w : Crew} {g : BitVec 8} {d a : BitVec 6} {k : Strand}

theorem groupOf_sIssued (s : State) (w : Crew) (g : BitVec 8) : groupOf (sIssued s) w g = groupOf s w g := by unfold groupOf; rw [sIssued_part]

theorem gives_heldNow : Gives (heldNow k) s ((cur s).heldOf k) s := Op.run_heldNow k s

theorem heldOf_sIssued (s : State) : (cur (sIssued s)).heldOf .s = s.newHeld .s noTok := by
  rw [cur_sIssued]
  simp [Core.heldOf]

theorem heldOf_of_held {h : Held} (held : ((cur s).str k).held = some h) : (cur s).heldOf k = h := by rw [Core.heldOf, held]; rfl

/-- The entry of a `phase` that has arrived (R370). -/
def Held.arrivedAt (ph : W32) (h : Held) : Held := { h with arrival := some ph, progress := .part }

/-- The state in which `phase` waits after its arrival. -/
def phaseArrived (w : Crew) (g : BitVec 8) (s : State) : State :=
  onCore (fun c => c.setStr .s { (c.str .s) with held := some ((c.heldOf .s).arrivedAt (groupOf s w g).phase) }) ((sIssued s).groupArrive w.part w.acc w.rank g)

theorem cur_groupArrive (s : State) (p : BitVec 5) (acc rank : Nat) (g : BitVec 8) : cur (s.groupArrive p acc rank g) = cur s := by
  obtain ⟨cores, acts, -⟩ := s.groupArrive_eq p acc rank g
  unfold Stmt.cur
  rw [acts]
  exact congrArg (·[s.cur.toFin]) cores

theorem cur_phaseArrived (w : Crew) (g : BitVec 8) (s : State) :
    cur (phaseArrived w g s) = (cur s).setStr .s { ((cur s).str .s) with held := some ((s.newHeld .s noTok).arrivedAt (groupOf s w g).phase) } := by
  rw [phaseArrived, cur_onCore, cur_groupArrive, heldOf_sIssued, cur_sIssued]
  simp

/-- The entry of an instruction that is held back. -/
theorem held_of_keepHeld {h : Held} {n : Nat} (acts : t.cur = s.cur) : ((cur ((t.keepHeld s.cur k h).modCore s.cur (·.count n 1))).str k).held = some h := by
  rw [show cur ((t.keepHeld s.cur k h).modCore s.cur (·.count n 1)) = ((t.keepHeld s.cur k h).modCore s.cur (·.count n 1)).core s.cur from congrArg _ acts,
    State.core_modCore, State.keepHeld, State.core_modCore]
  simp

/-- `phase` arrives, and then waits (R360). -/
theorem phase_waits (crew : Has w s) (inUse : GroupOpen s w g) (ready : SReady [] s) (member : w.groups.contains g = true)
    (fresh : (s.part w.part).hasArrived w.acc w.rank g = false) (empty : (cur s).slog = []) :
    exec (.phase d g) s = .next (((phaseArrived w g s).keepHeld s.cur .s
      { ((phaseArrived w g s).core s.cur).heldOf .s with notBefore := 0 }).modCore s.cur (·.count 4 1)) := by
  have arrive := gives_arriveOp (has_sIssued crew) (by rw [sIssued_part]; exact fresh) (by rw [slog_sIssued]; exact empty)
  rw [groupOf_sIssued] at arrive
  have acts : Has w (phaseArrived w g s) := by
    unfold Has
    rw [cur_phaseArrived]
    exact crew
  have same : (groupOf (phaseArrived w g s) w g).phase = (groupOf s w g).phase := by
    have kept := ((sIssued s).groupArrive_eq w.part w.acc w.rank g).2.2.2 (by rw [sIssued_part]; exact inUse.1)
    rw [sIssued_part] at kept
    exact kept
  refine execS_holds rfl ready (passes_grpLegal crew inUse fun _ => member) ?_
  rw [run_of_gives gives_heldNow, heldOf_sIssued]
  refine (congrArg (fun x : Op Next => x.run (sIssued s)) (if_pos rfl)).trans ?_
  rw [run_of_gives arrive]
  refine (Op.run_bind_ok (t := phaseArrived w g s) (Op.run_modHeld ..)).trans ?_
  rw [run_of_gives gives_heldNow, run_of_gives (gives_phaseNow acts), same, cur_phaseArrived]
  refine Op.run_bind_error (Op.run_holdUnless_false ?_ _)
  simp [Core.heldOf, Held.arrivedAt]

end

end Sys2Proof.Machine

namespace Sys2Proof.Isa

open Sys2Proof.Machine Sys2Proof.Stmt

theorem phaseForms : PhaseForms := by
  intro s w d g crew inUse ph
  refine ⟨fun ready member fresh empty => ?_, fun ready moved => ?_, fun ready member fresh empty => ?_, fun h at_ held free arrived moved => ?_⟩
  · have arrive := gives_arriveOp (has_sIssued crew) (by rw [sIssued_part]; exact fresh) (by rw [slog_sIssued]; exact empty)
    rw [groupOf_sIssued] at arrive
    refine endsAt_of_runS rfl ready (passes_grpLegal crew inUse fun _ => member) ?_
    rw [run_of_gives arrive, ← BitVec.ofNat_toNat]
    rfl
  · refine endsAt_of_runS rfl ready (passes_grpLegal crew inUse nofun) ?_
    rw [run_of_gives (gives_phaseNow (has_sIssued crew)), run_of_gives (gives_xr.2 ⟨rfl, rfl⟩), groupOf_sIssued, cur_sIssued]
    refine (Op.run_bind_ok (Op.run_holdUnless ?_ _)).trans ?_
    · rw [bne_iff_ne, ← BitVec.ofNat_toNat]
      exact moved
    · rw [← BitVec.ofNat_toNat]
      rfl
  · obtain ⟨-, acts, arrived, -⟩ := (sIssued s).groupArrive_eq w.part w.acc w.rank g
    have acts : (phaseArrived w g s).cur = s.cur := acts.trans (sIssued_cur s)
    have core : (phaseArrived w g s).core s.cur = _ := (congrArg (phaseArrived w g s).core acts.symm).trans (cur_phaseArrived w g s)
    refine ⟨_, { ((phaseArrived w g s).core s.cur).heldOf .s with notBefore := 0 }, phase_waits crew inUse ready member fresh empty, held_of_keepHeld acts,
      ?_, ?_, fresh, arrived⟩
    · rw [core, Core.heldOf, Core.str_setStr]
      rfl
    · rw [core, Core.heldOf, Core.str_setStr]
      rfl
  · refine endsAt_of_heldS rfl held free ?_
    rw [run_of_gives gives_heldNow, heldOf_of_held held, arrived]
    refine (congrArg (fun x : Op Next => x.run s) (if_neg Bool.false_ne_true)).trans ?_
    rw [run_of_gives gives_heldNow, heldOf_of_held held, arrived, run_of_gives (gives_phaseNow crew)]
    refine (Op.run_bind_ok (Op.run_holdUnless (bne_iff_ne.2 moved) _)).trans ?_
    rw [← BitVec.ofNat_toNat]
    rfl

theorem groupForms : GroupForms := by
  intro s w d a g crew ready n used
  have number : ((cur (sIssued s)).xr a).toNat = n := by rw [cur_sIssued]; rfl
  have inRange : 1 ≤ n → n ≤ 128 → ¬ (n = 0 ∨ 128 < n) := by omega
  have crew' := gives_crew (has_sIssued crew)
  refine ⟨fun out => ?_, fun lo hi full => ?_, fun lo hi j small free taken => ?_, fun inUse all => ?_, fun no => ?_⟩
  · refine endsAt_of_runS rfl ready passes_pure ?_
    rw [run_of_gives crew', run_of_gives (gives_xr.2 ⟨rfl, rfl⟩), number]
    exact (congrArg (fun x : Op Next => x.run (sIssued s)) (if_pos out)).trans rfl
  · have none_ : (firstBelow 256 fun j => !(((sIssued s).part w.part).group (BitVec.ofNat 8 j)).inuse) = none := by
      refine List.find?_eq_none.2 fun j mem => ?_
      rw [sIssued_part, show ((s.part w.part).group (BitVec.ofNat 8 j)).inuse = true from full j (List.mem_range.1 mem)]
      decide
    refine endsAt_of_runS rfl ready passes_pure ?_
    rw [run_of_gives crew', run_of_gives (gives_xr.2 ⟨rfl, rfl⟩), number]
    refine (congrArg (fun x : Op Next => x.run (sIssued s)) (if_neg (inRange lo hi))).trans ?_
    rw [run_of_gives (gives_get.2 ⟨rfl, rfl⟩)]
    dsimp only
    rw [none_]
    rfl
  · have first : (firstBelow 256 fun j => !(((sIssued s).part w.part).group (BitVec.ofNat 8 j)).inuse) = some j := by
      rw [sIssued_part]
      exact List.find?_range_eq_some.2 ⟨congrArg (!·) free, List.mem_range.2 small, fun l below => congrArg (!!·) (taken l below)⟩
    refine endsAt_of_runS rfl ready passes_pure ?_
    rw [run_of_gives crew', run_of_gives (gives_xr.2 ⟨rfl, rfl⟩), number]
    refine (congrArg (fun x : Op Next => x.run (sIssued s)) (if_neg (inRange lo hi))).trans ?_
    rw [run_of_gives (gives_get.2 ⟨rfl, rfl⟩)]
    dsimp only
    rw [first]
    rfl
  · refine endsAt_of_runS rfl ⟨ready.1, rfl⟩ passes_pure ?_
    rw [run_of_gives crew', run_of_gives (gives_get.2 ⟨rfl, rfl⟩), sIssued_part]
    refine (congrArg (fun x : Op Next => x.run (sIssued s)) (if_pos ?_)).trans rfl
    rw [show ((s.part w.part).group g).inuse = true from inUse.1, show ((s.part w.part).group g).ctx = w.ctx from inUse.2, beq_self_eq_true]
    exact beq_iff_eq.2 all
  · refine endsAt_of_runS rfl ⟨ready.1, rfl⟩ passes_pure ?_
    rw [run_of_gives crew', run_of_gives (gives_get.2 ⟨rfl, rfl⟩), sIssued_part]
    refine (congrArg (fun x : Op Next => x.run (sIssued s)) (if_neg fun freed => no ?_)).trans rfl
    simp only [Bool.and_eq_true, beq_iff_eq] at freed
    exact freed

/-- A partition whose group advances to its next phase. -/
def phaseAdvanced (g : BitVec 8) (p : Part) : Part :=
  { p.modGroup g (fun e => { e with phase := e.phase + 1, arrived := 0 }) with
    due := p.due.filter (· != g), arrivals := p.arrivals.filter fun a => a.2.2 != g }

theorem phaseAdvance_due {s : State} {p : BitVec 5} {g : BitVec 8} (due : (s.part p).due.contains g = true) :
    exec (.phaseAdvance p g) s = .next (s.modPart p (phaseAdvanced g)) := by
  show execPhaseAdvance p g s = _
  unfold execPhaseAdvance
  rw [if_pos due]
  rfl

theorem phaseAdvance_idle {s : State} {p : BitVec 5} {g : BitVec 8} (idle : (s.part p).due.contains g = false) : exec (.phaseAdvance p g) s = .next s := by
  show execPhaseAdvance p g s = _
  unfold execPhaseAdvance
  rw [if_neg (by rw [idle]; decide)]
  rfl

theorem group_phaseAdvanced {p : Part} (wf : SMap.wf 0 p.groups = true) (g : BitVec 8) :
    (phaseAdvanced g p).group g = { p.group g with phase := (p.group g).phase + 1, arrived := 0 } :=
  (Part.group_modGroup wf g fun e => { e with phase := e.phase + 1, arrived := 0 }).trans (Grp.ofBits_bits _ (Nat.two_pow_pos 8) (fld_lt ..) (fld_lt ..) (fld_lt ..))

theorem phaseAndMonitorEvents : PhaseAndMonitorEvents := by
  intro s p g core
  refine ⟨fun due => ⟨_, phaseAdvance_due due, rfl, rfl, fun tables => ?_, ?_, fun a mem => ?_⟩, phaseAdvance_idle, fun m h armed held => ?_⟩
  · rw [State.part_modPart]
    exact group_phaseAdvanced (tables.2.2 p) g
  · rw [State.part_modPart]
    simp [phaseAdvanced]
  · rw [State.part_modPart] at mem
    simpa using (List.mem_filter.1 mem).2
  · refine ⟨s.modCore core fun r => { r.setStr .s { (r.str .s) with held := some { h with notBefore := 0 } } with monitor := none }, ?_, ?_, ?_⟩
    · show execMwaitWake core s = _
      unfold execMwaitWake
      rw [armed, held]
      rfl
    · rw [State.core_modCore]
    · rw [State.core_modCore]
      exact congrArg StrandSt.held (Core.str_setStr ..)

/-- Settles O14. -/
theorem groupsAndPhases : Obligations.GroupsAndPhases := ⟨phaseForms, groupForms, phaseAndMonitorEvents⟩

end Sys2Proof.Isa

/-! PROOFS. `spawn` and `notify` (R98, R111, R365, R366). -/

namespace Sys2Proof.Machine

open Sys2Proof.Stmt

section
variable {α : Type} {s t : State} {k : Strand} {c : Prop} [Decidable c] {x y : Op α} {a : α}

@[simp] theorem gives_legal {b : Bool} {u : Unit} : Gives (legal b k) s u t ↔ b = true ∧ s = t := by
  cases b <;> simp [legal, illop, gives_bind]

@[simp] theorem gives_modHeld {f : Held → Held} {u : Unit} : Gives (modHeld k f) s u t ↔ s.keepHeld s.cur k (f ((cur s).heldOf k)) = t :=
  (gives_of_ok (Op.run_modHeld k f s)).trans (and_iff_right rfl)

theorem passes_of_gives {check : Op Unit} (gives : Gives check s () t) : Passes check s := congrArg Prod.fst gives

theorem gives_if_pos (holds : c) : Gives (if c then x else y) s a t ↔ Gives x s a t := by rw [if_pos holds]

theorem gives_if_neg (fails : ¬ c) : Gives (if c then x else y) s a t ↔ Gives y s a t := by rw [if_neg fails]

theorem run_if_pos (holds : c) : (if c then x else y).run s = x.run s := by rw [if_pos holds]

theorem run_if_neg (fails : ¬ c) : (if c then x else y).run s = y.run s := by rw [if_neg fails]

/-- The answer of the first part goes to the second. -/
theorem gives_then {β : Type} {f : α → Op β} {b : β} {u : State} (first : Gives x s a u) (next : Gives (f a) u b t) : Gives (x >>= f) s b t :=
  gives_bind.2 ⟨_, _, first, next⟩

end

section
variable {s : State} {w : Crew} {a b : BitVec 6}

@[simp] theorem sIssued_xr (s : State) (r : BitVec 6) : (cur (sIssued s)).xr r = (cur s).xr r := by rw [cur_sIssued]; rfl

@[simp] theorem sIssued_fabric (s : State) : (sIssued s).fabric = s.fabric := by rw [sIssued_eq]; rfl

@[simp] theorem sIssued_queue (s : State) (q : BitVec 10) : (sIssued s).queue q = s.queue q := by rw [sIssued_eq]; rfl

@[simp] theorem sIssued_localQueue (s : State) (p : BitVec 5) (n : Nat) : (sIssued s).localQueue p n = s.localQueue p n := by rw [sIssued_eq]; rfl

theorem gives_readX (s : State) (r : BitVec 6) : Gives (xr r) (sIssued s) ((cur s).xr r) (sIssued s) := gives_xr.2 ⟨sIssued_xr s r, rfl⟩

theorem gives_relClear (clear : NoRelease s) : Gives relClear (sIssued s) () (sIssued s) := by
  refine gives_then (gives_curCore.2 ⟨rfl, rfl⟩) (gives_holdUnless.2 ⟨?_, rfl⟩)
  rw [slog_sIssued, show List.any (cur s).slog _ = false from clear]
  rfl

end

end Sys2Proof.Machine

namespace Sys2Proof.Isa

open Sys2Proof.Machine Sys2Proof.Stmt

/-- Settles O17. -/
theorem spawnAndNotify : Obligations.SpawnAndNotify := by
  intro s u v t w d a b q acc bs r crew ready x n
  have crew' := gives_crew (has_sIssued crew)
  refine ⟨fun zero zero' empty queue access image claim => ?_, ?_⟩
  · refine endsAt_of_runS rfl ready (passes_of_gives (gives_then (gives_xr.2 ⟨rfl, rfl⟩) (gives_legal.2 ⟨?_, rfl⟩))) ?_
    · rw [zero, zero']; rfl
    · rw [run_of_gives crew', run_of_gives (gives_readX s a), run_of_gives (gives_opRelease_pkg (by rw [slog_sIssued]; exact empty)),
        run_of_gives (gives_get.2 ⟨rfl, rfl⟩), sIssued_localQueue, queue]
      dsimp only
      rw [run_of_gives (gives_readX s b), run_of_gives access, run_of_gives image, run_of_gives claim]
      rfl
  intro g pos
  refine ⟨fun clear zero zero' here enabled owner => ?_, fun clear zero far zero' i j k away => ?_⟩
  · refine endsAt_of_runS rfl ready (passes_of_gives (gives_then (gives_xr.2 ⟨rfl, rfl⟩) (gives_legal.2 ⟨?_, rfl⟩))) ?_
    · rw [zero, zero']
      rcases here with ⟨-, rest⟩ | ⟨far, -⟩
      · rw [rest]
        simp
      · rw [show ((cur s).xr a).getLsbD 15 = true from far]
        rfl
    · rw [run_of_gives (gives_relClear clear), run_of_gives crew', run_of_gives (gives_readX s a), run_of_gives (gives_readX s b)]
      dsimp only
      rw [run_of_gives (gives_get.2 ⟨rfl, rfl⟩)]
      refine (run_if_neg ?_).trans ((run_if_neg ?_).trans ?_)
      · rw [sIssued_fabric]
        rcases here with ⟨local_, -⟩ | ⟨-, -, i, j, k⟩
        · rw [show ((cur s).xr a).getLsbD 15 = false from local_]
          exact Bool.false_ne_true
        · rw [decide_eq_true ⟨i, j, k⟩, Bool.not_true, Bool.and_false]
          exact Bool.false_ne_true
      · rw [sIssued_fabric]
        rcases here with ⟨local_, -⟩ | ⟨-, same, -⟩
        · rw [show ((cur s).xr a).getLsbD 15 = false from local_]
          exact Bool.false_ne_true
        · rw [← same, bne_self_eq_false, Bool.and_false]
          exact Bool.false_ne_true
      · rw [run_of_gives (gives_get.2 ⟨rfl, rfl⟩), sIssued_queue, enabled, owner, beq_self_eq_true]
        show (Except.ok Next.seq, ((sIssued s).modQueue g fun k => k.noteCrew ((cur s).xr b) (BitVec.ofNat 2 ((sIssued s).cur.toNat / 32))).notifyQueue g ((cur s).xr b)) = _
        rw [sIssued_cur]
        rfl
  · refine endsAt_of_runS rfl ready (passes_of_gives (gives_then (gives_xr.2 ⟨rfl, rfl⟩) (gives_legal.2 ⟨?_, rfl⟩))) ?_
    · rw [zero, zero', show ((cur s).xr a).getLsbD 15 = true from far]
      rfl
    · rw [run_of_gives (gives_relClear clear), run_of_gives crew', run_of_gives (gives_readX s a), run_of_gives (gives_readX s b)]
      dsimp only
      rw [run_of_gives (gives_get.2 ⟨rfl, rfl⟩)]
      refine (run_if_neg ?_).trans ((run_if_pos ?_).trans rfl)
      · rw [sIssued_fabric, decide_eq_true ⟨i, j, k⟩, Bool.not_true, Bool.and_false]
        exact Bool.false_ne_true
      · rw [sIssued_fabric, show ((cur s).xr a).getLsbD 15 = true from far]
        exact bne_iff_ne.2 away
end Sys2Proof.Isa

/-! PROOFS. `exit` (R125, R211, R292, R368, R391, R400, R419). -/

namespace Sys2Proof.Machine

open Sys2Proof.Stmt

section
variable {s : State} {w : Crew} {k : Strand} {tk : Tok}

theorem othersLive_iff : (([Strand.s, .v, .m, .x].any fun j => j != k && ((cur s).str j).live) = true) ↔ OthersLive k s := by
  rw [List.any_eq_true]
  constructor
  · rintro ⟨j, -, live⟩
    obtain ⟨other, live⟩ := Bool.and_eq_true_iff.1 live
    exact ⟨j, bne_iff_ne.1 other, live⟩
  · rintro ⟨j, other, live⟩
    exact ⟨j, by cases j <;> simp, Bool.and_eq_true_iff.2 ⟨bne_iff_ne.2 other, live⟩⟩

/-- A strand that is not the last one of its crew only ends. -/
theorem exitOp_others (crew : Has w s) (others : OthersLive k s) :
    (exitOp k).run s = (.ok .seq, exitHalt ((cur s).str k).armed w.part (strandEnded k s)) := by
  have live := othersLive_iff.2 others
  unfold exitOp
  rw [run_of_gives (gives_get.2 ⟨rfl, rfl⟩)]
  dsimp only
  rw [run_of_gives (gives_crew crew), show (([Strand.s, .v, .m, .x].any fun j => j != k && ((s.core s.cur).str j).live) = true) from live]
  cases armed : ((cur s).str k).armed <;> rw [show ((s.core s.cur).str k).armed = _ from armed] <;> rfl

/-- The last one, once nothing is outstanding, takes the crew off its core. -/
theorem exitOp_last (crew : Has w s) (last : ¬ OthersLive k s) (quiet : s.quiet s.cur = true) :
    (exitOp k).run s = (.ok .seq, exitHalt ((cur s).str k).armed w.part ((strandEnded k s).crewExit (strandEnded k s).cur)) := by
  have live := Bool.eq_false_iff.2 fun live => last (othersLive_iff.1 live)
  unfold exitOp
  rw [run_of_gives (gives_get.2 ⟨rfl, rfl⟩)]
  dsimp only
  rw [run_of_gives (gives_crew crew), show ([Strand.s, .v, .m, .x].any fun j => j != k && ((s.core s.cur).str j).live) = false from live, quiet]
  cases armed : ((cur s).str k).armed <;> rw [show ((s.core s.cur).str k).armed = _ from armed] <;> rfl

/-- A core once an instruction of strand `k` has issued: its strands live on, and nothing of what it has outstanding has changed. -/
theorem othersLive_issueHeld : OthersLive k (s.issueHeld k tk) ↔ OthersLive k s := by
  have same : ∀ j, j ≠ k → ((cur (s.issueHeld k tk)).str j).live = ((cur s).str j).live := fun j other => by
    rw [State.issueHeld_eq, cur_onCore, Core.str_setStr_ne _ _ other]
    unfold Core.tokenTaken
    split <;> simp
  exact exists_congr fun j => and_congr_right fun other => by rw [same j other]

theorem armed_issueHeld : ((cur (s.issueHeld k tk)).str k).armed = ((cur s).str k).armed := by
  have := State.issueHeld_str s k tk
  unfold Stmt.cur
  rw [State.issueHeld_cur, this]
  rfl

theorem has_issueHeld (crew : Has w s) : Has w (s.issueHeld k tk) := by
  unfold Has
  rw [State.issueHeld_eq, cur_onCore, Core.setStr_crew]
  unfold Core.tokenTaken
  split
  · exact (Core.setTok_crew ..).trans crew
  · exact crew

/-- The core once an instruction has issued: its strand has an entry, and tokens may have been taken. -/
theorem cur_issueHeld (s : State) (k : Strand) (tk : Tok) :
    ∃ tok, cur (s.issueHeld k tk) = { (cur s).setStr k { ((cur s).str k) with held := some (s.newHeld k tk) } with tok := tok } := by
  rw [State.issueHeld_eq, cur_onCore]
  unfold Core.tokenTaken Core.setTok
  split
  · split <;> exact ⟨_, rfl⟩
  · exact ⟨_, rfl⟩

theorem quiet_issueHeld : (s.issueHeld k tk).quiet (s.issueHeld k tk).cur = s.quiet s.cur := by
  obtain ⟨tok, core⟩ := cur_issueHeld s k tk
  unfold State.quiet State.posting
  rw [show (s.issueHeld k tk).core (s.issueHeld k tk).cur = _ from core, State.issueHeld_eq]
  rfl

/-- How an `exit` ends whose body comes to its end. -/
theorem exit_ends {i : Instr} {body : Op Next} (form : exec i s = nx (runInstr k 1 tk (pure ()) (pure ()) body s))
    (same : body.run (s.issueHeld k tk) = (exitOp k).run (s.issueHeld k tk)) (crew : Has w s) (ready : Ready k tk s) :
    (OthersLive k s → Ends i s k tk 1 fun u => exitHalt ((cur s).str k).armed w.part (strandEnded k u)) ∧
    (¬ OthersLive k s → s.quiet s.cur = true → Ends i s k tk 1 fun u => exitHalt ((cur s).str k).armed w.part ((strandEnded k u).crewExit u.cur)) := by
  refine ⟨fun others => ?_, fun last quiet => ?_⟩
  · refine endsAt_of_run form ready passes_pure passes_pure (same.trans ?_)
    rw [exitOp_others (has_issueHeld crew) (othersLive_issueHeld.2 others), armed_issueHeld]
  · refine endsAt_of_run form ready passes_pure passes_pure (same.trans ?_)
    rw [exitOp_last (has_issueHeld crew) (fun others => last (othersLive_issueHeld.1 others)) (quiet_issueHeld.trans quiet), armed_issueHeld]
    rfl

end

end Sys2Proof.Machine

namespace Sys2Proof.Isa

open Sys2Proof.Machine Sys2Proof.Stmt

theorem scalarVectorMatrixExit : ScalarVectorMatrixExit := by
  intro i s w k tk listed crew ready free loaded
  cases i with
  | sExit =>
    obtain ⟨rfl, rfl⟩ := Prod.mk.inj (Option.some.inj listed)
    exact exit_ends (congrArg nx (runS_free (free rfl))) rfl crew ready
  | vExit tk =>
    obtain ⟨rfl, rfl⟩ := Prod.mk.inj (Option.some.inj listed)
    exact exit_ends rfl rfl crew ready
  | mExit tk =>
    obtain ⟨rfl, rfl⟩ := Prod.mk.inj (Option.some.inj listed)
    refine exit_ends rfl ?_ crew ready
    rw [run_of_gives (gives_curCore.2 ⟨rfl, rfl⟩)]
    refine Op.run_bind_ok (Op.run_holdUnless ?_ _)
    obtain ⟨tok, core⟩ := cur_issueHeld s .m tk
    rw [core]
    exact List.all_eq_true.2 (loaded rfl)
  | _ => exact nomatch listed

/-- A crew that is of no stage has no record boundary (R125). -/
theorem boundary_alone {s : State} {w : Crew} (crew : Has w s) (alone : w.stage = none) : Gives boundaryOp s () s := by
  refine gives_then (gives_crew crew) ?_
  rw [alone]
  refine gives_then (gives_pure.2 ⟨rfl, rfl⟩) (gives_modify.2 ?_)
  unfold State.pastBoundary
  rw [alone]

theorem donor_issueHeld (s : State) (k : Strand) (tk : Tok) : (s.issueHeld k tk).donor (s.issueHeld k tk).cur = s.donor s.cur := by
  obtain ⟨tok, core⟩ := cur_issueHeld s k tk
  unfold State.donor
  rw [show (s.issueHeld k tk).core (s.issueHeld k tk).cur = _ from core, State.issueHeld_eq]
  rfl

theorem transferExit : TransferExit := by
  intro s v w x tk crew ready empty stop
  have queue : (cur (s.issueHeld .x tk)).xs.queue.isEmpty = true := by
    obtain ⟨tok, core⟩ := cur_issueHeld s .x tk
    rw [core]
    exact List.isEmpty_iff.2 empty
  refine ⟨fun alone stays => ?_, fun boundary crew' stays => ?_⟩
  · refine exit_ends rfl ?_ crew ready
    rw [run_of_gives (gives_curCore.2 ⟨rfl, rfl⟩), Op.run_bind_ok (Op.run_holdUnless queue _), run_of_gives (boundary_alone (has_issueHeld crew) alone),
      run_of_gives (gives_get.2 ⟨rfl, rfl⟩), run_of_gives (gives_get.2 ⟨rfl, rfl⟩)]
    refine run_if_neg ?_
    rw [donor_issueHeld, stays]
    exact Bool.false_ne_true
  · intro stop
    have body : ∀ {t}, (exitOp .x).run v = (.ok .seq, t) → EndsAt (.xExit tk) s .x 1 t := fun {t} ended => by
      refine endsAt_of_run rfl ready passes_pure passes_pure ?_
      rw [run_of_gives (gives_curCore.2 ⟨rfl, rfl⟩), Op.run_bind_ok (Op.run_holdUnless queue _), run_of_gives boundary, run_of_gives (gives_get.2 ⟨rfl, rfl⟩),
        run_of_gives (gives_get.2 ⟨rfl, rfl⟩)]
      refine (run_if_neg ?_).trans ended
      rw [stays]
      exact Bool.false_ne_true
    exact ⟨fun others => body (exitOp_others crew' others), fun last quiet => body (exitOp_last crew' last quiet)⟩

/-- Settles O18. -/
theorem exitForms : Obligations.ExitForms := ⟨scalarVectorMatrixExit, transferExit⟩

end Sys2Proof.Isa

/-! PROOFS. `yield`, `wfi` and the WAKE register (R117, R367, R445). -/

namespace Sys2Proof.Machine

open Sys2Proof.Stmt

/-! ### What is asked of a crew stays asked -/

/-- The same core acts; no core has another cooperative stop or a drain of its own making; the events that stood next still do. -/
structure KeepsYield (s t : State) : Prop where
  cur    : t.cur = s.cur
  asked  : ∀ c, (t.core c).yld.coop = (s.core c).yld.coop ∧ (t.core c).yld.draining = (s.core c).yld.draining
  agenda : ∀ e ∈ s.agenda, e ∈ t.agenda

section
variable {s t u : State} {c : BitVec 7} {k : Strand}

theorem KeepsYield.refl (s : State) : KeepsYield s s := ⟨rfl, fun _ => ⟨rfl, rfl⟩, fun _ => id⟩

theorem KeepsYield.trans (first : KeepsYield s t) (next : KeepsYield t u) : KeepsYield s u :=
  ⟨next.cur.trans first.cur, fun c => ⟨(next.asked c).1.trans (first.asked c).1, (next.asked c).2.trans (first.asked c).2⟩,
    fun e mem => next.agenda e (first.agenda e mem)⟩

theorem State.OnlyCounters.keepsYield (after : s.OnlyCounters t) (agenda : t.agenda = s.agenda) : KeepsYield s t := by
  refine ⟨after.cur, fun c => ?_, fun e mem => agenda ▸ mem⟩
  obtain ⟨ev, same⟩ := after.core c
  rw [same]
  exact ⟨rfl, rfl⟩

theorem keepsYield_modCore {f : Core → Core} (same : (f (s.core c)).yld = (s.core c).yld) : KeepsYield s (s.modCore c f) := by
  refine ⟨rfl, fun d => ?_, fun _ => id⟩
  by_cases is : d = c
  · rw [is, State.core_modCore, same]
    exact ⟨rfl, rfl⟩
  · rw [State.core_modCore_ne _ _ is]
    exact ⟨rfl, rfl⟩

@[simp] theorem State.bankRead_agenda (s : State) (pa n : Nat) : (s.bankRead pa n).1.agenda = s.agenda := by
  unfold State.bankRead
  split
  · dsimp only
    split <;> rfl
  · exact State.meet_keeps (P := fun t => t.agenda = s.agenda) s pa n rfl fun t a e same => by cases e <;> exact same

theorem State.unpoison_agenda (s : State) (pa n : Nat) : (s.unpoison pa n).agenda = s.agenda := by
  unfold State.unpoison
  split <;> rfl

@[simp] theorem State.bankWrite_agenda (s : State) (pa : Nat) (bs : List Byte) : (s.bankWrite pa bs).agenda = s.agenda := by
  have cleared : (s.cleared pa).agenda = s.agenda := by
    unfold State.cleared
    split
    · exact State.unpoison_agenda ..
    · rfl
  rw [State.bankWrite_eq, State.unpoison_agenda, State.poke_agenda]
  unfold State.readied
  split <;> exact cleared

@[simp] theorem State.sendMsix_agenda (s : State) (f v : Nat) : (s.sendMsix f v).agenda = s.agenda := by
  unfold State.sendMsix
  split
  · exact s.modFunc_agenda f _
  · rfl

/-- What cancels a pre-emption takes its deadline, and no more of a yield request (R233). -/
theorem keepsYield_raiseLine (s : State) (p : BitVec 5) (cause : Nat) : KeepsYield s (s.raiseLine p cause) := by
  have part : ∀ f : Part → Part, KeepsYield s (s.modPart p f) := fun f => ⟨rfl, fun _ => ⟨rfl, rfl⟩, fun _ => id⟩
  have dropped : ∀ (t : State) (c : BitVec 7), KeepsYield t (t.modCore c fun r => { r with yld := { r.yld with deadline := none } }) := fun t c => by
    refine ⟨rfl, fun d => ?_, fun _ => id⟩
    by_cases is : d = c
    · rw [is, State.core_modCore]
      exact ⟨rfl, rfl⟩
    · rw [State.core_modCore_ne _ _ is]
      exact ⟨rfl, rfl⟩
  unfold State.raiseLine
  split
  · split
    · exact part _
    · split
      · exact List.foldlRecOn (motive := KeepsYield s) _ _ (part _) fun t kept c _ => kept.trans (dropped t c)
      · exact .refl s
  · exact ⟨rfl, fun _ => ⟨rfl, rfl⟩, fun e mem => List.mem_append_left _ (List.mem_append_left _ mem)⟩

theorem endKeeps_keepsYield : EndKeeps KeepsYield :=
  .of_record .refl .trans (fun _ => {
    read kept pa n := kept.trans ((State.onlyCounters_bankRead _ pa n).keepsYield (State.bankRead_agenda ..))
    write kept pa bs := kept.trans ((State.onlyCounters_bankWrite _ pa bs).keepsYield (State.bankWrite_agenda ..))
    wait kept _ _ _ _ := ⟨kept.cur, kept.asked, kept.agenda⟩
    log kept _ _ := ⟨kept.cur, kept.asked, kept.agenda⟩
    msix kept f v := kept.trans ((State.onlyCounters_sendMsix _ f v).keepsYield (State.sendMsix_agenda ..))
    part kept _ _ := ⟨kept.cur, kept.asked, kept.agenda⟩ }) (fun _ _ _ _ yld => keepsYield_modCore yld) keepsYield_raiseLine

/-- What the pc's moving on keeps, and every change of a core that leaves its yield request, the end of an instruction keeps. -/
theorem EndKeeps.finish {R : State → State → Prop} (keeps : EndKeeps R) (core : ∀ s c f, (f (State.core s c)).yld = (State.core s c).yld → R s (State.modCore s c f))
    (dropped : ∀ s c k, R s (State.dropWaits s c k)) (s : State) (c : BitVec 7) (k : Strand) (len : Nat) : R s (finish c k len s) := by
  have moved : ∀ h : Held, R s (if (s.core c).behind k then s else
      let s' := s.advance c k h.pc len
      match h.next with
      | some pc => s'.modCore c fun r => r.setStr k { (r.str k) with pc := pc }
      | none => s') := fun h => by
    split
    · exact keeps.refl s
    · have first := keeps.advance s c k h.pc len
      dsimp only
      split
      · exact keeps.trans first (core _ _ _ rfl)
      · exact first
  have posted : ∀ (t : State) (h : Held), R t (t.finishPost c k h) := fun t h => by
    have freed : ∀ r : Core, (r.freeEntry k).yld = r.yld := fun r => by unfold Core.freeEntry; split <;> rfl
    refine core _ _ _ ?_
    split
    · exact freed _
    · split
      · rw [freed]
        unfold Core.setTok
        split <;> rfl
      · rfl
  have counted : ∀ t : State, R t (t.countRetired c k) := fun t => core _ _ _ (by obtain ⟨ev, is⟩ := (t.core c).count_eq (strandFin k).val 1; rw [is])
  exact keeps.trans (keeps.trans (keeps.trans (moved _) (dropped ..)) (posted _ _)) (counted _)

/-- The end of an instruction asks nothing of its crew. -/
theorem keepsYield_finish (s : State) (c : BitVec 7) (k : Strand) (len : Nat) : KeepsYield s (finish c k len s) :=
  endKeeps_keepsYield.finish (fun _ _ _ yld => keepsYield_modCore yld)
    (fun _ _ _ => (State.OnlyCounters.of_eq (State.dropWaits_cur ..) (State.dropWaits_cores ..)).keepsYield (State.dropWaits_agenda ..)) s c k len

end

end Sys2Proof.Machine

namespace Sys2Proof.Isa

open Sys2Proof.Machine Sys2Proof.Stmt

/-- A core whose crew drains for its `yield` (R367). -/
def draining (h : Held) (c : Core) : Core :=
  { c.setStr .s { (c.str .s) with held := some { h with progress := .part } } with yld := { c.yld with draining := true } }

/-- A core whose crew has stopped as cooperative (R117). -/
def yielded (c : Core) : Core := { c with yld := { c.yld with draining := false, coop := true } }

theorem yieldForm : YieldForm := by
  intro s w crew
  refine ⟨fun ready none_ => ?_, fun h held free asked others empty => ?_⟩
  · refine endsAt_of_runS rfl ready passes_pure ?_
    rw [run_of_gives (gives_curCore.2 ⟨rfl, rfl⟩), run_of_gives (gives_crew (has_sIssued crew))]
    refine run_if_pos ?_
    rw [cur_sIssued]
    exact Option.isNone_iff_eq_none.2 none_
  · have idle : ([Strand.v, .m, .x].all (fun k => ((cur s).str k).held.isNone) && (cur s).xs.queue.isEmpty) = true := by
      rw [empty]
      simp [others]
    have ends : EndsAt .yield s .s 1 ((onCore yielded (onCore (draining h) s)).push (.yieldDeadline w.part)) := by
      refine endsAt_of_heldS rfl held free ?_
      rw [run_of_gives (gives_curCore.2 ⟨rfl, rfl⟩), run_of_gives (gives_crew crew)]
      refine (run_if_neg (by simpa using asked)).trans ?_
      refine (Op.run_bind_ok (t := onCore (fun c => { c with yld := { c.yld with draining := true } }) s) rfl).trans ?_
      refine (Op.run_bind_ok (a := ()) (t := onCore (draining h) s) ?_).trans ?_
      · refine (Op.run_modHeld ..).trans (Prod.ext rfl ?_)
        dsimp only
        refine (State.modCore_modCore s s.cur _ _).trans (State.modCore_congr ?_)
        rw [draining, ← heldOf_of_held held]
        rfl
      refine (Op.run_bind_ok (Op.run_holdUnless ?_ _)).trans rfl
      exact idle
    obtain ⟨acts, asked, next⟩ := keepsYield_finish ((onCore yielded (onCore (draining h) s)).push (.yieldDeadline w.part)) s.cur .s 1
    have core : ((onCore yielded (onCore (draining h) s)).push (.yieldDeadline w.part)).core s.cur = yielded (draining h (cur s)) :=
      (cur_onCore yielded (onCore (draining h) s)).trans (by rw [cur_onCore])
    have here := asked s.cur
    rw [core] at here
    refine ⟨_, ends, ?_, ?_, next _ (List.mem_append_right _ (List.mem_singleton_self _))⟩
    · rw [Stmt.cur, acts]
      exact here.1
    · rw [Stmt.cur, acts]
      exact here.2

theorem waitForInterrupt : WaitForInterrupt := by
  intro s w d crew
  refine ⟨fun ready awake => ?_, fun ready zero => ?_⟩
  · refine endsAt_of_runS rfl ready passes_pure ?_
    rw [run_of_gives (gives_curCore.2 ⟨rfl, rfl⟩)]
    refine (Op.run_bind_ok (Op.run_holdUnless ?_ _)).trans rfl
    rw [cur_sIssued, Bool.or_eq_true_iff]
    exact awake.imp id Option.isSome_iff_ne_none.2
  · intro c
    have body : ∀ t, ((do
        let s ← get
        if s.holds c w.part (s.part w.part).runctx then
          modify fun s => s.modCore c fun r => { r with yld := { r.yld with wake := true } }
        return .seq : Op Next)).run (sIssued s) = (.ok .seq, t) → EndsAt (.sysw d 9) s .s 1 t := fun t run => by
      refine endsAt_of_runS rfl ready (passes_of_gives (t := s) (gives_then (u := s) (gives_xr.2 ⟨rfl, rfl⟩) (gives_then (u := s) (a := ()) (gives_legal.2 ⟨beq_iff_eq.2 zero, rfl⟩) ?_))) ?_
      · exact (gives_if_neg fun both => absurd both.1 (by decide)).2 (gives_pure.2 ⟨rfl, rfl⟩)
      · rw [run_of_gives (gives_readX s d), run_of_gives (gives_crew (has_sIssued crew))]
        exact run
    refine ⟨fun holds => body _ ?_, fun empty => body _ ?_⟩
    · rw [run_of_gives (gives_get.2 ⟨rfl, rfl⟩), sIssued_part]
      exact (run_if_pos holds).trans rfl
    · rw [run_of_gives (gives_get.2 ⟨rfl, rfl⟩), sIssued_part]
      exact (run_if_neg (Bool.eq_false_iff.1 empty)).trans rfl

/-- Settles O19. -/
theorem yieldAndWait : Obligations.YieldAndWait := ⟨yieldForm, waitForInterrupt⟩

end Sys2Proof.Isa

/-! PROOFS. Generator updates (R186 to R189, R369). -/

namespace Sys2Proof.Machine

open Sys2Proof.Stmt

section
variable {s t u : State} {w : Crew} {g : Nat} {d : Option GenDesc} {add : BitVec 128} {h : Held}

/-- An update is queued at the generator home (R188). -/
def genQueued (w : Crew) (g : Nat) (d : Option GenDesc) (add : BitVec 128) (t : State) : State :=
  (t.modPart w.part fun p => { p with genQ := p.genQ ++ [(t.cur, g, d, add)] }).push (.genHomeUpdate w.part)

/-- The entry of a form that has asked for its update. -/
def askedHeld (c : Core) : Core := c.setStr .s { (c.str .s) with held := some { c.heldOf .s with point := 1 } }

/-- The state in which the form waits for the update that it has asked for. -/
def genAsked (w : Crew) (g : Nat) (d : Option GenDesc) (add : BitVec 128) (t : State) : State := onCore askedHeld (genQueued w g d add t)

theorem genAsked_genQ : ((genAsked w g d add t).part w.part).genQ = (t.part w.part).genQ ++ [(t.cur, g, d, add)] := by
  show ((genQueued w g d add t).part w.part).genQ = _
  rw [genQueued, State.part_push, State.part_modPart]

theorem genAsked_point : ((cur (genAsked w g d add t)).heldOf .s).point = 1 := by
  rw [genAsked, cur_onCore, askedHeld, Core.heldOf, Core.str_setStr]
  rfl

/-- An update that has not been asked for is, and waits for its copies. -/
theorem genUpdate_asks (crew : Has w t) (fresh : ((cur t).heldOf .s).point = 0) : (genUpdate g d add).run t = (.error (.hold 0), genAsked w g d add t) := by
  unfold genUpdate
  rw [run_of_gives (gives_crew crew), run_of_gives gives_heldNow]
  dsimp only
  refine (run_if_pos fresh).trans ?_
  refine (Op.run_bind_ok (a := PUnit.unit) (t := genQueued w g d add t) rfl).trans ?_
  refine (Op.run_bind_ok (a := PUnit.unit) (t := genAsked w g d add t) rfl).trans ?_
  rw [run_of_gives (gives_get.2 ⟨rfl, rfl⟩), run_of_gives gives_heldNow, genAsked_point]
  refine (run_if_neg (by decide)).trans (Op.run_bind_error (Op.run_holdUnless_false ?_ _))
  rw [genAsked_genQ, show (genAsked w g d add t).cur = t.cur from rfl]
  simp

/-- One that every copy has applied is complete. -/
theorem genUpdate_ends (crew : Has w t) (asked : ((cur t).heldOf .s).point = 1) (gone : (t.part w.part).genQ.all (fun e => e.1 != t.cur) = true)
    (applied : ∀ c ∈ (t.part w.part).cores, (t.core c).genUpd = []) : (genUpdate g d add).run t = (.ok .seq, t) := by
  unfold genUpdate
  rw [run_of_gives (gives_crew crew), run_of_gives gives_heldNow, asked]
  refine (run_if_neg Nat.one_ne_zero).trans ?_
  dsimp only
  rw [run_of_gives (gives_get.2 ⟨rfl, rfl⟩), run_of_gives gives_heldNow, asked]
  refine (run_if_neg (by decide)).trans ?_
  refine (Op.run_bind_ok (Op.run_holdUnless ?_ _)).trans ((Op.run_bind_ok (Op.run_holdUnless ?_ _)).trans rfl)
  · rw [Bool.not_eq_true', List.any_eq_false]
    intro e mem
    simpa using List.all_eq_true.1 gone e mem
  · exact List.all_eq_true.2 fun c mem => by rw [applied c mem]; rfl

theorem sIssued_point : ((cur (sIssued s)).heldOf .s).point = 0 := by rw [heldOf_sIssued]; rfl

/-- After the reads of its operands a form still has the entry of its issue, and its crew its partition. -/
theorem genReady (crew : Has w s) (reads : (sIssued s).Reads t) : ∃ x : Crew, x.part = w.part ∧ Has x t ∧ ((cur t).heldOf .s).point = 0 := by
  obtain ⟨descs, tcs, ev, core⟩ := reads.acts
  rw [← reads.cur] at core
  have core : cur t = _ := core
  have crew' := has_sIssued crew
  unfold Has Stmt.cur at crew'
  refine ⟨{ w with descs := descs w }, rfl, ?_, ?_⟩
  · unfold Has
    rw [core, reads.cur, crew']
    rfl
  · rw [core, reads.cur]
    exact sIssued_point

/-- What a form that waits for its update has asked for. -/
theorem genAsks_parts {x : Crew} {i : Instr} (part : x.part = w.part) (holds : exec i s = .next (((genAsked x g d add t).keepHeld s.cur .s
    { ((genAsked x g d add t).core s.cur).heldOf .s with notBefore := 0 }).modCore s.cur (·.count 4 1))) :
    ∃ n, exec i s = .next n ∧ (n.part w.part).genQ = (t.part w.part).genQ ++ [(t.cur, g, d, add)] :=
  ⟨_, holds, by rw [← part]; exact genAsked_genQ⟩

end

end Sys2Proof.Machine

namespace Sys2Proof.Isa

open Sys2Proof.Machine Sys2Proof.Stmt

theorem generatorForms : GeneratorForms := by
  intro s t w g r a b slot imm bs crew
  refine ⟨fun ready bound clear read plain ok => ?_, fun ready bound clear read table all u whole ok => ?_, fun ready => ?_,
    fun h held asked free gone applied => ?_, fun h held asked free gone applied => ?_⟩
  · obtain ⟨x, part, crew', point⟩ := genReady crew (reads_readLin read)
    refine genAsks_parts part (execS_holds rfl ready bound ?_)
    rw [run_of_gives gives_heldNow]
    refine (run_if_neg (not_not_intro sIssued_point)).trans ?_
    rw [run_of_gives (gives_acqClear clear), run_of_gives (gives_sCoord s r imm 64), run_of_gives read]
    exact (run_if_neg plain).trans ((run_if_pos ok).trans (genUpdate_asks crew' point))
  · obtain ⟨x, part, crew', point⟩ := genReady crew ((reads_readLin read).trans (reads_readLin whole))
    refine genAsks_parts part (execS_holds rfl ready bound ?_)
    rw [run_of_gives gives_heldNow]
    refine (run_if_neg (not_not_intro sIssued_point)).trans ?_
    rw [run_of_gives (gives_acqClear clear), run_of_gives (gives_sCoord s r imm 64), run_of_gives read]
    refine (run_if_pos table).trans ?_
    rw [run_of_gives whole]
    exact (run_if_pos ok).trans (genUpdate_asks crew' point)
  · obtain ⟨x, part, crew', point⟩ := genReady crew (State.Reads.refl (sIssued s))
    have run : (do genUpdate g.toNat none ((← xr b) ++ (← xr a))).run (sIssued s) = (.error (.hold 0), genAsked x g.toNat none ((cur s).xr b ++ (cur s).xr a) (sIssued s)) := by
      rw [run_of_gives (gives_readX s b), run_of_gives (gives_readX s a)]
      exact genUpdate_asks crew' point
    have asks := genAsks_parts (i := .genSkip g a b) part (execS_holds rfl ready passes_pure run)
    rw [sIssued_part, sIssued_cur] at asks
    exact asks
  · refine endsAt_of_heldS rfl held free ?_
    rw [run_of_gives gives_heldNow, heldOf_of_held held, asked]
    exact (run_if_pos Nat.one_ne_zero).trans (genUpdate_ends crew (by rw [heldOf_of_held held]; exact asked) gone applied)
  · refine endsAt_of_heldS rfl held free ?_
    rw [run_of_gives (gives_xr.2 ⟨rfl, rfl⟩), run_of_gives (gives_xr.2 ⟨rfl, rfl⟩)]
    exact genUpdate_ends crew (by rw [heldOf_of_held held]; exact asked) gone applied

/-- A skip of a RAND descriptor: its counter, the top 128 bits, moves on (R187). -/
theorem skipped_eq (x : BitVec 512) (add : BitVec 128) : (x.extractLsb' 384 128 + add) ++ x.extractLsb' 0 384 =
    BitVec.ofNat 512 (x.toNat % 2 ^ 384 + ((x.toNat / 2 ^ 384 + add.toNat) % 2 ^ 128) * 2 ^ 384) := by
  apply BitVec.eq_of_toNat_eq
  rw [toNat_beside, BitVec.toNat_add, BitVec.extractLsb'_toNat, BitVec.extractLsb'_toNat, BitVec.toNat_ofNat, Nat.shiftRight_eq_div_pow, Nat.shiftRight_zero]
  omega

theorem Part.ctx_modCtx (p : Part) (c : BitVec 3) (f : Ctx → Ctx) : (p.modCtx c f).ctx c = f (p.ctx c) := Vector.getElem_set_self ..

/-- What an update makes of a generator: the descriptor that `gen.set` gives, or the old one with its counter moved on. -/
def updatedGen (old : GenDesc) (d : Option GenDesc) (add : BitVec 128) : GenDesc :=
  d.getD { old with d := (old.d.extractLsb' 384 128 + add) ++ old.d.extractLsb' 0 384 }

/-- A crew's form has been performed at the generator home. -/
def genPerformed (r : Core) : Core := r.setStr .s { (r.str .s) with held := ((r.str .s).held).map fun h => { h with performed := true } }

/-- The home's queue is left with `rest`. -/
def queueLeft (rest : List (BitVec 7 × Nat × Option GenDesc × BitVec 128)) (p : Part) : Part := { p with genQ := rest }

/-- The home has a new descriptor in generator `g` of its running context. -/
def homeGens (g : Nat) (new : GenDesc) (p : Part) : Part := p.modCtx p.runctx fun x => { x with gens := SMap.put {} x.gens g new }

/-- A generator home has performed an update of generator `g` that core `c` asked for (R187, R188). -/
def homeUpdated (p : BitVec 5) (c : BitVec 7) (g : Nat) (new : GenDesc) (rest : List (BitVec 7 × Nat × Option GenDesc × BitVec 128)) (s : State) : State :=
  ((s.modPart p (queueLeft rest)).modPart p (homeGens g new)).modCore c genPerformed

theorem homeUpdated_part (p : BitVec 5) (c : BitVec 7) (g : Nat) (new : GenDesc) (rest : List (BitVec 7 × Nat × Option GenDesc × BitVec 128)) (s : State) :
    (homeUpdated p c g new rest s).part p = homeGens g new (queueLeft rest (s.part p)) := by
  unfold homeUpdated
  rw [State.part_modCore, State.part_modPart, State.part_modPart]

/-- Every copy is sent an update (R188). -/
def genSent (cores : List (BitVec 7)) (g : Nat) (new : GenDesc) (s : State) : State :=
  cores.foldl (fun s c => (s.modCore c fun r => { r with genUpd := r.genUpd ++ [(g, new)] }).push (.genCopyApply c)) s

theorem genSent_part (cores : List (BitVec 7)) (g : Nat) (new : GenDesc) (s : State) (p : BitVec 5) : (genSent cores g new s).part p = s.part p :=
  List.foldlRecOn (motive := fun t : State => t.part p = s.part p) _ _ rfl fun _ kept _ _ => (State.part_push ..).trans kept

theorem genHomeUpdate_halted {s : State} {p : BitVec 5} (halted : (s.part p).halted = true ∨ (s.part p).halt ≠ none) :
    exec (.genHomeUpdate p) s = .next s := by
  show execGenHomeUpdate p s = _
  unfold execGenHomeUpdate
  split
  · rfl
  · refine congrArg nx (if_pos (Bool.or_eq_true_iff.2 (halted.imp id Option.isSome_iff_ne_none.2)))

theorem genHomeUpdate_performs {s : State} {p : BitVec 5} {c : BitVec 7} {g : Nat} {d : Option GenDesc} {add : BitVec 128}
    {rest : List (BitVec 7 × Nat × Option GenDesc × BitVec 128)} {new : GenDesc} (running : (s.part p).halted = false) (down : (s.part p).halt = none)
    (queue : (s.part p).genQ = (c, g, d, add) :: rest) (takes : d ≠ none ∨ fld (SMap.get {} ((s.part p).ctx (s.part p).runctx).gens g).d 0 3 = 4)
    (is : new = updatedGen (SMap.get {} ((s.part p).ctx (s.part p).runctx).gens g) d add) :
    exec (.genHomeUpdate p) s = .next (genSent (s.part p).cores g new (homeUpdated p c g new rest s)) := by
  show execGenHomeUpdate p s = _
  unfold execGenHomeUpdate
  rw [queue]
  dsimp only
  rw [if_neg (by rw [running, down]; decide)]
  subst is
  cases d with
  | some v => rfl
  | none =>
    have rand := beq_iff_eq.2 (takes.resolve_left (not_not_intro rfl))
    split
    next other => exact absurd (other.symm.trans rand) Bool.false_ne_true
    · rfl

theorem generatorEvents : GeneratorEvents := by
  intro s p c core g d add rest x more old
  refine ⟨genHomeUpdate_halted, fun new running down queue takes is => ?_, fun next => ?_⟩
  · refine ⟨genSent (s.part p).cores g new (homeUpdated p c g new rest s), genHomeUpdate_performs running down queue takes ?_, ?_, ?_⟩
    · cases d with
      | some v => exact is
      | none => rw [is, updatedGen, Option.getD_none, skipped_eq]
    · rw [genSent_part, homeUpdated_part]
      rfl
    · rw [genSent_part, homeUpdated_part, homeGens]
      exact congrArg Ctx.gens (Part.ctx_modCtx ..)
  · show execGenCopyApply core s = _
    unfold execGenCopyApply
    rw [next]
    rfl

/-- Settles O20. -/
theorem generatorUpdates : Obligations.GeneratorUpdates := ⟨generatorForms, generatorEvents⟩

end Sys2Proof.Isa

/-! PROOFS. The end of an S instruction does not look at its entry's results (R194, R240, R354, R462): every operation that it is made of commutes with another
entry in the strand. -/

namespace Sys2Proof.Machine

open Sys2Proof.Stmt

/-- A core whose S strand has another entry. -/
def Core.withHeld (x : Option Held) (r : Core) : Core := r.setStr .s { (r.str .s) with held := x }

/-- A package one of whose cores has another entry on S. -/
def State.withHeld (c : BitVec 7) (x : Option Held) (s : State) : State := s.modCore c (Core.withHeld x)

section
variable {s : State} {c d : BitVec 7} {x : Option Held} {f g : Core → Core}

/-! ### Cores -/

theorem State.modCore_comm (other : d ≠ c) : (s.modCore c f).modCore d g = (s.modCore d g).modCore c f := by
  have apart : c.toFin.val ≠ d.toFin.val := fun same => other (BitVec.eq_of_toNat_eq same.symm)
  show (s.setCore c (f (s.core c))).setCore d (g ((s.modCore c f).core d)) = (s.setCore d (g (s.core d))).setCore c (f ((s.modCore d g).core c))
  rw [State.core_modCore_ne _ _ other, State.core_modCore_ne _ _ (Ne.symm other)]
  unfold State.setCore
  rw [Vector.set_comm _ _ apart]

/-- A change of a core that another entry does not change. -/
theorem State.withHeld_modCore (same : d = c → g ((s.core c).withHeld x) = (f (s.core c)).withHeld x) (other : d ≠ c → g (s.core d) = f (s.core d)) :
    (s.withHeld c x).modCore d g = (s.modCore d f).withHeld c x := by
  unfold State.withHeld
  by_cases is : d = c
  · subst is
    rw [State.modCore_modCore, State.modCore_modCore]
    exact State.modCore_congr (same rfl)
  · rw [State.modCore_comm is, State.modCore_congr (other is)]

theorem State.withHeld_modCore_of (same : ∀ r, f (r.withHeld x) = (f r).withHeld x) : (s.withHeld c x).modCore d f = (s.modCore d f).withHeld c x :=
  State.withHeld_modCore (fun _ => same _) fun _ => rfl

theorem State.core_withHeld_ne (other : d ≠ c) : (s.withHeld c x).core d = s.core d := State.core_modCore_ne _ _ other

/-- What a core is besides the entry of its S strand. -/
theorem State.core_withHeld {α : Type} (field : Core → α) (same : ∀ r, field (r.withHeld x) = field r) (d : BitVec 7) :
    field ((s.withHeld c x).core d) = field (s.core d) := by
  by_cases is : d = c
  · subst is
    rw [State.withHeld, State.core_modCore, same]
  · rw [State.core_withHeld_ne is]

theorem Core.str_withHeld_ne {k : Strand} (r : Core) (other : k ≠ .s) : (r.withHeld x).str k = r.str k := Core.str_setStr_ne _ _ other

theorem Core.str_withHeld (r : Core) : (r.withHeld x).str .s = { (r.str .s) with held := x } := Core.str_setStr ..

/-- What a strand is besides its entry. -/
theorem Core.str_field_withHeld {α : Type} (field : StrandSt → α) (same : ∀ t y, field { t with held := y } = field t) (k : Strand) (r : Core) :
    field ((r.withHeld x).str k) = field (r.str k) := by
  by_cases is : k = .s
  · subst is
    rw [Core.str_withHeld, same]
  · rw [Core.str_withHeld_ne r is]

/-- A change of a strand that does not look at its entry. -/
theorem Core.setStr_withHeld {u : StrandSt → StrandSt} (same : ∀ t y, u { t with held := y } = { u t with held := y }) (k : Strand) (r : Core) :
    (r.withHeld x).setStr k (u ((r.withHeld x).str k)) = (r.setStr k (u (r.str k))).withHeld x := by
  by_cases is : k = .s
  · subst is
    unfold Core.withHeld
    rw [Core.str_setStr, same, Core.setStr_setStr, Core.str_setStr, Core.setStr_setStr]
  · have apart : (strandFin .s).val ≠ (strandFin k).val := by revert is; cases k <;> decide
    rw [Core.str_withHeld_ne r is]
    unfold Core.withHeld
    rw [Core.str_setStr_ne _ _ (Ne.symm is)]
    unfold Core.setStr
    rw [Vector.set_comm _ _ apart]

/-! ### Memory and the I/O die -/

theorem State.withHeld_unitClass (pa : Nat) : (s.withHeld c x).unitClass pa = s.unitClass pa := by
  unfold State.unitClass
  split
  · rfl
  · rw [show ∀ t : State, ∀ d : BitVec 7, t.cores[d.toFin].units = (t.core d).units from fun _ _ => rfl]
    rw [State.core_withHeld Core.units (fun _ => rfl)]
    rfl

theorem Core.count_withHeld (r : Core) (src n : Nat) : (r.withHeld x).count src n = (r.count src n).withHeld x := by
  unfold Core.count
  rfl

theorem State.withHeld_meet (pa n : Nat) : (s.withHeld c x).meet pa n = (s.meet pa n).withHeld c x :=
  List.foldl_hom (State.withHeld c x) (l := s.flawsIn pa n) (init := s.mended pa n) fun t e => by cases e.2 <;> rfl

theorem State.withHeld_bankRead (pa n : Nat) : (s.withHeld c x).bankRead pa n = ((s.bankRead pa n).1.withHeld c x, (s.bankRead pa n).2) := by
  unfold State.bankRead State.expiredRead
  rw [State.withHeld_unitClass, State.withHeld_meet, show (s.withHeld c x).expired pa = s.expired pa from rfl]
  split
  · dsimp only
    split
    · exact Prod.ext (State.withHeld_modCore_of (s := s.expireRow (rowOf pa)) (f := (·.count 56 1)) fun r => r.count_withHeld 56 1) rfl
    · rfl
  · rfl

theorem State.withHeld_unpoison (pa n : Nat) : (s.withHeld c x).unpoison pa n = (s.unpoison pa n).withHeld c x := by
  unfold State.unpoison
  split <;> rfl

theorem State.withHeld_bankWrite (pa : Nat) (bs : List Byte) : (s.withHeld c x).bankWrite pa bs = (s.bankWrite pa bs).withHeld c x := by
  have cleared : (s.withHeld c x).cleared pa = (s.cleared pa).withHeld c x := by
    unfold State.cleared
    rw [show (s.withHeld c x).expired pa = s.expired pa from rfl]
    split
    · exact State.withHeld_unpoison (s := s.poke (2048 * rowOf pa) (List.replicate 2048 0)) ..
    · rfl
  have readied : (s.withHeld c x).readied pa = (s.readied pa).withHeld c x := by
    unfold State.readied
    rw [cleared]
    split <;> rfl
  rw [State.bankWrite_eq, State.bankWrite_eq, readied]
  exact State.withHeld_unpoison (s := (s.readied pa).poke pa bs) ..

theorem State.withHeld_linRead (p : BitVec 5) (ctx : BitVec 3) (addr n : Nat) :
    (s.withHeld c x).linRead p ctx addr n = ((s.linRead p ctx addr n).1.withHeld c x, (s.linRead p ctx addr n).2) := by
  refine List.foldl_hom (fun a : State × Except LinErr (List Byte) => (a.1.withHeld c x, a.2)) (init := (s, .ok [])) fun a q => ?_
  obtain ⟨t, e | bs⟩ := a
  · rfl
  dsimp only
  rw [show (t.withHeld c x).linPa p ctx q.1 q.2 false = t.linPa p ctx q.1 q.2 false from rfl]
  split
  · rw [show (t.withHeld c x).devAnswer p ctx q.1 (.read q.2) = t.devAnswer p ctx q.1 (.read q.2) from rfl]
    split <;> rfl
  · rfl
  · rw [State.withHeld_bankRead]
    rcases t.bankRead _ q.2 with ⟨u, found⟩
    cases found <;> rfl

theorem State.withHeld_linWrite (p : BitVec 5) (ctx : BitVec 3) (addr : Nat) (bs : List Byte) :
    (s.withHeld c x).linWrite p ctx addr bs = (s.linWrite p ctx addr bs).map (State.withHeld c x) := by
  refine List.foldl_hom (Except.map (State.withHeld c x)) (init := .ok s) fun a q => ?_
  obtain e | t := a
  · rfl
  dsimp only [Except.map]
  rw [show (s.withHeld c x).linPa p ctx q.1 q.2 true = s.linPa p ctx q.1 q.2 true from rfl]
  split
  · rfl
  · rfl
  · rw [show (s.withHeld c x).heldFrame _ = s.heldFrame _ from rfl]
    split
    · rfl
    · exact congrArg Except.ok (State.withHeld_bankWrite ..)

/-! ### Faults, traces, loops -/

theorem State.withHeld_devWrite (p : BitVec 5) (addr : Nat) (bs : List Byte) : (s.withHeld c x).devWrite p addr bs = (s.devWrite p addr bs).withHeld c x := by
  unfold State.devWrite
  rw [State.withHeld_linWrite]
  cases s.linWrite p 0 addr bs <;> rfl

theorem State.withHeld_faultHeader (p : BitVec 5) : (s.withHeld c x).faultHeader p = ((s.faultHeader p).1.withHeld c x, (s.faultHeader p).2) := by
  unfold State.faultHeader
  rw [show (s.withHeld c x).part p = s.part p from rfl, State.withHeld_linRead]
  rcases s.linRead p 0 (s.part p).pfaultq.toNat 24 with ⟨t, e | bs⟩ <;> rfl

theorem State.withHeld_sendMsix (f v : Nat) : (s.withHeld c x).sendMsix f v = (s.sendMsix f v).withHeld c x := by
  unfold State.sendMsix State.modFunc
  rw [show (s.withHeld c x).func f = s.func f from rfl]
  split
  · split <;> rfl
  · rfl

theorem State.withHeld_writeRecord (p : BitVec 5) (r : FaultRec) : (s.withHeld c x).writeRecord p r = (s.writeRecord p r).withHeld c x := by
  unfold State.writeRecord
  rw [State.withHeld_faultHeader, show (s.withHeld c x).part p = s.part p from rfl]
  rcases s.faultHeader p with ⟨t, e | ⟨w, rd, ls, vec, dropped⟩⟩
  · cases e <;> rfl
  · dsimp only
    split
    · rw [State.withHeld_devWrite, State.withHeld_devWrite]
      split
      · exact State.withHeld_sendMsix ..
      · rfl
    · split
      · rfl
      · exact State.withHeld_devWrite ..

/-- A yield request loses its deadline (R233). -/
def dropDeadline (r : Core) : Core := { r with yld := { r.yld with deadline := none } }

theorem State.withHeld_raiseLine (p : BitVec 5) (cause : Nat) : (s.withHeld c x).raiseLine p cause = (s.raiseLine p cause).withHeld c x := by
  unfold State.raiseLine
  rw [show (s.withHeld c x).part p = s.part p from rfl]
  cases (s.part p).halt with
  | none => rfl
  | some h =>
    dsimp only
    split
    · rfl
    · split
      · exact List.foldl_hom (State.withHeld c x) (g₁ := fun (t : State) d => t.modCore d dropDeadline) (g₂ := fun (t : State) d => t.modCore d dropDeadline)
          (init := s.modPart p fun t => { t with halt := some { h with cause := 1 }, preempt := none, swap := none })
          fun _ _ => State.withHeld_modCore_of fun _ => rfl
      · rfl

theorem State.withHeld_takeFault (k : Strand) (pc word : W32) (e : FaultInfo) : (s.withHeld c x).takeFault d k pc word e = (s.takeFault d k pc word e).withHeld c x := by
  unfold State.takeFault
  rw [State.core_withHeld Core.crew (fun _ => rfl)]
  cases (s.core d).crew with
  | none => rfl
  | some w =>
    dsimp only
    rw [State.withHeld_writeRecord, show (s.withHeld c x).time = s.time from rfl]
    generalize s.writeRecord w.part _ = t
    have marked : ((t.withHeld c x).modCore d fun r => r.setStr k { (((t.withHeld c x).core d).str k) with
        fault := some ((((t.withHeld c x).core d).str k).fault.getD (e.kind, e.sub)) }) =
        (t.modCore d fun r => r.setStr k { ((t.core d).str k) with fault := some (((t.core d).str k).fault.getD (e.kind, e.sub)) }).withHeld c x := by
      refine State.withHeld_modCore (fun same => ?_) fun other => ?_
      · subst same
        rw [State.withHeld, State.core_modCore]
        exact Core.setStr_withHeld (u := fun t => { t with fault := some (t.fault.getD (e.kind, e.sub)) }) (fun _ _ => rfl) k _
      · rw [State.core_withHeld_ne other]
    rw [marked]
    split
    · exact State.withHeld_raiseLine ..
    · rfl

theorem State.withHeld_traceEvent (k : Strand) (kind : Nat) (pc : W32) : (s.withHeld c x).traceEvent d k kind pc = (s.traceEvent d k kind pc).withHeld c x := by
  unfold State.traceEvent
  rw [State.core_withHeld Core.crew (fun _ => rfl)]
  cases (s.core d).crew with
  | none => rfl
  | some w =>
    refine List.foldl_hom (State.withHeld c x) fun t i => ?_
    dsimp only
    have region : (((t.withHeld c x).core d).str k).regionWord = ((t.core d).str k).regionWord :=
      State.core_withHeld (fun r => (r.str k).regionWord) (fun r => r.str_field_withHeld StrandSt.regionWord (fun _ _ => rfl) k) d
    have follows : (t.withHeld c x).traces (BitVec.ofNat 7 i) w.part w.ctx = t.traces (BitVec.ofNat 7 i) w.part w.ctx := by
      unfold State.traces
      rw [State.core_withHeld Core.crew (fun _ => rfl), State.core_withHeld Core.trace (fun _ => rfl)]
      rfl
    rw [follows, region, State.core_withHeld Core.crew (fun _ => rfl), State.core_withHeld Core.trace (fun _ => rfl)]
    split
    · cases (t.core (BitVec.ofNat 7 i)).crew with
      | none => rfl
      | some h =>
        dsimp only
        rw [show (t.withHeld c x).time = t.time from rfl, State.withHeld_linWrite]
        rcases t.linWrite _ _ _ _ with e | u
        · dsimp only [Except.map]
          rw [State.withHeld_modCore_of]
          · rw [State.core_withHeld (fun r => (r.str .s).pc) (fun r => r.str_field_withHeld StrandSt.pc (fun _ _ => rfl) .s)]
            exact State.withHeld_takeFault ..
          · exact fun _ => rfl
        · exact State.withHeld_modCore_of fun _ => rfl
    · rfl

theorem State.withHeld_loopExit (k : Strand) (pc : W32) : (s.withHeld c x).loopExit d k pc = (s.loopExit d k pc).withHeld c x := by
  unfold State.loopExit
  rw [State.withHeld_traceEvent]
  generalize s.traceEvent d k trLoop pc = t
  dsimp only
  have region : (((t.withHeld c x).core d).str k).region = ((t.core d).str k).region :=
    State.core_withHeld (fun r => (r.str k).region) (fun r => r.str_field_withHeld StrandSt.region (fun _ _ => rfl) k) d
  rw [State.core_withHeld Core.ev (fun _ => rfl), region]
  split
  · rfl
  · exact State.withHeld_modCore_of fun _ => rfl

theorem State.withHeld_advance (k : Strand) (pc : W32) (len : Nat) : (s.withHeld c x).advance d k pc len = (s.advance d k pc len).withHeld c x := by
  have loops : (((s.withHeld c x).core d).str k).loops = ((s.core d).str k).loops :=
    State.core_withHeld (fun r => (r.str k).loops) (fun r => r.str_field_withHeld StrandSt.loops (fun _ _ => rfl) k) d
  unfold State.advance
  dsimp only
  rw [loops]
  generalize loopEnd _ _ _ = l
  obtain ⟨pc', left, n⟩ := l
  dsimp only
  rw [State.withHeld_modCore_of fun r => Core.setStr_withHeld (u := fun t => { t with pc := pc', loops := left }) (fun _ _ => rfl) k r]
  exact List.foldl_hom (State.withHeld c x) fun t _ => State.withHeld_loopExit k pc

/-! ### The end of an S instruction -/

theorem State.withHeld_withHeld (y : Option Held) : (s.withHeld c x).withHeld c y = s.withHeld c y := by
  refine (State.modCore_modCore ..).trans (State.modCore_congr ?_)
  unfold Core.withHeld
  rw [Core.setStr_setStr, Core.str_setStr]

theorem State.withHeld_same (held : ((s.core c).str .s).held = x) : s.withHeld c x = s := by
  refine State.modCore_same ?_
  unfold Core.withHeld
  rw [← held]
  exact Core.setStr_self ..

theorem State.held_withHeld : (((s.withHeld c x).core c).str .s).held = x := by rw [State.withHeld, State.core_modCore, Core.str_withHeld]

theorem State.dropWaits_eq (k : Strand) : s.dropWaits c k =
    { s with waits := s.waits.filter fun w => !(w.core == c && w.strand == k && w.seq == ((s.core c).str k).seqNow) } := by
  unfold State.dropWaits
  split
  next none_ =>
    have empty : ∀ p, s.waits.filter p = s.waits := fun p => by rw [List.isEmpty_iff.1 none_]; rfl
    rw [empty]
  · rfl

/-- An S instruction that posts nothing and goes on ends alike with two entries of one pc and one number. -/
theorem finish_withHeld {h e : Held} (held : ((s.core c).str .s).held = some h) (next : h.next = none) (post : h.post = none)
    (same : e.next = none ∧ e.post = none ∧ e.pc = h.pc ∧ e.seq = h.seq) (len : Nat) : finish c .s len (s.withHeld c (some e)) = finish c .s len s := by
  have ends : ∀ {t : State} {e : Held}, ((t.core c).str .s).held = some e → e.next = none → e.post = none →
      finish c .s len t = (({ (t.advance c .s e.pc len).withHeld c none with
        waits := (t.advance c .s e.pc len).waits.filter fun w => !(w.core == c && w.strand == .s && w.seq == e.seq.getD 0) } : State)).countRetired c .s :=
    fun {t e} entry next post => by
      have stays : (((t.advance c .s e.pc len).core c).str .s).held = some e := by
        rw [← State.withHeld_same entry, State.withHeld_advance]
        exact State.held_withHeld
      unfold finish
      rw [show (t.core c).heldOf .s = e from by rw [Core.heldOf, entry]; rfl, State.complete_s next, State.dropWaits_eq, StrandSt.seqNow, stays]
      refine congrArg (State.countRetired · c .s) ?_
      unfold State.finishPost
      rw [post]
      rfl
  obtain ⟨next', post', pc, seq⟩ := same
  rw [ends State.held_withHeld next' post', ends held next post, pc, seq, State.withHeld_advance, State.withHeld_withHeld]
  rfl

end

end Sys2Proof.Machine

/-! PROOFS. Chunk queues (R107 to R110, R363, R364). -/

namespace Sys2Proof.Machine

open Sys2Proof.Stmt

/-! ### A queue's entry -/

/-- The number of a chunk queue's entry (R107). -/
theorem Chunk.bits_toNat (k : Chunk) : k.bits.toNat = k.next % 2 ^ 48 + k.sdom.toNat * 2 ^ 48 + k.remain % 2 ^ 48 * 2 ^ 64 + k.minchunk % 2 ^ 16 * 2 ^ 112 +
    k.gran % 2 ^ 16 * 2 ^ 128 + k.workers % 2 ^ 8 * 2 ^ 144 + k.steal.toNat * 2 ^ 152 + k.conf.toNat * 2 ^ 153 := by
  unfold Chunk.bits
  simp only [toNat_beside, toNat_flag, BitVec.toNat_ofNat, show (0 : BitVec 102).toNat = 0 from rfl]
  omega

/-- A queue whose counts fit their fields comes back from its bits. -/
theorem Chunk.ofBits_bits {k : Chunk} (workers : k.workers < 2 ^ 8) (gran : k.gran < 2 ^ 16) (least : k.minchunk < 2 ^ 16) (remain : k.remain < 2 ^ 48)
    (next : k.next < 2 ^ 48) : Chunk.ofBits k.bits = k := by
  have sdom := k.sdom.isLt
  have fields : fld k.bits 144 8 = k.workers ∧ fld k.bits 128 16 = k.gran ∧ fld k.bits 112 16 = k.minchunk ∧ fld k.bits 64 48 = k.remain ∧ fld k.bits 0 48 = k.next := by
    have steal := k.steal.toNat_le
    have conf := k.conf.toNat_le
    unfold fld
    rw [Chunk.bits_toNat]
    omega
  have domain : k.bits.extractLsb' 48 16 = k.sdom := by
    apply BitVec.eq_of_toNat_eq
    rw [BitVec.extractLsb'_toNat, Nat.shiftRight_eq_div_pow, Chunk.bits_toNat]
    omega
  have steals : k.bits.getLsbD 152 = k.steal := by
    rw [getLsbD_eq_odd, Chunk.bits_toNat]
    cases k.steal <;> cases k.conf <;> simp only [Bool.toNat_false, Bool.toNat_true, decide_eq_false_iff_not, decide_eq_true_eq] <;> omega
  have configured : k.bits.getLsbD 153 = k.conf := by
    rw [getLsbD_eq_odd, Chunk.bits_toNat]
    cases k.steal <;> cases k.conf <;> simp only [Bool.toNat_false, Bool.toNat_true, decide_eq_false_iff_not, decide_eq_true_eq] <;> omega
  obtain ⟨a, b, c, d, e⟩ := fields
  unfold Chunk.ofBits
  rw [a, b, c, d, e, domain, steals, configured]

/-! ### Grants (R108) -/

/-- Rounding up to a multiple of `g` does not make smaller. -/
theorem le_roundUp {g : Nat} (some_ : 0 < g) (n : Nat) : n ≤ g * ((n + g - 1) / g) := by
  rw [← Nat.ceilDiv_eq_add_pred_div]
  exact (ceilDiv_le_iff_le_mul some_).1 le_rfl

/-- It gives the least multiple of `g` that is not below. -/
theorem roundUp_le {g n m : Nat} (some_ : 0 < g) (multiple : g ∣ m) (above : n ≤ m) : g * ((n + g - 1) / g) ≤ m := by
  obtain ⟨j, rfl⟩ := multiple
  rw [← Nat.ceilDiv_eq_add_pred_div]
  exact Nat.mul_le_mul_left g ((ceilDiv_le_iff_le_mul some_).2 above)

/-- The least grant of a queue: MINCHUNK, or the share of a worker. -/
def Chunk.share (k : Chunk) (w : Nat) : Nat := max k.minchunk ((k.remain + 2 * w - 1) / (2 * w))

theorem Chunk.grant_eq {k : Chunk} (some_ : 0 < k.remain) (w : Nat) : k.grant w =
    let n := min (k.gran * ((k.share (max w 1) + k.gran - 1) / k.gran)) k.remain
    (k.next, n, { k with next := k.next + n, remain := k.remain - n }) := if_neg (Nat.pos_iff_ne_zero.1 some_)

/-! ### What waits at a queue (R108) -/

/-- What waits at a chunk queue on one core. -/
def State.waitsAt (s : State) (p : BitVec 5) (ctx : BitVec 3) (q : BitVec 6) (c : BitVec 7) : Option (BitVec 7 × Steal) :=
  (s.core c).steal.bind fun t => if t.part = p ∧ t.ctx = ctx ∧ t.q = q then some (c, t) else none

theorem State.chunkLine_eq (s : State) (p : BitVec 5) (ctx : BitVec 3) (q : BitVec 6) :
    s.chunkLine p ctx q = sortBy (fun a b => decide (a.2.came ≤ b.2.came)) ((s.part p).cores.filterMap (s.waitsAt p ctx q)) := by
  unfold State.chunkLine
  refine congrArg _ (congrArg (List.filterMap · _) (funext fun c => ?_))
  unfold State.waitsAt
  cases (s.core c).steal <;> rfl

theorem sortBy_eq_nil {α : Type} {le : α → α → Bool} {l : List α} (empty : sortBy le l = []) : l = [] := by
  cases l with
  | nil => rfl
  | cons a l => exact absurd empty (by unfold sortBy insertBy; simp)

theorem Part.cores_nodup (p : Part) : p.cores.Nodup := by
  refine List.Nodup.map_on (fun a low b low' same => ?_) (List.nodup_range.filter _)
  have low := List.mem_range.1 (List.mem_filter.1 low).1
  have low' := List.mem_range.1 (List.mem_filter.1 low').1
  have same := congrArg BitVec.toNat same
  rw [BitVec.toNat_ofNat, BitVec.toNat_ofNat] at same
  omega

/-- A list of which one element alone has an image. -/
theorem filterMap_alone {α β : Type} {f : α → Option β} {l : List α} {a : α} {b : β} (once : l.Nodup) (mem : a ∈ l) (image : f a = some b)
    (others : ∀ c ∈ l, c ≠ a → f c = none) : l.filterMap f = [b] := by
  obtain ⟨l, m, rfl⟩ := List.append_of_mem mem
  have apart := List.nodup_append.1 once
  have before : l.filterMap f = [] := List.filterMap_eq_nil_iff.2 fun c inside =>
    others c (List.mem_append_left _ inside) fun same => apart.2.2 c inside a (List.mem_cons_self ..) same
  have after : m.filterMap f = [] := List.filterMap_eq_nil_iff.2 fun c inside =>
    others c (List.mem_append_right _ (List.mem_cons_of_mem _ inside)) fun same => (List.nodup_cons.1 apart.2.1).1 (same ▸ inside)
  rw [List.filterMap_append, List.filterMap_cons, image, before, after]
  rfl

section
variable {s u : State} {w : Crew} {c : BitVec 7} {q d : BitVec 6} {t : Steal} {h : Held} {init : Option Chunk}

/-- A core whose chunk form comes to its queue. -/
def comes (t : Steal) (r : Core) : Core := { r with steal := some t }

/-- What a chunk form asks of its queue. -/
def asksQueue (s : State) (w : Crew) (q d : BitVec 6) (init : Option Chunk) : Steal :=
  { part := w.part, ctx := w.ctx, q := q, came := s.time, d := d, init := init.map (·.bits) }

theorem sIssued_core_ne (other : c ≠ s.cur) : (sIssued s).core c = s.core c := by
  rw [sIssued_eq]
  exact State.core_modCore_ne _ _ other

/-- Where nothing waits, a form that comes is alone. -/
theorem chunkLine_alone (alone : Alone s w q) (t : Steal) (part : t.part = w.part) (ctx : t.ctx = w.ctx) (is : t.q = q) :
    (onCore (comes t) (sIssued s)).chunkLine w.part w.ctx q = [(s.cur, t)] := by
  obtain ⟨mine, -, empty⟩ := alone
  rw [State.chunkLine_eq] at empty ⊢
  have none_ := List.filterMap_eq_nil_iff.1 (sortBy_eq_nil empty)
  have here : (onCore (comes t) (sIssued s)).waitsAt w.part w.ctx q s.cur = some (s.cur, t) := by
    unfold State.waitsAt
    rw [← sIssued_cur s, ← onCore_cur (comes t), ← Stmt.cur, cur_onCore]
    exact if_pos ⟨part, ctx, is⟩
  have cores : ((onCore (comes t) (sIssued s)).part w.part).cores = (s.part w.part).cores := congrArg Part.cores (sIssued_part s w.part)
  rw [cores, filterMap_alone (Part.cores_nodup _) mine here fun c inside other => ?_]
  · rfl
  · rw [← none_ c inside]
    unfold State.waitsAt onCore
    rw [State.core_modCore_ne _ _ (by rw [sIssued_cur]; exact other), sIssued_core_ne other]

/-- A form that has come to its queue and been performed there leaves its core as it was, but for its entry. -/
theorem chunkDone_comes (free : (u.core c).steal = none) (held : ((u.core c).str .s).held = some h) (results : List (BitVec 6 × Word)) :
    (u.modCore c (comes t)).chunkDone c results = u.withHeld c (some { h with performed := true, results := results }) := by
  unfold State.chunkDone
  rw [State.modCore_modCore]
  refine State.modCore_congr ?_
  unfold comes Core.withHeld
  dsimp only
  rw [show (({ u.core c with steal := some t } : Core).str .s).held = some h from held, ← free]
  rfl

/-- The entry of a chunk form that has been performed. -/
def chunkHeld (s : State) (results : List (BitVec 6 × Word)) : Held := { s.newHeld .s noTok with performed := true, results := results }

/-- The queue runs what has come to it. -/
theorem chunkWait_run (crew : Has w s) (alone : Alone s w q) :
    (chunkWait q d init).run (sIssued s) = (holdUnless ((cur ((onCore (comes (asksQueue s w q d init)) (sIssued s)).chunkServe s.cur (asksQueue s w q d init)).2).heldOf .s).performed).run
      ((onCore (comes (asksQueue s w q d init)) (sIssued s)).chunkServe s.cur (asksQueue s w q d init)).2 := by
  have free : (cur (sIssued s)).steal.isNone = true := by
    rw [cur_sIssued]
    exact Option.isNone_iff_eq_none.2 alone.2.1
  have ran : (onCore (comes (asksQueue s w q d init)) (sIssued s)).chunkRun w.part w.ctx q =
      ((onCore (comes (asksQueue s w q d init)) (sIssued s)).chunkServe s.cur (asksQueue s w q d init)).2 := by
    unfold State.chunkRun
    rw [chunkLine_alone alone _ rfl rfl rfl]
    rfl
  unfold chunkWait
  rw [run_of_gives (gives_crew (has_sIssued crew)), run_of_gives gives_heldNow, heldOf_sIssued]
  refine (run_if_pos rfl).trans ?_
  rw [run_of_gives (gives_curCore.2 ⟨rfl, rfl⟩)]
  refine (run_if_pos free).trans ?_
  refine (Op.run_bind_ok (a := PUnit.unit) (t := (onCore (comes (asksQueue s w q d init)) (sIssued s)).chunkRun w.part w.ctx q) ?_).trans ?_
  · unfold asksQueue
    rw [← sIssued_time s]
    rfl
  · rw [ran, run_of_gives gives_heldNow]

/-- A form that its queue performs at once. -/
theorem gives_chunkWait {v : State} {results : List (BitVec 6 × Word)} (crew : Has w s) (alone : Alone s w q)
    (served : (onCore (comes (asksQueue s w q d init)) (sIssued s)).chunkServe s.cur (asksQueue s w q d init) =
      (true, (v.modCore s.cur (comes (asksQueue s w q d init))).chunkDone s.cur results)) (acts : v.cur = s.cur) (core : cur v = cur (sIssued s)) :
    Gives (chunkWait q d init) (sIssued s) () (v.withHeld s.cur (some (chunkHeld s results))) := by
  have held : ((v.core s.cur).str .s).held = some (s.newHeld .s noTok) := by
    rw [← acts, ← Stmt.cur, core, cur_sIssued, Core.str_setStr]
  have free : (v.core s.cur).steal = none := by
    rw [← acts, ← Stmt.cur, core, cur_sIssued]
    exact alone.2.1
  have entry : (cur (v.withHeld s.cur (some (chunkHeld s results)))).heldOf .s = chunkHeld s results := by
    unfold Stmt.cur
    rw [show (v.withHeld s.cur (some (chunkHeld s results))).cur = s.cur from acts]
    exact congrArg (Option.getD · {}) State.held_withHeld
  rw [gives_iff, chunkWait_run crew alone, served, chunkDone_comes free held]
  exact Op.run_holdUnless (congrArg Held.performed entry) _

end

end Sys2Proof.Machine

namespace Sys2Proof.Isa

open Sys2Proof.Machine Sys2Proof.Stmt

theorem chunkGrantSize : ChunkGrantSize := by
  intro k w some_ gran w' n
  have workers : max w 1 = w' := by show _ = if w = 0 then 1 else w; split <;> omega
  have positive : 0 < 2 * w' := by rw [← workers]; omega
  have size : n = min (k.gran * ((k.share w' + k.gran - 1) / k.gran)) k.remain := by
    show (k.grant w).2.1 = _
    rw [Chunk.grant_eq some_, workers]
  have shares : k.share w' ≤ k.gran * ((k.share w' + k.gran - 1) / k.gran) := le_roundUp gran _
  have rest : k.remain ≤ 2 * w' * k.share w' := (le_roundUp positive k.remain).trans (Nat.mul_le_mul_left _ (le_max_right ..))
  refine ⟨by rw [Chunk.grant_eq some_], size ▸ min_le_right .., ?_, ?_, ?_, fun m multiple least enough => ?_⟩
  · show _ = { k with next := k.next + (k.grant w).2.1, remain := k.remain - (k.grant w).2.1 }
    rw [Chunk.grant_eq some_]
  · rcases min_choice (k.gran * ((k.share w' + k.gran - 1) / k.gran)) k.remain with is | is
    · exact .inr (size.trans is ▸ Nat.dvd_mul_right ..)
    · exact .inl (size.trans is)
  · rcases min_choice (k.gran * ((k.share w' + k.gran - 1) / k.gran)) k.remain with is | is
    · rw [size, is]
      exact .inr ⟨(le_max_left ..).trans shares, rest.trans (Nat.mul_le_mul_left _ shares)⟩
    · exact .inl (size.trans is)
  · refine size ▸ (min_le_left ..).trans (roundUp_le gran multiple (max_le least ?_))
    rw [← Nat.ceilDiv_eq_add_pred_div]
    exact (ceilDiv_le_iff_le_mul positive).2 enough

theorem stealEvents : StealEvents := by
  intro s sdom pkg core thief start n
  refine ⟨?_, fun t waits => ?_, fun none_ => ?_⟩
  · show nx (s.serveSteal sdom (s.fabric.posOf pkg.toNat) thief) = _
    unfold State.serveSteal
    dsimp only
    rw [show ((List.range 32).findSome? fun p => _) = victimOf s sdom from rfl]
    rcases victimOf s sdom with _ | ⟨p, q⟩ <;> rfl
  · intro left serves
    refine ⟨fun some_ => ?_, fun zero last => ?_, fun zero here x y r more => ?_⟩
    · show execStealGrant core start n s = _
      unfold execStealGrant
      rw [waits]
      dsimp only
      rw [if_neg fun both => some_ both.1]
      dsimp only
      rw [if_neg some_]
      rfl
    · show execStealGrant core start n s = _
      unfold execStealGrant
      rw [waits]
      dsimp only
      have none_ : (if n = 0 ∧ (!t.orphan) = true then t.left.drop 1 else []) = [] := by
        split
        next asks =>
          have few : t.left.length ≤ 1 := last.resolve_right fun orphan => by rw [orphan] at asks; exact absurd asks.2 (by decide)
          exact List.drop_eq_nil_of_le few
        · rfl
      rw [none_]
      dsimp only
      rw [if_pos zero]
      rfl
    · show execStealGrant core start n s = _
      unfold execStealGrant
      rw [waits]
      dsimp only
      rw [if_pos ⟨zero, by rw [here]; rfl⟩, more]
      rfl
  · show execStealGrant core start n s = _
    unfold execStealGrant
    rw [none_]
    rfl

end Sys2Proof.Isa

/-! PROOFS. The chunk forms (R108, R109, R363, R364). -/

namespace Sys2Proof.Machine

open Sys2Proof.Stmt

section
variable {s u v : State} {i : Instr} {w : Crew} {c : BitVec 7} {q d a b : BitVec 6} {init : Option Chunk} {results : List (BitVec 6 × Word)}

/-- What a queue's state becomes, as it serves a form. -/
def queueSet (w : Crew) (q : BitVec 6) (k : Chunk) (s : State) : State := s.modPart w.part fun p => p.modChunk w.ctx q.toNat fun _ => k

theorem State.modPart_congr {p : BitVec 5} {f g : Part → Part} (same : f (s.part p) = g (s.part p)) : s.modPart p f = s.modPart p g := congrArg (s.setPart p) same

theorem Part.modChunk_congr {p : Part} {ctx : BitVec 3} {q : Nat} {f g : Chunk → Chunk} (same : f ((p.ctx ctx).chunk q) = g ((p.ctx ctx).chunk q)) :
    p.modChunk ctx q f = p.modChunk ctx q g := by
  unfold Part.modChunk Part.modCtx
  dsimp only
  rw [same]

theorem extract_toNat {m : Nat} (v : BitVec m) (lo n : Nat) : (v.extractLsb' lo n).toNat = fld v lo n := by
  rw [BitVec.extractLsb'_toNat, Nat.shiftRight_eq_div_pow]
  rfl

/-- The state of the queue that a form asks. -/
theorem chunkOf_comes (s : State) (w : Crew) (q : Nat) (t : Steal) : ((((onCore (comes t) (sIssued s)).part w.part).ctx w.ctx).chunk q) = chunkOf s w q := by
  rw [show (onCore (comes t) (sIssued s)).part w.part = (sIssued s).part w.part from rfl, sIssued_part]
  rfl

theorem chunkServe_init (s : State) (w : Crew) (q d : BitVec 6) (k : Chunk) :
    (onCore (comes (asksQueue s w q d (some k))) (sIssued s)).chunkServe s.cur (asksQueue s w q d (some k)) =
      (true, ((queueSet w q { Chunk.ofBits k.bits with workers := (chunkOf s w q.toNat).workers } (sIssued s)).modCore s.cur
        (comes (asksQueue s w q d (some k)))).chunkDone s.cur []) := by
  rw [← chunkOf_comes s w q.toNat (asksQueue s w q d (some k)), ← sIssued_cur s]
  rfl

/-- What a fetch is given. -/
def fetchResults (d : BitVec 6) (start n : Nat) : List (BitVec 6 × Word) := [(d, BitVec.ofNat 64 start), (d + 1, BitVec.ofNat 64 n)]

/-- A steal that asks its first victim (R109). -/
def stealing (s : State) (w : Crew) (q d : BitVec 6) (v : Nat) (vs : List Nat) : Steal := { asksQueue s w q d none with asked := true, left := v :: vs }

/-- A fetch alone at its queue is served with a grant, or with none, or starts its steal. -/
theorem chunkServe_fetch (s : State) (w : Crew) (q d : BitVec 6) :
    let t := asksQueue s w q d none
    let k := chunkOf s w q.toNat
    let u := onCore (comes t) (sIssued s)
    u.chunkServe s.cur t =
      if (!k.conf) = true then (true, u.chunkDone s.cur (fetchResults d 0 0))
      else if k.remain ≠ 0 then
        (true, (queueSet w q (k.grant k.workers).2.2 u).chunkDone s.cur (fetchResults d (k.grant k.workers).1 (k.grant k.workers).2.1))
      else match if k.steal && !t.asked then u.victims k.sdom else [] with
        | [] => (true, u.chunkDone s.cur (fetchResults d k.next 0))
        | v :: vs => (false, (u.modCore s.cur fun r => { r with steal := some (stealing s w q d v vs) }).askVictim s.cur k.sdom v) := by
  intro t k u
  show _ = if (!(chunkOf s w q.toNat).conf) = true then _ else _
  rw [← chunkOf_comes s w q.toNat (asksQueue s w q d none)]
  rfl

theorem victims_comes (s : State) (t : Steal) (sdom : BitVec 16) : (onCore (comes t) (sIssued s)).victims sdom = s.victims sdom := by
  rw [sIssued_eq]
  rfl

/-- An instruction whose effect is that of its end with another entry. -/
theorem endsAt_withHeld (core : ((v.core s.cur).str .s).held = some (s.newHeld .s noTok))
    (ends : EndsAt i s .s 1 (v.withHeld s.cur (some (chunkHeld s results)))) : EndsAt i s .s 1 v := by
  exact ends.trans (congrArg _ (finish_withHeld (e := chunkHeld s results) core rfl rfl ⟨rfl, rfl, rfl, rfl⟩ 1))

theorem Core.setX_withHeld {x : Option Held} (r : Core) (d : BitVec 6) (v : Word) : (r.withHeld x).setX d v = (r.setX d v).withHeld x := by
  unfold Core.setX
  split <;> rfl

theorem fetched_withHeld {x : Option Held} (d : BitVec 6) (start n : Nat) (r : Core) : fetched d start n (r.withHeld x) = (fetched d start n r).withHeld x := by
  unfold fetched
  rw [Core.setX_withHeld, Core.setX_withHeld]

theorem held_fetched (d : BitVec 6) (start n : Nat) (r : Core) : ((fetched d start n r).str .s).held = (r.str .s).held := by
  unfold fetched
  simp [Core.str]

/-- A fetch that its queue performs at once writes what it was given. -/
theorem fetch_ends {start n : Nat} (crew : Has w s) (ready : SReady [a] s) (clear : NoAcquire s) (alone : Alone s w (((cur s).xr a).extractLsb' 0 6))
    (served : (onCore (comes (asksQueue s w (((cur s).xr a).extractLsb' 0 6) d none)) (sIssued s)).chunkServe s.cur
      (asksQueue s w (((cur s).xr a).extractLsb' 0 6) d none) =
      (true, (v.modCore s.cur (comes (asksQueue s w (((cur s).xr a).extractLsb' 0 6) d none))).chunkDone s.cur (fetchResults d start n)))
    (acts : v.cur = s.cur) (core : cur v = cur (sIssued s)) : EndsAt (.chunkFetch d a) s .s 1 (onCore (fetched d start n) v) := by
  have waited := gives_chunkWait crew alone served acts core
  have held : ((v.core s.cur).str .s).held = some (s.newHeld .s noTok) := by
    rw [← acts, ← Stmt.cur, core, cur_sIssued, Core.str_setStr]
  have entry : (cur (v.withHeld s.cur (some (chunkHeld s (fetchResults d start n))))).heldOf .s = chunkHeld s (fetchResults d start n) := by
    unfold Stmt.cur
    rw [show (v.withHeld s.cur (some (chunkHeld s (fetchResults d start n)))).cur = s.cur from acts]
    exact congrArg (Option.getD · {}) State.held_withHeld
  refine endsAt_withHeld (results := fetchResults d start n) ?_ ?_
  · rw [← acts, ← onCore_cur (fetched d start n), ← Stmt.cur, cur_onCore, held_fetched, Stmt.cur, acts, held]
  · have wrote : (onCore (fetched d start n) v).withHeld s.cur (some (chunkHeld s (fetchResults d start n))) =
        onCore (fetched d start n) (v.withHeld s.cur (some (chunkHeld s (fetchResults d start n)))) :=
      (State.withHeld_modCore_of fun r => fetched_withHeld d start n r).symm
    rw [wrote]
    refine endsAt_of_runS rfl ready passes_pure ?_
    rw [run_of_gives (gives_acqClear clear), run_of_gives (gives_readX s a), run_of_gives waited, run_of_gives gives_heldNow, entry]
    generalize v.withHeld s.cur _ = u
    refine (Op.run_bind_ok (a := PUnit.unit) (t := onCore (fetched d start n) u) ?_).trans rfl
    exact Prod.ext rfl (State.modCore_modCore u u.cur (fun c => c.setX d (BitVec.ofNat 64 start)) fun c => c.setX (d + 1) (BitVec.ofNat 64 n))

/-- What is given by a fetch that has been performed. -/
theorem forM_setX (results : List (BitVec 6 × Word)) : ∀ u : State, (results.forM fun e => setX e.1 e.2 : Op PUnit).run u =
    (.ok ⟨⟩, onCore (fun c => results.foldl (fun c e => c.setX e.1 e.2) c) u) := by
  induction results with
  | nil => exact fun u => Prod.ext rfl (State.modCore_id u u.cur).symm
  | cons e l ih =>
    intro u
    refine (Op.run_bind_ok (a := PUnit.unit) (t := onCore (fun c => c.setX e.1 e.2) u) rfl).trans ((ih _).trans (Prod.ext rfl ?_))
    exact State.modCore_modCore u u.cur (fun c => c.setX e.1 e.2) fun c => l.foldl (fun c e => c.setX e.1 e.2) c

/-- A form that has been performed waits no more. -/
theorem gives_performed {h : Held} (crew : Has w s) (held : ((cur s).str .s).held = some h) (done : h.performed = true) : Gives (chunkWait q d init) s () s := by
  refine gives_then (gives_crew crew) (gives_then gives_heldNow ?_)
  rw [heldOf_of_held held, done]
  exact gives_pure.2 ⟨rfl, rfl⟩

theorem gives_acqClear_held (clear : NoAcquire s) : Gives acqClear s () s := by
  refine gives_then (gives_curCore.2 ⟨rfl, rfl⟩) (gives_holdUnless.2 ⟨?_, rfl⟩)
  exact congrArg (!·) clear

/-- The queue that `chunk.init` configures (R363). -/
def initChunk (x y : Word) (workers : Nat) : Chunk := ⟨true, x.getLsbD 6, workers, fld x 32 16, fld x 48 16, fld y 0 48, x.extractLsb' 16 16, 0⟩

theorem queueSet_init (s : State) (w : Crew) (x y : Word) :
    queueSet w (x.extractLsb' 0 6) (initChunk x y (chunkOf s w (x.extractLsb' 0 6).toNat).workers) (sIssued s) =
      (sIssued s).modPart w.part fun p => p.modChunk w.ctx (fld x 0 6) fun k => initChunk x y k.workers := by
  rw [queueSet, extract_toNat]
  refine State.modPart_congr (s := sIssued s) (f := fun p => p.modChunk w.ctx (fld x 0 6) fun _ => initChunk x y (chunkOf s w (fld x 0 6)).workers)
    (g := fun p => p.modChunk w.ctx (fld x 0 6) fun k => initChunk x y k.workers) (Part.modChunk_congr ?_)
  rw [sIssued_part]
  rfl

theorem chunkInit_ends (crew : Has w s) (ready : SReady [a, b] s) (clear : NoAcquire s) (alone : Alone s w (((cur s).xr a).extractLsb' 0 6))
    (zero : fld ((cur s).xr a) 7 9 = 0) (zero' : fld ((cur s).xr b) 48 16 = 0) (gran : fld ((cur s).xr a) 32 16 ≠ 0) (least : fld ((cur s).xr a) 48 16 ≠ 0) :
    EndsAt (.chunkInit a b) s .s 1 (queueSet w (((cur s).xr a).extractLsb' 0 6)
      (initChunk ((cur s).xr a) ((cur s).xr b) (chunkOf s w (((cur s).xr a).extractLsb' 0 6).toNat).workers) (sIssued s)) := by
  have served := chunkServe_init s w (((cur s).xr a).extractLsb' 0 6) 0 (initChunk ((cur s).xr a) ((cur s).xr b) 0)
  rw [Chunk.ofBits_bits (Nat.two_pow_pos 8) (fld_lt ..) (fld_lt ..) (fld_lt ..) (Nat.two_pow_pos 48)] at served
  have waited := gives_chunkWait crew alone served (sIssued_cur s) rfl
  refine endsAt_withHeld (results := []) ?_ (endsAt_of_runS rfl ready (passes_of_gives (t := s) ?_) ?_)
  · rw [← sIssued_cur s]
    show ((cur (sIssued s)).str .s).held = _
    rw [cur_sIssued, Core.str_setStr]
  · refine gives_then (gives_xr.2 ⟨rfl, rfl⟩) (gives_then (gives_xr.2 ⟨rfl, rfl⟩) (gives_legal.2 ⟨?_, rfl⟩))
    simpa [zero, zero'] using ⟨gran, least⟩
  · rw [run_of_gives (gives_acqClear clear), run_of_gives (gives_readX s a), run_of_gives (gives_readX s b)]
    exact (run_of_gives waited).trans rfl

theorem onlyCounters_fromCore (s : State) (core : Nat) (p : Packet) : s.OnlyCounters (s.fromCore core p) := by
  have counted : s.OnlyCounters (s.countFlits p 40 (BitVec.ofNat 7 core)) := by
    unfold State.countFlits
    rw [if_pos (show 40 = 40 from rfl)]
    split
    · exact .refl s
    · exact State.onlyCounters_count ..
  have ring : ∀ (t : State) (g : Nat) (f : Ring → Ring), t.OnlyCounters (t.modRing g f) := fun t g f => by
    unfold State.modRing
    split <;> exact .of_eq rfl rfl
  have switch_ : ∀ (t : State) (die input : Nat), t.OnlyCounters (t.toSwitch die input p) := fun t die input => by
    unfold State.toSwitch
    split <;> exact .of_eq rfl rfl
  unfold State.fromCore
  dsimp only
  split
  · exact counted.trans (.of_eq rfl rfl)
  · split
    · exact counted.trans (ring ..)
    · split
      · exact counted.trans (switch_ ..)
      · exact counted.trans (ring ..)

/-- An instruction that is held back leaves the steal of its core. -/
theorem steal_keepHeld {t : State} {h : Held} {n : Nat} (acts : t.cur = s.cur) : (cur ((t.keepHeld s.cur .s h).modCore s.cur (·.count n 1))).steal = (cur t).steal := by
  rw [show cur ((t.keepHeld s.cur .s h).modCore s.cur (·.count n 1)) = ((t.keepHeld s.cur .s h).modCore s.cur (·.count n 1)).core s.cur from congrArg _ acts,
    State.core_modCore, State.keepHeld, State.core_modCore, ← acts]
  rfl

/-- The core of a fetch that has started its steal. -/
theorem asked_core (s : State) (w : Crew) (q d : BitVec 6) (sdom : BitVec 16) (v : Nat) (vs : List Nat) :
    let u := ((onCore (comes (asksQueue s w q d none)) (sIssued s)).modCore s.cur fun r => { r with steal := some (stealing s w q d v vs) }).askVictim s.cur sdom v
    u.cur = s.cur ∧ (∃ ev, cur u = { cur (sIssued s) with steal := some (stealing s w q d v vs), ev := ev }) ∧ ((cur u).heldOf .s).performed = false := by
  intro u
  have counted : State.OnlyCounters ((onCore (comes (asksQueue s w q d none)) (sIssued s)).modCore s.cur fun r => { r with steal := some (stealing s w q d v vs) }) u :=
    onlyCounters_fromCore ..
  have acts : u.cur = s.cur := counted.cur.trans (sIssued_cur s)
  obtain ⟨ev, core⟩ := counted.core s.cur
  rw [← sIssued_cur s, onCore, State.modCore_modCore, State.core_modCore, sIssued_cur] at core
  have core : cur u = { cur (sIssued s) with steal := some (stealing s w q d v vs), ev := ev } := by
    rw [Stmt.cur, acts, core, Stmt.cur, sIssued_cur]
    rfl
  refine ⟨acts, ⟨ev, core⟩, ?_⟩
  rw [core]
  exact congrArg Held.performed (heldOf_sIssued s)

end

end Sys2Proof.Machine

namespace Sys2Proof.Isa

open Sys2Proof.Machine Sys2Proof.Stmt

theorem chunkForms : ChunkForms := by
  intro s w a b d crew x y
  refine ⟨fun ready clear alone zero zero' gran least => ?_, fun ready clear alone => ?_, fun h held done clear => ⟨fun free => ?_, fun free => ?_⟩⟩
  · refine (chunkInit_ends crew ready clear alone zero zero' gran least).trans (congrArg (fun u => Host.Outcome.next (finish s.cur .s 1 u)) (queueSet_init ..))
  · intro q k
    refine ⟨fun unset => ?_, fun set_ some_ => ?_, fun set_ dry none_ => ?_, fun set_ dry steals v vs victims => ?_⟩
    · refine fetch_ends (v := sIssued s) crew ready clear alone ((chunkServe_fetch ..).trans (if_pos ?_)) (sIssued_cur s) rfl
      exact congrArg (!·) unset
    · refine fetch_ends (v := queueSet w (x.extractLsb' 0 6) (k.grant k.workers).2.2 (sIssued s)) crew ready clear alone
        ((chunkServe_fetch ..).trans ((if_neg ?_).trans ((if_pos some_).trans ?_))) (sIssued_cur s) rfl
      · rw [show (chunkOf s w _).conf = true from set_]
        decide
      · rw [← sIssued_cur s]
        rfl
    · refine fetch_ends (v := sIssued s) crew ready clear alone ((chunkServe_fetch ..).trans ((if_neg ?_).trans ((if_neg (not_not_intro dry)).trans ?_))) (sIssued_cur s) rfl
      · rw [show (chunkOf s w _).conf = true from set_]
        decide
      · have nobody : (if k.steal && !(asksQueue s w (x.extractLsb' 0 6) d none).asked then
            (onCore (comes (asksQueue s w (x.extractLsb' 0 6) d none)) (sIssued s)).victims k.sdom else []) = [] := by
          rw [victims_comes]
          rcases none_ with off | empty
          · rw [off]
            rfl
          · rw [empty]
            exact ite_self _
        rw [show (if (chunkOf s w _).steal && _ then _ else _) = _ from nobody]
        rw [← sIssued_cur s]
        rfl
    · have asks : (if k.steal && !(asksQueue s w (x.extractLsb' 0 6) d none).asked then
          (onCore (comes (asksQueue s w (x.extractLsb' 0 6) d none)) (sIssued s)).victims k.sdom else []) = v :: vs := by
        rw [victims_comes, steals]
        exact victims
      have served := (chunkServe_fetch s w (x.extractLsb' 0 6) d).trans ((if_neg (by rw [show (chunkOf s w _).conf = true from set_]; decide)).trans
        (if_neg (not_not_intro dry)))
      rw [show (if (chunkOf s w _).steal && _ then _ else _) = _ from asks] at served
      dsimp only at served
      have waits := chunkWait_run (q := x.extractLsb' 0 6) (d := d) (init := none) crew alone
      rw [served] at waits
      dsimp only at waits
      obtain ⟨acts, core, held⟩ := asked_core s w (x.extractLsb' 0 6) d (chunkOf s w (x.extractLsb' 0 6).toNat).sdom v vs
      have waits := waits.trans (Op.run_holdUnless_false held _)
      have body := Op.run_bind_error (f := fun _ => (do (← heldNow .s).results.forM fun e => setX e.1 e.2; return .seq : Op Next)) waits
      refine ⟨_, execS_holds rfl ready passes_pure ((run_of_gives (gives_acqClear clear)).trans ((run_of_gives (gives_readX s a)).trans body)), ?_, ?_⟩
      · rw [held_of_keepHeld acts]
        rfl
      · obtain ⟨ev, core⟩ := core
        rw [steal_keepHeld acts, core]
        rfl
  · refine endsAt_of_heldS rfl held free ?_
    have waits : Gives (chunkWait (((cur s).xr a).extractLsb' 0 6) d none) s () s := gives_performed crew held done
    rw [run_of_gives (gives_acqClear_held clear), run_of_gives (gives_xr.2 ⟨rfl, rfl⟩), run_of_gives waits, run_of_gives gives_heldNow, heldOf_of_held held]
    exact (Op.run_bind_ok (forM_setX h.results s)).trans rfl
  · refine endsAt_of_heldS rfl held free ?_
    rw [run_of_gives (gives_acqClear_held clear), run_of_gives (gives_xr.2 ⟨rfl, rfl⟩), run_of_gives (gives_xr.2 ⟨rfl, rfl⟩)]
    exact (run_of_gives (gives_performed crew held done)).trans rfl

/-- Settles O16. -/
theorem chunkQueues : Obligations.ChunkQueues := ⟨chunkForms, chunkGrantSize, stealEvents⟩

end Sys2Proof.Isa

/-! PROOFS. Integer elements of V (R261, R376, R378, R379). -/

namespace Sys2Proof.Machine

open Sys2Proof.Stmt

section
variable {s : Shape} {f w : Nat} {sgn : Bool}

/-- The value of an integer element. -/
def intVal (w : Nat) (sgn : Bool) (n : Nat) : Int := if sgn ∧ 2 ^ (w - 1) ≤ n then (n : Int) - 2 ^ w else (n : Int)

/-- What delivering an exact integer leaves (R261): it wraps, or is clamped under SAT. -/
def intPut (s : Shape) (w : Nat) (sgn : Bool) (n : Int) : Nat :=
  let lo : Int := if sgn then -(2 ^ (w - 1)) else 0
  let hi : Int := if sgn then 2 ^ (w - 1) - 1 else 2 ^ w - 1
  ((if s.sat then (if n < lo then lo else if hi < n then hi else n) else n) % 2 ^ w).toNat

theorem classI_of (format : ifmt f = some (w, sgn)) : classI f = true := congrArg Option.isSome format

theorem ival_eq (format : ifmt f = some (w, sgn)) (n : Nat) : ival f n = intVal w sgn n := by
  unfold ival intVal asSigned
  rw [format]
  cases sgn
  · rfl
  · simp only [if_true, true_and]
    split <;> split <;> omega

/-- Clamping to the bounds of a format. -/
theorem clampInt_eq (w : Nat) (sgn : Bool) (n : Int) : clampInt w sgn n =
    if n < (if sgn then -(2 ^ (w - 1)) else 0) then (if sgn then -(2 ^ (w - 1)) else 0)
    else if (if sgn then 2 ^ (w - 1) - 1 else 2 ^ w - 1) < n then (if sgn then 2 ^ (w - 1) - 1 else 2 ^ w - 1) else n := by
  have half : (0 : Int) < 2 ^ (w - 1) := Int.pow_pos (by decide)
  have whole : (0 : Int) < 2 ^ w := Int.pow_pos (by decide)
  unfold clampInt
  cases sgn <;> simp only [if_true, Bool.false_eq_true, if_false] <;> omega

theorem putInt_eq (format : ifmt s.fmt = some (w, sgn)) (n : Int) : s.putInt n = intPut s w sgn n := by
  unfold Shape.putInt intPut intBits
  rw [format]
  dsimp only
  rw [clampInt_eq]

/-- The width of an integer format. -/
theorem fmtWidth_ifmt (format : ifmt f = some (w, sgn)) : fmtWidth f = w := by
  unfold ifmt at format
  split at format
  case h_11 => exact nomatch format
  all_goals
    obtain ⟨rfl, rfl⟩ := Prod.mk.inj (Option.some.inj format)
    rfl

/-- An arithmetic form on integers. -/
theorem arith_int {three : Bool} {ff : RMode → Val → Val → Val → Val} {fi : Int → Int → Int → Int} (format : ifmt s.fmt = some (w, sgn)) (e a b c : Nat) :
    arith three ff fi s e a b c = intPut s w sgn (fi (intVal w sgn a) (intVal w sgn b) (intVal w sgn c)) := by
  unfold arith
  rw [if_pos (classI_of format), putInt_eq format, ival_eq format, ival_eq format, ival_eq format]

end

end Sys2Proof.Machine

namespace Sys2Proof.Isa

open Sys2Proof.Machine Sys2Proof.Stmt

theorem integerLanes : IntegerLanes := by
  intro s w sgn e a b c format _ _ _ val lo hi put
  refine ⟨arith_int format e a b c, arith_int format e a b c, arith_int format e a b c, arith_int format e a b c, arith_int format e a b c, fun zero => ?_,
    fun some_ => ?_, ?_, ?_⟩
  · unfold fDiv
    rw [if_pos (by rw [classI_of format, zero]; rfl), Shape.w, fmtWidth_ifmt format]
  · unfold fDiv
    rw [if_neg (by simpa using fun _ => some_)]
    exact arith_int format e a b c
  · unfold fNeg
    rw [if_pos (classI_of format), putInt_eq format, ival_eq format]
    rfl
  · unfold fAbs
    rw [if_pos (classI_of format), putInt_eq format, ival_eq format]
    rfl

theorem integerCompares : IntegerCompares := by
  intro f w a b sgn format _ _ val
  have orders : ∀ c, vcmpElem c f a b = vcondHolds c (intVal w sgn a - intVal w sgn b) := fun c => by
    unfold vcmpElem
    rw [if_pos (classI_of format), ival_eq format, ival_eq format]
  rw [orders, orders, orders, orders, orders, orders]
  show _ = decide (intVal w sgn a = intVal w sgn b) ∧ _ = decide (intVal w sgn a ≠ intVal w sgn b) ∧ _ = decide (intVal w sgn a < intVal w sgn b) ∧
    _ = decide (intVal w sgn a ≤ intVal w sgn b) ∧ _ = decide (intVal w sgn b < intVal w sgn a) ∧ _ = decide (intVal w sgn b ≤ intVal w sgn a)
  unfold vcondHolds
  generalize intVal w sgn a = x
  generalize intVal w sgn b = y
  refine ⟨?_, ?_, ?_, ?_, ?_, ?_⟩ <;> rw [Bool.eq_iff_iff] <;> simp only [beq_iff_eq, bne_iff_ne, decide_eq_true_eq, ne_eq] <;> omega

/-- Settles O29. -/
theorem integerLanesAndCompares : Obligations.IntegerLanesAndCompares := ⟨integerLanes, integerCompares⟩

end Sys2Proof.Isa

/-! PROOFS. The V forms that only write registers (R371 to R378, R385, R386). -/

namespace Sys2Proof.Machine

open Sys2Proof.Stmt

/-- An instruction is a V form of one word, for the formats that `cls` accepts, that changes its core by `g`. -/
def VWrites (i : Instr) (s : State) (tk : Tok) (cls : Nat → Bool) (g : Core → Core) : Prop :=
  ∃ body, exec i s = nx (runV tk cls body s) ∧ body.run (s.issueHeld .v tk) = (.ok .seq, onCore g (s.issueHeld .v tk))

section
variable {i : Instr} {s : State} {tk : Tok} {cls : Nat → Bool} {g : Core → Core} {d a b : BitVec 6} {n : BitVec 5}

theorem passes_fmtCheck (accepted : cls (cur s).shp.fmt = true) : Passes (fmtCheck cls) s :=
  passes_of_gives (t := s) (gives_then (gives_curCore.2 ⟨rfl, rfl⟩) (gives_legal.2 ⟨accepted, rfl⟩))

/-- A form whose FMT it accepts ends. -/
theorem VWrites.ends (writes : VWrites i s tk cls g) (ready : Ready .v tk s) (accepted : cls (cur s).shp.fmt = true) : Ends i s .v tk 1 (onCore g) := by
  obtain ⟨body, form, run⟩ := writes
  exact endsAt_of_run form ready (passes_fmtCheck accepted) passes_pure run

/-- One whose FMT it does not accept raises ILLOP. -/
theorem VWrites.illop (writes : VWrites i s tk cls g) (ready : Ready .v tk s) (refused : cls (cur s).shp.fmt = false) :
    exec i s = .next (s.takeFault s.cur .v (pcOf .v s) (s.ir.headD 0) (s.illop .v)) := by
  obtain ⟨body, form, -⟩ := writes
  refine exec_check_faults form ready.1 ?_
  unfold fmtCheck
  rw [run_of_gives (gives_curCore.2 ⟨rfl, rfl⟩)]
  exact congrArg Prod.fst (Op.run_legal_false refused .v s)

/-- A core once a V instruction has issued, for what does not look at strands and tokens. -/
theorem cur_issueHeld_field {α : Type} (field : Core → α) (blind : ∀ (c : Core) (st : StrandSt) tok, field { c.setStr .v st with tok := tok } = field c) :
    field (cur (s.issueHeld .v tk)) = field (cur s) := by
  obtain ⟨tok, core⟩ := cur_issueHeld s .v tk
  rw [core, blind]

/-- What an element-wise form with b from a register leaves of its core. -/
def laneWrite (c : Core) (d : BitVec 6) (f : Nat → Nat) (r : Core) : Core := r.setV d (setElems c.shp.w (c.vr d) c.active f)

theorem gives_bReg (b : BitVec 6) : Gives (bReg b) s (fun sh e => velem ((cur s).vr b) sh.w e) s :=
  gives_then (gives_curCore.2 ⟨rfl, rfl⟩) (gives_pure.2 ⟨rfl, rfl⟩)

theorem gives_bPar (n : BitVec 5) : Gives (bPar n) (s.issueHeld .v tk) (fun sh _ => (pOf (cur s) n).toNat % 2 ^ sh.w) (s.issueHeld .v tk) :=
  gives_then (run_pr_issued s .v tk n) (gives_pure.2 ⟨rfl, rfl⟩)

/-- An element-wise form computes from the registers as they stand at issue. -/
theorem elemOp_run {u : State} {y : Op (Shape → Nat → Nat)} {z : Shape → Nat → Nat} (gives : Gives y u z u) (f : Shape → Nat → Nat → Nat → Nat → Nat) :
    (elemOp d a y f).run u = (.ok .seq, onCore (laneWrite (cur u) d fun e => f (cur u).shp e (velem ((cur u).vr a) (cur u).shp.w e) (z (cur u).shp e)
      (velem ((cur u).vr d) (cur u).shp.w e)) u) := by
  unfold elemOp
  rw [run_of_gives (gives_curCore.2 ⟨rfl, rfl⟩)]
  dsimp only
  rw [run_of_gives gives]
  rfl

/-- The value that an element-wise form gives element `e`. -/
def laneValue (f : Shape → Nat → Nat → Nat → Nat → Nat) (z : Shape → Nat → Nat) (d a : BitVec 6) (c : Core) (e : Nat) : Nat :=
  f c.shp e (velem (c.vr a) c.shp.w e) (z c.shp e) (velem (c.vr d) c.shp.w e)

theorem vwrites_elem {y : Op (Shape → Nat → Nat)} {z : Shape → Nat → Nat} {f : Shape → Nat → Nat → Nat → Nat → Nat}
    (form : exec i s = nx (runV tk cls (elemOp d a y f) s)) (gives : Gives y (s.issueHeld .v tk) z (s.issueHeld .v tk)) :
    VWrites i s tk cls (laneWrite (cur s) d (laneValue f z d a (cur s))) := by
  have same := cur_issueHeld_field (s := s) (tk := tk) (fun c => laneWrite c d (laneValue f z d a c)) fun _ _ _ => rfl
  exact ⟨_, form, (elemOp_run gives f).trans (congrArg (fun g => (_, onCore g _)) same)⟩

theorem vwrites_reg {f : Shape → Nat → Nat → Nat → Nat → Nat} (form : exec i s = nx (runV tk cls (elemOp d a (bReg b) f) s)) :
    VWrites i s tk cls (laneWrite (cur s) d (laneValue f (fun sh e => velem ((cur s).vr b) sh.w e) d a (cur s))) := by
  refine vwrites_elem form ?_
  rw [← cur_issueHeld_field (s := s) (tk := tk) (fun c => c.vr b) fun _ _ _ => rfl]
  exact gives_bReg b

theorem vwrites_par {f : Shape → Nat → Nat → Nat → Nat → Nat} (form : exec i s = nx (runV tk cls (elemOp d a (bPar n) f) s)) :
    VWrites i s tk cls (laneWrite (cur s) d (laneValue f (fun sh _ => (pOf (cur s) n).toNat % 2 ^ sh.w) d a (cur s))) := vwrites_elem form (gives_bPar n)

theorem vwrites_unary {f : Shape → Nat → Nat → Nat} (form : exec i s = nx (runV tk cls (unaryOp d a f) s)) :
    VWrites i s tk cls (laneWrite (cur s) d fun e => f (cur s).shp e (velem ((cur s).vr a) (cur s).shp.w e)) :=
  vwrites_elem (y := pure fun _ _ => 0) (z := fun _ _ => 0) (f := fun s e x _ _ => f s e x) form (gives_pure.2 ⟨rfl, rfl⟩)

/-- A permuting form reads v[a] as it stands at issue. -/
theorem permOp_run (u : State) (f : Core → Shape → (Nat → Nat) → Nat → Nat) : (permOp d a f).run u =
    (.ok .seq, onCore (laneWrite (cur u) d (f (cur u) (cur u).shp fun i => velem ((cur u).vr a) (cur u).shp.w i)) u) := by
  unfold permOp
  rw [run_of_gives (gives_curCore.2 ⟨rfl, rfl⟩)]
  rfl

theorem vwrites_perm {f : Core → Shape → (Nat → Nat) → Nat → Nat} {body : Op Next} (form : exec i s = nx (runV tk cls body s))
    (run : body.run (s.issueHeld .v tk) = (permOp d a f).run (s.issueHeld .v tk))
    (blind : ∀ (c : Core) (st : StrandSt) tok sh x e, f { c.setStr .v st with tok := tok } sh x e = f c sh x e) :
    VWrites i s tk cls (laneWrite (cur s) d (f (cur s) (cur s).shp fun i => velem ((cur s).vr a) (cur s).shp.w i)) := by
  have same := cur_issueHeld_field (s := s) (tk := tk) (fun c => laneWrite c d (f c c.shp fun i => velem (c.vr a) c.shp.w i)) fun c st tok =>
    congrArg (laneWrite c d) (funext fun e => blind c st tok _ _ e)
  exact ⟨_, form, run.trans ((permOp_run _ f).trans (congrArg (fun g => (_, onCore g _)) same))⟩

/-- The element-wise, unary and permuting forms are forms that only write registers. -/
theorem vwrites_lane {f : Nat → Nat} (listed : laneForm (cur s) i = some (tk, cls, d, f)) : VWrites i s tk cls (laneWrite (cur s) d f) := by
  unfold laneForm at listed
  cases i with
  | vadd => cases listed; exact vwrites_reg (f := fAdd) rfl
  | vsub => cases listed; exact vwrites_reg (f := fSub) rfl
  | vmul => cases listed; exact vwrites_reg (f := fMul) rfl
  | vfma => cases listed; exact vwrites_reg (f := fFma) rfl
  | vfms => cases listed; exact vwrites_reg (f := fFms) rfl
  | vmin => cases listed; exact vwrites_reg (f := fMinMax false) rfl
  | vmax => cases listed; exact vwrites_reg (f := fMinMax true) rfl
  | vdiv => cases listed; exact vwrites_reg (f := fDiv) rfl
  | vand => cases listed; exact vwrites_reg (f := fAnd) rfl
  | vor => cases listed; exact vwrites_reg (f := fOr) rfl
  | vxor => cases listed; exact vwrites_reg (f := fXor) rfl
  | vshl => cases listed; exact vwrites_reg (f := fShl) rfl
  | vshr => cases listed; exact vwrites_reg (f := fShr) rfl
  | vsra => cases listed; exact vwrites_reg (f := fSra) rfl
  | vaddS => cases listed; exact vwrites_par (f := fAdd) rfl
  | vsubS => cases listed; exact vwrites_par (f := fSub) rfl
  | vmulS => cases listed; exact vwrites_par (f := fMul) rfl
  | vfmaS => cases listed; exact vwrites_par (f := fFma) rfl
  | vfmsS => cases listed; exact vwrites_par (f := fFms) rfl
  | vminS => cases listed; exact vwrites_par (f := fMinMax false) rfl
  | vmaxS => cases listed; exact vwrites_par (f := fMinMax true) rfl
  | vdivS => cases listed; exact vwrites_par (f := fDiv) rfl
  | vandS => cases listed; exact vwrites_par (f := fAnd) rfl
  | vorS => cases listed; exact vwrites_par (f := fOr) rfl
  | vxorS => cases listed; exact vwrites_par (f := fXor) rfl
  | vshlS => cases listed; exact vwrites_par (f := fShl) rfl
  | vshrS => cases listed; exact vwrites_par (f := fShr) rfl
  | vsraS => cases listed; exact vwrites_par (f := fSra) rfl
  | vabs => cases listed; exact vwrites_unary (f := fun s _ x => fAbs s x) rfl
  | vneg => cases listed; exact vwrites_unary (f := fun s _ x => fNeg s x) rfl
  | vrcp => cases listed; exact vwrites_unary (f := fun s _ x => fUnary Val.recip s x) rfl
  | vsqrt => cases listed; exact vwrites_unary (f := fun s _ x => fUnary Val.sqrt s x) rfl
  | vrsqrt => cases listed; exact vwrites_unary (f := fun s _ x => fUnary Val.rsqrt s x) rfl
  | vexp2 => cases listed; exact vwrites_unary (f := fun s _ x => fUnary Val.exp2 s x) rfl
  | vlog2 => cases listed; exact vwrites_unary (f := fun s _ x => fUnary Val.log2v s x) rfl
  | vsin => cases listed; exact vwrites_unary (f := fun s _ x => fTurn false s x) rfl
  | vcos => cases listed; exact vwrites_unary (f := fun s _ x => fTurn true s x) rfl
  | vmov => cases listed; exact vwrites_unary (f := fun _ _ x => x) rfl
  | vperm tk d a b =>
    cases listed
    exact vwrites_perm (f := fun c s at_ e => if velem (c.vr b) s.w e < s.cap then at_ (velem (c.vr b) s.w e) else 0) rfl rfl fun _ _ _ _ _ _ => rfl
  | vlut tk d a b =>
    cases listed
    exact vwrites_perm (f := fun c s at_ e => at_ (velem (c.vr b) s.w e % 256)) rfl rfl fun _ _ _ _ _ _ => rfl
  | vslup tk d a n =>
    cases listed
    exact vwrites_perm (f := fun _ _ at_ e => if (pOf (cur s) n).toNat ≤ e then at_ (e - (pOf (cur s) n).toNat) else 0) rfl
      (run_of_gives (run_pr_issued s .v _ n)) fun _ _ _ _ _ _ => rfl
  | vsldn tk d a n =>
    cases listed
    exact vwrites_perm (f := fun _ sh at_ e => if e + (pOf (cur s) n).toNat < sh.len then at_ (e + (pOf (cur s) n).toNat) else 0) rfl
      (run_of_gives (run_pr_issued s .v _ n)) fun _ _ _ _ _ _ => rfl
  | vbcast tk d n =>
    cases listed
    exact vwrites_perm (f := fun _ sh _ _ => (pOf (cur s) n).toNat % 2 ^ sh.w) rfl (run_of_gives (run_pr_issued s .v _ n)) fun _ _ _ _ _ _ => rfl
  | _ => cases listed

end

end Sys2Proof.Machine

/-! PROOFS. The mask forms, vsel, the reductions and the conversions (R375 to R377, R382 to R385). -/

namespace Sys2Proof.Machine

open Sys2Proof.Stmt

section
variable {i : Instr} {s : State} {tk : Tok} {cls : Nat → Bool} {body : Op Next} {d a b : BitVec 6} {n : BitVec 5}

/-- A change of the core that is computed from the core as it stands at issue. -/
theorem vwrites_of {g : Core → Core → Core} (form : exec i s = nx (runV tk cls body s))
    (run : body.run (s.issueHeld .v tk) = (.ok .seq, onCore (g (cur (s.issueHeld .v tk))) (s.issueHeld .v tk)))
    (blind : ∀ (c : Core) (st : StrandSt) tok, g { c.setStr .v st with tok := tok } = g c) : VWrites i s tk cls (g (cur s)) :=
  ⟨_, form, run.trans (congrArg (fun g => (_, onCore g _)) (cur_issueHeld_field g blind))⟩

/-! ### Masks (R375, R376) -/

theorem vwrites_below {d : BitVec 3} {f : Core → Nat → Bool} (form : exec i s = nx (runV tk cls (maskOp d f) s))
    (blind : ∀ (c : Core) (st : StrandSt) tok, f { c.setStr .v st with tok := tok } = f c) :
    VWrites i s tk cls fun k => k.setMask d (setBits ((cur s).mask d) (List.range (cur s).shp.len) (f (cur s))) :=
  vwrites_of (g := fun c k => k.setMask d (setBits (c.mask d) (List.range c.shp.len) (f c))) form rfl fun c st tok => by
    rw [blind]; rfl

/-- The mask forms are forms that only write registers. -/
theorem vwrites_mask {d : BitVec 3} {es : List Nat} {f : Nat → Bool} (listed : maskForm (cur s) i = some (tk, d, es, f)) :
    VWrites i s tk classAny fun c => c.setMask d (setBits ((cur s).mask d) es f) := by
  unfold maskForm at listed
  cases i with
  | mand tk d a b => cases listed; exact vwrites_below (f := fun c e => (c.mask a).getLsbD e && (c.mask b).getLsbD e) rfl fun _ _ _ => rfl
  | mor tk d a b => cases listed; exact vwrites_below (f := fun c e => (c.mask a).getLsbD e || (c.mask b).getLsbD e) rfl fun _ _ _ => rfl
  | mxor tk d a b => cases listed; exact vwrites_below (f := fun c e => (c.mask a).getLsbD e != (c.mask b).getLsbD e) rfl fun _ _ _ => rfl
  | mandn tk d a b => cases listed; exact vwrites_below (f := fun c e => (c.mask a).getLsbD e && !(c.mask b).getLsbD e) rfl fun _ _ _ => rfl
  | mnot tk d a => cases listed; exact vwrites_below (f := fun c e => !(c.mask a).getLsbD e) rfl fun _ _ _ => rfl
  | mfromv tk d a => cases listed; exact vwrites_below (f := fun c e => velem (c.vr a) c.shp.w e != 0) rfl fun _ _ _ => rfl
  | vcmp tk cond d a b =>
    cases listed
    exact vwrites_of (g := fun c k => k.setMask d (setBits (c.mask d) c.active fun e =>
      vcmpElem cond c.shp.fmt (velem (c.vr a) c.shp.w e) (velem (c.vr b) c.shp.w e))) rfl rfl fun _ _ _ => rfl
  | _ => cases listed

theorem vwrites_vsel : VWrites (.vsel tk d a b) s tk classAny fun c => c.setV d (setElems (cur s).shp.w ((cur s).vr d) (List.range (cur s).shp.len)
    fun e => velem ((cur s).vr (if (cur s).maskBit e then a else b)) (cur s).shp.w e) :=
  vwrites_of (g := fun c k => k.setV d (setElems c.shp.w (c.vr d) (List.range c.shp.len) fun e => velem (c.vr (if c.maskBit e then a else b)) c.shp.w e))
    rfl rfl fun _ _ _ => rfl

/-! ### Reductions (R385) -/

/-- What a reduction leaves of a core. -/
def reduceWrite (d a : BitVec 6) (f : Shape → (Nat → Nat) → List Nat → Nat) (c k : Core) : Core :=
  if c.shp.len ≠ 0 then k.setV d (setElem c.shp.w (c.vr d) 0 (f c.shp (fun e => velem (c.vr a) c.shp.w e) c.active)) else k

theorem reduceOp_run (f : Shape → (Nat → Nat) → List Nat → Nat) (u : State) :
    (reduceOp d a f).run u = (.ok .seq, onCore (reduceWrite d a f (cur u)) u) := by
  unfold reduceOp
  rw [run_of_gives (gives_curCore.2 ⟨rfl, rfl⟩)]
  by_cases any : (cur u).shp.len ≠ 0
  · refine (run_if_pos any).trans ?_
    rw [show reduceWrite d a f (cur u) = fun k => _ from funext fun k => if_pos any]
    rfl
  · refine (run_if_neg any).trans ?_
    rw [show reduceWrite d a f (cur u) = id from funext fun k => if_neg any]
    exact congrArg (Prod.mk _) (State.modCore_id u u.cur).symm

/-- The reductions are forms that only write registers. -/
theorem vwrites_reduce {f : Shape → (Nat → Nat) → List Nat → Nat} (listed : reduceForm i = some (tk, d, a, f)) :
    VWrites i s tk classRed (reduceWrite d a f (cur s)) := by
  have of (form : exec i s = nx (runV tk classRed (reduceOp d a f) s)) : VWrites i s tk classRed (reduceWrite d a f (cur s)) :=
    vwrites_of form (reduceOp_run f _) fun _ _ _ => rfl
  cases i with
  | vrsum | vrmax | vrmin => cases listed; exact of rfl
  | _ => cases listed

end

end Sys2Proof.Machine

namespace Sys2Proof.Isa

open Sys2Proof.Machine Sys2Proof.Stmt

/-- Settles O27: each listed form is a `VWrites` form with the accepted formats of the table. -/
theorem vectorLaneResults : Obligations.VectorLaneResults := fun _ _ _ _ _ _ listed ready =>
  ⟨fun accepted => (vwrites_lane listed).ends ready accepted, fun refused => (vwrites_lane listed).illop ready refused⟩

theorem maskResults : MaskResults := fun _ _ _ ready => ⟨fun _ _ _ listed => (vwrites_mask listed).ends ready rfl, fun _ _ _ => vwrites_vsel.ends ready rfl⟩

theorem reductionForms : ReductionForms := by
  intro i s tk d a f listed ready accepted
  have ends := (vwrites_reduce (s := s) listed).ends ready accepted
  refine ⟨fun any => ?_, fun none => ?_⟩
  · rwa [show reduceWrite d a f (cur s) = fun k => _ from funext fun k => if_pos any] at ends
  · rwa [show reduceWrite d a f (cur s) = id from funext fun k => if_neg (not_not_intro none), show onCore id = id from
      funext fun u => State.modCore_id u u.cur] at ends

end Sys2Proof.Isa

/-! PROOFS. vshape and vsetlen (R374), and the conversions (R382 to R384). -/

namespace Sys2Proof.Machine

open Sys2Proof.Stmt

section
variable {i : Instr} {s : State} {k : Strand} {tk : Tok} {len : Nat} {check issue : Op Unit} {body : Op Next} {d a : BitVec 6} {n : BitVec 5}

/-- One whose check of the values read at issue faults: the fault is taken before the token (R280, R338). -/
theorem exec_issue_faults {f : FaultInfo} (form : exec i s = nx (runInstr k len tk check issue body s)) (ready : Ready k tk s) (checked : Passes check s)
    (faults : (issue.run s).1 = .error (.fault f)) : exec i s = .next (s.takeFault s.cur k (pcOf k s) (s.ir.headD 0) f) := by
  obtain ⟨idle, token, room⟩ := ready
  have unblocked : ¬ ((tk.wait ≠ 0 ∧ (s.core s.cur).tokAt (waitIdx k tk.wait.toNat) = 0) ∨ (k = .x ∧ (s.core s.cur).xs.blocked = true)) := by
    rintro (⟨wait, zero⟩ | ⟨x, full⟩)
    · exact token.elim wait fun some => some zero
    · exact absurd (full.symm.trans (room x)) (by decide)
  have checked : (check.run s).1 = .ok () := checked
  have idle : ((s.core s.cur).str k).held = none := idle
  rw [form]
  unfold runInstr issueInstr
  simp only [idle, checked, faults, unblocked, if_false]
  rfl

/-- A p register, as an instruction that has not issued reads it. -/
theorem gives_pr_idle (idle : ((cur s).str k).held = none) (n : BitVec 5) : Gives (pr k n.toNat) s (pOf (cur s) n) s := by
  unfold pr
  refine gives_then (gives_curCore.2 ⟨rfl, rfl⟩) ?_
  rw [idle]
  exact gives_pure.2 ⟨rfl, rfl⟩

/-- A V form that reads a p register, and then computes from the core as it stands at issue. -/
theorem run_pr_then {f : Word → Op Next} {g : Core → Core → Core}
    (run : (f (pOf (cur s) n)).run (s.issueHeld .v tk) = (.ok .seq, onCore (g (cur (s.issueHeld .v tk))) (s.issueHeld .v tk)))
    (blind : ∀ (c : Core) (st : StrandSt) tok, g { c.setStr .v st with tok := tok } = g c) :
    (pr .v n.toNat >>= f).run (s.issueHeld .v tk) = (.ok .seq, onCore (g (cur s)) (s.issueHeld .v tk)) :=
  ((run_of_gives (run_pr_issued s .v tk n)).trans run).trans (congrArg (fun g => (_, onCore g _)) (cur_issueHeld_field g blind))

/-! ### SHAPE (R374) -/

/-- LEN of a word of SHAPE, replaced. -/
def shapeWithLen (v : Word) (len : BitVec 14) : Word := (v &&& ~~~(0x3FFF00 : Word)) ||| (len.setWidth 64 <<< 8)

theorem shapeWithLen_getLsbD (v : Word) (len : BitVec 14) {j : Nat} (small : j < 64) :
    (shapeWithLen v len).getLsbD j = if 8 ≤ j ∧ j < 22 then len.getLsbD (j - 8) else v.getLsbD j := by
  have mask : ∀ j : Fin 64, (0x3FFF00 : Word).getLsbD j = decide (8 ≤ j.val ∧ j.val < 22) := by decide
  rw [shapeWithLen, BitVec.getLsbD_or, BitVec.getLsbD_and, BitVec.getLsbD_not, BitVec.getLsbD_shiftLeft, BitVec.getLsbD_setWidth, mask ⟨j, small⟩]
  by_cases inside : 8 ≤ j ∧ j < 22
  · simp [inside, small, show j - 8 < 64 by omega, show ¬ j < 8 by omega]
  · by_cases below : j < 8
    · simp [inside, small, below]
    · simp [inside, small, below, BitVec.getLsbD_of_ge len (j - 8) (by omega)]

theorem len_shapeWithLen (v : Word) (len : BitVec 14) : (Shape.ofWord (shapeWithLen v len)).len = len.toNat := by
  have field : (shapeWithLen v len).extractLsb' 8 14 = len := by
    refine BitVec.eq_of_getLsbD_eq fun j small => ?_
    rw [BitVec.getLsbD_extractLsb', shapeWithLen_getLsbD v len (by omega), if_pos (by omega), Nat.add_sub_cancel_left, decide_eq_true small, Bool.true_and]
  exact (extract_toNat _ 8 14).symm.trans (congrArg BitVec.toNat field)

/-- What vsetlen leaves of a core. -/
def setLen (p : Word) (c k : Core) : Core := { k with shape := shapeWithLen c.shape (BitVec.ofNat 14 (Nat.min p.toNat c.shp.cap)) }

theorem vwrites_setLen : VWrites (.vsetlen tk n) s tk classAny (setLen (pOf (cur s) n) (cur s)) :=
  ⟨_, rfl, run_pr_then (g := setLen (pOf (cur s) n)) rfl fun _ _ _ => rfl⟩

/-! ### Conversions (R382 to R384) -/

/-- What vcvt leaves of a core. -/
def cvtWrite (d a : BitVec 6) (p : Word) (c k : Core) : Core :=
  k.setV d (setElems c.shp.w (c.vr d) c.active fun e => convertBits (fld p 0 8) c.shp.fmt (c.shp.mode e) c.shp.sat (velem (c.vr a) (fmtWidth (fld p 0 8)) e))

theorem vcvt_ends (ready : Ready .v tk s) (from_ : shapeFmt (fld (pOf (cur s) n) 0 8) = true) (high : fld (pOf (cur s) n) 8 56 = 0)
    (fits : (cur s).shp.len * max (fmtWidth (fld (pOf (cur s) n) 0 8)) (cur s).shp.w ≤ 65536) :
    Ends (.vcvt tk d a n) s .v tk 1 (onCore (cvtWrite d a (pOf (cur s) n) (cur s))) := by
  refine endsAt_of_run rfl ready (passes_fmtCheck rfl) (passes_of_gives (t := s) ?_) (run_pr_then (g := cvtWrite d a (pOf (cur s) n)) rfl fun _ _ _ => rfl)
  refine gives_then (gives_pr_idle ready.1 n) (gives_then (gives_curCore.2 ⟨rfl, rfl⟩) (gives_legal.2 ⟨?_, rfl⟩))
  rw [from_, high, decide_eq_true (show _ * Nat.max _ _ ≤ 65536 from fits)]
  rfl

theorem passes_blockCodeCheck (idle : ((cur s).str .v).held = none) (ok : blockOk (cur s) n = true) : Passes (blockCodeCheck n) s :=
  passes_of_gives (t := s) (gives_then (gives_pr_idle idle n) (gives_then (gives_curCore.2 ⟨rfl, rfl⟩) (gives_legal.2 ⟨ok, rfl⟩)))

/-- Block `b` that vpack makes of v[a]. -/
def packBlock (a : BitVec 6) (code per : Nat) (c : Core) (b : Nat) : Nat :=
  leNat (encodeBlock code (fun j => c.shp.mode (b * per + j)) c.shp.sat ((List.range per).map fun j =>
    if c.activeAt (b * per + j) then decodeVal c.shp.fmt (velem (c.vr a) c.shp.w (b * per + j)) else .fin false 0 0))

/-- What vpack leaves of a core. -/
def packWrite (d a : BitVec 6) (code per : Nat) (c k : Core) : Core :=
  k.setV d (setElems 512 (c.vr d) (List.range ((c.shp.len + per - 1) / per)) (packBlock a code per c))

theorem vpack_ends (ready : Ready .v tk s) (ok : blockOk (cur s) n = true) :
    Ends (.vpack tk d a n) s .v tk 1
      (onCore (packWrite d a (fld (pOf (cur s) n) 0 8) ((blockCount (fld (pOf (cur s) n) 0 8)).getD 1) (cur s))) :=
  endsAt_of_run rfl ready (passes_fmtCheck rfl) (passes_blockCodeCheck ready.1 ok)
    (run_pr_then (g := packWrite d a (fld (pOf (cur s) n) 0 8) ((blockCount (fld (pOf (cur s) n) 0 8)).getD 1)) rfl fun _ _ _ => rfl)

/-- The blocks of v[a]. -/
def vblocks (c : Core) (a : BitVec 6) (count : Nat) : List (List Byte) := (List.range count).map fun k => vbytes (c.vr a) (64 * k) 64

/-- What vunpack leaves of a core. -/
def unpackWrite (d a : BitVec 6) (per : Nat) (c k : Core) : Core :=
  k.setV d (setElems c.shp.w (c.vr d) c.active fun e =>
    c.shp.putVal (c.shp.mode e) (blockElem ((vblocks c a ((c.shp.len + per - 1) / per)).getD (e / per) []) [] (e % per)))

/-- The code of each block of v[a] is `code`. -/
def CodesMatch (a : BitVec 6) (code : Byte) (per : Nat) (c : Core) : Prop :=
  ∀ k, k < (c.shp.len + per - 1) / per → (vbytes (c.vr a) (64 * k) 64).getD 0 0 = code

/-- Blocks all of whose codes match name no block that does not. -/
theorem find_mismatch {c : Core} {per : Nat} {code : Byte} (same : CodesMatch a code per c) :
    ((List.range (vblocks c a ((c.shp.len + per - 1) / per)).length).find? fun k =>
      c.active.any (· / per == k) && ((vblocks c a ((c.shp.len + per - 1) / per)).getD k []).getD 0 0 != code) = none := by
  refine List.find?_eq_none.2 fun k listed => ?_
  have inside : k < (c.shp.len + per - 1) / per := by simpa [vblocks] using listed
  have matching : ((vblocks c a ((c.shp.len + per - 1) / per)).getD k []).getD 0 0 = code := by
    rw [show (vblocks c a _).getD k [] = vbytes (c.vr a) (64 * k) 64 by simp [vblocks, List.getD, inside]]
    exact same k inside
  rw [matching, bne_self_eq_false, Bool.and_false]
  decide

theorem vunpack_ends (ready : Ready .v tk s) (ok : blockOk (cur s) n = true)
    (same : CodesMatch a (BitVec.ofNat 8 (fld (pOf (cur s) n) 0 8)) ((blockCount (fld (pOf (cur s) n) 0 8)).getD 1) (cur s)) :
    Ends (.vunpack tk d a n) s .v tk 1 (onCore (unpackWrite d a ((blockCount (fld (pOf (cur s) n) 0 8)).getD 1) (cur s))) := by
  refine endsAt_of_run rfl ready (passes_fmtCheck rfl) (passes_blockCodeCheck ready.1 ok)
    (run_pr_then (g := unpackWrite d a ((blockCount (fld (pOf (cur s) n) 0 8)).getD 1)) ?_ fun _ _ _ => rfl)
  rw [← cur_issueHeld_field (tk := tk) (CodesMatch a _ _) fun _ _ _ => rfl] at same
  have none := find_mismatch same
  dsimp only
  rw [run_of_gives (gives_curCore.2 ⟨rfl, rfl⟩)]
  unfold vblocks at none
  simp only [none]
  rfl

end

end Sys2Proof.Machine

namespace Sys2Proof.Isa

open Sys2Proof.Machine Sys2Proof.Stmt

theorem shapeForms : ShapeForms := by
  intro s tk n ready
  have reads := gives_pr_idle ready.1 n
  refine ⟨fun ok => ?_, fun bad => ?_, shapeWithLen (cur s).shape (BitVec.ofNat 14 (Nat.min (pOf (cur s) n).toNat (cur s).shp.cap)),
    vwrites_setLen.ends ready rfl, ?_, ?_⟩
  · refine endsAt_of_run (t := onCore (fun c => { c with shape := pOf (cur s) n }) (s.issueHeld .v tk)) rfl ready passes_pure
      (passes_of_gives (gives_then reads (gives_legal.2 ⟨ok, rfl⟩))) ?_
    exact run_of_gives (run_pr_issued s .v tk n)
  · refine exec_issue_faults rfl ready passes_pure ?_
    rw [run_of_gives reads]
    exact congrArg Prod.fst (Op.run_legal_false bad .v s)
  · rw [len_shapeWithLen, BitVec.toNat_ofNat]
  · intro j beside
    by_cases inside : j < 64
    · rw [shapeWithLen_getLsbD _ _ inside, if_neg (by omega)]
    · rw [BitVec.getLsbD_of_ge _ _ (by omega), BitVec.getLsbD_of_ge _ _ (by omega)]

/-- Settles O30: the mask forms are register forms of V; vshape checks its value at issue, and vsetlen writes the field LEN alone. -/
theorem maskAndShapeForms : Obligations.MaskAndShapeForms := ⟨maskResults, shapeForms⟩

theorem conversionForms : ConversionForms := fun _ _ _ _ _ ready =>
  ⟨vcvt_ends ready, vpack_ends ready, fun ok same => vunpack_ends ready ok same⟩

/-- Settles O31: the conversions compute from the registers as they stand at issue, and the reductions write element 0 or nothing. -/
theorem conversionsAndReductions : Obligations.ConversionsAndReductions := ⟨conversionForms, reductionForms⟩

end Sys2Proof.Isa

/-! PROOFS. What the register forms of V and the M commands leave of the machine (R372, R401, R402), and how an M command ends (R464). -/

namespace Sys2Proof.Machine

open Sys2Proof.Stmt

section
variable {cls : Nat → Bool} {i : Instr} {s t u : State} {k : Strand} {tk : Tok} {len : Nat} {check issue body : Op Unit} {g : Core → Core} {one : Bool} {n : BitVec 5}

/-! ### Instructions that change their core alone -/

/-- An instruction of strand `k` that changes its core by `g` has ended: nothing outside its core differs. -/
structure EndedBy (k : Strand) (g : Core → Core) (s t : State) : Prop where
  outside : SameOutside s t
  others : OtherCores s t
  bytes : ∀ a, byteAt t a = byteAt s a
  acts : ∃ st tok, (g { (cur s).setStr k st with tok := tok }).Kept k (cur t)

/-- The change keeps the crew and the trace stream of its core. -/
def KeepsStream (g : Core → Core) : Prop := ∀ c : Core, (g c).crew = c.crew ∧ (g c).trace = c.trace

theorem endedBy_finish (free : Untraced s) (keeps : KeepsStream g) : EndedBy k g s (finish s.cur k len (onCore g (s.issueHeld k tk))) := by
  obtain ⟨tok, issued⟩ := cur_issueHeld s k tk
  have after := State.Kept.issueHeld s k tk
  obtain ⟨crew, trace⟩ := keeps (cur (s.issueHeld k tk))
  have streams : Untraced (onCore g (s.issueHeld k tk)) := untraced_modCore (after.untraced free) crew trace
  obtain ⟨e, ws, is, kept⟩ := State.Kept.finish streams k len
  rw [show (onCore g (s.issueHeld k tk)).cur = s.cur from after.cur] at is
  have core : cur (finish s.cur k len (onCore g (s.issueHeld k tk))) = e := by
    rw [is]
    exact cur_onCore (fun _ => e) (onCore g (s.issueHeld k tk))
  rw [cur_onCore, issued, ← core] at kept
  obtain ⟨d, vs, before, -⟩ := after
  have whole := is.trans (congrArg (fun u : State => ({ onCore (fun _ => e) (onCore g u) with waits := ws } : State)) before)
  refine ⟨?_, ?_, ?_, _, tok, kept⟩
  all_goals rw [whole]
  · exact ⟨rfl, rfl, rfl, rfl, rfl, rfl, rfl, rfl, rfl, rfl, rfl, rfl, rfl, rfl, rfl, rfl, rfl, rfl, rfl, rfl, rfl⟩
  · intro c other
    show ((((s.modCore s.cur fun _ => d)).modCore s.cur g).modCore s.cur fun _ => e).core c = s.core c
    rw [State.core_modCore_ne _ _ other, State.core_modCore_ne _ _ other, State.core_modCore_ne _ _ other]
  · exact fun _ => rfl

/-- What every V form that only writes registers keeps of its core. -/
theorem VWrites.ended (writes : VWrites i s tk cls g) (ready : Ready .v tk s) (accepted : cls (cur s).shp.fmt = true) (free : Untraced s)
    (keeps : KeepsStream g) (exec_ : exec i s = .next t) : EndedBy .v g s t := by
  have ends := writes.ends ready accepted
  unfold Ends EndsAt at ends
  rw [exec_] at ends
  cases ends
  exact endedBy_finish free keeps

/-! ### M commands (R464) -/

/-- The number that an M command takes, in its core. -/
def numbered (c : Core) : Core :=
  { c with ms := { c.ms with seq := c.ms.seq + 1 } }.setStr .m { (c.str .m) with held := some { c.heldOf .m with seq := some (c.ms.seq + 1) } }

theorem held_numbered (c : Core) : ((numbered c).str .m).held = some { c.heldOf .m with seq := some (c.ms.seq + 1) } :=
  congrArg StrandSt.held (Core.str_setStr ..)

theorem heldOf_issued (s : State) (k : Strand) (tk : Tok) : (cur (s.issueHeld k tk)).heldOf k = s.newHeld k tk := by
  rw [show cur (s.issueHeld k tk) = (s.issueHeld k tk).core s.cur from congrArg (s.issueHeld k tk).core (State.issueHeld_cur ..), State.issueHeld_heldOf]

theorem onCore_onCore (f g : Core → Core) (s : State) : onCore g (onCore f s) = onCore (fun c => g (f c)) s := State.modCore_modCore s s.cur f g

theorem mNumbered_eq (tk : Tok) (s : State) : mNumbered tk s = onCore numbered (s.issueHeld .m tk) :=
  onCore_onCore _ (fun c => c.setStr .m { (c.str .m) with held := some { c.heldOf .m with seq := some c.ms.seq } }) _

theorem gives_onCore (f : Core → Core) (s : State) : Gives (modCur f) s () (onCore f s) := gives_modCur.2 rfl

theorem gives_modM (f : MState → MState) (s : State) : Gives (modM f) s () (onCore (fun c => { c with ms := f c.ms }) s) := gives_onCore _ s

/-- The command that has issued takes its number. -/
theorem gives_numberM (s : State) : Gives numberM s () (onCore numbered s) := by
  refine gives_then (gives_modM _ s) (gives_then (gives_curCore.2 ⟨rfl, rfl⟩) (gives_modHeld.2 ?_))
  have twice := onCore_onCore (fun c => { c with ms := { c.ms with seq := c.ms.seq + 1 } })
    (fun c => c.setStr .m { (c.str .m) with held := some { c.heldOf .m with seq := some c.ms.seq } }) s
  exact (State.modCore_congr rfl).trans twice

theorem probing_idle (idle : ((cur s).str .m).held = none) : s.probing = false := by
  unfold State.probing Core.heldOf
  rw [show ((s.core s.cur).str .m).held = none from idle]
  rfl

/-- The body of an M command, with its number and its end. -/
def mBody (body : Op Unit) : Op Next := do
  if (← heldNow .m).seq.isNone then numberM
  body
  mDone

/-- An M command of an idle strand does not probe for the second entry. -/
theorem form_idle (form : exec i s = nx (runM len tk check issue body s)) (idle : ((cur s).str .m).held = none) :
    exec i s = nx (runInstr .m len tk check issue (mBody body) s) := by
  rw [form, runM, probing_idle idle]
  rfl

/-- An M command that can issue and whose body answers completes. -/
theorem mEnds_of_run (form : exec i s = nx (runM len tk check issue body s)) (ready : Ready .m tk s) (checked : Passes check s) (issues : Passes issue s)
    (run : Gives body (mNumbered tk s) () t) : MEndsAt i s len t := by
  rw [mNumbered_eq] at run
  refine endsAt_of_run (form_idle form ready.1) ready checked issues (gives_then gives_heldNow ?_)
  have unnumbered : ((cur (s.issueHeld .m tk)).heldOf .m).seq.isNone = true := by rw [heldOf_issued]; rfl
  exact (gives_if_pos unnumbered).2 (gives_then (gives_numberM _) (gives_then run (gives_then (gives_onCore _ t) (gives_pure.2 ⟨rfl, rfl⟩))))

/-- A p register, as an M command that has its number reads it. -/
theorem gives_pr_numbered (s : State) (tk : Tok) (n : BitVec 5) : Gives (pr .m n.toNat) (mNumbered tk s) (pOf (cur s) n) (mNumbered tk s) := by
  unfold pr
  refine gives_then (gives_curCore.2 ⟨rfl, rfl⟩) ?_
  rw [mNumbered_eq, cur_onCore, held_numbered, heldOf_issued]
  exact gives_pure.2 ⟨rfl, rfl⟩

/-! ### The configuration forms (R401, R402) -/

theorem gives_modTile (f : Tile → Tile) (s : State) : Gives (modTile one f) s () (onTile one f s) := gives_modM _ s

theorem mcfg_ends (ready : Ready .m tk s) (ok : mcfgOk (pOf (cur s) n) = true) :
    MEndsAt (.mcfg tk n) s 1 (onCore (fun c => { c with ms := { c.ms with cfg := pOf (cur s) n } }) (mNumbered tk s)) :=
  mEnds_of_run rfl ready passes_pure (passes_of_gives (gives_then (gives_pr_idle ready.1 n) (gives_legal.2 ⟨ok, rfl⟩)))
    (gives_then (gives_pr_numbered s tk n) (gives_modM _ _))

theorem manchor_ends (ready : Ready .m tk s) : MEndsAt (.manchor tk one n) s 1
    (onTile one (fun t => { emptied t with anchor := BitVec.ofNat 16 (pOf (cur s) n).toNat, auto := false }) (mNumbered tk s)) :=
  mEnds_of_run rfl ready passes_pure passes_pure (gives_then (gives_pr_numbered s tk n) (gives_modTile _ _))

theorem manchorAuto_ends (ready : Ready .m tk s) :
    MEndsAt (.manchorAuto tk one) s 1 (onTile one (fun t => { emptied t with anchor := 0, auto := true }) (mNumbered tk s)) :=
  mEnds_of_run rfl ready passes_pure passes_pure (gives_modTile _ _)

theorem mzero_ends (ready : Ready .m tk s) : MEndsAt (.mzero tk one) s 1 (onTile one emptied (mNumbered tk s)) :=
  mEnds_of_run rfl ready passes_pure passes_pure (gives_modTile _ _)

end

end Sys2Proof.Machine

namespace Sys2Proof.Isa

open Sys2Proof.Machine Sys2Proof.Stmt

theorem matrixConfiguration : MatrixConfiguration := by
  intro s tk n one ready
  refine ⟨mcfg_ends ready, fun bad => ?_, manchor_ends ready, manchorAuto_ends ready, mzero_ends ready⟩
  refine exec_issue_faults (form_idle rfl ready.1) ready passes_pure ?_
  rw [run_of_gives (gives_pr_idle ready.1 n)]
  exact congrArg Prod.fst (Op.run_legal_false bad .m s)

end Sys2Proof.Isa

/-! PROOFS. The frame of the V forms that only write registers, and of the M configuration forms. -/

namespace Sys2Proof.Machine

open Sys2Proof.Stmt

section
variable {i : Instr} {s t : State} {k : Strand} {tk : Tok} {len : Nat} {g : Core → Core} {one : Bool} {n : BitVec 5}

theorem Core.vr_setV_ne (c : Core) {d r : BitVec 6} (v : VReg) (other : r ≠ d) : (c.setV d v).vr r = c.vr r :=
  Vector.getElem_set_ne d.toFin.isLt r.toFin.isLt fun same => other (BitVec.eq_of_toNat_eq same.symm)

theorem Core.mask_setMask_ne (c : Core) {d m : BitVec 3} (v : MReg) (other : m ≠ d) : (c.setMask d v).mask m = c.mask m :=
  Vector.getElem_set_ne d.toFin.isLt m.toFin.isLt fun same => other (BitVec.eq_of_toNat_eq same.symm)

/-- The core as it was, but for its strand V, its tokens and its counters. -/
theorem EndedBy.core_v (ended : EndedBy .v g s t) : ∃ st tok st' tok' ev,
    cur t = { (g { (cur s).setStr .v st with tok := tok }).setStr .v st' with tok := tok', ev := ev } := by
  obtain ⟨st, tok, st', tok', ev, second, is, same⟩ := ended.acts
  cases same fun v => nomatch v
  exact ⟨st, tok, st', tok', ev, is⟩

/-- What the frame says of everything but the registers and the units of V and M. -/
def FrameKept (s t : State) : Prop :=
  SameOutside s t ∧ OtherCores s t ∧ (cur t).x = (cur s).x ∧ (cur t).p = (cur s).p ∧ (cur t).xs = (cur s).xs ∧ ∀ a, byteAt t a = byteAt s a

/-- Writing a v register changes no other and nothing else. -/
theorem setV_frame {d : BitVec 6} {v : VReg} (ended : EndedBy .v (fun c => c.setV d v) s t) :
    FrameKept s t ∧ (cur t).masks = (cur s).masks ∧ (cur t).shape = (cur s).shape ∧ (cur t).ms = (cur s).ms ∧ ∀ r, r ≠ d → (cur t).vr r = (cur s).vr r := by
  obtain ⟨st, tok, st', tok', ev, is⟩ := ended.core_v
  unfold FrameKept
  rw [is]
  exact ⟨⟨ended.outside, ended.others, rfl, rfl, rfl, ended.bytes⟩, rfl, rfl, rfl, fun r other => Core.vr_setV_ne _ _ other⟩

/-- Writing a mask changes no other and nothing else. -/
theorem setMask_frame {d : BitVec 3} {m : MReg} (ended : EndedBy .v (fun c => c.setMask d m) s t) :
    FrameKept s t ∧ (cur t).v = (cur s).v ∧ (cur t).shape = (cur s).shape ∧ (cur t).ms = (cur s).ms ∧ ∀ r, r ≠ d → (cur t).mask r = (cur s).mask r := by
  obtain ⟨st, tok, st', tok', ev, is⟩ := ended.core_v
  unfold FrameKept
  rw [is]
  exact ⟨⟨ended.outside, ended.others, rfl, rfl, rfl, ended.bytes⟩, rfl, rfl, rfl, fun r other => Core.mask_setMask_ne _ _ other⟩

/-- Leaving the registers of the core changes nothing of them. -/
theorem id_frame (ended : EndedBy .v id s t) :
    FrameKept s t ∧ (cur t).masks = (cur s).masks ∧ (cur t).shape = (cur s).shape ∧ (cur t).v = (cur s).v := by
  obtain ⟨st, tok, st', tok', ev, is⟩ := ended.core_v
  unfold FrameKept
  rw [is]
  exact ⟨⟨ended.outside, ended.others, rfl, rfl, rfl, ended.bytes⟩, rfl, rfl, rfl⟩

/-! ### M -/

/-- What an M command that changes the unit of M by `f` does to its core, from issue to end. -/
def unitEnd (f : MState → MState) (c : Core) : Core := ({ numbered c with ms := f (numbered c).ms } : Core).count 23 1

/-- The core as it was, but for its strand M, its tokens, its counters and its unit, which keeps what the command keeps of it. -/
theorem unit_frame {f : MState → MState} (free : Untraced s) (ends : MEndsAt i s len (onCore (fun c => { c with ms := f c.ms }) (mNumbered tk s)))
    (exec_ : exec i s = .next t) : FrameKept s t ∧ (cur t).v = (cur s).v ∧ (cur t).masks = (cur s).masks ∧ (cur t).shape = (cur s).shape ∧
      ∃ second, (cur t).ms = { f { (cur s).ms with seq := (cur s).ms.seq + 1 } with second := second } := by
  unfold MEndsAt EndsAt at ends
  rw [exec_, mNumbered_eq, onCore_onCore, onCore_onCore] at ends
  have counted (c : Core) : ∃ ev, unitEnd f c = { numbered c with ms := f (numbered c).ms, ev := ev } := by
    obtain ⟨ev, is⟩ := Core.count_eq { numbered c with ms := f (numbered c).ms } 23 1
    exact ⟨ev, is⟩
  have keeps : KeepsStream (unitEnd f) := fun c => by
    obtain ⟨ev, is⟩ := counted c
    rw [is]
    exact ⟨rfl, rfl⟩
  have ended : EndedBy .m (unitEnd f) s t := by
    cases ends
    exact endedBy_finish free keeps
  obtain ⟨st, tok, st', tok', ev', second, is, -⟩ := ended.acts
  obtain ⟨ev, core⟩ := counted { (cur s).setStr .m st with tok := tok }
  rw [core] at is
  unfold FrameKept
  rw [is]
  exact ⟨⟨ended.outside, ended.others, rfl, rfl, rfl, ended.bytes⟩, rfl, rfl, rfl, second, rfl⟩

theorem tile_setTile_ne (m : MState) (one : Bool) (x : Tile) : (m.setTile one x).tile (!one) = m.tile (!one) := by
  cases one <;> rfl

theorem tile_frame {f : Tile → Tile} (free : Untraced s) (ends : MEndsAt i s len (onTile one f (mNumbered tk s))) (exec_ : exec i s = .next t) :
    FrameKept s t ∧ (cur t).v = (cur s).v ∧ (cur t).masks = (cur s).masks ∧ (cur t).shape = (cur s).shape ∧ (cur t).ms.cfg = (cur s).ms.cfg ∧
      tileNow (!one) t = tileNow (!one) s := by
  obtain ⟨kept, v, masks, shape, second, ms⟩ := unit_frame (f := fun m => m.setTile one (f (m.tile one))) free ends exec_
  unfold tileNow
  rw [ms]
  refine ⟨kept, v, masks, shape, ?_, ?_⟩ <;> cases one <;> rfl

end

end Sys2Proof.Machine

namespace Sys2Proof.Isa

open Sys2Proof.Machine Sys2Proof.Stmt

/-- Settles O60: each form is one change of its own core, between its issue and its end. -/
theorem vectorAndMatrixFrame : Obligations.VectorAndMatrixFrame := by
  intro i s t tk free exec_ kept
  refine ⟨fun cls d f ready listed accepted => ?_, fun d es f ready listed => ?_, fun d a f ready listed accepted => ?_, fun one n ready form => ?_,
    fun n ready form ok => ?_⟩
  · exact setV_frame ((vwrites_lane listed).ended ready accepted free (fun _ => ⟨rfl, rfl⟩) exec_)
  · exact setMask_frame ((vwrites_mask listed).ended ready rfl free (fun _ => ⟨rfl, rfl⟩) exec_)
  · have ended := fun keeps => (vwrites_reduce (s := s) listed).ended ready accepted free keeps exec_
    by_cases any : (cur s).shp.len ≠ 0
    · rw [show reduceWrite d a f (cur s) = fun k => _ from funext fun k => if_pos any] at ended
      obtain ⟨kept, masks, shape, -, regs⟩ := setV_frame (ended fun _ => ⟨rfl, rfl⟩)
      exact ⟨kept, masks, shape, regs⟩
    · rw [show reduceWrite d a f (cur s) = id from funext fun k => if_neg any] at ended
      obtain ⟨kept, masks, shape, v⟩ := id_frame (ended fun _ => ⟨rfl, rfl⟩)
      exact ⟨kept, masks, shape, fun r _ => congrArg (·[r.toFin]) v⟩
  · rcases form with rfl | rfl | rfl
    · exact tile_frame free (manchor_ends ready) exec_
    · exact tile_frame free (manchorAuto_ends ready) exec_
    · exact tile_frame free (mzero_ends ready) exec_
  · subst form
    obtain ⟨kept, v, masks, shape, second, ms⟩ := unit_frame (f := fun m => { m with cfg := pOf (cur s) n }) free (mcfg_ends ready ok) exec_
    refine ⟨kept, v, masks, shape, fun b => ?_⟩
    unfold tileNow
    rw [ms]
    rfl

end Sys2Proof.Isa

/-! PROOFS. The vector accesses (R387 to R390): what they do once their places have been read, or their pieces written. -/

namespace Sys2Proof.Machine

open Sys2Proof.Stmt

section
variable {i : Instr} {s u v t : State} {tk : Tok} {d ix : BitVec 6} {slot n : BitVec 5} {tn : Nat} {ds : Desc} {cs : List Nat} {xs : List (Nat × Nat)} {nt : Bool}

/-- The coordinates of element `e` of a `vld`, `vst` or `vupd`. -/
def alongRow (cs : List Nat) (e : Nat) : List Nat := (cs.getD 0 0 + e) :: cs.drop 1

/-- The elements of `xs`, written into v[d]. -/
def putState (d : BitVec 6) (w : Nat) (xs : List (Nat × Nat)) : State → State := onCore fun k => k.setV d (xs.foldl (fun r x => setElem w r x.1 x.2) (k.vr d))

theorem gives_putElems (w : Nat) (t : State) : Gives (putElems d w xs) t () (putState d w xs t) := gives_onCore _ t

/-- Writing the elements ends the access. -/
theorem gives_written (w : Nat) (t : State) : Gives (putElems d w xs >>= fun _ => pure Next.seq) t Next.seq (putState d w xs t) :=
  gives_then (gives_putElems w t) (gives_pure.2 ⟨rfl, rfl⟩)

/-- The registers that a vector access computes from are those at issue. -/
theorem shp_issued (s : State) (tk : Tok) : (cur (s.issueHeld .v tk)).shp = (cur s).shp := cur_issueHeld_field Core.shp fun _ _ _ => rfl

theorem active_issued (s : State) (tk : Tok) : (cur (s.issueHeld .v tk)).active = (cur s).active := cur_issueHeld_field Core.active fun _ _ _ => rfl

theorem vr_issued (s : State) (tk : Tok) (d : BitVec 6) : (cur (s.issueHeld .v tk)).vr d = (cur s).vr d :=
  cur_issueHeld_field (fun c => c.vr d) fun _ _ _ => rfl

/-! ### Loads (R387, R388) -/

/-- The reading of the elements of a vector load, from the runs `rs` or a generator's own values. -/
def elementReads (slot : BitVec 5) (tn : Nat) (ds : Desc) (es : List Nat) (at_ : Nat → List Nat) (memory : Op (List (Nat × Nat))) : Op (List (Nat × Nat)) :=
  if ds.kind = 2 then tryAll (es.map fun e => do return (e, ← genRead slot.toNat tn ds (at_ e))) else memory

/-- What a `vld` reads, and the width of its elements. -/
def loadReads (sh : Shape) (es : List Nat) (slot : BitVec 5) (tn : Nat) (ds : Desc) (cs : List Nat) : Nat × Op (List (Nat × Nat)) :=
  if elemMode? sh ds then
    (sh.w, elementReads slot tn ds es (alongRow cs) (readRuns (sh.w / 8) anyTile (vruns (sh.w / 8) slot.toNat tn ds es (alongRow cs))))
  else (512, readRuns 64 anyTile (blockRuns slot tn ds ((sh.len * sh.w + 511) / 512) cs))

/-- `vld` writes the elements that it has read. -/
theorem gives_vloadOp (desc : Gives (slotDesc slot) s (tn, ds) u) (coords : Gives (coordsAt .v n.toNat ds.rank) u cs v)
    (reads : Gives (loadReads (cur s).shp (cur s).active slot tn ds cs).2 v xs t) :
    Gives (vloadOp d slot n) s .seq (putState d (loadReads (cur s).shp (cur s).active slot tn ds cs).1 xs t) := by
  unfold vloadOp
  refine gives_then (gives_curCore.2 ⟨rfl, rfl⟩) (gives_then desc (gives_then coords ?_))
  unfold loadReads elementReads at *
  by_cases mode : elemMode? (cur s).shp ds = true
  · refine (gives_if_pos mode).2 ?_
    rw [if_pos mode] at reads ⊢
    by_cases kind : ds.kind = 2
    · exact (gives_if_pos kind).2 (gives_then ((gives_if_pos kind).1 reads) (gives_written _ t))
    · exact (gives_if_neg kind).2 (gives_then ((gives_if_neg kind).1 reads) (gives_written _ t))
  · refine (gives_if_neg mode).2 ?_
    rw [if_neg mode] at reads ⊢
    exact gives_then reads (gives_written _ t)

theorem vld_ends (ready : Ready .v tk s) (checked : Passes (vaccCheck .load slot n) s) (desc : Gives (slotDesc slot) (s.issueHeld .v tk) (tn, ds) u)
    (coords : Gives (coordsAt .v n.toNat ds.rank) u cs v) (reads : Gives (loadReads (cur s).shp (cur s).active slot tn ds cs).2 v xs t) :
    EndsAt (.vld tk d slot n) s .v 1 (putState d (loadReads (cur s).shp (cur s).active slot tn ds cs).1 xs t) := by
  rw [← shp_issued s tk, ← active_issued s tk] at reads ⊢
  exact endsAt_of_run rfl ready checked passes_pure (gives_vloadOp desc coords reads)

/-- `vgather` writes the elements that it has read. -/
theorem vgather_ends (ready : Ready .v tk s) (checked : Passes (vaccCheck .gather slot 0) s) (desc : Gives (slotDesc slot) (s.issueHeld .v tk) (tn, ds) u)
    (reads : Gives (elementReads slot tn ds (cur s).active (indexCoords ds ((cur s).vr ix))
      (readRuns ((cur s).shp.w / 8) ownScratch (vruns ((cur s).shp.w / 8) slot.toNat tn ds (cur s).active (indexCoords ds ((cur s).vr ix))))) u xs t) :
    EndsAt (.vgather tk d slot ix) s .v 1 (putState d (cur s).shp.w xs t) := by
  rw [← shp_issued s tk, ← active_issued s tk, ← vr_issued s tk] at reads
  rw [← shp_issued s tk]
  refine endsAt_of_run rfl ready checked passes_pure (gives_then (gives_curCore.2 ⟨rfl, rfl⟩) (gives_then desc ?_))
  unfold elementReads at reads
  by_cases kind : ds.kind = 2
  · exact (gives_if_pos kind).2 (gives_then ((gives_if_pos kind).1 reads) (gives_written _ t))
  · exact (gives_if_neg kind).2 (gives_then ((gives_if_neg kind).1 reads) (gives_written _ t))

/-! ### Stores (R387 to R390) -/

/-- The bytes of the elements of a run. -/
def runWithBytes (w : Nat) (r : VReg) (run : VRun) : VRun × List Byte := (run, run.es.flatMap fun e => leBytes (w / 8) (velem r w e))

/-- The width and the runs of a `vst`. -/
def storeRuns (sh : Shape) (es : List Nat) (slot : BitVec 5) (tn : Nat) (ds : Desc) (cs : List Nat) : Nat × List VRun :=
  if elemMode? sh ds then (sh.w, vruns (sh.w / 8) slot.toNat tn ds es (alongRow cs)) else (512, blockRuns slot tn ds ((sh.len * sh.w + 511) / 512) cs)

theorem gives_vstoreOp (desc : Gives (slotDesc slot) s (tn, ds) u) (coords : Gives (coordsAt .v n.toNat ds.rank) u cs v)
    (writes : Gives (writeRuns (nt || ds.nt) anyTile ((storeRuns (cur s).shp (cur s).active slot tn ds cs).2.map
      (runWithBytes (storeRuns (cur s).shp (cur s).active slot tn ds cs).1 ((cur s).vr d)))) v () t) : Gives (vstoreOp nt d slot n) s .seq t := by
  unfold vstoreOp
  refine gives_then (gives_curCore.2 ⟨rfl, rfl⟩) (gives_then desc (gives_then coords ?_))
  exact gives_then writes (gives_pure.2 ⟨rfl, rfl⟩)

/-- `vst` and `vst.nt` write their pieces. -/
theorem vst_ends (ready : Ready .v tk s) (checked : Passes (vaccCheck .store slot n) s) (desc : Gives (slotDesc slot) (s.issueHeld .v tk) (tn, ds) u)
    (coords : Gives (coordsAt .v n.toNat ds.rank) u cs v)
    (writes : Gives (writeRuns (nt || ds.nt) anyTile ((storeRuns (cur s).shp (cur s).active slot tn ds cs).2.map
      (runWithBytes (storeRuns (cur s).shp (cur s).active slot tn ds cs).1 ((cur s).vr d)))) v () t) :
    EndsAt (if nt then Instr.vstNt tk d slot n else Instr.vst tk d slot n) s .v 1 t := by
  rw [← shp_issued s tk, ← active_issued s tk, ← vr_issued s tk] at writes
  cases nt
  · exact endsAt_of_run rfl ready checked passes_pure (gives_vstoreOp desc coords writes)
  · exact endsAt_of_run rfl ready checked passes_pure (gives_vstoreOp desc coords writes)

theorem vscatter_ends (ready : Ready .v tk s) (checked : Passes (vaccCheck .scatter slot 0) s) (desc : Gives (slotDesc slot) (s.issueHeld .v tk) (tn, ds) u)
    (writes : Gives (writeRuns ds.nt ownScratch ((vruns ((cur s).shp.w / 8) slot.toNat tn ds (cur s).active (indexCoords ds ((cur s).vr ix))).map
      (runWithBytes (cur s).shp.w ((cur s).vr d)))) u () t) : EndsAt (.vscatter tk d slot ix) s .v 1 t := by
  rw [← shp_issued s tk, ← active_issued s tk, ← vr_issued s tk, ← vr_issued s tk] at writes
  exact endsAt_of_run rfl ready checked passes_pure
    (gives_then (gives_curCore.2 ⟨rfl, rfl⟩) (gives_then desc (gives_then writes (gives_pure.2 ⟨rfl, rfl⟩))))

theorem vupd_ends (ready : Ready .v tk s) (checked : Passes (vaccCheck .upd slot n) s) (desc : Gives (slotDesc slot) (s.issueHeld .v tk) (tn, ds) u)
    (coords : Gives (coordsAt .v n.toNat ds.rank) u cs v)
    (adds : Gives (updateRuns (cur (s.issueHeld .v tk)) d (vruns ((cur s).shp.w / 8) slot.toNat tn ds (cur s).active (alongRow cs))) v () t) :
    EndsAt (.vupd tk d slot n) s .v 1 t := by
  rw [← shp_issued s tk, ← active_issued s tk] at adds
  exact endsAt_of_run rfl ready checked passes_pure
    (gives_then (gives_curCore.2 ⟨rfl, rfl⟩) (gives_then desc (gives_then coords (gives_then adds (gives_pure.2 ⟨rfl, rfl⟩)))))

end

end Sys2Proof.Machine

namespace Sys2Proof.Isa

open Sys2Proof.Machine Sys2Proof.Stmt

/-- Settles O32: a vector load writes what it has read, whichever way its elements are read. -/
theorem vectorLoadResults : Obligations.VectorLoadResults := by
  intro s u v t tk d ix slot n tn ds cs xs ready c put at_
  refine ⟨fun checked desc coords => ⟨fun mode kind reads => ?_, fun mode kind reads => ?_, fun mode reads => ?_⟩,
    fun checked desc => ⟨fun kind reads => ?_, fun kind reads => ?_⟩⟩
  · have ends := fun r => vld_ends (d := d) (t := t) (xs := xs) ready checked desc coords r
    rw [loadReads, if_pos mode] at ends
    exact ends ((gives_if_neg kind).2 reads)
  · have ends := fun r => vld_ends (d := d) (t := t) (xs := xs) ready checked desc coords r
    rw [loadReads, if_pos mode] at ends
    exact ends ((gives_if_pos kind).2 reads)
  · have ends := fun r => vld_ends (d := d) (t := t) (xs := xs) ready checked desc coords r
    rw [loadReads, if_neg (by rw [mode]; decide)] at ends
    exact ends reads
  · exact vgather_ends ready checked desc ((gives_if_neg kind).2 reads)
  · exact vgather_ends ready checked desc ((gives_if_pos kind).2 reads)

/-- Settles O33: a vector store completes when its pieces have been written, added or logged. -/
theorem vectorStoreResults : Obligations.VectorStoreResults := by
  intro s u v t tk nt d ix slot n tn ds cs ready c at_ bytes st
  refine ⟨fun checked desc coords => ⟨fun mode writes => ?_, fun mode writes => ?_⟩, fun checked desc writes => vscatter_ends ready checked desc writes,
    fun checked desc coords adds => vupd_ends ready checked desc coords adds⟩
  · have ends := fun w => vst_ends (d := d) (nt := nt) (t := t) ready checked desc coords w
    rw [storeRuns, if_pos mode] at ends
    exact ends writes
  · have ends := fun w => vst_ends (d := d) (nt := nt) (t := t) ready checked desc coords w
    rw [storeRuns, if_neg (by rw [mode]; decide)] at ends
    exact ends writes

end Sys2Proof.Isa

/-! PROOFS. The image of a tile (R411): its bytes give the tile back. -/

namespace Sys2Proof.Machine

open Sys2Proof.Stmt

/-! ### Bytes -/

theorem leNat_leBytes : ∀ n v, leNat (leBytes n v) = v % 256 ^ n
  | 0, v => by rw [Nat.pow_zero, Nat.mod_one]; rfl
  | n + 1, v => by
    show (BitVec.ofNat 8 v).toNat + 256 * leNat (leBytes n (v / 256)) = _
    rw [leNat_leBytes n, BitVec.toNat_ofNat, Nat.pow_succ' (m := 256)]
    exact Nat.mod_mul.symm

theorem leNat_append (bs cs : List Byte) : leNat (bs ++ cs) = leNat bs + 256 ^ bs.length * leNat cs := by
  induction bs with
  | nil => simp [leNat]
  | cons b bs ih =>
    show b.toNat + 256 * leNat (bs ++ cs) = b.toNat + 256 * leNat bs + 256 ^ (bs.length + 1) * leNat cs
    rw [ih, Nat.pow_succ']
    ring

/-- The bytes of a value give it back. -/
theorem leBV_bvBytes {w n : Nat} (v : BitVec w) (fits : w ≤ 8 * n) : leBV w (bvBytes n v) = v := by
  have small : v.toNat < 256 ^ n := calc
    v.toNat < 2 ^ w := v.isLt
    _ ≤ 2 ^ (8 * n) := Nat.pow_le_pow_right (by decide) fits
    _ = 256 ^ n := by rw [Nat.pow_mul]
  rw [leBV, bvBytes, leNat_leBytes, Nat.mod_eq_of_lt small, BitVec.ofNat_toNat, BitVec.setWidth_eq]

/-- The words of a value, each as its eight bytes, are its bytes. -/
theorem leNat_words {w : Nat} (v : BitVec w) (n : Nat) : leNat ((List.range n).flatMap fun i => bvBytes 8 (v.extractLsb' (64 * i) 64)) = v.toNat % 2 ^ (64 * n) := by
  induction n with
  | zero => simp [leNat, Nat.mod_one]
  | succ n ih =>
    have length : ((List.range n).flatMap fun i => bvBytes 8 (v.extractLsb' (64 * i) 64)).length = 8 * n := by
      simp [List.length_flatMap, bvBytes_length, Nat.mul_comm]
    rw [List.range_succ, List.flatMap_append, leNat_append, ih, length, List.flatMap_singleton, bvBytes, leNat_leBytes, BitVec.extractLsb'_toNat,
      Nat.shiftRight_eq_div_pow, show 256 ^ (8 * n) = 2 ^ (64 * n) by rw [Nat.pow_mul, Nat.pow_mul], show 256 ^ 8 = 2 ^ 64 by decide, Nat.mod_mod,
      Nat.mul_succ, Nat.pow_add, Nat.mod_mul]

/-- Pieces of one length, put together and cut again. -/
theorem chunks_flatMap {α : Type} {k : Nat} {f : α → List Byte} (length : ∀ x, (f x).length = k) (xs : List α) :
    chunks k xs.length (xs.flatMap f) = xs.map f := by
  induction xs with
  | nil => rfl
  | cons x xs ih =>
    show List.take k (f x ++ xs.flatMap f) :: chunks k xs.length (List.drop k (f x ++ xs.flatMap f)) = f x :: xs.map f
    rw [List.take_left' (length x), List.drop_left' (length x), ih]

/-! ### Maps in canonical form -/

theorem SMap.get_above {β : Type} {d : β} {m : SMap β} {k x : Nat} {v : β} (rises : SMap.rising ((k, v) :: m) = true) (before : x ≤ k) : SMap.get d m x = d :=
  SMap.get_none d m x fun e listed same => by
    have after := ((SMap.rising_cons (k, v) m).1 rises).1 e listed
    omega

/-- A map in canonical form is told by what it holds. -/
theorem SMap.eq_of_get {β : Type} [DecidableEq β] {d : β} : ∀ {m r : SMap β}, SMap.wf d m = true → SMap.wf d r = true → (∀ x, SMap.get d m x = SMap.get d r x) → m = r
  | [], [], _, _, _ => rfl
  | [], (k, v) :: r, _, wf, same => by
    have value : v ≠ d := ((SMap.wf_iff d _).1 wf).2 (k, v) (List.mem_cons_self ..)
    exact absurd ((if_pos rfl).symm.trans (same k).symm) value
  | (k, v) :: m, [], wf, _, same => by
    have value : v ≠ d := ((SMap.wf_iff d _).1 wf).2 (k, v) (List.mem_cons_self ..)
    exact absurd ((if_pos rfl).symm.trans (same k)) value
  | (k, v) :: m, (k', v') :: r, wfm, wfr, same => by
    obtain ⟨risesM, valuesM⟩ := (SMap.wf_iff d _).1 wfm
    obtain ⟨risesR, valuesR⟩ := (SMap.wf_iff d _).1 wfr
    have atM : SMap.get d ((k, v) :: m) k = v := if_pos rfl
    have atR : SMap.get d ((k', v') :: r) k' = v' := if_pos rfl
    have keys : k = k' := by
      rcases Nat.lt_trichotomy k k' with less | eq | more
      · have none : SMap.get d ((k', v') :: r) k = d := (if_neg (by omega)).trans (SMap.get_above risesR (by omega))
        exact absurd (atM.symm.trans ((same k).trans none)) (valuesM _ (List.mem_cons_self ..))
      · exact eq
      · have none : SMap.get d ((k, v) :: m) k' = d := (if_neg (by omega)).trans (SMap.get_above risesM (by omega))
        exact absurd (atR.symm.trans ((same k').symm.trans none)) (valuesR _ (List.mem_cons_self ..))
    subst keys
    have values : v = v' := atM.symm.trans ((same k).trans atR)
    subst values
    have rest : ∀ x, SMap.get d m x = SMap.get d r x := fun x => by
      by_cases here : k = x
      · rw [SMap.get_above risesM (by omega), SMap.get_above risesR (by omega)]
      · exact (if_neg here).symm.trans ((same x).trans (if_neg here))
    have tail {t : SMap β} (rises : SMap.rising ((k, v) :: t) = true) (values : ∀ x ∈ (k, v) :: t, x.2 ≠ d) : SMap.wf d t = true :=
      (SMap.wf_iff d t).2 ⟨((SMap.rising_cons _ t).1 rises).2, fun x listed => values x (List.mem_cons_of_mem _ listed)⟩
    rw [SMap.eq_of_get (tail risesM valuesM) (tail risesR valuesR) rest]

/-- A map in canonical form, from its values at the keys that it may hold. -/
theorem SMap.write_get {β : Type} [DecidableEq β] {d : β} {m : SMap β} {n : Nat} (wf : SMap.wf d m = true) (below : ∀ e ∈ m, e.1 < n) :
    SMap.write d [] 0 ((List.range n).map fun x => SMap.get d m x) = m := by
  refine SMap.eq_of_get (SMap.wf_write d [] 0 _ rfl) wf fun x => ?_
  rw [SMap.get_write d [] 0 _ x rfl]
  by_cases inside : x < n
  · rw [if_pos (by simpa using inside)]
    simp [List.getD, inside]
  · rw [if_neg (by simpa using inside)]
    exact (SMap.get_none d m x fun e listed same => inside (same ▸ below e listed)).symm

/-! ### The image -/

theorem imageFlags : ∀ auto taken : Bool, (BitVec.ofNat 8 ((if auto then 1 else 0) + if taken then 2 else 0)).getLsbD 0 = auto ∧
    (BitVec.ofNat 8 ((if auto then 1 else 0) + if taken then 2 else 0)).getLsbD 1 = taken := by decide

/-- What a tile takes from the parts of an image. -/
theorem ofImage_parts {anchor zeros ovf gap els : List Byte} {flags : Byte} (anchorLen : anchor.length = 2) (zerosLen : zeros.length = 61) (ovfLen : ovf.length = 1024)
    (gapLen : gap.length = 3008) : Tile.ofImage (anchor ++ [flags] ++ zeros ++ ovf ++ gap ++ els) =
      { el := SMap.write 0 [] 0 ((chunks 16 8192 els).map (leBV 128)), ovf := leBV 8192 ovf, anchor := leBV 16 anchor, auto := flags.getLsbD 0, taken := flags.getLsbD 1 } := by
  unfold Tile.ofImage
  rw [List.drop_left' (l₁ := anchor ++ [flags] ++ zeros ++ ovf ++ gap) (by simp; omega)]
  rw [List.append_assoc, List.append_assoc, List.drop_left' (l₁ := anchor ++ [flags] ++ zeros) (by simp; omega), List.take_left' ovfLen,
    List.append_assoc, List.append_assoc, List.take_left' anchorLen]
  have flag : (anchor ++ ([flags] ++ (zeros ++ (ovf ++ (gap ++ els))))).getD 2 0 = flags := by
    rw [List.getD_append_right _ _ _ _ (by omega), anchorLen]
    rfl
  rw [flag]

end Sys2Proof.Machine

namespace Sys2Proof.Isa

open Sys2Proof.Machine Sys2Proof.Stmt

theorem tileImageRoundTrip : TileImageRoundTrip := by
  intro t wf below
  unfold Tile.image
  rw [ofImage_parts (bvBytes_length ..) (List.length_replicate ..) (by simp [List.length_flatMap, bvBytes_length]) (List.length_replicate ..)]
  have els : (chunks 16 8192 ((List.range 8192).flatMap fun x => bvBytes 16 (SMap.get 0 t.el x))).map (leBV 128) =
      (List.range 8192).map fun x => SMap.get 0 t.el x := by
    have cut := chunks_flatMap (f := fun x => bvBytes 16 (SMap.get 0 t.el x)) (fun _ => bvBytes_length ..) (List.range 8192)
    rw [List.length_range] at cut
    rw [cut, List.map_map]
    exact List.map_congr_left fun x _ => leBV_bvBytes _ (by decide)
  have ovf : leBV 8192 ((List.range 128).flatMap fun i => bvBytes 8 (t.ovf.extractLsb' (64 * i) 64)) = t.ovf := by
    rw [leBV, leNat_words, Nat.mod_eq_of_lt t.ovf.isLt, BitVec.ofNat_toNat, BitVec.setWidth_eq]
  obtain ⟨auto, taken⟩ := imageFlags t.auto t.taken
  rw [els, ovf, SMap.write_get wf below, leBV_bvBytes _ (by decide), auto, taken]

end Sys2Proof.Isa

/-! PROOFS. The M commands but the sparse ones (R396, R403 to R414): each does what its operands and its tile give, and completes. -/

namespace Sys2Proof.Machine

open Sys2Proof.Stmt

section
variable {i : Instr} {s u v t : State} {k : Strand} {tk : Tok} {len : Nat} {check issue : Op Unit} {one : Bool} {n : BitVec 5} {slot c : BitVec 5}

/-! ### Reading operands leaves the registers -/

/-- A core after accesses: its strands, registers and units stand. -/
theorem State.Accessed.cur_eq (after : s.Accessed t) : ∃ (descs : Crew → List (Nat × BitVec 512)) (tcs : Vector (List TcEnt) 5) (ev : EvState),
    Stmt.cur t = { Stmt.cur s with crew := (Stmt.cur s).crew.map fun w => { w with descs := descs w }, tcs := tcs, ev := ev } := by
  rw [show Stmt.cur t = t.core s.cur from congrArg t.core after.cur]
  exact after.acts

theorem State.Accessed.ms (after : s.Accessed t) : (Stmt.cur t).ms = (Stmt.cur s).ms := by
  obtain ⟨_, _, _, is⟩ := after.cur_eq
  rw [is]

theorem State.Accessed.str (after : s.Accessed t) : (Stmt.cur t).str k = (Stmt.cur s).str k := by
  obtain ⟨_, _, _, is⟩ := after.cur_eq
  rw [is]
  rfl

theorem State.Accessed.p (after : s.Accessed t) : (Stmt.cur t).p = (Stmt.cur s).p := by
  obtain ⟨_, _, _, is⟩ := after.cur_eq
  rw [is]

/-- What reads p registers alone, and of them those at issue. -/
theorem gives_pr_after {j : Nat} (after : (mNumbered tk s).Accessed u) : Gives (pr .m j) u ((cur s).p.toList.getD j 0) u := by
  unfold pr
  refine gives_then (gives_curCore.2 ⟨rfl, rfl⟩) ?_
  rw [after.str, mNumbered_eq, cur_onCore, held_numbered, heldOf_issued]
  exact gives_pure.2 ⟨rfl, rfl⟩

/-- The unit of M once a command has its number. -/
theorem ms_numbered (s : State) (tk : Tok) : (cur (mNumbered tk s)).ms = { (cur s).ms with seq := (cur s).ms.seq + 1 } := by
  obtain ⟨tok, issued⟩ := cur_issueHeld s .m tk
  rw [mNumbered_eq, cur_onCore, issued]
  rfl

theorem tileNow_after (after : (mNumbered tk s).Accessed u) : tileNow one u = tileNow one s := by
  unfold tileNow
  rw [after.ms, ms_numbered]
  rfl

theorem gives_tileOf (one : Bool) (s : State) : Gives (tileOf one) s (tileNow one s) s := gives_then (gives_curCore.2 ⟨rfl, rfl⟩) (gives_pure.2 ⟨rfl, rfl⟩)

/-- A step that is taken only where a bit of the word says so. -/
theorem gives_when {b : Bool} {x : Op Unit} {f : State → State} (taken : ∀ r, Gives x r () (f r)) (s : State) :
    Gives (if b then x else pure ()) s () (if b then f s else s) := by
  cases b
  · exact gives_pure.2 ⟨rfl, rfl⟩
  · exact taken s

/-- A check that passes leaves some state. -/
theorem gives_of_passes (passes : Passes check s) : ∃ t, Gives check s () t := ⟨(check.run s).2, Prod.ext passes rfl⟩

theorem gives_trefCheck {r : TRef} (passes : Passes (trefCheck r) s) : Gives (trefCheck r) s () s := by
  obtain ⟨t, gives⟩ := gives_of_passes passes
  have same : s = t := by
    simp only [trefCheck, slotBound, slotRank, gives_bind, gives_curCrew, gives_get, gives_need, gives_pure] at gives
    obtain ⟨_, _, ⟨w, _, ⟨-, rfl⟩, _, _, ⟨-, rfl⟩, _, _, ⟨rfl, rfl⟩, -, rfl⟩, _, _, ⟨w', _, ⟨-, rfl⟩, _, _, ⟨rfl, rfl⟩, -, rfl⟩, -, same⟩ := gives
    exact same
  exact same ▸ gives

/-! ### Products (R396, R403, R404) -/

/-- The geometry of a command is examined before it takes its token. -/
theorem geometry_faults {m : MulArgs} {tn : Nat} {d : Desc} (ready : Ready .m tk s) (checked : Passes (mulCheck m false) s)
    (desc : Gives (slotDesc m.a.slot) s (tn, d) u) (bad : geoOk (pOf (cur s) m.g) = false) :
    exec (.mmd tk m) s = .next (s.takeFault s.cur .m (pcOf .m s) (s.ir.headD 0) ⟨2, 4, detT tn m.a.slot.toNat 0 0, false⟩) := by
  refine exec_issue_faults (form_idle rfl ready.1) ready checked ?_
  have after := (reads_slotDesc desc).toAccessed
  have reads : Gives (pr .m m.g.toNat) u (pOf (cur s) m.g) u := by
    have idle : ((cur u).str .m).held = none := by rw [after.str]; exact ready.1
    have value := gives_pr_idle idle m.g
    rwa [pOf, after.p] at value
  unfold geoCheck
  rw [run_of_gives desc]
  dsimp only
  rw [run_of_gives reads, bad]
  rfl

/-! ### Statistics (R413, R414) -/

theorem mstat_ends {clr : Bool} {a : Acc} (ready : Ready .m tk s) (checked : Passes (do slotBound slot; writable slot) s)
    (lin : Gives (linAcc slot (fld (pOf (cur s) c) 0 48) 64 64) (mNumbered tk s) a u)
    (writes : Gives (writePieces .m (linWPieces a ((cur s).ms.stats.flatMap fun v => bvBytes 8 v))) u () t) :
    MEndsAt (.mstat tk slot c clr) s 1 (if clr then onCore (fun c => { c with ms := { c.ms with stats := List.replicate 8 0 } }) t else t) := by
  refine mEnds_of_run rfl ready checked passes_pure (gives_then (gives_pr_numbered s tk c) (gives_then lin (gives_then (gives_curCore.2 ⟨rfl, rfl⟩) ?_)))
  rw [(reads_linAcc lin).toAccessed.ms, ms_numbered]
  exact gives_then writes (gives_when (gives_modM fun m => { m with stats := List.replicate 8 0 }) t)

/-- The bytes that `msamp` stores. -/
def sampBytes (m : MState) : List Byte :=
  bvBytes 4 m.sampled ++ bvBytes 4 m.mismatch ++ bvBytes 2 m.bnd ++ [BitVec.ofNat 8 m.sampOff.toNat] ++ List.replicate 5 0

theorem msamp_ends {clr bnd : Bool} {a : Acc} (ready : Ready .m tk s) (checked : Passes (do slotBound slot; writable slot) s)
    (lin : Gives (linAcc slot (fld (pOf (cur s) c) 0 48) 16 16) (mNumbered tk s) a u)
    (writes : Gives (writePieces .m (linWPieces a (sampBytes (cur s).ms))) u () t) :
    let cleared := if clr then onCore (fun c => { c with ms := { c.ms with sampled := 0, mismatch := 0 } }) t else t
    MEndsAt (.msamp tk bnd slot c clr) s 1
      (if bnd then onCore (fun k => { k with ms := { k.ms with bnd := (pOf (cur s) c).extractLsb' 48 16 } }) cleared else cleared) := by
  intro cleared
  refine mEnds_of_run rfl ready checked passes_pure (gives_then (gives_pr_numbered s tk c) (gives_then lin (gives_then (gives_curCore.2 ⟨rfl, rfl⟩) ?_)))
  rw [(reads_linAcc lin).toAccessed.ms, ms_numbered]
  refine gives_then writes ?_
  have last := gives_when (b := bnd) (gives_modM fun m => { m with bnd := (pOf (cur s) c).extractLsb' 48 16 })
  cases clr
  · exact last t
  · exact gives_then (gives_modM _ t) (last _)

end

end Sys2Proof.Machine

/-! PROOFS. Readouts, tables and images of tiles (R408 to R412). -/

namespace Sys2Proof.Machine

open Sys2Proof.Stmt

section
variable {i : Instr} {s u v y t : State} {k : Strand} {tk : Tok} {one : Bool} {r : TRef} {a : Acc} {bs : List Byte}

theorem reads_pr {j : Nat} {w : Word} (gives : Gives (pr k j) s w t) : s = t := by
  unfold pr at gives
  obtain ⟨c, x, core, rest⟩ := gives_bind.1 gives
  obtain ⟨-, rfl⟩ := gives_curCore.1 core
  split at rest
  all_goals exact (gives_pure.1 rest).2

theorem reads_coordsAt {base rank : Nat} {cs : List Nat} (gives : Gives (coordsAt k base rank) s cs t) : s.Reads t := by
  refine reads_mapM (fun {j s n t} gives => ?_) gives
  obtain ⟨w, u, reads, last⟩ := gives_bind.1 gives
  exact (reads_pr reads).trans (gives_pure.1 last).2 ▸ .refl _

/-! ### Readouts (R409, R410) -/

theorem mrd_ends {r : MrdArgs} {tn : Nat} {d : Desc} {cs : List Nat} {os : List WPiece} (ready : Ready .m tk s) (checked : Passes (mrdCheck r) s)
    (box : Passes (mrdBox r) s) (desc : Gives (slotDesc r.d.slot) (mNumbered tk s) (tn, d) u) (coords : Gives (coordsAt .m r.d.pcrd.toNat d.rank) u cs v)
    (ovf : Gives (mrdOvf r (tileNow r.tile s) (pOf (cur s) r.d.pbox).toNat ((cur s).p.toList.getD (r.d.pbox.toNat + 1) 0).toNat) v os y)
    (writes : Gives (writePieces .m (elemPieces .m r.d.slot tn d (mrdElems r d.format (tileNow r.tile s) cs (pOf (cur s) r.d.pbox).toNat
      ((cur s).p.toList.getD (r.d.pbox.toNat + 1) 0).toNat) ++ os)) y () t) :
    MEndsAt (.mrd tk r) s 3
      (if r.clr then onTile r.tile (fun x => x.clearBox r (pOf (cur s) r.d.pbox).toNat ((cur s).p.toList.getD (r.d.pbox.toNat + 1) 0).toNat) t else t) := by
  have after : (mNumbered tk s).Accessed v := ((reads_slotDesc desc).trans (reads_coordsAt coords)).toAccessed
  rw [← tileNow_after after] at ovf writes
  exact mEnds_of_run rfl ready checked box (gives_then desc (gives_then coords (gives_then (gives_pr_after after) (gives_then (gives_pr_after after)
    (gives_then (gives_tileOf _ v) (gives_then ovf (gives_then writes (gives_when (gives_modTile _) t))))))))

/-! ### Tables (R408) -/

/-- The slot of a table that `mtab` asks for. -/
def askedSlot (r : TRef) (o : MOp) (h : Held) (n : Nat) : TabSlot := ⟨BitVec.ofNat 12 o.t, o.c0 + n, none, r.slot, h.pc, h.words.headD 0⟩

/-- The weight path with the tag of a table in front. -/
def askTable (r : TRef) (o : MOp) (h : Held) (n : Nat) : State → State := onCore fun c =>
  { c with ms := c.ms.useTab ((c.ms.tab (BitVec.ofNat 12 o.t) (o.c0 + n)).getD (askedSlot r o h n)) }

theorem gives_askTable (r : TRef) (o : MOp) (h : Held) (n : Nat) (s : State) :
    Gives (modM fun m => m.useTab ((m.tab (BitVec.ofNat 12 o.t) (o.c0 + n)).getD (askedSlot r o h n))) s () (askTable r o h n s) := gives_modM _ s

theorem gives_arrival (s : State) : Gives (modify fun s : State => s.push (.tableArrival s.cur)) s () (s.push (.tableArrival s.cur)) := gives_modify.2 rfl

theorem mtab_ends {o : MOp} (ready : Ready .m tk s) (checked : Passes (tabCheck r) s) (operand : Gives (mOperand r) (mNumbered tk s) o t) :
    let ask := askTable r o ((cur t).heldOf .m)
    MEndsAt (.mtab tk false r) s 2 ((ask 0 t).push (.tableArrival t.cur)) ∧
    MEndsAt (.mtab tk true r) s 2 ((ask 1 (ask 0 t)).push (.tableArrival t.cur)) := by
  intro ask
  constructor
  · refine mEnds_of_run rfl ready checked passes_pure (gives_then operand (gives_then gives_heldNow ?_))
    exact gives_then (gives_then (gives_askTable _ _ _ 0 t) (gives_pure.2 ⟨rfl, rfl⟩)) (gives_arrival _)
  · refine mEnds_of_run rfl ready checked passes_pure (gives_then operand (gives_then gives_heldNow ?_))
    exact gives_then (gives_then (gives_askTable _ _ _ 0 t) (gives_then (gives_askTable _ _ _ 1 _) (gives_pure.2 ⟨rfl, rfl⟩))) (gives_arrival _)

/-! ### Images (R411, R412) -/

theorem mst_ends (ready : Ready .m tk s) (checked : Passes (do trefCheck r; writable r.slot) s)
    (lin : Gives (linAcc r.slot (pOf (cur s) r.pcrd).toNat 135168 64) (mNumbered tk s) a u)
    (writes : Gives (writePieces .m (linWPieces a (tileNow one s).image)) u () t) : MEndsAt (.mst tk one r) s 2 t := by
  rw [← tileNow_after (reads_linAcc lin).toAccessed] at writes
  exact mEnds_of_run rfl ready checked passes_pure (gives_then (gives_pr_numbered s tk r.pcrd) (gives_then lin (gives_then (gives_tileOf one u) writes)))

theorem mld_ends (ready : Ready .m tk s) (checked : Passes (trefCheck r) s)
    (lin : Gives (linAcc r.slot (pOf (cur s) r.pcrd).toNat 135168 64) (mNumbered tk s) a u) (reads : Gives (readChecked .m a 135168) u bs t) :
    MEndsAt (.mld tk one r) s 2 (onTile one (fun _ => Tile.ofImage bs) t) :=
  mEnds_of_run rfl ready checked passes_pure (gives_then (gives_pr_numbered s tk r.pcrd) (gives_then lin (gives_then reads (gives_modTile _ t))))

theorem mmerge_ends {x : State} {prof : BitVec 6} {row0 : BitVec 7} {rows : BitVec 8} {hd : List Byte} {tn : Nat} {d : Desc} (ready : Ready .m tk s)
    (checked : Passes (trefCheck r) s) (desc : Gives (slotDesc r.slot) s (tn, d) x) (some_ : rows ≠ 0) (fits : row0.toNat + rows.toNat ≤ 128)
    (lin : Gives (linAcc r.slot (pOf (cur s) r.pcrd).toNat 64 64) (mNumbered tk s) a u) (reads : Gives (readChecked .m a 64) u hd v)
    (merges : Gives (mergeRows prof.toNat one r.slot (pOf (cur s) r.pcrd).toNat row0.toNat rows.toNat (leBV 16 (hd.take 2)).toInt)
      (onTile one (fun y => y.anchorAuto prof.toNat (leBV 16 (hd.take 2)).toInt) v) () t) : MEndsAt (.mmerge tk prof one r row0 rows) s 3 t := by
  refine mEnds_of_run rfl ready (passes_of_gives (gives_then (gives_trefCheck checked) (gives_then desc (gives_need.2 ⟨?_, rfl⟩)))) passes_pure
    (gives_then (gives_pr_numbered s tk r.pcrd) (gives_then lin (gives_then reads (gives_then (gives_modTile _ v) merges))))
  exact decide_eq_true ⟨some_, fits⟩

end

end Sys2Proof.Machine

namespace Sys2Proof.Isa

open Sys2Proof.Machine Sys2Proof.Stmt

theorem denseProductForms : DenseProductForms := fun _ _ _ _ _ ready geometry =>
  ⟨fun checked product => mEnds_of_run rfl ready checked geometry product, fun checked product => mEnds_of_run rfl ready checked geometry product⟩

theorem geometryFault : GeometryFault := fun _ _ _ _ _ _ ready checked desc bad => geometry_faults ready checked desc bad

theorem statisticsForms : StatisticsForms := fun _ _ _ _ _ _ _ _ _ ready checked =>
  ⟨fun lin writes => mstat_ends ready checked lin writes, fun lin writes => msamp_ends ready checked lin writes⟩

/-- Settles O34: each form changes the unit of M by the values at issue. -/
theorem matrixConfigurationAndStatistics : Obligations.MatrixConfigurationAndStatistics := ⟨matrixConfiguration, statisticsForms⟩

theorem readoutForm : ReadoutForm := fun _ _ _ _ _ _ _ _ _ _ _ ready checked box desc coords ovf writes => mrd_ends ready checked box desc coords ovf writes

theorem tileImageForms : TileImageForms := fun _ _ _ _ _ _ _ _ ready checked lin =>
  ⟨fun checked writes => mst_ends ready checked lin writes, fun reads => mld_ends ready checked lin reads⟩

theorem mergeForm : MergeForm := fun _ _ _ _ _ _ _ _ _ _ _ _ _ _ _ ready checked desc some_ fits lin reads merges =>
  mmerge_ends ready checked desc some_ fits lin reads merges

/-- Settles O37: the image's parts give the tile back, and the three forms move it. -/
theorem tileImages : Obligations.TileImages := ⟨tileImageForms, tileImageRoundTrip, mergeForm⟩

theorem tableForms : TableForms := by
  intro s t tk r o ready checked operand slot ask
  have same (n : Nat) (u : State) (held : (cur u).heldOf .m = (cur t).heldOf .m) : ask n u = askTable r o ((cur t).heldOf .m) n u := by
    rw [← held]
    exact State.modCore_congr rfl
  have first := same 0 t rfl
  have kept : (cur (ask 0 t)).heldOf .m = (cur t).heldOf .m := by
    rw [first, askTable, cur_onCore]
    rfl
  rw [same 1 _ kept, first]
  exact mtab_ends ready checked operand

/-- Settles O36: the readout writes the tile as it stands at issue, and mtab asks for its tables in order. -/
theorem readoutsAndTables : Obligations.ReadoutsAndTables := ⟨readoutForm, tableForms⟩

end Sys2Proof.Isa

/-! PROOFS. The sparse commands (R298, R406, R407): how they start, and how they end. -/

namespace Sys2Proof.Machine

open Sys2Proof.Stmt

section
variable {i : Instr} {s u t : State} {k : Strand} {tk : Tok} {len : Nat} {check issue body : Op Unit} {m : MulArgs} {a : BitVec 4} {b : Option (BitVec 4)} {kinds : List Nat}

/-! ### Reading the operands keeps the core that acts -/

theorem reads_mOperand {r : TRef} {o : MOp} (gives : Gives (mOperand r) s o t) : s.Reads t := by
  unfold mOperand at gives
  simp only [gives_bind, gives_need, gives_pure] at gives
  obtain ⟨d, u, desc, -, _, ⟨-, rfl⟩, cs, v, coords, -, rfl⟩ := gives
  exact (reads_slotDesc desc).trans (reads_coordsAt coords)

theorem reads_code {o : MOp} {accept : List Nat} {f : Nat} (gives : Gives (o.code accept) s f t) : s.Reads t := by
  unfold MOp.code MOp.block elemAcc at gives
  split at gives
  · exact (gives_pure.1 gives).2 ▸ .refl _
  · simp only [gives_bind, gives_need, gives_pure] at gives
    obtain ⟨x, u, ⟨y, v, ⟨-, _, ⟨-, rfl⟩, -, rfl⟩, bs, w, read, -, rfl⟩, -, _, ⟨-, rfl⟩, -, rfl⟩ := gives
    exact reads_opRead read

theorem cur_modTile {one : Bool} {f : Tile → Tile} {x : Unit} (gives : Gives (modTile one f) s x t) : t.cur = s.cur := by
  rw [← gives_modCur.1 gives]
  rfl

theorem not_gives_badHeader {α : Type} {seq : W32} {second : Bool} {x : α} : ¬ Gives (badHeader seq second) s x t := by
  unfold badHeader
  rw [gives_bind]
  rintro ⟨_, _, -, fault⟩
  exact gives_flt fault

/-- A walk is set up on the core that acts. -/
theorem cur_start {one : Bool} {f : Tile → Tile} {g : MState → MState} {x : Unit} (gives : Gives (do modTile one f; modM g) s x t) : t.cur = s.cur := by
  obtain ⟨_, u, tile, rest⟩ := gives_bind.1 gives
  have kept : t.cur = u.cur := by
    rw [← gives_modCur.1 rest]
    rfl
  exact kept.trans (cur_modTile tile)

theorem cur_sparseStart (gives : Gives (sparseStart m a b kinds) s () t) : t.cur = s.cur := by
  unfold sparseStart at gives
  obtain ⟨w, s1, geo, gives⟩ := gives_bind.1 gives
  obtain ⟨h, s2, held, gives⟩ := gives_bind.1 gives
  obtain ⟨oa, s3, opA, gives⟩ := gives_bind.1 gives
  obtain ⟨ob, s4, opB, gives⟩ := gives_bind.1 gives
  obtain ⟨fa, s5, codeA, gives⟩ := gives_bind.1 gives
  obtain ⟨fb, s6, codeB, gives⟩ := gives_bind.1 gives
  obtain ⟨_, s7, anchor, gives⟩ := gives_bind.1 gives
  obtain ⟨c, s8, core, gives⟩ := gives_bind.1 gives
  have before : s8.cur = s.cur := by
    rw [← (gives_curCore.1 core).2, cur_modTile anchor, (reads_code codeB).cur, (reads_code codeA).cur, (reads_mOperand opB).cur, (reads_mOperand opA).cur,
      (gives_unique held gives_heldNow).2, ← reads_pr geo]
  refine Eq.trans ?_ before
  clear before core anchor codeB codeA opB opA held geo
  dsimp only at gives
  split at gives
  · exact absurd gives not_gives_badHeader
  · cases b with
    | none =>
      obtain ⟨_, _, same, gives⟩ := gives_bind.1 gives
      obtain ⟨-, rfl⟩ := gives_pure.1 same
      exact cur_start gives
    | some n =>
      dsimp only at gives
      split at gives
      · obtain ⟨_, _, same, gives⟩ := gives_bind.1 gives
        obtain ⟨-, rfl⟩ := gives_pure.1 same
        exact cur_start gives
      · obtain ⟨_, _, bad, -⟩ := gives_bind.1 gives
        exact absurd bad not_gives_badHeader


/-! ### A command that starts, and one that ends (R298, R407) -/

/-- An M command that its strand holds, with its number, does not probe for the second entry. -/
theorem form_held {h : Held} (form : exec i s = nx (runM len tk check issue body s)) (held : ((cur s).str .m).held = some h) (numbered : h.seq.isSome = true) :
    exec i s = nx (runInstr .m len tk check issue (mBody body) s) := by
  have free : s.probing = false := by
    unfold State.probing Core.heldOf
    rw [show ((s.core s.cur).str .m).held = some h from held]
    show (_ && h.seq.isNone) = false
    rw [Option.isNone_eq_false_iff.2 numbered, Bool.and_false]
  rw [form, runM, free]
  rfl

/-- A core whose strand `k` stays held, and counts the turn. -/
theorem cur_keepHeld_count (t : State) (k : Strand) (h : Held) (src : Nat) : ∃ ev, cur ((t.keepHeld t.cur k h).modCore t.cur (·.count src 1)) =
    { (cur t).setStr k { ((cur t).str k) with held := some h } with ev := ev } := by
  obtain ⟨ev, counted⟩ := Core.count_eq ((cur t).setStr k { ((cur t).str k) with held := some h }) src 1
  refine ⟨ev, ?_⟩
  show ((t.modCore t.cur _).modCore t.cur _).core t.cur = _
  rw [State.core_modCore, State.core_modCore, ← counted]
  rfl

/-- The walk of a sparse command has been set up: the command waits. -/
theorem sparse_starts (form : exec i s = nx (runM len tk check issue (sparseOp m a b kinds) s)) (ready : Ready .m tk s) (checked : Passes check s)
    (issues : Passes issue s) (idle : (cur s).ms.run = none) (starts : Gives (sparseStart m a b kinds) (mNumbered tk s) () t) :
    ∃ n, exec i s = .next n ∧ (cur n).ms = (cur t).ms ∧ ((cur n).str .m).held.isSome = true := by
  have acts : t.cur = s.cur := (cur_sparseStart starts).trans (State.issueHeld_cur s .m tk)
  have unnumbered : ((cur (s.issueHeld .m tk)).heldOf .m).seq.isNone = true := by rw [heldOf_issued]; rfl
  have walk : (sparseOp m a b kinds).run (mNumbered tk s) = (.error (.hold 0), t) := by
    unfold sparseOp
    rw [run_of_gives (gives_curCore.2 ⟨rfl, rfl⟩), ms_numbered, idle]
    exact (run_of_gives starts).trans rfl
  rw [mNumbered_eq] at walk
  have run : (mBody (sparseOp m a b kinds)).run (s.issueHeld .m tk) = (.error (.hold 0), t) := by
    unfold mBody
    rw [run_of_gives gives_heldNow]
    refine (run_if_pos unnumbered).trans ?_
    rw [run_of_gives (gives_numberM _)]
    exact Op.run_bind_error walk
  refine ⟨_, exec_holds (form_idle form ready.1) ready checked issues run, ?_⟩
  rw [← acts]
  obtain ⟨ev, core⟩ := cur_keepHeld_count t .m { (cur t).heldOf .m with notBefore := 0 } (4 + (strandFin .m).val)
  exact ⟨(congrArg Core.ms core).trans rfl, (congrArg (fun c : Core => (c.str .m).held.isSome) core).trans
    (congrArg (fun st : StrandSt => st.held.isSome) (Core.str_setStr (cur t) .m _))⟩

/-- Taking a fault leaves the scoreboard entries of its core. -/
theorem held_takeFault (pc word : W32) (f : FaultInfo) (c : BitVec 7) :
    (s.takeFault c k pc word f).cur = s.cur ∧ (((s.takeFault c k pc word f).core c).str k).held = ((s.core c).str k).held := by
  unfold State.takeFault
  split
  · exact ⟨rfl, rfl⟩
  · next w crew =>
    dsimp only
    obtain ⟨recordCur, recordCore⟩ := s.onlyCounters_writeRecord w.part (faultRec (sevOf f.kind) f w.ctx (some c) (strandFin k).val s.time pc word)
    generalize s.writeRecord w.part (faultRec (sevOf f.kind) f w.ctx (some c) (strandFin k).val s.time pc word) = t at *
    obtain ⟨e, counted⟩ := recordCore c
    have met : (((t.modCore c fun q => q.setStr k (((t.core c).str k).met f)).core c).str k).held = ((s.core c).str k).held := by
      rw [State.core_modCore, Core.str_setStr]
      show ((t.core c).str k).held = _
      rw [counted]
      rfl
    obtain ⟨-, lineCur, lineCore⟩ := State.raiseLine_halts (t.modCore c fun q => q.setStr k (((t.core c).str k).met f)) w.part 1
    obtain ⟨y, asked⟩ := lineCore c
    split
    · exact ⟨lineCur.trans recordCur, (congrArg (fun q : Core => (q.str k).held) asked).trans met⟩
    · exact ⟨recordCur, met⟩

/-- The command with the item that its walk has reached. -/
def reached (h : Held) (r : MRun) : Held := { h with point := r.item, progress := if r.item = 0 then .none else .part }

/-- The walk has ended: its loads are counted, and its unit is free. -/
def walked (h : Held) (r : MRun) (s : State) : State :=
  onCore (fun c => { c with ms := { c.ms with run := none } }) (onCore (fun c => c.count 16 r.loads.length)
    (onCore (fun c => c.setStr .m { (c.str .m) with held := some (reached h r) }) s))

/-- What follows once the walk of a sparse command has ended. -/
theorem run_sparseOp_fin {h : Held} {r : MRun} (held : ((cur s).str .m).held = some h) (walks : (cur s).ms.run = some r) (fin : r.fin = true) :
    (sparseOp m a b kinds).run s = (match r.bad with
      | some (kind, sub, det) => flt kind sub det
      | none => if m.prof.toNat = 48 then np48Finish m.tile r.geo.1 r.geo.2.1 else pure () : Op Unit).run (walked h r s) := by
  unfold sparseOp
  rw [run_of_gives (gives_curCore.2 ⟨rfl, rfl⟩), walks]
  dsimp only
  have moved : Gives (modHeld .m fun h => { h with point := r.item, progress := if r.item = 0 then .none else .part }) s ()
      (onCore (fun c => c.setStr .m { (c.str .m) with held := some (reached h r) }) s) := by
    refine gives_modHeld.2 ?_
    rw [heldOf_of_held held]
    rfl
  rw [run_of_gives moved, Op.run_bind_ok (Op.run_holdUnless fin _), run_of_gives (gives_onCore _ _), run_of_gives (gives_modM _ _)]
  rfl

/-- The body of a command that has its number. -/
theorem run_mBody_held {h : Held} (held : ((cur s).str .m).held = some h) (numbered : h.seq.isSome = true) :
    (mBody body).run s = (do body; mDone : Op Next).run s := by
  unfold mBody
  rw [run_of_gives gives_heldNow]
  refine run_if_neg ?_
  rw [heldOf_of_held held, Option.isNone_eq_false_iff.2 numbered]
  decide

/-- A command that its strand holds completes once its body does. -/
theorem mEnds_of_held {h : Held} (form : exec i s = nx (runM len tk check issue body s)) (held : ((cur s).str .m).held = some h) (numbered : h.seq.isSome = true)
    (run : Gives body s () t) : MEndsAt i s len t := by
  refine endsAt_of_held (form_held form held numbered) held (fun _ => numbered) ?_
  rw [run_mBody_held held numbered]
  exact gives_then run (gives_then (gives_onCore _ t) (gives_pure.2 ⟨rfl, rfl⟩))

/-- An instruction that its strand holds and whose body faults: its entry keeps PROGRESS FAULT, and the fault is taken. -/
theorem exec_held_faults {h : Held} {body : Op Next} {f : FaultInfo} (form : exec i s = nx (runInstr k len tk check issue body s))
    (held : ((cur s).str k).held = some h) (numbered : k = .m → h.seq.isSome = true) (run : body.run s = (.error (.fault f), t)) :
    let e := (t.core s.cur).heldOf k
    exec i s = .next (((t.keepHeld s.cur k { e with progress := .fault }).dropWaits s.cur k).takeFault s.cur k e.pc (e.words.headD 0) f) := by
  have whole : h.probing k = false := by
    cases k <;> simp_all [Held.probing]
  have held : ((s.core s.cur).str k).held = some h := held
  rw [form]
  unfold runInstr runBody
  simp only [held, whole, run, Bool.false_eq_true, if_false]
  rfl

theorem held_fault_stays {h : Held} {body : Op Next} {f : FaultInfo} (form : exec i s = nx (runInstr k len tk check issue body s))
    (held : ((cur s).str k).held = some h) (numbered : k = .m → h.seq.isSome = true) (run : body.run s = (.error (.fault f), t)) (acts : t.cur = s.cur) :
    ∃ n, exec i s = .next n ∧ ((cur n).str k).held.map (·.progress) = some .fault := by
  refine ⟨_, exec_held_faults form held numbered run, ?_⟩
  generalize (t.core s.cur).heldOf k = e
  have dropped (u : State) (c : BitVec 7) : (u.dropWaits c k).cur = u.cur ∧ (u.dropWaits c k).core c = u.core c := by
    rw [State.dropWaits_eq]
    exact ⟨rfl, rfl⟩
  obtain ⟨dropCur, dropCore⟩ := dropped (t.keepHeld s.cur k { e with progress := .fault }) s.cur
  generalize (t.keepHeld s.cur k { e with progress := .fault }).dropWaits s.cur k = u at *
  obtain ⟨faultCur, faultHeld⟩ := held_takeFault (s := u) (k := k) e.pc (e.words.headD 0) f s.cur
  rw [show cur (u.takeFault s.cur k e.pc (e.words.headD 0) f) = (u.takeFault s.cur k e.pc (e.words.headD 0) f).core s.cur from
    congrArg (State.core _) (faultCur.trans (dropCur.trans acts)), faultHeld, dropCore]
  show (((t.modCore s.cur _).core s.cur).str k).held.map _ = _
  rw [State.core_modCore, Core.str_setStr]
  rfl

/-- The fault that has ended the walk is taken: the command stays held, with PROGRESS FAULT. -/
theorem sparse_faults {h : Held} {r : MRun} {kind sub : Nat} {det : BitVec 320} (form : exec i s = nx (runM len tk check issue (sparseOp m a b kinds) s))
    (held : ((cur s).str .m).held = some h) (numbered : h.seq.isSome = true) (walks : (cur s).ms.run = some r) (fin : r.fin = true)
    (bad : r.bad = some (kind, sub, det)) : ∃ n, exec i s = .next n ∧ ((cur n).str .m).held.map (·.progress) = some .fault := by
  have run : (mBody (sparseOp m a b kinds)).run s = (.error (.fault ⟨kind, sub, det, false⟩), walked h r s) := by
    rw [run_mBody_held held numbered]
    refine Op.run_bind_error ?_
    rw [run_sparseOp_fin held walks fin, bad]
    rfl
  exact held_fault_stays (form_held form held numbered) held (fun _ => numbered) run rfl

end

end Sys2Proof.Machine

namespace Sys2Proof.Isa

open Sys2Proof.Machine Sys2Proof.Stmt

/-- A sparse command, whichever: its form. -/
theorem sparseForm_exec {i : Instr} {tk : Tok} {m : MulArgs} {a : BitVec 4} {b : Option (BitVec 4)} {kinds : List Nat} (listed : sparseForm i = some (tk, m, a, b, kinds))
    (s : State) : exec i s = nx (runM 4 tk (mulCheck m false) (geoCheck m) (sparseOp m a b kinds) s) := by
  unfold sparseForm at listed
  cases i with
  | mms | mmn => cases listed; rfl
  | _ => cases listed

theorem sparseCommandForms : SparseCommandForms := by
  intro i s tk m a b kinds listed
  have form := sparseForm_exec listed s
  refine ⟨fun t ready checked geometry idle starts => sparse_starts form ready checked geometry idle starts, fun h r held numbered walks fin => ?_⟩
  have run := run_sparseOp_fin (m := m) (a := a) (b := b) (kinds := kinds) held walks fin
  refine ⟨fun none other => ?_, fun none same t finish => ?_, fun kind sub det bad => sparse_faults form held numbered walks fin bad⟩
  · rw [none] at run
    exact mEnds_of_held form held numbered (run.trans (run_if_neg fun same => other (BitVec.eq_of_toNat_eq same)))
  · rw [none] at run
    exact mEnds_of_held form held numbered (run.trans ((run_if_pos (congrArg BitVec.toNat same)).trans finish))

/-- Settles O35: the dense products complete with their tile, a bad geometry faults at issue, and a sparse command ends as its walk did. -/
theorem matrixProducts : Obligations.MatrixProducts := ⟨denseProductForms, geometryFault, sparseCommandForms⟩

end Sys2Proof.Isa

/-! PROOFS. Targets and rights (R92, R440, R441, R446), and the system registers (R461, R462). -/

namespace Sys2Proof.Machine

open Sys2Proof.Stmt

section
variable {s : State} {w : Crew} {t : Word} {right : Nat} {p : BitVec 5} {ctx : BitVec 3} {d : BitVec 6}

/-! ### What an S form reads once it has issued -/

/-- A core of the state in which an S form has issued, for what does not look at strands. -/
theorem core_sIssued_field {α : Type} (field : Core → α) (blind : ∀ (c : Core) (st : StrandSt), field (c.setStr .s st) = field c) (c : BitVec 7) :
    field ((sIssued s).core c) = field (s.core c) := by
  by_cases same : c = s.cur
  · subst same
    rw [show (sIssued s).core s.cur = cur (sIssued s) from congrArg (sIssued s).core (sIssued_cur s).symm, cur_sIssued, blind]
    rfl
  · rw [sIssued_core_ne same]

theorem crew_sIssued (s : State) (c : BitVec 7) : ((sIssued s).core c).crew = (s.core c).crew := core_sIssued_field Core.crew (fun _ _ => rfl) c

@[simp] theorem holds_sIssued (c : BitVec 7) : (sIssued s).holds c p ctx = s.holds c p ctx := by unfold State.holds; rw [crew_sIssued]

@[simp] theorem genOf_sIssued : (sIssued s).genOf p ctx = s.genOf p ctx := by unfold State.genOf; rw [sIssued_part]

theorem pstate_sIssued : (sIssued s).pstate p = s.pstate p := by
  unfold State.pstate State.running State.residents
  simp only [sIssued_part, crew_sIssued]

/-- The system registers do not see that an S form has issued. -/
theorem sysReg_sIssued (n : Nat) : (sIssued s).sysReg w n = s.sysReg w n := by
  have blind {α : Type} (field : Core → α) (same : ∀ (c : Core) (st : StrandSt), field (c.setStr .s st) = field c) :
      field ((sIssued s).core (sIssued s).cur) = field (s.core s.cur) := by
    rw [sIssued_cur]
    exact core_sIssued_field field same s.cur
  have yld := blind Core.yld fun _ _ => rfl
  have trace := blind Core.trace fun _ _ => rfl
  unfold State.sysReg
  simp only [pstate_sIssued, genOf_sIssued, yld, trace]
  rw [sIssued_eq]
  rfl

/-! ### Targets (R440, R441) -/

theorem gives_subjectOf (crew : Has w s) (ok : TargetOk s w t right p ctx) : Gives (subjectOf t) s (p, ctx) s := by
  refine gives_then (gives_crew crew) ?_
  rcases ok with ⟨self, rfl, rfl⟩ | ⟨other, inUse, rfl, rfl, -, -⟩
  · exact (gives_if_pos self).2 (gives_pure.2 ⟨rfl, rfl⟩)
  · refine (gives_if_neg (by rw [other]; decide)).2 (gives_then (gives_get.2 ⟨rfl, rfl⟩) (gives_pure.2 ⟨?_, rfl⟩))
    rw [fld, Nat.pow_zero, Nat.div_one]
    rfl

theorem gives_rightCheck (crew : Has w s) (ok : TargetOk s w t right p ctx) : Gives (rightCheck t right) s () s := by
  rcases ok with ⟨self, -, -⟩ | ⟨other, inUse, rfl, rfl, has, current⟩
  · exact (gives_if_pos self).2 (gives_pure.2 ⟨rfl, rfl⟩)
  · refine (gives_if_neg (by rw [other]; decide)).2 (gives_then (gives_crew crew) (gives_then (gives_get.2 ⟨rfl, rfl⟩) (gives_need.2 ⟨?_, rfl⟩)))
    rw [fld, Nat.pow_zero, Nat.div_one, show t.toNat % 2 ^ 4 = t.toNat % 16 from rfl, inUse, has, if_pos rfl, State.genOf, current]
    simp

/-- A target names its subject once the form has issued, too. -/
theorem targetOk_sIssued (ok : TargetOk s w t right p ctx) : TargetOk (sIssued s) w t right p ctx := by
  unfold TargetOk at ok ⊢
  rw [sIssued_part, sIssued_part]
  exact ok

theorem gives_condition {b : Bool} (crew : Has w s) (ok : TargetOk s w t right p ctx) (holds : b = true) : Gives (condition t b) s () s :=
  gives_then (gives_subjectOf crew ok) (gives_then (gives_get.2 ⟨rfl, rfl⟩) (gives_need.2 ⟨holds, rfl⟩))

/-! ### System registers (R461, R462) -/

theorem sysr_ends {num : BitVec 16} {v : Word} (crew : Has w s) (ready : SReady [] s) (value : s.sysReg w num.toNat = some v) :
    Ends (.sysr d num) s .s noTok 1 (onCore fun c => c.setX d v) := by
  refine endsAt_of_runS rfl ready (passes_of_gives (gives_then (gives_crew crew) (gives_then (gives_get.2 ⟨rfl, rfl⟩) (gives_legal.2 ⟨?_, rfl⟩)))) ?_
  · rw [value]; rfl
  · rw [run_of_gives (gives_crew (has_sIssued crew)), run_of_gives (gives_get.2 ⟨rfl, rfl⟩), sysReg_sIssued, value]
    rfl

theorem sysr_illop {num : BitVec 16} (crew : Has w s) (ready : SReady [] s) (none : s.sysReg w num.toNat = none) :
    exec (.sysr d num) s = .next (s.takeFault s.cur .s (pcOf .s s) (s.ir.headD 0) (s.illop .s)) := by
  refine execS_check_faults rfl ready ?_
  rw [run_of_gives (gives_crew crew), run_of_gives (gives_get.2 ⟨rfl, rfl⟩), none]
  rfl

/-- A crew's target names some subject, whatever its rights. -/
theorem gives_subject (crew : Has w s) : ∃ x, Gives (subjectOf t) s x s := by
  cases self : t.getLsbD 7
  · exact ⟨_, gives_then (gives_crew crew) ((gives_if_neg (by rw [self]; decide)).2 (gives_then (gives_get.2 ⟨rfl, rfl⟩) (gives_pure.2 ⟨rfl, rfl⟩)))⟩
  · exact ⟨_, gives_then (gives_crew crew) ((gives_if_pos self).2 (gives_pure.2 ⟨rfl, rfl⟩))⟩

theorem sysw_target_off (crew : Has w s) (ready : SReady [d] s) (ok : tgtOk ((cur s).xr d &&& 0x7FFFFFFFFFFFFFFF) false false false true = true)
    (off : ((cur s).xr d).getLsbD 63 = false) :
    Ends (.sysw d 10) s .s noTok 1 (onCore fun c => { c with trace := { c.trace with target := (cur s).xr d } }) := by
  obtain ⟨⟨p, ctx⟩, subject⟩ := gives_subject (t := (cur s).xr d) (has_sIssued crew)
  refine endsAt_of_runS rfl ready (passes_of_gives (t := s) (gives_then (gives_xr.2 ⟨rfl, rfl⟩) (gives_then (a := ()) (gives_legal.2 ⟨ok, rfl⟩) ?_))) ?_
  · exact (gives_if_neg fun on => absurd (off.symm.trans on.2) (by decide)).2 (gives_pure.2 ⟨rfl, rfl⟩)
  · rw [run_of_gives (gives_readX s d), run_of_gives (gives_crew (has_sIssued crew))]
    refine (run_of_gives subject).trans ?_
    rw [off]
    rfl

theorem sysw_target_on (crew : Has w s) (ready : SReady [d] s) (ok : tgtOk ((cur s).xr d &&& 0x7FFFFFFFFFFFFFFF) false false false true = true)
    (on : ((cur s).xr d).getLsbD 63 = true) (target : TargetOk s w ((cur s).xr d) 2 p ctx) :
    Ends (.sysw d 10) s .s noTok 1 (onCore fun c => { c with trace := { c.trace with target := (cur s).xr d, count := 0, gen := s.genOf p ctx } }) := by
  refine endsAt_of_runS rfl ready (passes_of_gives (t := s) (gives_then (gives_xr.2 ⟨rfl, rfl⟩) (gives_then (a := ()) (gives_legal.2 ⟨ok, rfl⟩) ?_))) ?_
  · exact (gives_if_pos ⟨rfl, on⟩).2 (gives_rightCheck crew target)
  · rw [run_of_gives (gives_readX s d), run_of_gives (gives_crew (has_sIssued crew))]
    refine (run_of_gives (gives_subjectOf (has_sIssued crew) (targetOk_sIssued target))).trans ?_
    dsimp only
    rw [run_of_gives (gives_get.2 ⟨rfl, rfl⟩), genOf_sIssued, on]
    rfl

theorem sysw_buffer (crew : Has w s) (ready : SReady [d] s) (low : fld ((cur s).xr d) 0 6 = 0) (small : 6 ≤ fld ((cur s).xr d) 48 5)
    (big : fld ((cur s).xr d) 48 5 ≤ 20) (high : fld ((cur s).xr d) 53 11 = 0) :
    Ends (.sysw d 11) s .s noTok 1 (onCore fun c => { c with trace := { c.trace with buf := (cur s).xr d } }) := by
  have ok : syswOk 11 ((cur s).xr d) = true := by
    unfold syswOk
    rw [low, high, decide_eq_true ⟨small, big⟩]
    rfl
  refine endsAt_of_runS rfl ready (passes_of_gives (t := s) (gives_then (gives_xr.2 ⟨rfl, rfl⟩) (gives_then (a := ()) (gives_legal.2 ⟨ok, rfl⟩) ?_))) ?_
  · exact (gives_if_neg (fun ten => absurd ten.1 (by decide))).2 (gives_pure.2 ⟨rfl, rfl⟩)
  · rw [run_of_gives (gives_readX s d), run_of_gives (gives_crew (has_sIssued crew))]
    rfl

end

end Sys2Proof.Machine

namespace Sys2Proof.Isa

open Sys2Proof.Machine Sys2Proof.Stmt

theorem systemRegisters : SystemRegisters := by
  intro s w d num crew
  refine ⟨fun ready v value => sysr_ends crew ready value, fun ready none => sysr_illop crew ready none, ?_⟩
  intro ready v
  exact ⟨fun ok => ⟨fun off => sysw_target_off crew ready ok off, fun on p ctx target => sysw_target_on crew ready ok on target⟩,
    fun low small big high => sysw_buffer crew ready low small big high⟩

end Sys2Proof.Isa

/-! PROOFS. Rights are delegated, revoked and checked (R446 to R448). -/

namespace Sys2Proof.Machine

open Sys2Proof.Stmt

section
variable {s : State} {w : Crew} {d a b : BitVec 6}

/-- The entries of a table that name a crew's context. -/
def namesCrew (w : Crew) (x : Ctx) (i : Nat) : Bool := (x.cap i).inuse && (x.cap i).part == w.part && (x.cap i).ctx == w.ctx

theorem namesCrew_iff {x : Ctx} {i : Nat} : namesCrew w x i = true ↔ (x.cap i).inuse = true ∧ (x.cap i).part = w.part ∧ (x.cap i).ctx = w.ctx := by
  unfold namesCrew
  simp only [Bool.and_eq_true, beq_iff_eq, and_assoc]

/-- The entry that a delegation writes: the context's own, or the first free one. -/
def delegEntry (w : Crew) (x : Ctx) : Option Nat := (firstBelow 16 (namesCrew w x)).or (firstBelow 16 fun i => !(x.cap i).inuse)

theorem delegEntry_own {x : Ctx} {i : Nat} (small : i < 16) (names : namesCrew w x i = true) (first : ∀ j, j < i → ¬ namesCrew w x j = true) :
    delegEntry w x = some i := by
  have found : firstBelow 16 (namesCrew w x) = some i :=
    List.find?_range_eq_some.2 ⟨names, List.mem_range.2 small, fun j below => by simpa using first j below⟩
  rw [delegEntry, found]
  rfl

theorem firstBelow_eq_none {n : Nat} {p : Nat → Bool} (no : ∀ j, j < n → p j = false) : firstBelow n p = none :=
  List.find?_eq_none.2 fun j listed => by rw [no j (List.mem_range.1 listed)]; decide

theorem delegEntry_free {x : Ctx} {i : Nat} (small : i < 16) (no : ∀ j, j < 16 → ¬ namesCrew w x j = true) (free : (x.cap i).inuse = false)
    (used : ∀ j, j < i → (x.cap j).inuse = true) : delegEntry w x = some i := by
  have found : (firstBelow 16 fun i => !(x.cap i).inuse) = some i :=
    List.find?_range_eq_some.2 ⟨congrArg (!·) free, List.mem_range.2 small, fun j below => congrArg (!!·) (used j below)⟩
  rw [delegEntry, firstBelow_eq_none fun j below => Bool.eq_false_iff.2 (no j below), found]
  rfl

theorem delegEntry_none {x : Ctx} (no : ∀ j, j < 16 → ¬ namesCrew w x j = true) (used : ∀ j, j < 16 → (x.cap j).inuse = true) : delegEntry w x = none := by
  rw [delegEntry, firstBelow_eq_none fun j below => Bool.eq_false_iff.2 (no j below), firstBelow_eq_none fun j below => congrArg (!·) (used j below)]
  rfl

/-! ### cap.deleg (R446) -/

/-- The context that `cap.deleg` names. -/
def delegCtx (s : State) (v : Word) : Ctx := (s.part (v.extractLsb' 8 5)).ctx (v.extractLsb' 0 3)

/-- A delegation to no one: an empty mask, the crew's own context, or one that is not bound. -/
def DelegRefused (s : State) (w : Crew) (v m : Word) : Prop :=
  m.extractLsb' 0 5 = 0 ∨ (v.extractLsb' 8 5 = w.part ∧ v.extractLsb' 0 3 = w.ctx) ∨ (s.part (v.extractLsb' 8 5)).bound.getLsbD (v.extractLsb' 0 3).toNat = false

/-- The words of a delegation keep to their fields. -/
def DelegWords (v m : Word) : Prop := fld v 3 5 = 0 ∧ fld v 13 51 = 0 ∧ fld m 5 59 = 0

theorem passes_capDeleg (words : DelegWords ((cur s).xr a) ((cur s).xr b)) :
    Passes (do let v ← xr a; legal (fld v 3 5 == 0 && fld v 13 51 == 0 && fld (← xr b) 5 59 == 0) .s) s := by
  obtain ⟨first, second, third⟩ := words
  refine passes_of_gives (gives_then (gives_xr.2 ⟨rfl, rfl⟩) (gives_then (gives_xr.2 ⟨rfl, rfl⟩) (gives_legal.2 ⟨?_, rfl⟩)))
  rw [first, second, third]
  rfl

theorem capDeleg_refused (crew : Has w s) (ready : SReady [a, b] s) (words : DelegWords ((cur s).xr a) ((cur s).xr b))
    (refused : DelegRefused s w ((cur s).xr a) ((cur s).xr b)) :
    Ends (.capDeleg d a b) s .s noTok 1 (onCore fun c => c.setX d (BitVec.ofInt 64 (-2))) := by
  refine endsAt_of_runS rfl ready (passes_capDeleg words) ?_
  rw [run_of_gives (gives_crew (has_sIssued crew)), run_of_gives (gives_readX s a), run_of_gives (gives_readX s b), run_of_gives (gives_get.2 ⟨rfl, rfl⟩)]
  refine (run_if_pos ?_).trans rfl
  rw [sIssued_part]
  rcases refused with empty | own | unbound
  · exact .inl empty
  · exact .inr (.inl own)
  · exact .inr (.inr (by rw [unbound]; rfl))

/-- What a delegation that is not refused does, by the entry that it finds. -/
theorem capDeleg_run (crew : Has w s) (ready : SReady [a, b] s) (words : DelegWords ((cur s).xr a) ((cur s).xr b))
    (some_ : ((cur s).xr b).extractLsb' 0 5 ≠ 0) (other : ((cur s).xr a).extractLsb' 8 5 ≠ w.part ∨ ((cur s).xr a).extractLsb' 0 3 ≠ w.ctx)
    (bound : (s.part (((cur s).xr a).extractLsb' 8 5)).bound.getLsbD (((cur s).xr a).extractLsb' 0 3).toNat = true) :
    (delegEntry w (delegCtx s ((cur s).xr a)) = none → Ends (.capDeleg d a b) s .s noTok 1 (onCore fun c => c.setX d (BitVec.ofInt 64 (-1)))) ∧
    (∀ i, delegEntry w (delegCtx s ((cur s).xr a)) = some i → Ends (.capDeleg d a b) s .s noTok 1 fun u => onCore (fun c => c.setX d (BitVec.ofNat 64 i))
      (u.setCap (((cur s).xr a).extractLsb' 8 5) (((cur s).xr a).extractLsb' 0 3) i (Cap.bits ⟨true, w.ctx, w.part, ((cur s).xr b).extractLsb' 0 5, s.genOf w.part w.ctx⟩))) := by
  have open_ : ¬ (((cur s).xr b).extractLsb' 0 5 = 0 ∨ (((cur s).xr a).extractLsb' 8 5 = w.part ∧ ((cur s).xr a).extractLsb' 0 3 = w.ctx) ∨
      (!(s.part (((cur s).xr a).extractLsb' 8 5)).bound.getLsbD (((cur s).xr a).extractLsb' 0 3).toNat) = true) := by
    rintro (empty | ⟨part, ctx⟩ | unbound)
    · exact some_ empty
    · exact other.elim (· part) (· ctx)
    · rw [bound] at unbound
      exact absurd unbound (by decide)
  refine ⟨fun found => ?_, fun i found => ?_⟩
  all_goals
    refine endsAt_of_runS rfl ready (passes_capDeleg words) ?_
    rw [run_of_gives (gives_crew (has_sIssued crew)), run_of_gives (gives_readX s a), run_of_gives (gives_readX s b), run_of_gives (gives_get.2 ⟨rfl, rfl⟩)]
    dsimp only
    rw [sIssued_part]
    refine (run_if_neg open_).trans ?_
    unfold delegEntry namesCrew delegCtx at found
    rw [found]
  · rfl
  · dsimp only
    rw [genOf_sIssued]
    rfl

/-! ### cap.revoke and cap.check (R92, R447, R448) -/

theorem capRevoke_all (crew : Has w s) (ready : SReady [a] s) (all : (cur s).xr a = BitVec.ofInt 64 (-1)) :
    Ends (.capRevoke a) s .s noTok 1 (fun u => u.bumpGen w.part w.ctx) := by
  refine endsAt_of_runS rfl ready (passes_of_gives (gives_then (gives_xr.2 ⟨rfl, rfl⟩) (gives_legal.2 ⟨?_, rfl⟩))) ?_
  · rw [all]; decide
  · rw [run_of_gives (gives_crew (has_sIssued crew)), run_of_gives (gives_readX s a)]
    exact (run_if_pos all).trans rfl

theorem capRevoke_one (crew : Has w s) (ready : SReady [a] s) (small : ((cur s).xr a).toNat ≤ 15) :
    Ends (.capRevoke a) s .s noTok 1 (fun u => u.setCap w.part w.ctx ((cur s).xr a).toNat 0) := by
  have one : ¬ (cur s).xr a = -1 := fun all => absurd (all ▸ small) (by decide)
  refine endsAt_of_runS rfl ready (passes_of_gives (gives_then (gives_xr.2 ⟨rfl, rfl⟩) (gives_legal.2 ⟨?_, rfl⟩))) ?_
  · rw [decide_eq_true small, Bool.or_true]
  · rw [run_of_gives (gives_crew (has_sIssued crew)), run_of_gives (gives_readX s a)]
    exact (run_if_neg one).trans rfl

theorem capCheck_ends (crew : Has w s) (ready : SReady [a] s) (small : ((cur s).xr a).toNat ≤ 15) :
    let e := ((s.part w.part).ctx w.ctx).cap ((cur s).xr a).toNat
    Ends (.capCheck d a) s .s noTok 1 (onCore fun c => c.setX d
      (if e.inuse = true ∧ e.gen = s.genOf e.part e.ctx then BitVec.ofNat 64 (2 ^ 31 + e.part.toNat * 2 ^ 16 + e.ctx.toNat * 2 ^ 8 + e.mask.toNat) else 0)) := by
  intro e
  refine endsAt_of_runS rfl ready (passes_of_gives (gives_then (gives_xr.2 ⟨rfl, rfl⟩) (gives_legal.2 ⟨?_, rfl⟩))) ?_
  · rw [fld, Nat.div_eq_of_lt (by omega)]
    rfl
  · have low : fld ((cur s).xr a) 0 4 = ((cur s).xr a).toNat := by rw [fld, Nat.pow_zero, Nat.div_one]; exact Nat.mod_eq_of_lt (by omega)
    rw [run_of_gives (gives_crew (has_sIssued crew)), run_of_gives (gives_get.2 ⟨rfl, rfl⟩), run_of_gives (gives_readX s a), low, sIssued_part]
    dsimp only
    rw [genOf_sIssued]
    simp only [Bool.and_eq_true, beq_iff_eq]
    rfl

end

end Sys2Proof.Machine

namespace Sys2Proof.Isa

open Sys2Proof.Machine Sys2Proof.Stmt

theorem capabilityForms : CapabilityForms := by
  intro s w d a b crew v tp tc x mine mask
  refine ⟨fun ready first second third => ⟨fun refused => capDeleg_refused crew ready ⟨first, second, third⟩ refused, fun some_ other bound => ?_⟩,
    fun ready all => capRevoke_all crew ready all, fun ready small => capRevoke_one crew ready small, fun ready small => capCheck_ends crew ready small⟩
  obtain ⟨none, found⟩ := capDeleg_run (d := d) crew ready ⟨first, second, third⟩ some_ other bound
  refine ⟨fun i small entry => found i ?_, fun no used => none (delegEntry_none (fun j below names => no j below (namesCrew_iff.1 names)) used)⟩
  rcases entry with ⟨before, own⟩ | ⟨no, free, used⟩
  · exact delegEntry_own small (namesCrew_iff.2 own) fun j below names => before j below (namesCrew_iff.1 names)
  · exact delegEntry_free small (fun j below names => no j below (namesCrew_iff.1 names)) free used

/-- Settles O22: the system registers, and the three forms on a table's entries. -/
theorem systemRegistersAndCapabilities : Obligations.SystemRegistersAndCapabilities := ⟨systemRegisters, capabilityForms⟩

end Sys2Proof.Isa

/-! PROOFS. stop and resume (R292, R449, R450). -/

namespace Sys2Proof.Machine

open Sys2Proof.Stmt

/-! ### Fields of a word that is zero around them -/

theorem fld_eq_zero_iff {w : Nat} {v : BitVec w} {lo n : Nat} : fld v lo n = 0 ↔ ∀ j, j < n → v.getLsbD (lo + j) = false := by
  have bit (j : Nat) : (fld v lo n).testBit j = (decide (j < n) && v.getLsbD (lo + j)) := by
    rw [fld, Nat.testBit_mod_two_pow, Nat.testBit_div_two_pow, Nat.add_comm j lo]
    rfl
  refine ⟨fun zero j below => ?_, fun no => Nat.eq_of_testBit_eq fun j => ?_⟩
  · have none := bit j
    rw [zero, Nat.zero_testBit, decide_eq_true below, Bool.true_and] at none
    exact none.symm
  · rw [bit, Nat.zero_testBit]
    by_cases below : j < n
    · rw [no j below, Bool.and_false]
    · rw [decide_eq_false below, Bool.false_and]

theorem fld_eq_zero_inside {w : Nat} {v : BitVec w} {lo n l m : Nat} (zero : fld v lo n = 0) (low : lo ≤ l) (high : l + m ≤ lo + n) : fld v l m = 0 :=
  fld_eq_zero_iff.2 fun j below => by
    have bit := fld_eq_zero_iff.1 zero (l - lo + j) (by omega)
    rwa [show lo + (l - lo + j) = l + j by omega] at bit

theorem bit_eq_false_inside {w : Nat} {v : BitVec w} {lo n j : Nat} (zero : fld v lo n = 0) (low : lo ≤ j) (high : j < lo + n) : v.getLsbD j = false := by
  have bit := fld_eq_zero_iff.1 zero (j - lo) (by omega)
  rwa [show lo + (j - lo) = j by omega] at bit

/-- A target word whose unused fields are zero (R440). -/
theorem tgtOk_of {t : Word} {cnt core strand self : Bool} (high : fld t 24 40 = 0) (count : cnt = true ∨ fld t 20 4 = 0) (gap : fld t 18 2 = 0)
    (str : strand = true ∨ fld t 16 2 = 0) (bit : t.getLsbD 15 = false) (cores : core = true ∨ fld t 8 7 = 0) (own : self = true ∨ t.getLsbD 7 = false)
    (low : fld t 4 3 = 0) : tgtOk t cnt core strand self = true := by
  have flag {x : Bool} {n : Nat} (h : x = true ∨ n = 0) : (x || n == 0) = true := by rcases h with rfl | rfl <;> simp
  unfold tgtOk
  rw [high, flag count, gap, flag str, bit, flag cores, low]
  rcases own with rfl | off
  · simp
  · rw [off]; simp

section
variable {s t : State} {w : Crew} {a b : BitVec 6} {p : BitVec 5} {ctx : BitVec 3}

/-! ### The halt line (R233) -/

/-- The line is up at once; the partition has halted only once its cores have. -/
theorem raiseLine_halted (s : State) (p : BitVec 5) (cause : Nat) : ((s.raiseLine p cause).part p).halted = (s.part p).halted := by
  have part (f : Part → Part) (same : (f (s.part p)).halted = (s.part p).halted) : ((s.modPart p f).part p).halted = (s.part p).halted := by
    rw [State.part_modPart, same]
  unfold State.raiseLine
  split
  · split
    · exact part _ rfl
    · split
      · exact List.foldlRecOn (motive := fun t : State => (t.part p).halted = (s.part p).halted) _ _ (part _ rfl) fun t kept c _ => kept
      · rfl
  · exact part (fun t => { t with halt := some { cause := cause, time := s.time, left := (s.part p).cores } }) rfl

/-! ### stop (R449) -/

/-- What `stop` does once it has issued. -/
def stopBody (a b : BitVec 6) : Op Next := do
  let t ← xr a
  let precise := (← xr b).getLsbD 0
  let (p, ctx) ← subjectOf t
  if !(← heldNow .s).performed then
    let s ← get
    let q := s.part p
    let core := tgtCore t
    let k := tgtStrand t
    if q.runctx != ctx || q.halted || (precise && !s.holds core p ctx) then return .seq
    else
      markPerformed
      if precise && ((s.core core).str k).live then
        if q.halt.isNone then modify fun s => s.modCore core fun r => r.setStr k { (r.str k) with armed := true }
      else modify fun s => s.raiseLine p 3
  holdUnless ((← get).part p).halted
  return .seq

/-- A stop of another context, or a precise one, is an instruction that can wait. -/
theorem stop_form (waits : ((cur s).xr a).getLsbD 7 = false ∨ ((cur s).xr b).getLsbD 0 = true) :
    exec (.stop a b) s = nx (runS [a, b] (stopCheck a b) (stopBody a b) s) := by
  show execStop a b s = _
  unfold execStop
  refine (if_neg ?_).trans rfl
  rcases waits with off | on
  · rw [show ((s.core s.cur).xr a).getLsbD 7 = false from off, Bool.and_false, Bool.false_and, Bool.false_and]
    decide
  · rw [show ((s.core s.cur).xr b).getLsbD 0 = true from on, Bool.not_true, Bool.and_false, Bool.false_and]
    decide

theorem gives_stopCheck (crew : Has w s) (target : TargetOk s w ((cur s).xr a) 0 p ctx) (mode : fld ((cur s).xr b) 1 63 = 0)
    (word : tgtOk ((cur s).xr a) false (((cur s).xr b).getLsbD 0) (((cur s).xr b).getLsbD 0) true = true) : Gives (stopCheck a b) s () s :=
  gives_then (gives_xr.2 ⟨rfl, rfl⟩) (gives_then (gives_xr.2 ⟨rfl, rfl⟩) (gives_then (a := ()) (gives_legal.2 ⟨by rw [mode, word]; rfl, rfl⟩)
    (gives_rightCheck crew target)))

/-- A plain stop of the crew's own context (R449). -/
theorem stop_own (crew : Has w s) (ready : SReady [a, b] s) (self : ((cur s).xr a).getLsbD 7 = true) (plain : ((cur s).xr b).getLsbD 0 = false)
    (checked : Gives (stopCheck a b) s () s) : exec (.stop a b) s = .next ((retired s).raiseLine w.part 3) := by
  obtain ⟨⟨idle, -⟩, free⟩ := ready
  show execStop a b s = _
  unfold execStop
  refine (if_pos ?_).trans ?_
  · rw [show ((s.core s.cur).str .s).held = none from idle, show (s.core s.cur).waitsOn [a, b] = false from free,
      show ((s.core s.cur).xr a).getLsbD 7 = true from self, show ((s.core s.cur).xr b).getLsbD 0 = false from plain, show (stopCheck a b).run s = _ from checked]
    rfl
  · rw [show (s.core s.cur).crew = some w from crew]
    rfl

/-- The state in which an S form that has issued stands as performed. -/
def performedS (s : State) : State := (sIssued s).keepHeld s.cur .s { s.newHeld .s noTok with performed := true }

theorem gives_markPerformed (s : State) : Gives markPerformed (sIssued s) () (performedS s) := by
  refine gives_modHeld.2 ?_
  rw [heldOf_sIssued, sIssued_cur]
  rfl

/-- A stop that has issued reads its operands, its subject and the subject's partition. -/
theorem stopBody_run (crew : Has w s) (target : TargetOk s w ((cur s).xr a) 0 p ctx) :
    (stopBody a b).run (sIssued s) = (do
      if (s.part p).runctx != ctx || (s.part p).halted || (((cur s).xr b).getLsbD 0 && !s.holds (tgtCore ((cur s).xr a)) p ctx) then return Next.seq
      else
        markPerformed
        if ((cur s).xr b).getLsbD 0 && (((sIssued s).core (tgtCore ((cur s).xr a))).str (tgtStrand ((cur s).xr a))).live then
          if (s.part p).halt.isNone then
            modify fun s' => s'.modCore (tgtCore ((cur s).xr a)) fun r => r.setStr (tgtStrand ((cur s).xr a)) { (r.str (tgtStrand ((cur s).xr a))) with armed := true }
        else modify fun s => s.raiseLine p 3
        holdUnless ((← get).part p).halted
        return Next.seq : Op Next).run (sIssued s) := by
  unfold stopBody
  rw [run_of_gives (gives_readX s a), run_of_gives (gives_readX s b), run_of_gives (gives_subjectOf (has_sIssued crew) (targetOk_sIssued target))]
  dsimp only
  rw [run_of_gives gives_heldNow, heldOf_sIssued]
  refine (run_if_pos rfl).trans ?_
  rw [run_of_gives (gives_get.2 ⟨rfl, rfl⟩), sIssued_part, holds_sIssued]

/-- A stop of a context that does not run, or of a partition that has halted, only retires. -/
theorem stop_idle (crew : Has w s) (ready : SReady [a, b] s) (target : TargetOk s w ((cur s).xr a) 0 p ctx) (checked : Gives (stopCheck a b) s () s)
    (waits : ((cur s).xr a).getLsbD 7 = false ∨ ((cur s).xr b).getLsbD 0 = true) (idle : (s.part p).runctx ≠ ctx ∨ (s.part p).halted = true) :
    Ends (.stop a b) s .s noTok 1 id := by
  refine endsAt_of_runS (stop_form waits) ready (passes_of_gives checked) ?_
  rw [stopBody_run crew target]
  refine (run_if_pos ?_).trans rfl
  rcases idle with other | halted
  · rw [bne_iff_ne.2 other, Bool.true_or, Bool.true_or]
  · rw [halted, Bool.or_true, Bool.true_or]

/-- A plain stop of another context raises its partition's line, and waits until the partition has halted. -/
theorem stop_other (crew : Has w s) (ready : SReady [a, b] s) (target : TargetOk s w ((cur s).xr a) 0 p ctx) (checked : Gives (stopCheck a b) s () s)
    (other : ((cur s).xr a).getLsbD 7 = false) (plain : ((cur s).xr b).getLsbD 0 = false) (runs : (s.part p).runctx = ctx) (up : (s.part p).halted = false) :
    ∃ n, exec (.stop a b) s = .next n ∧ ((n.part p).halt).isSome = true := by
  have asked : (stopBody a b).run (sIssued s) = (.error (.hold 0), (performedS s).raiseLine p 3) := by
    rw [stopBody_run crew target, plain, runs, up]
    refine (run_if_neg ?_).trans ?_
    · rw [bne_self_eq_false, Bool.false_and]; decide
    rw [run_of_gives (gives_markPerformed s)]
    refine (run_if_neg (by rw [Bool.false_and]; decide)).trans ?_
    rw [run_of_gives (t := (performedS s).raiseLine p 3) (a := PUnit.unit) (gives_modify.2 rfl), run_of_gives (gives_get.2 ⟨rfl, rfl⟩)]
    refine Op.run_bind_error (Op.run_holdUnless_false ?_ _)
    rw [raiseLine_halted]
    exact (congrArg Part.halted (sIssued_part s p)).trans up
  refine ⟨_, execS_holds (stop_form (.inl other)) ready (passes_of_gives checked) asked, ?_⟩
  exact (State.raiseLine_halts (performedS s) p 3).1

/-- A strand with an armed precise stop. -/
def armStrand (c : BitVec 7) (k : Strand) : State → State := fun s => s.modCore c fun r => r.setStr k { (r.str k) with armed := true }

/-- A precise stop arms the strand that it names (R292). -/
theorem stop_precise (crew : Has w s) (ready : SReady [a, b] s) (target : TargetOk s w ((cur s).xr a) 0 p ctx) (checked : Gives (stopCheck a b) s () s)
    (precise : ((cur s).xr b).getLsbD 0 = true) (runs : (s.part p).runctx = ctx) (up : (s.part p).halted = false) (none_ : (s.part p).halt = none)
    (holds : s.holds (tgtCore ((cur s).xr a)) p ctx = true)
    (live : ((s.core (tgtCore ((cur s).xr a))).str (tgtStrand ((cur s).xr a))).live = true) (away : tgtCore ((cur s).xr a) ≠ s.cur) :
    ∃ n, exec (.stop a b) s = .next n ∧ ((n.core (tgtCore ((cur s).xr a))).str (tgtStrand ((cur s).xr a))).armed = true := by
  have same : ((sIssued s).core (tgtCore ((cur s).xr a))) = s.core (tgtCore ((cur s).xr a)) := sIssued_core_ne away
  have asked : (stopBody a b).run (sIssued s) = (.error (.hold 0), armStrand (tgtCore ((cur s).xr a)) (tgtStrand ((cur s).xr a)) (performedS s)) := by
    rw [stopBody_run crew target, precise, runs, up, holds, none_, same, live]
    refine (run_if_neg ?_).trans ?_
    · rw [bne_self_eq_false]; decide
    rw [run_of_gives (gives_markPerformed s)]
    refine (run_if_pos rfl).trans ((run_if_pos rfl).trans ?_)
    refine (run_of_gives (t := armStrand (tgtCore ((cur s).xr a)) (tgtStrand ((cur s).xr a)) (performedS s)) (a := PUnit.unit) (gives_modify.2 rfl)).trans ?_
    rw [run_of_gives (gives_get.2 ⟨rfl, rfl⟩)]
    refine Op.run_bind_error (Op.run_holdUnless_false ?_ _)
    exact (congrArg Part.halted (sIssued_part s p)).trans up
  refine ⟨_, execS_holds (stop_form (.inr precise)) ready (passes_of_gives checked) asked, ?_⟩
  rw [State.core_modCore_ne _ _ away, State.keepHeld, State.core_modCore_ne _ _ away, armStrand, State.core_modCore, Core.str_setStr]

/-! ### resume (R450) -/

theorem resume_ends (crew : Has w s) (ready : SReady [a] s) (target : TargetOk s w ((cur s).xr a) 0 p ctx)
    (word : tgtOk ((cur s).xr a) false false false false = true) :
    Ends (.resume a) s .s noTok 1 (fun u => if ((s.part p).runctx == ctx && (s.part p).resumable) = true then u.resumePart p else u) := by
  refine endsAt_of_runS rfl ready (passes_of_gives (t := s) (gives_then (gives_xr.2 ⟨rfl, rfl⟩) (gives_then (a := ()) (gives_legal.2 ⟨word, rfl⟩)
    (gives_rightCheck crew target)))) ?_
  rw [run_of_gives (gives_readX s a), run_of_gives (gives_subjectOf (has_sIssued crew) (targetOk_sIssued target))]
  dsimp only
  rw [run_of_gives (gives_get.2 ⟨rfl, rfl⟩), sIssued_part]
  by_cases runs : ((s.part p).runctx == ctx && (s.part p).resumable) = true
  · refine (run_if_pos runs).trans ?_
    rw [if_pos runs]
    rfl
  · refine (run_if_neg runs).trans ?_
    rw [if_neg runs]
    rfl

end

end Sys2Proof.Machine

namespace Sys2Proof.Isa

open Sys2Proof.Machine Sys2Proof.Stmt

theorem stopForm : StopForm := by
  intro s w a b p ctx crew ready t target high bit low
  have word (strand core : Bool) (cores : core = true ∧ strand = true ∨ fld t 8 10 = 0) : tgtOk t false core strand true = true :=
    tgtOk_of (fld_eq_zero_inside high (by decide) (by decide)) (.inr (fld_eq_zero_inside high (by decide) (by decide))) (fld_eq_zero_inside high (by decide) (by decide))
      (cores.imp And.right fun zero => fld_eq_zero_inside zero (by decide) (by decide)) bit
      (cores.imp And.left fun zero => fld_eq_zero_inside zero (by decide) (by decide)) (.inl rfl) low
  have plainCheck (plain : (cur s).xr b = 0) (zero : fld t 8 10 = 0) : Gives (stopCheck a b) s () s := by
    refine gives_stopCheck crew target (by rw [plain]; decide) ?_
    rw [plain]
    exact word false false (.inr zero)
  have plainBit (plain : (cur s).xr b = 0) : ((cur s).xr b).getLsbD 0 = false := by rw [plain]; decide
  refine ⟨fun plain zero self => stop_own crew ready self (plainBit plain) (plainCheck plain zero),
    fun plain zero other runs up => stop_other crew ready target (plainCheck plain zero) other (plainBit plain) runs up,
    fun plain zero other idle => stop_idle crew ready target (plainCheck plain zero) (.inl other) idle, fun precise runs up none_ holds live away => ?_⟩
  have bit0 : ((cur s).xr b).getLsbD 0 = true := by rw [precise]; decide
  refine stop_precise crew ready target (gives_stopCheck crew target (by rw [precise]; decide) ?_) bit0 runs up none_ holds live away
  rw [bit0]
  exact word true true (.inl ⟨rfl, rfl⟩)

theorem resumeForm : ResumeForm := by
  intro s w a p ctx crew ready t target other low high
  have word : tgtOk t false false false false = true :=
    tgtOk_of (fld_eq_zero_inside high (by decide) (by decide)) (.inr (fld_eq_zero_inside high (by decide) (by decide))) (fld_eq_zero_inside high (by decide) (by decide))
      (.inr (fld_eq_zero_inside high (by decide) (by decide))) (bit_eq_false_inside high (by decide) (by decide))
      (.inr (fld_eq_zero_inside high (by decide) (by decide))) (.inr other) low
  have ends := resume_ends crew ready target word
  refine ⟨fun runs can => ?_, fun idle => ?_⟩
  · rwa [runs, beq_self_eq_true, can] at ends
  · have no : ((s.part p).runctx == ctx && (s.part p).resumable) = false := by
      rcases idle with away | fixed
      · rw [beq_eq_false_iff_ne.2 away, Bool.false_and]
      · rw [fixed, Bool.and_false]
    rwa [no] at ends

/-- Settles O23: stop reads its subject and raises the line or arms a strand, and resume starts the partition where it may. -/
theorem stopAndResume : Obligations.StopAndResume := ⟨stopForm, resumeForm⟩

end Sys2Proof.Isa

/-! PROOFS. Event counters and snapshots (R95, R454 to R456). -/

namespace Sys2Proof.Machine

open Sys2Proof.Stmt

section
variable {s u v : State} {w : Crew} {d a b : BitVec 6} {p : BitVec 5} {ctx : BitVec 3} {acc : Acc} {t : Word}

/-- A crew may ask for the events of a core: its subject runs and owns it (R441). -/
structure EventSubject (s : State) (w : Crew) (t : Word) (p : BitVec 5) (ctx : BitVec 3) : Prop where
  crew   : Has w s
  target : TargetOk s w t 3 p ctx
  runs   : (s.part p).runctx = ctx
  owns   : (s.part p).ownsCore (tgtCore t).toNat = true

theorem gives_eventCondition (subject : EventSubject s w t p ctx) : Gives (eventCondition t) (sIssued s) (s.holds (tgtCore t) p ctx) (sIssued s) := by
  have crew := has_sIssued subject.crew
  have target := targetOk_sIssued subject.target
  refine gives_then (gives_subjectOf crew target) (gives_then (gives_get.2 ⟨rfl, rfl⟩) (gives_then (gives_condition crew target ?_) (gives_pure.2 ⟨holds_sIssued _, rfl⟩)))
  rw [sIssued_part, subject.runs, subject.owns, beq_self_eq_true]
  rfl

theorem ev_sIssued (c : BitVec 7) : ((sIssued s).core c).ev = (s.core c).ev := core_sIssued_field Core.ev (fun _ _ => rfl) c

/-- The check of a form that names an event counter of a core. -/
theorem gives_eventCheck (subject : EventSubject s w t p ctx) {cnt : Bool} (high : fld t 24 40 = 0) (gap : fld t 15 5 = 0) (low : fld t 4 3 = 0)
    (count : cnt = true ∨ fld t 20 4 = 0) {b : Bool} (rest : b = true) :
    Gives (do legal (tgtOk t cnt true false true && b) .s; rightCheck t rProfile) s () s := by
  have word : tgtOk t cnt true false true = true :=
    tgtOk_of high count (fld_eq_zero_inside gap (by decide) (by decide)) (.inr (fld_eq_zero_inside gap (by decide) (by decide)))
      (bit_eq_false_inside gap (by decide) (by decide)) (.inl rfl) (.inl rfl) low
  exact gives_then (a := ()) (gives_legal.2 ⟨by rw [word, rest]; rfl, rfl⟩) (gives_rightCheck subject.crew subject.target)

/-! ### ev.sel and ev.read (R454, R455) -/

/-- A core whose counter `n` has another source, and starts anew where the word says so. -/
def selectEvent (n : Nat) (y : Word) (r : Core) : Core :=
  let e := { r.ev with sel := listSet r.ev.sel n (y.extractLsb' 0 6) }
  { r with ev := if y.getLsbD 8 then { e with ev := listSet e.ev n 0, ovf := e.ovf &&& ~~~(1#8 <<< n) } else e }

theorem evSel_ends (subject : EventSubject s w ((cur s).xr a) p ctx) (ready : SReady [a, b] s) (high : fld ((cur s).xr a) 24 40 = 0)
    (gap : fld ((cur s).xr a) 15 5 = 0) (low : fld ((cur s).xr a) 4 3 = 0) (small : fld ((cur s).xr a) 20 4 ≤ 7) (word : fld ((cur s).xr b) 6 2 = 0)
    (rest : fld ((cur s).xr b) 9 55 = 0) (here : s.holds (tgtCore ((cur s).xr a)) p ctx = true) :
    Ends (.evSel a b) s .s noTok 1 (fun u => u.modCore (tgtCore ((cur s).xr a)) (selectEvent (fld ((cur s).xr a) 20 4) ((cur s).xr b))) := by
  have checked := gives_eventCheck subject (cnt := true) high gap low (.inl rfl)
    (b := decide (fld ((cur s).xr a) 20 4 ≤ 7) && (fld ((cur s).xr b) 6 2 == 0) && fld ((cur s).xr b) 9 55 == 0) (by rw [decide_eq_true small, word, rest]; rfl)
  rw [← Bool.and_assoc, ← Bool.and_assoc] at checked
  refine endsAt_of_runS rfl ready (passes_of_gives (gives_then (gives_xr.2 ⟨rfl, rfl⟩) (gives_then (gives_xr.2 ⟨rfl, rfl⟩) checked))) ?_
  rw [run_of_gives (gives_readX s a), run_of_gives (gives_readX s b)]
  dsimp only
  rw [run_of_gives (gives_eventCondition subject), here]
  exact (run_if_pos rfl).trans rfl

theorem evRead_ends (subject : EventSubject s w ((cur s).xr a) p ctx) (ready : SReady [a] s) (high : fld ((cur s).xr a) 24 40 = 0)
    (gap : fld ((cur s).xr a) 15 5 = 0) (low : fld ((cur s).xr a) 4 3 = 0) (small : fld ((cur s).xr a) 20 4 ≤ 8) :
    Ends (.evRead d a) s .s noTok 1 (onCore fun c => c.setX d (if !s.holds (tgtCore ((cur s).xr a)) p ctx then 0
      else if fld ((cur s).xr a) 20 4 = 8 then (s.core (tgtCore ((cur s).xr a))).ev.ovf.setWidth 64
      else (s.core (tgtCore ((cur s).xr a))).ev.ev.getD (fld ((cur s).xr a) 20 4) 0)) := by
  refine endsAt_of_runS rfl ready (passes_of_gives (gives_then (gives_xr.2 ⟨rfl, rfl⟩)
    (gives_eventCheck subject high gap low (.inl rfl) (decide_eq_true small)))) ?_
  rw [run_of_gives (gives_readX s a), run_of_gives (gives_eventCondition subject), run_of_gives (gives_get.2 ⟨rfl, rfl⟩), ev_sIssued]
  rfl

/-! ### Snapshots (R95, R456) -/

theorem snapRead_ends (subject : EventSubject s w ((cur s).xr a) p ctx) (ready : SReady [d, a] s) (high : fld ((cur s).xr a) 24 40 = 0)
    (gap : fld ((cur s).xr a) 15 5 = 0) (low : fld ((cur s).xr a) 4 3 = 0) (first : fld ((cur s).xr a) 20 4 = 0)
    (here : s.holds (tgtCore ((cur s).xr a)) p ctx = true) (still : (s.core (tgtCore ((cur s).xr a))).ev.busy = false) (clear : NoAcquire s)
    (access : Gives (sysAcc ((cur s).xr d).toNat 1088 64) (sIssued s) acc u)
    (writes : Gives (writeAll .s acc.d.nt false (linPieces acc (SMap.read 0 (s.core (tgtCore ((cur s).xr a))).ev.snap 0 1088))) u () v) :
    EndsAt (.snapRead d a) s .s 1 v := by
  have checked := gives_eventCheck subject (cnt := false) high gap low (.inr first) (b := true) rfl
  rw [Bool.and_true] at checked
  refine endsAt_of_runS rfl ready (passes_of_gives (gives_then (gives_xr.2 ⟨rfl, rfl⟩) checked)) ?_
  rw [run_of_gives (gives_readX s a), run_of_gives (gives_eventCondition subject), here]
  refine (run_if_pos rfl).trans ?_
  rw [run_of_gives (gives_get.2 ⟨rfl, rfl⟩)]
  dsimp only
  rw [ev_sIssued, still]
  exact gives_then (a := ()) (gives_holdUnless.2 ⟨rfl, rfl⟩) (gives_then (gives_acqClear clear) (gives_then (gives_readX s d) (gives_then access
    (gives_then writes (gives_pure.2 ⟨rfl, rfl⟩)))))

/-- A core whose snapshot is complete: its SEQ has gone on by one. -/
def snapDone (r : Core) : Core :=
  { r with ev := { r.ev with snap := SMap.write 0 r.ev.snap 0 (leBytes 8 (leNat (SMap.read 0 r.ev.snap 0 8) + 1)), busy := false } }

theorem snapshotDone_busy {c : BitVec 7} (busy : (s.core c).ev.busy = true) : exec (.snapshotDone c) s = .next (s.modCore c snapDone) :=
  congrArg nx (if_pos busy)

end

end Sys2Proof.Machine

namespace Sys2Proof.Isa

open Sys2Proof.Machine Sys2Proof.Stmt

/-- Settles O25: the subject condition of the event forms holds, and each then reads or changes the counters of its core. -/
theorem eventCounterForms : Obligations.EventCounterForms := by
  intro s u v w d a b p ctx acc crew t y n core target runs owns high gap low
  have subject : EventSubject s w t p ctx := ⟨crew, target, runs, owns⟩
  refine ⟨fun ready small word rest here => evSel_ends subject ready high gap low small word rest here, fun ready small here => ?_, fun ready small away => ?_,
    fun ready first here still clear access writes => snapRead_ends subject ready high gap low first here still clear access writes,
    fun c busy => ⟨_, snapshotDone_busy busy, ?_, fun is => ?_⟩⟩
  · have ends := evRead_ends (d := d) subject ready high gap low small
    rw [show s.holds (tgtCore ((cur s).xr a)) p ctx = true from here, ← BitVec.ofNat_toNat] at ends
    exact ends
  · have ends := evRead_ends (d := d) subject ready high gap low small
    rw [show s.holds (tgtCore ((cur s).xr a)) p ctx = false from away] at ends
    exact ends
  · rw [State.core_modCore]
    rfl
  · rw [State.core_modCore]
    show SMap.read 0 (SMap.write 0 (s.core c).ev.snap 0 _) 0 8 = _
    rw [is]
    rfl

end Sys2Proof.Isa

/-! PROOFS. The records of faults and traces, and so the end of an instruction, leave the contexts of every partition as they are. -/

namespace Sys2Proof.Machine

open Sys2Proof.Stmt

/-- Every partition has the contexts that it had. -/
def SameCtxs (s t : State) : Prop := ∀ p, (t.part p).ctxs = (s.part p).ctxs

section
variable {s t u : State}

theorem SameCtxs.of_parts (same : t.parts = s.parts) : SameCtxs s t := fun p => congrArg (fun ps : Vector Part 32 => (ps[p.toFin]).ctxs) same

theorem SameCtxs.refl (s : State) : SameCtxs s s := fun _ => rfl

theorem SameCtxs.trans (first : SameCtxs s t) (next : SameCtxs t u) : SameCtxs s u := fun p => (next p).trans (first p)

theorem sameCtxs_modPart {p : BitVec 5} {f : Part → Part} (same : (f (s.part p)).ctxs = (s.part p).ctxs) : SameCtxs s (s.modPart p f) := fun q => by
  by_cases is : q = p
  · rw [is, State.part_modPart, same]
  · rw [State.part_modPart_ne _ _ is]

/-- A read of linear space leaves the partitions. -/
theorem State.linRead_parts (s : State) (part : BitVec 5) (ctx : BitVec 3) (addr n : Nat) : (s.linRead part ctx addr n).1.parts = s.parts := by
  unfold State.linRead
  refine List.foldlRecOn (motive := fun a : State × Except LinErr (List Byte) => a.1.parts = s.parts) _ _ rfl fun a kept p _ => ?_
  obtain ⟨t, e | bs⟩ := a
  · exact kept
  dsimp only
  split
  · split <;> exact kept
  · exact kept
  next pa _ =>
    have read := (t.bankRead_parts pa p.2).trans kept
    split <;> next is => rw [is] at read; exact read

/-- A write of linear space leaves the partitions. -/
theorem State.linWrite_parts {part : BitVec 5} {ctx : BitVec 3} {addr : Nat} {bs : List Byte} (written : s.linWrite part ctx addr bs = .ok t) : t.parts = s.parts := by
  revert t
  unfold State.linWrite
  refine List.foldlRecOn (motive := fun a : Except LinErr State => ∀ {t}, a = .ok t → t.parts = s.parts) _ _
    (fun is => by cases is; rfl) fun a before p _ t is => ?_
  obtain e | u := a
  · cases is
  have kept : u.parts = s.parts := before rfl
  dsimp only at is
  split at is
  · cases is; exact kept
  · cases is
  · split at is
    · cases is; exact kept
    · cases is; exact (u.bankWrite_parts ..).trans kept

theorem State.devWrite_parts (s : State) (p : BitVec 5) (addr : Nat) (bs : List Byte) : (s.devWrite p addr bs).parts = s.parts := by
  unfold State.devWrite
  split
  next written => exact State.linWrite_parts written
  · rfl

theorem State.faultHeader_parts (s : State) (p : BitVec 5) : (s.faultHeader p).1.parts = s.parts := by
  have read := s.linRead_parts p 0 (s.part p).pfaultq.toNat 24
  unfold State.faultHeader
  split <;> next is => rw [is] at read; exact read

/-- A record waits, is noted, enters its slot or is dropped (R237): no context changes. -/
theorem sameCtxs_writeRecord (s : State) (p : BitVec 5) (r : FaultRec) : SameCtxs s (s.writeRecord p r) := by
  have header := s.faultHeader_parts p
  have msix (t : State) (f v : Nat) : SameCtxs t (t.sendMsix f v) := by
    unfold State.sendMsix
    split
    · exact .of_parts (t.modFunc_parts ..)
    · exact .of_parts rfl
  have slot (t : State) (a b : Nat) (bs cs : List Byte) : SameCtxs t ((t.devWrite p a bs).devWrite p b cs) :=
    .of_parts ((State.devWrite_parts ..).trans (State.devWrite_parts ..))
  unfold State.writeRecord
  dsimp only
  split
  next is => rw [is] at header; exact .trans (.of_parts header) (sameCtxs_modPart rfl)
  next is => rw [is] at header; exact .of_parts header
  next is =>
    rw [is] at header
    refine .trans (.of_parts header) ?_
    split
    · split
      · exact (slot _ _ _ _ _).trans (msix _ _ _)
      · exact slot _ _ _ _ _
    · split
      · exact sameCtxs_modPart rfl
      · exact .of_parts (State.devWrite_parts ..)

theorem sameCtxs_raiseLine (s : State) (p : BitVec 5) (cause : Nat) : SameCtxs s (s.raiseLine p cause) := by
  unfold State.raiseLine
  split
  · split
    · exact sameCtxs_modPart rfl
    · split
      · exact List.foldlRecOn (motive := SameCtxs s) _ _ (sameCtxs_modPart rfl) fun t kept c _ => kept
      · exact .refl s
  · exact sameCtxs_modPart (f := fun t => { t with halt := some { cause := cause, time := s.time, left := (s.part p).cores } }) rfl

theorem endKeeps_sameCtxs : EndKeeps SameCtxs where
  refl := .refl
  trans := .trans
  record := sameCtxs_writeRecord
  linear written := .of_parts (State.linWrite_parts written)
  core _ _ _ _ _ := .of_parts rfl
  line := sameCtxs_raiseLine

/-- The end of an instruction changes no context. -/
theorem sameCtxs_finish (s : State) (c : BitVec 7) (k : Strand) (len : Nat) : SameCtxs s (finish c k len s) :=
  endKeeps_sameCtxs.finish (fun _ _ _ _ => .of_parts rfl) (fun s c k => by rw [State.dropWaits_eq]; exact .of_parts rfl) s c k len

end

end Sys2Proof.Machine

/-! PROOFS. Saved state and decode tables (R290, R451 to R453). -/

namespace Sys2Proof.Machine

open Sys2Proof.Stmt

section
variable {s t u v : State} {w : Crew} {a b : BitVec 6} {p : BitVec 5} {ctx : BitVec 3} {acc : Acc} {bs : List Byte}

/-! ### ctx.save and ctx.load (R451, R452) -/

/-- A crew may save or load the state of another core: the subject runs, has halted and not for a pre-emption, and has a crew there (R441, R451). -/
structure SavedSubject (s : State) (w : Crew) (t : Word) (p : BitVec 5) (ctx : BitVec 3) : Prop where
  crew   : Has w s
  target : TargetOk s w t 1 p ctx
  runs   : (s.part p).runctx = ctx
  halted : (s.part p).halted = true
  cause  : ((s.part p).halt.map (·.cause)).getD 0 ≠ 2
  here   : s.holds (tgtCore t) p ctx = true

theorem gives_savedCondition {tg : Word} {load : Bool} (subject : SavedSubject s w tg p ctx) (sound : (load && (s.part p).fatal) = false) :
    Gives (savedCondition tg load) (sIssued s) () (sIssued s) := by
  have crew := has_sIssued subject.crew
  have target := targetOk_sIssued subject.target
  refine gives_then (gives_subjectOf crew target) (gives_then (gives_get.2 ⟨rfl, rfl⟩) (gives_condition crew target ?_))
  rw [sIssued_part, holds_sIssued, subject.runs, subject.halted, subject.here, bne_iff_ne.2 subject.cause, sound, beq_self_eq_true]
  rfl

theorem gives_savedCheck (subject : SavedSubject s w ((cur s).xr a) p ctx) (even : a ≠ 63) (other : ((cur s).xr a).getLsbD 7 = false)
    (high : fld ((cur s).xr a) 15 49 = 0) (low : fld ((cur s).xr a) 4 3 = 0) : Gives (savedCheck a) s () s := by
  have word : tgtOk ((cur s).xr a) false true false false = true :=
    tgtOk_of (fld_eq_zero_inside high (by decide) (by decide)) (.inr (fld_eq_zero_inside high (by decide) (by decide))) (fld_eq_zero_inside high (by decide) (by decide))
      (.inr (fld_eq_zero_inside high (by decide) (by decide))) (bit_eq_false_inside high (by decide) (by decide)) (.inl rfl) (.inr other) low
  exact gives_then (gives_xr.2 ⟨rfl, rfl⟩) (gives_then (a := ()) (gives_legal.2 ⟨by rw [word, bne_iff_ne.2 even]; rfl, rfl⟩)
    (gives_rightCheck subject.crew subject.target))

theorem ctxSave_ends (subject : SavedSubject s w ((cur s).xr a) p ctx) (ready : SReady [a, a + 1] s) (checked : Gives (savedCheck a) s () s) (clear : NoAcquire s)
    (access : Gives (sysAcc ((cur s).xr (a + 1)).toNat 0x100000 64) (sIssued s) acc u) (img : u.image (tgtCore ((cur s).xr a)) true = (bs, v))
    (writes : Gives (writeAll .s acc.d.nt false (linPieces acc bs)) v () t) : EndsAt (.ctxSave a) s .s 1 t := by
  refine endsAt_of_runS rfl ready (passes_of_gives checked) ?_
  refine gives_then (gives_readX s a) (gives_then (gives_savedCondition subject (Bool.false_and _)) (gives_then (gives_acqClear clear)
    (gives_then (gives_readX s (a + 1)) (gives_then access (gives_then (gives_get.2 ⟨rfl, rfl⟩) ?_)))))
  dsimp only
  rw [img]
  exact gives_then (u := v) (a := PUnit.unit) (gives_modify.2 rfl) (gives_then writes (gives_pure.2 ⟨rfl, rfl⟩))

theorem ctxLoad_ends (subject : SavedSubject s w ((cur s).xr a) p ctx) (ready : SReady [a, a + 1] s) (checked : Gives (savedCheck a) s () s) (clear : NoAcquire s)
    (sound : (s.part p).fatal = false) (access : Gives (sysAcc ((cur s).xr (a + 1)).toNat 0x100000 64) (sIssued s) acc u)
    (reads : Gives (readRange .s acc 0x100000) u bs t) (shape : shapeOk (leBV 64 ((bs.drop 0x310).take 8)) = true) :
    EndsAt (.ctxLoad a) s .s 1 (t.modCore (tgtCore ((cur s).xr a)) fun r => r.ofImg fun o n => (bs.drop o).take n) := by
  refine endsAt_of_runS rfl ready (passes_of_gives checked) ?_
  refine gives_then (gives_readX s a) (gives_then (gives_savedCondition subject (by rw [sound]; rfl)) (gives_then (gives_acqClear clear)
    (gives_then (gives_readX s (a + 1)) (gives_then access (gives_then reads ?_)))))
  exact gives_then (a := ()) (gives_legal.2 ⟨shape, rfl⟩) (gives_then (a := PUnit.unit) (gives_modify.2 rfl) (gives_pure.2 ⟨rfl, rfl⟩))

/-! ### dtab.load (R290, R453) -/

/-- The partition's home with a decode table replaced, and the table on its way to every core of the partition. -/
def sendTable (w : Crew) (n : Nat) (k : Strand) (tab : DTab) (s : State) : State :=
  let s := s.modPart w.part fun p => p.modCtx w.ctx fun x => x.setDtab k tab
  (s.part w.part).cores.foldl (fun s c => (s.modCore c fun r => { r with dtabUpd := r.dtabUpd ++ [(n, tab)] }).push (.decodeTableCopyApply c)) s

/-- The decode tables at a crew's home. -/
abbrev homeTabs (w : Crew) (s : State) := ((s.part w.part).ctx w.ctx).dtabs

theorem homeTabs_sendTable (n : Nat) (k : Strand) (tab : DTab) : homeTabs w (sendTable w n k tab s) = (homeTabs w s).set (strandFin k) tab := by
  have copies : SameCtxs (s.modPart w.part fun p => p.modCtx w.ctx fun x => x.setDtab k tab) (sendTable w n k tab s) :=
    List.foldlRecOn (motive := SameCtxs _) _ _ (.refl _) fun t kept c _ => kept.trans (.of_parts rfl)
  show (((sendTable w n k tab s).part w.part).ctxs[w.ctx.toFin]).dtabs = _
  rw [copies w.part, State.part_modPart]
  exact congrArg Ctx.dtabs (Isa.Part.ctx_modCtx ..)

/-- The part of `dtab.load` after its table has been sent: it waits for the copies. -/
theorem sent_waits {srcs : List (BitVec 6)} {check : Op Unit} {i : Instr} {body : Op Next} (form : exec i s = nx (runS srcs check body s))
    (ready : SReady srcs s) (checked : Passes check s)
    (run : body.run (sIssued s) = (do let s ← get; holdUnless ((s.part w.part).cores.all fun c => (s.core c).dtabUpd.isEmpty); return Next.seq : Op Next).run t) :
    ∃ m, exec i s = .next m ∧ homeTabs w m = homeTabs w t := by
  cases applied : (t.part w.part).cores.all fun c => (t.core c).dtabUpd.isEmpty
  · have waits : body.run (sIssued s) = (.error (.hold 0), t) := by
      rw [run, run_of_gives (gives_get.2 ⟨rfl, rfl⟩)]
      exact Op.run_bind_error (Op.run_holdUnless_false applied _)
    exact ⟨_, execS_holds form ready checked waits, rfl⟩
  · have ends : body.run (sIssued s) = (.ok .seq, t) :=
      run.trans (gives_then (gives_get.2 ⟨rfl, rfl⟩) (gives_then (a := ()) (gives_holdUnless.2 ⟨applied, rfl⟩) (gives_pure.2 ⟨rfl, rfl⟩)))
    exact ⟨_, endsAt_of_runS form ready checked ends, congrArg (fun cs : Vector Ctx 8 => (cs[w.ctx.toFin]).dtabs) (sameCtxs_finish t s.cur .s 1 w.part)⟩

/-- The check of a `dtab.load`'s operands. -/
def dtabCheck (a b : BitVec 6) : Op Unit := do
  let v ← xr a
  let y ← xr b
  legal (fld v 2 6 == 0 && fld v 17 47 == 0 && (if v.getLsbD 16 then y == 0 && fld v 8 8 == 0 else fld v 8 8 != 0)) .s

theorem gives_dtabCheck (low : fld ((cur s).xr a) 2 6 = 0) (high : fld ((cur s).xr a) 17 47 = 0)
    (rows : (if ((cur s).xr a).getLsbD 16 then (cur s).xr b == 0 && fld ((cur s).xr a) 8 8 == 0 else fld ((cur s).xr a) 8 8 != 0) = true) :
    Gives (dtabCheck a b) s () s :=
  gives_then (gives_xr.2 ⟨rfl, rfl⟩) (gives_then (gives_xr.2 ⟨rfl, rfl⟩) (gives_legal.2 ⟨by rw [low, high, rows]; rfl, rfl⟩))

/-- What is left of `dtab.load` once its copies are on their way. -/
def dtabWait (w : Crew) : Op Next := do
  let s ← get
  holdUnless ((s.part w.part).cores.all fun c => (s.core c).dtabUpd.isEmpty)
  return .seq

/-- What `dtab.load` does with its table. -/
def dtabSend (w : Crew) (n : Nat) (k : Strand) (tab : DTab) : Op Next := do
  markPerformed
  modify (sendTable w n k tab)
  dtabWait w

/-- The strand whose decode table a word names. -/
abbrev tabStrand (v : Word) : Strand := tgtStrand (BitVec.ofNat 64 (fld v 0 2 * 2 ^ 16))

/-- What `dtab.load` does once it has issued. -/
def dtabBody (a b : BitVec 6) : Op Next := do
  let w ← curCrew
  if !(← heldNow .s).performed then
    let v ← xr a
    let n := fld v 0 2
    let k := tgtStrand (BitVec.ofNat 64 (n * 2 ^ 16))
    let tab ← if v.getLsbD 16 then pure ({} : DTab)
      else do
        acqClear
        let bs ← readRange .s (← sysAcc (← xr b).toNat 2048 64) 2048
        pure (DTab.ofBytes k (v.extractLsb' 8 8) bs)
    markPerformed
    modify (sendTable w n k tab)
  let s ← get
  holdUnless ((s.part w.part).cores.all fun c => (s.core c).dtabUpd.isEmpty)
  return .seq

theorem dtabLoad_form (a b : BitVec 6) (s : State) : exec (.dtabLoad a b) s = nx (runS [a, b] (dtabCheck a b) (dtabBody a b) s) := rfl

/-- A table that is sent is the home's, and the form then waits for the copies. -/
theorem dtabSend_run {n : Nat} {k : Strand} {tab : DTab} (same : u.parts = s.parts) :
    ∃ t, (dtabSend w n k tab).run u = (dtabWait w).run t ∧ homeTabs w t = (homeTabs w s).set (strandFin k) tab := by
  have marked : Gives markPerformed u () (u.keepHeld u.cur .s { (cur u).heldOf .s with performed := true }) := gives_modHeld.2 rfl
  refine ⟨_, (run_of_gives marked).trans (run_of_gives (a := PUnit.unit) (gives_modify.2 rfl)), (homeTabs_sendTable ..).trans ?_⟩
  exact congrArg (fun ps : Vector Part 32 => (((ps[w.part.toFin]).ctxs)[w.ctx.toFin]).dtabs.set (strandFin k) tab) same

theorem sIssued_parts (s : State) : (sIssued s).parts = s.parts := by rw [sIssued_eq]; rfl

/-- An access through descriptor 0 only reads. -/
theorem reads_sysAcc {c n align : Nat} (gives : Gives (sysAcc c n align) s acc t) : s.Reads t := by
  unfold sysAcc at gives
  rw [gives_bind] at gives
  obtain ⟨b, u, found, gives⟩ := gives
  split at gives
  · exact absurd gives gives_flt
  · simp only [gives_bind, gives_need, gives_pure] at gives
    obtain ⟨-, _, ⟨-, rfl⟩, -, _, ⟨-, rfl⟩, -, _, ⟨-, rfl⟩, -, _, ⟨-, rfl⟩, -, rfl⟩ := gives
    exact reads_crewDesc found

/-- The home's table is replaced by one that the storage gives. -/
theorem dtabLoad_table (crew : Has w s) (ready : SReady [a, b] s) (checked : Gives (dtabCheck a b) s () s) (load : ((cur s).xr a).getLsbD 16 = false)
    (clear : NoAcquire s) (access : Gives (sysAcc ((cur s).xr b).toNat 2048 64) (sIssued s) acc u) (reads : Gives (readRange .s acc 2048) u bs t) :
    ∃ m, exec (.dtabLoad a b) s = .next m ∧ homeTabs w m = (homeTabs w s).set (strandFin (tabStrand ((cur s).xr a)))
      (DTab.ofBytes (tabStrand ((cur s).xr a)) (((cur s).xr a).extractLsb' 8 8) bs) := by
  have same : t.parts = s.parts := ((reads_sysAcc access).trans (reads_readRange reads)).parts.trans (sIssued_parts s)
  obtain ⟨v, sent, home⟩ := dtabSend_run (w := w) (n := fld ((cur s).xr a) 0 2) (k := tabStrand ((cur s).xr a))
    (tab := DTab.ofBytes (tabStrand ((cur s).xr a)) (((cur s).xr a).extractLsb' 8 8) bs) same
  obtain ⟨m, is, tabs⟩ := sent_waits (w := w) (t := v) (dtabLoad_form a b s) ready (passes_of_gives checked) (by
    unfold dtabBody
    rw [run_of_gives (gives_crew (has_sIssued crew)), run_of_gives gives_heldNow, heldOf_sIssued]
    refine (run_if_pos rfl).trans ?_
    rw [run_of_gives (gives_readX s a)]
    refine (run_if_neg (by rw [load]; decide)).trans ?_
    rw [run_of_gives (gives_acqClear clear), run_of_gives (gives_readX s b), run_of_gives access, run_of_gives reads]
    exact sent)
  exact ⟨m, is, tabs.trans home⟩

/-- The home's table is emptied. -/
theorem dtabLoad_clear (crew : Has w s) (ready : SReady [a, b] s) (checked : Gives (dtabCheck a b) s () s) (empties : ((cur s).xr a).getLsbD 16 = true) :
    ∃ m, exec (.dtabLoad a b) s = .next m ∧ homeTabs w m = (homeTabs w s).set (strandFin (tabStrand ((cur s).xr a))) {} := by
  obtain ⟨v, sent, home⟩ := dtabSend_run (w := w) (n := fld ((cur s).xr a) 0 2) (k := tabStrand ((cur s).xr a)) (tab := {}) (sIssued_parts s)
  obtain ⟨m, is, tabs⟩ := sent_waits (w := w) (t := v) (dtabLoad_form a b s) ready (passes_of_gives checked) (by
    unfold dtabBody
    rw [run_of_gives (gives_crew (has_sIssued crew)), run_of_gives gives_heldNow, heldOf_sIssued]
    refine (run_if_pos rfl).trans ?_
    rw [run_of_gives (gives_readX s a)]
    exact (run_if_pos empties).trans sent)
  exact ⟨m, is, tabs.trans home⟩

theorem dtabLoad_applied {h : Held} (crew : Has w s) (held : ((cur s).str .s).held = some h) (sent : h.performed = true) (free : (cur s).waitsOn [a, b] = false)
    (applied : ∀ c ∈ (s.part w.part).cores, (s.core c).dtabUpd = []) : EndsAt (.dtabLoad a b) s .s 1 s := by
  refine endsAt_of_heldS (dtabLoad_form a b s) held free ?_
  unfold dtabBody
  rw [run_of_gives (gives_crew crew), run_of_gives gives_heldNow, heldOf_of_held held]
  refine (run_if_neg (by rw [sent]; decide)).trans ?_
  refine gives_then (gives_get.2 ⟨rfl, rfl⟩) (gives_then (a := ()) (gives_holdUnless.2 ⟨?_, rfl⟩) (gives_pure.2 ⟨rfl, rfl⟩))
  exact List.all_eq_true.2 fun c mem => by rw [applied c mem]; rfl

/-- A core whose copy has applied the next table on its way. -/
def applyTable (n : Nat) (tab : DTab) (rest : List (Nat × DTab)) (r : Core) : Core :=
  { r with dtabs := Vector.ofFn fun i => if i.val = n then tab else r.dtabs[i], dtabUpd := rest }

theorem decodeTableCopyApply_next {c : BitVec 7} {n : Nat} {tab : DTab} {rest : List (Nat × DTab)} (next : (s.core c).dtabUpd = (n, tab) :: rest) :
    exec (.decodeTableCopyApply c) s = .next (s.modCore c (applyTable n tab rest)) := by
  show execDecodeTableCopyApply c s = _
  unfold execDecodeTableCopyApply
  rw [next]
  rfl

theorem toList_applyTable (n : Nat) (tab : DTab) (rest : List (Nat × DTab)) (r : Core) : (applyTable n tab rest r).dtabs.toList = r.dtabs.toList.set n tab := by
  refine List.ext_getElem (by simp) fun i below _ => ?_
  rw [List.getElem_set]
  simp [applyTable, eq_comm]

end

end Sys2Proof.Machine

namespace Sys2Proof.Isa

open Sys2Proof.Machine Sys2Proof.Stmt

theorem savedStateForms : SavedStateForms := by
  intro s u v t w a p ctx acc bs crew ready even tg target other high low runs halted cause here clear access
  have subject : SavedSubject s w tg p ctx := ⟨crew, target, runs, halted, cause, here⟩
  have checked := gives_savedCheck subject even other high low
  exact ⟨fun img writes => ctxSave_ends subject ready checked clear access img writes,
    fun sound reads shape => ctxLoad_ends subject ready checked clear sound access reads shape⟩

theorem decodeTableForms : DecodeTableForms := by
  intro s u t w a b acc bs core n tab rest crew v k
  refine ⟨fun ready low high load rows clear access reads => ?_, fun ready low high empties none => ?_,
    fun h held sent free applied => dtabLoad_applied crew held sent free applied, fun next _ => ⟨_, decodeTableCopyApply_next next, ?_, ?_⟩⟩
  · exact dtabLoad_table crew ready (gives_dtabCheck low high ((if_neg (by rw [load]; decide)).trans (bne_iff_ne.2 rows))) load clear access reads
  · have rows : fld v 8 8 = 0 := fld_eq_zero_inside low (by decide) (by decide)
    exact dtabLoad_clear crew ready (gives_dtabCheck (fld_eq_zero_inside low (by decide) (by decide)) high
      ((if_pos empties).trans (by rw [none, rows]; rfl))) empties
  · rw [State.core_modCore]; rfl
  · rw [State.core_modCore, toList_applyTable]

/-- Settles O24: the saved-state forms meet their subject condition, and a decode table changes at its home and then in each copy. -/
theorem savedStateAndDecodeTables : Obligations.SavedStateAndDecodeTables := ⟨savedStateForms, decodeTableForms⟩

end Sys2Proof.Isa

/-! PROOFS. Translation caches and migrations (R218, R222, R225, R457 to R459). -/

namespace Sys2Proof.Machine

open Sys2Proof.Stmt

/-! ### What a drop of translations leaves (R218) -/

/-- The requests on their way, what numbers them, the partitions and the x registers are as they were. -/
structure KeepsRequests (s t : State) : Prop where
  cur   : t.cur = s.cur
  parts : t.parts = s.parts
  time  : t.time = s.time
  waits : t.waits = s.waits
  posts : t.posts = s.posts
  tag   : t.nextTag = s.nextTag
  x     : ∀ c, (t.core c).x = (s.core c).x

section
variable {s t u : State} {c : BitVec 7} {f : Core → Core}

theorem KeepsRequests.refl (s : State) : KeepsRequests s s := ⟨rfl, rfl, rfl, rfl, rfl, rfl, fun _ => rfl⟩

theorem KeepsRequests.trans (first : KeepsRequests s t) (next : KeepsRequests t u) : KeepsRequests s u :=
  ⟨next.cur.trans first.cur, next.parts.trans first.parts, next.time.trans first.time, next.waits.trans first.waits, next.posts.trans first.posts,
    next.tag.trans first.tag, fun c => (next.x c).trans (first.x c)⟩

theorem KeepsRequests.modCore (same : (f (s.core c)).x = (s.core c).x) : KeepsRequests s (s.modCore c f) := by
  refine ⟨rfl, rfl, rfl, rfl, rfl, rfl, fun d => ?_⟩
  by_cases is : d = c
  · rw [is, State.core_modCore, same]
  · rw [State.core_modCore_ne _ _ is]

theorem KeepsRequests.foldl {α : Type} {f : State → α → State} (each : ∀ t x, KeepsRequests t (f t x)) (xs : List α) (s : State) : KeepsRequests s (xs.foldl f s) :=
  List.foldlRecOn (motive := KeepsRequests s) xs f (.refl s) fun t kept x _ => kept.trans (each t x)

theorem keepsRequests_bankWrite (s : State) (pa : Nat) (bs : List Byte) : KeepsRequests s (s.bankWrite pa bs) := by
  have unpoison (t : State) (pa n : Nat) : KeepsRequests t (t.unpoison pa n) := by
    unfold State.unpoison
    split <;> exact ⟨rfl, rfl, rfl, rfl, rfl, rfl, fun _ => rfl⟩
  have poke (t : State) (pa : Nat) (bs : List Byte) : KeepsRequests t (t.poke pa bs) := ⟨rfl, rfl, rfl, rfl, rfl, rfl, fun _ => rfl⟩
  have freshen (t : State) (r : Nat) : KeepsRequests t (t.freshen r) := ⟨rfl, rfl, rfl, rfl, rfl, rfl, fun _ => rfl⟩
  have cleared : KeepsRequests s (s.cleared pa) := by
    unfold State.cleared
    split
    · exact (poke ..).trans (unpoison ..)
    · exact .refl s
  have readied : KeepsRequests s (s.readied pa) := by
    unfold State.readied
    split
    · exact cleared.trans (freshen ..)
    · exact cleared
  rw [State.bankWrite_eq]
  exact readied.trans ((poke ..).trans (unpoison ..))

theorem keepsRequests_dropKey (s : State) (p : BitVec 5) (ctx : BitVec 3) (tensor : BitVec 12) (tile : Option Nat) : KeepsRequests s (s.dropKey p ctx tensor tile) :=
  .foldl (fun _ _ => .modCore rfl) _ s

theorem keepsRequests_flushPieces (s : State) : KeepsRequests s s.flushPieces :=
  .foldl (fun _ _ => .foldl (fun t _ => (keepsRequests_bankWrite t _ _).trans (.modCore rfl)) _ _) _ s

theorem keepsRequests_sIssued (s : State) : KeepsRequests s (sIssued s) := by
  rw [sIssued_eq]
  exact .modCore rfl

theorem KeepsRequests.xr (kept : KeepsRequests s t) (n : BitVec 6) : (Stmt.cur t).xr n = (Stmt.cur s).xr n := by
  unfold Core.xr Stmt.cur
  rw [kept.cur, kept.x]

theorem KeepsRequests.part (kept : KeepsRequests s t) (p : BitVec 5) : t.part p = s.part p := congrArg (fun ps : Vector Part 32 => ps[p.toFin]) kept.parts

theorem KeepsRequests.accessesBefore (kept : KeepsRequests s t) (p : BitVec 5) (n : Nat) : t.accessesBefore p n = s.accessesBefore p n := by
  unfold State.accessesBefore
  rw [kept.waits, kept.posts, kept.time, kept.part]

end

section
variable {s u : State} {w : Crew} {a b : BitVec 6}

/-! ### tt.inval (R218, R457) -/

/-- A crew without its copy of a descriptor. -/
def Crew.forget (tensor : Nat) (w : Crew) : Crew := { w with descs := w.descs.filter fun e => e.1 != tensor }

/-- The partition's cores without their copies of a descriptor, where the word asks for it. -/
def forgetDescs (w : Crew) (v : Word) (u : State) : State :=
  if v.getLsbD 17 then (u.part w.part).cores.foldl (fun s c => s.modCore c fun r => { r with crew := r.crew.map (Crew.forget (v.extractLsb' 0 12).toNat) }) u else u

/-- The partition without the translations that the words name, every piece of X written. -/
def dropNamed (w : Crew) (v y : Word) (u : State) : State := (u.dropKey w.part w.ctx (v.extractLsb' 0 12) (keyTile v y)).flushPieces

/-- The form that S holds notes up to which request it waits. -/
def markTag (n : Nat) : State → State := onCore fun c => c.setStr .s { (c.str .s) with held := some { c.heldOf .s with point := n + 1 } }

theorem keepsRequests_forgetDescs (w : Crew) (v : Word) (u : State) : KeepsRequests u (forgetDescs w v u) := by
  unfold forgetDescs
  split
  · exact .foldl (fun _ _ => .modCore rfl) _ u
  · exact .refl u

theorem keepsRequests_dropNamed (w : Crew) (v y : Word) (u : State) : KeepsRequests u (dropNamed w v y u) :=
  (keepsRequests_dropKey ..).trans (keepsRequests_flushPieces _)

theorem keepsRequests_markTag (n : Nat) (u : State) : KeepsRequests u (markTag n u) := by
  unfold markTag Stmt.onCore
  exact .modCore rfl

/-- The state in which `tt.inval` waits for the requests before it. -/
def invalidated (s : State) (w : Crew) (v y : Word) : State := markTag s.nextTag (forgetDescs w v (dropNamed w v y (sIssued s)))

theorem keepsRequests_invalidated (v y : Word) : KeepsRequests s (invalidated s w v y) :=
  (keepsRequests_sIssued s).trans ((keepsRequests_dropNamed ..).trans ((keepsRequests_forgetDescs ..).trans (keepsRequests_markTag ..)))

theorem heldOf_markTag (n : Nat) (u : State) : ((cur (markTag n u)).heldOf .s).point = n + 1 := by
  rw [markTag, cur_onCore]
  simp [Core.heldOf]

/-- The check of a key operand (R457, R458). -/
theorem gives_keyCheck {desc : Bool} (crew : Has w s) (bits : (desc || !((cur s).xr a).getLsbD 17) = true) (mode : fld ((cur s).xr a) 12 4 = 0)
    (high : fld ((cur s).xr a) 18 46 = 0) (inside : fld ((cur s).xr a) 0 12 ≤ ((s.part w.part).ctx w.ctx).ndesc.toNat) : Gives (keyCheck a desc) s () s :=
  gives_then (gives_xr.2 ⟨rfl, rfl⟩) (gives_then (a := ()) (gives_legal.2 ⟨by rw [mode, high, bits]; rfl, rfl⟩)
    (gives_then (gives_crew crew) (gives_then (gives_get.2 ⟨rfl, rfl⟩) (gives_need.2 ⟨decide_eq_true inside, rfl⟩))))

/-- What `tt.inval` does once it has noted up to which request it waits. -/
def invalWait (w : Crew) (a b : BitVec 6) : Op Next := do
  let n := (← heldNow .s).point - 1
  let s ← get
  holdUnless (!s.accessesBefore w.part n)
  let v ← xr a
  let tile := keyTile v (← xr b)
  modify fun s => s.walkAnew w.part w.ctx (v.extractLsb' 0 12) tile
  return .seq

/-- What `tt.inval` does once it has issued. -/
def invalBody (a b : BitVec 6) : Op Next := do
  let w ← curCrew
  if (← heldNow .s).point = 0 then
    let v ← xr a
    opRelease .pkg
    modify (dropNamed w v (← xr b))
    if v.getLsbD 17 then
      modify fun s => (s.part w.part).cores.foldl (fun s c => s.modCore c fun r => { r with crew := r.crew.map (Crew.forget (v.extractLsb' 0 12).toNat) }) s
    let n := (← get).nextTag
    modHeld .s fun h => { h with point := n + 1 }
  invalWait w a b

theorem ttInval_form (a b : BitVec 6) (s : State) : exec (.ttInval a b) s = nx (runS [a, b] (keyCheck a true) (invalBody a b) s) := rfl

/-- A `tt.inval` that has issued drops what its words name and notes the requests before it. -/
theorem inval_run (crew : Has w s) (empty : (cur s).slog = []) :
    (invalBody a b).run (sIssued s) = (invalWait w a b).run (invalidated s w ((cur s).xr a) ((cur s).xr b)) := by
  have dropped : KeepsRequests s (dropNamed w ((cur s).xr a) ((cur s).xr b) (sIssued s)) := (keepsRequests_sIssued s).trans (keepsRequests_dropNamed ..)
  have marks {u : State} (kept : KeepsRequests s u) : (do
      let n := (← get).nextTag
      modHeld .s fun h => { h with point := n + 1 }
      invalWait w a b : Op Next).run u = (invalWait w a b).run (markTag s.nextTag u) := by
    rw [run_of_gives (gives_get.2 ⟨rfl, rfl⟩), kept.tag]
    exact run_of_gives (a := ()) (gives_modHeld.2 rfl)
  unfold invalBody
  rw [run_of_gives (gives_crew (has_sIssued crew)), run_of_gives gives_heldNow, heldOf_sIssued]
  refine (run_if_pos rfl).trans ?_
  rw [run_of_gives (gives_readX s a), run_of_gives (gives_opRelease_pkg (by rw [slog_sIssued]; exact empty)), run_of_gives (gives_readX s b),
    run_of_gives (t := dropNamed w ((cur s).xr a) ((cur s).xr b) (sIssued s)) (a := PUnit.unit) (gives_modify.2 rfl)]
  have kept := dropped.trans (keepsRequests_forgetDescs w ((cur s).xr a) _)
  have after {x : State} (is : forgetDescs w ((cur s).xr a) (dropNamed w ((cur s).xr a) ((cur s).xr b) (sIssued s)) = x) :
      invalidated s w ((cur s).xr a) ((cur s).xr b) = markTag s.nextTag x := congrArg (markTag s.nextTag) is
  by_cases descs : ((cur s).xr a).getLsbD 17 = true
  · rw [after (if_pos descs)]
    rw [forgetDescs, if_pos descs] at kept
    refine (run_if_pos descs).trans ?_
    exact (run_of_gives (a := PUnit.unit) (gives_modify.2 rfl)).trans (marks kept)
  · rw [after (if_neg descs)]
    rw [forgetDescs, if_neg descs] at kept
    exact (run_if_neg descs).trans (marks kept)

theorem ttInval_ends (crew : Has w s) (ready : SReady [a, b] s) (checked : Gives (keyCheck a true) s () s) (empty : (cur s).slog = [])
    (quiet : s.accessesBefore w.part s.nextTag = false) :
    EndsAt (.ttInval a b) s .s 1 ((invalidated s w ((cur s).xr a) ((cur s).xr b)).walkAnew w.part w.ctx (((cur s).xr a).extractLsb' 0 12)
      (keyTile ((cur s).xr a) ((cur s).xr b))) := by
  have kept := keepsRequests_invalidated (s := s) (w := w) ((cur s).xr a) ((cur s).xr b)
  refine endsAt_of_runS (ttInval_form a b s) ready (passes_of_gives checked) ?_
  rw [inval_run crew empty, invalWait, run_of_gives gives_heldNow, invalidated, heldOf_markTag, ← invalidated]
  refine gives_then (gives_get.2 ⟨rfl, rfl⟩) (gives_then (a := ()) (gives_holdUnless.2 ⟨?_, rfl⟩) (gives_then (gives_xr.2 ⟨kept.xr a, rfl⟩)
    (gives_then (gives_xr.2 ⟨kept.xr b, rfl⟩) (gives_then (a := PUnit.unit) (gives_modify.2 rfl) (gives_pure.2 ⟨rfl, rfl⟩)))))
  rw [kept.accessesBefore, Nat.add_sub_cancel, quiet]
  rfl

theorem mem_invalidated (v y : Word) : (invalidated s w v y).mem = (dropNamed w v y (sIssued s)).mem := by
  unfold invalidated
  show (forgetDescs w v (dropNamed w v y (sIssued s))).mem = _
  unfold forgetDescs
  split
  · exact List.foldlRecOn (motive := fun t : State => t.mem = (dropNamed w v y (sIssued s)).mem) _ _ rfl fun t kept c _ => kept
  · rfl

theorem ttInval_waits (crew : Has w s) (ready : SReady [a, b] s) (checked : Gives (keyCheck a true) s () s) (empty : (cur s).slog = [])
    (asked : s.accessesBefore w.part s.nextTag = true) :
    ∃ t, exec (.ttInval a b) s = .next t ∧ ((cur t).str .s).held.map (·.point) = some (s.nextTag + 1) ∧
      t.mem = (dropNamed w ((cur s).xr a) ((cur s).xr b) (sIssued s)).mem := by
  have kept := keepsRequests_invalidated (s := s) (w := w) ((cur s).xr a) ((cur s).xr b)
  have waits : (invalBody a b).run (sIssued s) = (.error (.hold 0), invalidated s w ((cur s).xr a) ((cur s).xr b)) := by
    rw [inval_run crew empty, invalWait, run_of_gives gives_heldNow, run_of_gives (gives_get.2 ⟨rfl, rfl⟩)]
    refine Op.run_bind_error (Op.run_holdUnless_false ?_ _)
    rw [invalidated, heldOf_markTag, ← invalidated, kept.accessesBefore, Nat.add_sub_cancel, asked]
    rfl
  refine ⟨_, execS_holds (ttInval_form a b s) ready (passes_of_gives checked) waits, ?_, mem_invalidated ..⟩
  rw [held_of_keepHeld kept.cur]
  have mark := heldOf_markTag s.nextTag (forgetDescs w ((cur s).xr a) (dropNamed w ((cur s).xr a) ((cur s).xr b) (sIssued s)))
  rw [← invalidated, Stmt.cur, kept.cur] at mark
  exact congrArg some mark

/-! ### slog.replay (R222, R458) -/

theorem slogReplay_ends (crew : Has w s) (ready : SReady [a, b] s) (checked : Gives (keyCheck a false) s () s) :
    Ends (.slogReplay a b) s .s noTok 1 (fun u => u.replayKey w.part w.ctx (((cur s).xr a).extractLsb' 0 12) (keyTile ((cur s).xr a) ((cur s).xr b))) := by
  refine endsAt_of_runS rfl ready (passes_of_gives checked) ?_
  exact gives_then (gives_crew (has_sIssued crew)) (gives_then (gives_readX s a) (gives_then (gives_readX s b)
    (gives_then (a := PUnit.unit) (gives_modify.2 rfl) (gives_pure.2 ⟨rfl, rfl⟩))))

/-! ### migrate (R225, R459) -/

/-- The check of a `migrate`'s word. -/
def migrateCheck (a : BitVec 6) : Op Unit := do
  let v ← xr a
  legal (fld v 12 2 != 3 && fld v 14 2 != 3 && fld v 25 7 == 0) .s

/-- The partition with a migration that starts, and its first step on the agenda. -/
def startMigration (p : BitVec 5) (g : Migr) (s : State) : State := (s.modPart p fun q => { q with migrs := q.migrs ++ [g] }).push (.migration p)

/-- The migration that a `migrate` asks for. -/
def asksMigration (s : State) (w : Crew) (v : Word) (tile : Nat) : Migr :=
  ⟨w.ctx, BitVec.ofNat 12 (fld v 0 12), tile, fld v 12 2, v.extractLsb' 14 2, v.extractLsb' 16 9, v.extractLsb' 32 32, some s.cur, 0, [], 0, []⟩

/-- What `migrate` does once it has issued. -/
def migrateBody (a b : BitVec 6) : Op Next := do
  let w ← curCrew
  if !(← heldNow .s).performed then
    let v ← xr a
    let tile := (← xr b).toNat
    let s ← get
    let tn := fld v 0 12
    let op := fld v 12 2
    match ← crewDesc tn with
    | none => flt kTensor 2 (detT tn 0 tile 0)
    | some bits =>
      let d := Desc.ofBits bits
      let e := s.tileEntry d tile
      let ok := d.kind != 0 && d.kind != 2 && d.wf && descPlain bits
      need ok kTensor 2 (detT tn 0 tile 0)
      let dup := op != 1 || (d.dupok && fld v 14 2 == 0 && fld v 16 9 != fld e 16 9)
      need (!d.pinned && decide (tile < d.tiles) && e.getLsbD 0 && dup) kTensor 4 (detT tn 0 tile 0)
      modify (startMigration w.part (asksMigration s w v tile))
      markPerformed
  let s ← get
  holdUnless ((s.part w.part).migrs.all fun m => m.core != some s.cur)
  return .seq

theorem migrate_form (a b : BitVec 6) (s : State) : exec (.migrate a b) s = nx (runS [a, b] (migrateCheck a) (migrateBody a b) s) := rfl

/-- A tile of a descriptor that a `migrate` may move (R459). -/
structure Movable (s : State) (v : Word) (bits : BitVec 512) (tile : Nat) : Prop where
  kind    : (Desc.ofBits bits).kind ≠ 0 ∧ (Desc.ofBits bits).kind ≠ 2
  sound   : (Desc.ofBits bits).wf = true ∧ descPlain bits = true
  loose   : (Desc.ofBits bits).pinned = false
  inside  : tile < (Desc.ofBits bits).tiles
  present : (s.tileEntry (Desc.ofBits bits) tile).getLsbD 0 = true
  dup     : fld v 12 2 = 1 → (Desc.ofBits bits).dupok = true ∧ fld v 14 2 = 0 ∧ fld v 16 9 ≠ fld (s.tileEntry (Desc.ofBits bits) tile) 16 9

theorem Movable.dupOk {v : Word} {bits : BitVec 512} {tile : Nat} (ok : Movable s v bits tile) :
    (fld v 12 2 != 1 || ((Desc.ofBits bits).dupok && fld v 14 2 == 0 && fld v 16 9 != fld (s.tileEntry (Desc.ofBits bits) tile) 16 9)) = true := by
  by_cases one : fld v 12 2 = 1
  · obtain ⟨may, zero, other⟩ := ok.dup one
    rw [may, zero, bne_iff_ne.2 other]
    exact Bool.or_true _
  · rw [bne_iff_ne.2 one]
    exact Bool.true_or _

theorem tileEntry_sIssued (d : Desc) (tile : Nat) : (sIssued s).tileEntry d tile = s.tileEntry d tile := by
  rw [sIssued_eq]
  rfl

theorem migrate_starts {bits : BitVec 512} (crew : Has w s) (ready : SReady [a, b] s) (checked : Gives (migrateCheck a) s () s)
    (found : Gives (crewDesc (fld ((cur s).xr a) 0 12)) (sIssued s) (some bits) u) (ok : Movable s ((cur s).xr a) bits ((cur s).xr b).toNat) :
    ∃ n, exec (.migrate a b) s = .next n ∧ (n.part w.part).migrs = (u.part w.part).migrs ++ [asksMigration s w ((cur s).xr a) ((cur s).xr b).toNat] := by
  have acts : u.cur = s.cur := (reads_crewDesc found).cur.trans (sIssued_cur s)
  have waits : (migrateBody a b).run (sIssued s) = (.error (.hold 0),
      (fun t : State => t.keepHeld t.cur .s { (cur t).heldOf .s with performed := true }) (startMigration w.part (asksMigration s w ((cur s).xr a) ((cur s).xr b).toNat) u)) := by
    unfold migrateBody
    rw [run_of_gives (gives_crew (has_sIssued crew)), run_of_gives gives_heldNow, heldOf_sIssued]
    refine (run_if_pos rfl).trans ?_
    rw [run_of_gives (gives_readX s a), run_of_gives (gives_readX s b), run_of_gives (gives_get.2 ⟨rfl, rfl⟩)]
    refine (run_of_gives found).trans ?_
    dsimp only
    rw [tileEntry_sIssued]
    refine (run_of_gives (t := u) (a := ()) (gives_need.2 ⟨?_, rfl⟩)).trans ((run_of_gives (t := u) (a := ()) (gives_need.2 ⟨?_, rfl⟩)).trans ?_)
    · rw [bne_iff_ne.2 ok.kind.1, bne_iff_ne.2 ok.kind.2, ok.sound.1, ok.sound.2]; rfl
    · rw [ok.loose, decide_eq_true ok.inside, ok.present, ok.dupOk]; rfl
    refine (run_of_gives (t := startMigration w.part (asksMigration (sIssued s) w ((cur s).xr a) ((cur s).xr b).toNat) u) (a := PUnit.unit) (gives_modify.2 rfl)).trans ?_
    rw [asksMigration, sIssued_cur, ← asksMigration]
    refine (run_of_gives (a := ()) (gives_modHeld.2 rfl)).trans ?_
    rw [run_of_gives (gives_get.2 ⟨rfl, rfl⟩)]
    refine Op.run_bind_error (Op.run_holdUnless_false ?_ _)
    refine List.all_eq_false.2 ⟨asksMigration s w ((cur s).xr a) ((cur s).xr b).toNat, ?_, ?_⟩
    · show _ ∈ ((startMigration w.part _ u).part w.part).migrs
      rw [startMigration, State.part_push, State.part_modPart]
      exact List.mem_append_right _ (List.mem_singleton_self _)
    · show ¬ (some s.cur != some u.cur) = true
      rw [acts, bne_self_eq_false]
      decide
  refine ⟨_, execS_holds (migrate_form a b s) ready (passes_of_gives checked) waits, ?_⟩
  show ((startMigration w.part _ u).part w.part).migrs = _
  rw [startMigration, State.part_push, State.part_modPart]

theorem migrate_ends {h : Held} (crew : Has w s) (held : ((cur s).str .s).held = some h) (started : h.performed = true) (free : (cur s).waitsOn [a, b] = false)
    (ended : ∀ m ∈ (s.part w.part).migrs, m.core ≠ some s.cur) : EndsAt (.migrate a b) s .s 1 s := by
  refine endsAt_of_heldS (migrate_form a b s) held free ?_
  unfold migrateBody
  rw [run_of_gives (gives_crew crew), run_of_gives gives_heldNow, heldOf_of_held held]
  refine (run_if_neg (by rw [started]; decide)).trans ?_
  refine gives_then (gives_get.2 ⟨rfl, rfl⟩) (gives_then (a := ()) (gives_holdUnless.2 ⟨?_, rfl⟩) (gives_pure.2 ⟨rfl, rfl⟩))
  exact List.all_eq_true.2 fun m mem => bne_iff_ne.2 (ended m mem)

end

end Sys2Proof.Machine

namespace Sys2Proof.Isa

open Sys2Proof.Machine Sys2Proof.Stmt

theorem translationForms : TranslationForms := by
  intro s w a b crew ready v tile drop descs mark mode high inside
  exact ⟨fun empty quiet => ttInval_ends crew ready (gives_keyCheck crew rfl mode high inside) empty quiet,
    fun empty asked => ttInval_waits crew ready (gives_keyCheck crew rfl mode high inside) empty asked,
    fun off => slogReplay_ends crew ready (gives_keyCheck crew (by rw [show ((cur s).xr a).getLsbD 17 = false from off]; rfl) mode high inside)⟩

theorem migrateForm : MigrateForm := by
  intro s u w a b bits crew v d e
  refine ⟨fun ready op scope rest found kind0 kind2 wf plain loose inside present dup => ?_, fun h held started free ended => migrate_ends crew held started free ended⟩
  have checked : Gives (migrateCheck a) s () s :=
    gives_then (gives_xr.2 ⟨rfl, rfl⟩) (gives_legal.2 ⟨by rw [bne_iff_ne.2 op, bne_iff_ne.2 scope, rest]; rfl, rfl⟩)
  obtain ⟨n, is, started⟩ := migrate_starts crew ready checked found ⟨⟨kind0, kind2⟩, ⟨wf, plain⟩, loose, inside, present, dup⟩
  refine ⟨n, is, started.trans ?_⟩
  rw [asksMigration, show BitVec.ofNat 12 (fld ((cur s).xr a) 0 12) = v.extractLsb' 0 12 from BitVec.eq_of_toNat_eq (by simp [fld, v])]

/-- Settles O26: the forms on translations wait for the requests before them, and a migration starts and ends. -/
theorem translationAndMigration : Obligations.TranslationAndMigration := ⟨translationForms, migrateForm⟩

end Sys2Proof.Isa
